-- ==== Sys2Proof/Word.lean ====
section
/-! DEFINITION. The word types of the model and the type of a sparse map. -/

namespace Sys2Proof

/-- One byte, R12. -/
abbrev Byte := BitVec 8

/-- A 64-bit word: a register of the window (R16) or a general register of a thread (R127). -/
abbrev Word := BitVec 64

/-- A 32-byte sector (R113); byte i is bits [8i+7:8i]. -/
abbrev Sector := BitVec 256

/-- A 128-byte line; byte i is bits [8i+7:8i]. -/
abbrev Line := BitVec 1024

/-- A sparse map: pairs of a key and a value, keys strictly rising. -/
abbrev SMap (α : Type) := List (Nat × α)

end Sys2Proof
end

