-- ==== Sys2Proof/Syntax.lean ====
section
/-! DEFINITION. The commands of the block: one constructor of `Instr` for each row of the table of operations and
events, with the data that the event carries. Numbers that the hardware never adds or masks are `Nat`. -/

namespace Sys2Proof

/-- A PCIe function: its port (0 or 1) and 0 for the physical function or 1 to 16 for a virtual function (R348). -/
structure Fn where
  port : Nat
  vf : Nat
  deriving DecidableEq, Repr

/-- A configuration-space register of a function that this manual gives a meaning (R282, R348, R359, R362). -/
inductive CfgReg where
  /-- MSI-X enable. -/
  | msixEnable
  /-- The mask bit of one MSI-X vector. -/
  | msixMask (vector : Nat)
  /-- ATS enable. -/
  | ats
  /-- PRI enable. -/
  | pri
  /-- PASID enable. -/
  | pasid
  /-- Outstanding Page Request Allocation. -/
  | priAlloc
  /-- Number of virtual functions enabled on the port. -/
  | numVfs
  /-- Resizable BAR size of BAR2, as the exponent k (R349). -/
  | bar2Log2
  /-- Base address of BAR2. -/
  | bar2Base
  deriving DecidableEq, Repr

/-- Where a register write goes. -/
inductive RegTarget where
  /-- A BAR0 access of `size` bytes at byte offset `off` (R356). -/
  | bar0 (off size : Nat)
  /-- A configuration-space register of the function. -/
  | cfg (r : CfgReg)
  deriving DecidableEq, Repr

/-- One wrong symbol of a stored codeword as a read finds it: codeword of the unit read, position 0 to 72 (R323),
and the difference. -/
structure SymErr where
  cw : Nat
  pos : Nat
  diff : Byte
  deriving DecidableEq, Repr

/-- Who issued a request to a slice or a channel (R196, R211, R421). -/
inductive Requester where
  /-- A hardware thread, by slot. -/
  | thread (slot : Nat)
  /-- A piece: bay and queue that hold its tile, tile number, piece index. -/
  | piece (bay q tile idx : Nat)
  /-- A task or command descriptor read, or a command, of context m. -/
  | command (m : Nat)
  /-- A PCIe function through BAR2, with the request's tag and the bytes it wants of the line. -/
  | bar2 (f : Fn) (tag len : Nat)
  /-- A Raloth request: ingress port, source trellis and stack, requester's partition, tag, sector mask of a READ. -/
  | raloth (port srcT srcS part tag mask : Nat)
  /-- IMPORT of a partition. -/
  | imp (p : Nat)
  /-- The placement engine. -/
  | placement
  /-- The translation unit. -/
  | xlat
  /-- Borsum. -/
  | borsum
  deriving DecidableEq, Repr

/-- A request as it reaches a slice: who sent it, the local address it names, and its hint (R135, R201). -/
structure SReq where
  who : Requester
  addr : Nat
  hint : Nat
  deriving DecidableEq, Repr

/-- What an uncached write carries (R200, R234). -/
inductive UWrite where
  /-- A plain write: byte enables of the line, data, poison per sector. -/
  | plain (be : BitVec 128) (data : Line) (poison : BitVec 4)
  /-- An accumulate: opcode, lane mask, sector, poison. -/
  | accum (op : Nat) (mask : BitVec 16) (data : Sector) (poison : Bool)
  /-- Flag SET. -/
  | flagSet (v : Word)
  /-- Flag ADD. -/
  | flagAdd (v : Word)
  deriving DecidableEq, Repr

/-- What reaches a waiting thread (R132). -/
inductive ReplySrc where
  /-- The oldest reply that a slice or a link holds for the thread. -/
  | fabric
  /-- A completion from host memory: the line and whether it was poisoned (EP). -/
  | host (data : Line) (ep : Bool)
  deriving DecidableEq, Repr

/-- Bytes read from host memory or the fabric by an engine: the bytes, and whether the read failed (translation fault,
poison or address error). -/
structure ReadData where
  bytes : List Byte
  failed : Bool
  deriving DecidableEq, Repr

/-- A line of host memory as a completion brings it: its bus address, its bytes, and whether it came poisoned (EP). -/
structure HostLine where
  bus : Nat
  data : Line
  ep : Bool
  deriving DecidableEq, Repr

/-- A Blend image as read: the bytes, and the offset of the first byte that could not be read, if any. -/
structure Image where
  bytes : List Byte
  bad : Option Nat
  deriving DecidableEq, Repr

/-- An ATS translation completion (R273): its status and, when successful, what it carries. -/
structure AtsCpl where
  /-- 0 successful, 1 Unsupported Request, 2 Completer Abort. -/
  status : Nat
  /-- Translated address of the requested 4 KiB page. -/
  ta : Nat
  /-- Size in bytes, a power of two. -/
  size : Nat
  r : Bool
  w : Bool
  exe : Bool
  u : Bool
  n : Bool
  deriving DecidableEq, Repr

/-- A Raloth message (R392): header fields, the 16 bytes that the type defines, and the data slots. -/
structure RMsg where
  typ : Nat
  vc : Nat
  prio : Bool
  tag : Nat
  srcT : Nat
  srcS : Nat
  hint : Nat
  op : Nat
  part : Nat
  poison : BitVec 4
  addr : Nat
  arg : BitVec 128
  data : List Sector
  deriving DecidableEq, Repr

/-- Thermal constants of the package (R472): the reciprocal capacitance of each node, in 1/(J/°C) per 31.25 µs, its
conductance to the sink, and its conductances to its neighbours. Units as the record gives them. -/
structure ThermPkg where
  invC : SMap Rat
  gSink : SMap Rat
  gNbr : List (Nat × Nat × Rat)
  deriving DecidableEq, Repr, Inhabited

/-- What the sensors and counters give at the end of a housekeeping round. -/
structure RoundTel where
  /-- Temperature of the six HBM devices in °C (R238). -/
  hbmTemp : List Nat
  /-- The eight PWR_TEL values (R465). -/
  tel : List Nat
  /-- Mean tile currents: tile index 0 to 383 and the value (R447). -/
  tiles : List (Nat × Nat)
  /-- Output power of each node in mW (R471). -/
  nodeMw : List (Nat × Nat)
  deriving DecidableEq, Repr

/-- What the test access port asks for (R508). -/
inductive TapOp where
  /-- Read-out of a unit: space and address bits. -/
  | readOut (space addr : Nat) (errs : List SymErr)
  /-- A register read. -/
  | regRead (off size : Nat)
  /-- A register write. -/
  | regWrite (off size : Nat) (value : Word)
  deriving DecidableEq, Repr

/-- The commands: one constructor for each row of the table. In the thread rows `t` is the thread slot and `d`, `a`, `b`
are register numbers (R129); `f` is the function through which a register access arrives. -/
inductive Instr where
  | powerUp
  | powerOff
  /-- SYS_RESET_N becomes effective (`low`), or is released. -/
  | sysReset (low : Bool)
  | supplyFault
  | ownerElect
  | pcieLinkUp (port speed width : Nat) (flit : Bool)
  | pcieLinkDown (port : Nat)
  /-- `perst`: by an assertion of PERSTn_N, else a hot reset. -/
  | pciePortReset (port : Nat) (perst : Bool)
  | flr (f : Fn)
  | priReset (f : Fn)
  | bar0BadAccess (f : Fn) (isRead : Bool) (off size : Nat)
  /-- `hwSet`: the status bits that hardware sets in the same cycle (R19, R344). -/
  | registerWrite (f : Fn) (tgt : RegTarget) (value hwSet : Word)
  | bar2Read (f : Fn) (off len tag : Nat)
  /-- `bytes`: one entry per byte from `off` on; `none` where the byte enable is clear. -/
  | bar2Write (f : Fn) (off : Nat) (bytes : List (Option Byte)) (ep : Bool)
  | bar2Atomic (f : Fn) (tag : Nat)
  | ideKm (f : Fn) (sess : Nat) (key : BitVec 256)
  | ideInsecure (port : Nat)
  | doeOversize (f : Fn) (len : Nat)
  | i3cEntdaa (addr : BitVec 7)
  | i3cRstdaa
  | i3cGetpid
  | i3cGetbcr
  | i3cGetdcr
  | i3cGetstatus
  | i3cPrivateWrite (bytes : List Byte)
  | i3cPrivateRead (words : Nat)
  | getVersion (f : Fn)
  | getCapabilities (f : Fn)
  | negotiateAlgorithms (f : Fn)
  | challenge (f : Fn) (slotId : Nat) (nonce : BitVec 256)
  | getMeasurements (f : Fn) (index : Nat) (sig : Bool) (nonce : BitVec 256)
  | keyExchange (f : Fn) (slotId : Nat) (exchange : List Byte)
  /-- `ok`: whether the requester's verify data is right. -/
  | finish (f : Fn) (sess : Nat) (ok : Bool)
  | heartbeat (f : Fn) (sess : Nat)
  | keyUpdate (f : Fn) (sess : Nat)
  | endSession (f : Fn) (sess : Nat)
  | respondIfReady (f : Fn)
  | spdmUnsupported (f : Fn) (code : Nat)
  /-- `req`: the bytes of the command from byte 0 (R418, R424). -/
  | seal (f : Fn) (sess : Nat) (req : List Byte)
  | sealComplete (p : Nat)
  | rotate (f : Fn) (sess p : Nat)
  | erase (f : Fn) (sess p : Nat)
  | debugkey (f : Fn) (sess p : Nat)
  | partCtrlRotate (f : Fn) (p : Nat)
  | partCtrlErase (f : Fn) (p : Nat)
  | partCtrlBadOp (f : Fn) (p op : Nat)
  | secDeferredGo
  | eraseOverwriteStep (p : Nat)
  | importGo (f : Fn) (p : Nat)
  | importChunk (p : Nat) (chunk : ReadData)
  | decantStep (p : Nat) (errs : List SymErr)
  | rngHealthFail
  /-- `copies`: the three fuse copies of every vintage word in the order of R516; `diodes`: the readings of the 96
  diodes in 1/16 °C, `none` for an open diode. -/
  | bupVintage (f : Fn) (copies : List (Word × Word × Word)) (pkg : ThermPkg) (diodes : List (Option Int))
  | bupClocksPower (f : Fn)
  /-- `bad`: the units that the tests of the step find bad, as records of R316. -/
  | bupVertical (f : Fn) (bad : List Word)
  | bupTraining (f : Fn) (bad : List Word)
  | bupMemoryTest (f : Fn) (quick : Bool) (bad : List Word)
  | bupCells (f : Fn) (quick : Bool) (bad : List Word)
  | bupReconciliation (f : Fn)
  | bupBlendLoad (f : Fn)
  | bupSecurity (f : Fn)
  | bupEnable (f : Fn)
  | bupStepInvalid (f : Fn) (step : Nat) (quick : Bool)
  /-- `cause`: the error that the step meets in the physical world (steps 1 and 2: a PLL, a trim, a PHY), else 0. -/
  | bupStepEnd (cause : Nat)
  | borsumRegionStart (test region : Nat)
  | computeReset (f : Fn)
  | cresetDeferredStart
  | computeResetDone
  | inserviceTest
  /-- `bad`: the faults found, as units of R316 for a cell or slice and block addresses for an HBM unit; empty: passed. -/
  | inserviceTestDone (bad : List Nat)
  | blendStage (f : Fn)
  | blendStageDone (img : Image)
  /-- `sigOk`: whether the signature verifies under FIPS 205 (R318). -/
  | blendLoadDone (img : Image) (sigOk : Bool)
  | verticalCrcMismatch (iface bundle : Nat) (bumps : List Nat)
  | verticalReplayEnd (iface bundle : Nat)
  | powerViaOpen (iface idx : Nat)
  | distFetch (f : Fn)
  | distFetchDone (ok : Bool)
  | cellLinkParityError (row col link : Nat)
  /-- `hw`: a hardware retirement names the same cell in the same cycle (R86). -/
  | cellRetireRequest (f : Fn) (bay cell : Nat) (hw : Bool)
  | illegalInstruction (t : Nat) (w : BitVec 32)
  | add (t d a b : Nat)
  | sub (t d a b : Nat)
  | and (t d a b : Nat)
  | or (t d a b : Nat)
  | xor (t d a b : Nat)
  | andn (t d a b : Nat)
  | shl (t d a b : Nat)
  | shr (t d a b : Nat)
  | sar (t d a b : Nat)
  | min (t d a b : Nat)
  | max (t d a b : Nat)
  | minu (t d a b : Nat)
  | maxu (t d a b : Nat)
  | mul (t d a b : Nat)
  | mulhs (t d a b : Nat)
  | mulhu (t d a b : Nat)
  | divs (t d a b : Nat)
  | divu (t d a b : Nat)
  | rmds (t d a b : Nat)
  | rmdu (t d a b : Nat)
  | clz (t d a : Nat)
  | ctz (t d a : Nat)
  | popc (t d a : Nat)
  | sel (t d a b : Nat)
  | fadd (t fmt d a b : Nat)
  | fsub (t fmt d a b : Nat)
  | fmul (t fmt d a b : Nat)
  | fmac (t fmt d a b : Nat)
  | fmin (t fmt d a b : Nat)
  | fmax (t fmt d a b : Nat)
  | feq (t fmt d a b : Nat)
  | flt (t fmt d a b : Nat)
  | fle (t fmt d a b : Nat)
  | fabs (t fmt d a : Nat)
  | fneg (t fmt d a : Nat)
  | frcp (t fmt d a : Nat)
  | frsq (t fmt d a : Nat)
  | fexp2 (t fmt d a : Nat)
  | flog2 (t fmt d a : Nat)
  | cvt (t d a src target : Nat) (sat : Bool)
  | cmp (t cond d a b : Nat)
  | addk (t d a : Nat) (imm : BitVec 14)
  | andk (t d a : Nat) (imm : BitVec 14)
  | ork (t d a : Nat) (imm : BitVec 14)
  | xork (t d a : Nat) (imm : BitVec 14)
  | cmpkLt (t d a : Nat) (imm : BitVec 14)
  | cmpkUlt (t d a : Nat) (imm : BitVec 14)
  | shlk (t d a : Nat) (imm : BitVec 6)
  | shrk (t d a : Nat) (imm : BitVec 6)
  | sark (t d a : Nat) (imm : BitVec 6)
  | seti (t d : Nat) (imm : BitVec 20)
  | shin (t d : Nat) (imm : BitVec 20)
  | pca (t d : Nat) (imm : BitVec 20)
  | cbrEq (t a b : Nat) (imm : BitVec 14)
  | cbrNe (t a b : Nat) (imm : BitVec 14)
  | cbrLt (t a b : Nat) (imm : BitVec 14)
  | cbrGe (t a b : Nat) (imm : BitVec 14)
  | cbrUlt (t a b : Nat) (imm : BitVec 14)
  | cbrUge (t a b : Nat) (imm : BitVec 14)
  | jmp (t : Nat) (imm : BitVec 26)
  | call (t : Nat) (imm : BitVec 26)
  | jmpr (t a : Nat) (imm : BitVec 14)
  | callr (t a : Nat) (imm : BitVec 14)
  | ldl (t d : Nat) (imm : BitVec 20)
  | ldu8 (t d a hint : Nat) (imm : BitVec 12)
  | lds8 (t d a hint : Nat) (imm : BitVec 12)
  | ldu16 (t d a hint : Nat) (imm : BitVec 12)
  | lds16 (t d a hint : Nat) (imm : BitVec 12)
  | ldu32 (t d a hint : Nat) (imm : BitVec 12)
  | lds32 (t d a hint : Nat) (imm : BitVec 12)
  | ld64 (t d a hint : Nat) (imm : BitVec 12)
  | st8 (t v a hint : Nat) (imm : BitVec 12)
  | st16 (t v a hint : Nat) (imm : BitVec 12)
  | st32 (t v a hint : Nat) (imm : BitVec 12)
  | st64 (t v a hint : Nat) (imm : BitVec 12)
  | sacc (t op d a b : Nat)
  | pref (t d a hint : Nat) (imm : BitVec 12)
  | cinv (t a : Nat) (imm : BitVec 12)
  | fenceRelease (t : Nat)
  | fenceAcquire (t : Nat)
  | fenceFull (t : Nat)
  | barrierInit (t scope d a ctr : Nat)
  | barrierArrive (t scope d ctr : Nat)
  | barrierWait (t scope a ctr : Nat)
  | barrierQuery (t scope d ctr : Nat)
  | flagSet (t d a b : Nat) (rel : Bool)
  | flagAdd (t d a b : Nat) (rel : Bool)
  | flagWait (t d a b cond : Nat)
  | opcall (t d a q : Nat)
  /-- `desc`: what the read of the task descriptor gives when its translation leads to host memory. -/
  | spawn (t d a : Nat) (desc : ReadData)
  | nop (t : Nat)
  | exit (t : Nat)
  | brk (t : Nat)
  | rds (t d b : Nat)
  | threadMemoryReply (t : Nat) (src : ReplySrc)
  | flagWaitTimeout (t : Nat)
  | flagWaitRetry (t : Nat)
  | taskDoorbell (f : Fn) (m : Nat) (desc : Word)
  | taskDescReadDone (m : Nat) (desc : ReadData)
  | taskStart (p : Nat)
  | ctxSuspend (f : Fn) (p c : Nat)
  | ctxSuspendDone (m : Nat)
  | ctxResume (f : Fn) (p c : Nat)
  | ctxResumeStart (m : Nat)
  | ctxAbort (f : Fn) (p c : Nat)
  | ctxNoOp (f : Fn) (p c : Nat)
  | pieceDispatch (bay : Nat)
  | piecePlace (bay q tile idx : Nat)
  /-- `host`: the lines of host memory that the piece reads, by bus address, with their poison (EP). -/
  | pieceEnd (bay q tile idx : Nat) (host : List HostLine)
  /-- `errs` on the slice rows: wrong symbols of the stored frame that the access reads, as R325 meets them; an entry
  with codeword 2 stands for wrong bits of the set's tag entry (R335). -/
  | sliceRead (r : SReq) (errs : List SymErr)
  | sliceWrite (r : SReq) (data : Line) (poison : BitVec 4) (errs : List SymErr)
  | slicePartialWrite (r : SReq) (be : BitVec 128) (data : Line) (poison : BitVec 4) (errs : List SymErr)
  | sliceAccumulate (r : SReq) (op : Nat) (mask : BitVec 16) (data : Sector) (poison : Bool) (errs : List SymErr)
  | sliceFlagSet (r : SReq) (v : Word) (errs : List SymErr)
  | sliceFlagAdd (r : SReq) (v : Word) (errs : List SymErr)
  | sliceFlagWait (r : SReq) (cond : Nat) (v : Word) (errs : List SymErr)
  | sliceFlagCancel (r : SReq)
  | fillArrive (addr : Nat)
  | mergeEntryExpire (slice addr : Nat)
  | sideQueueResume (slice : Nat)
  | victimWaitResume (slice : Nat)
  | rangePin (f : Fn) (p : Nat)
  | rangeUnpin (f : Fn) (p : Nat)
  | rangeClean (f : Fn) (p : Nat)
  | rangeFlush (f : Fn) (p : Nat)
  | rangeKill (f : Fn) (p : Nat)
  | rangeBadOp (f : Fn) (p op : Nat)
  | rangeDone (p : Nat)
  | thrashDetect (slice set : Nat)
  | sliceDrainDone (slice : Nat)
  | rackLine (region line : Nat)
  | hbmFill (addr : Nat) (errs : List SymErr)
  | hbmWriteBack (addr : Nat) (data : Line) (poison : BitVec 4) (errs : List SymErr)
  | hbmKill (addr : Nat) (errs : List SymErr)
  | hbmSidecarUpdate (addr : Nat)
  | hbmUncachedRead (r : SReq) (errs : List SymErr)
  | hbmUncachedWrite (r : SReq) (u : UWrite) (errs : List SymErr)
  | hbmRefresh (ch pc bank : Nat)
  | hbmRecalibrate (ch pc : Nat)
  | hbmRecalDone (ch pc : Nat) (ok : Bool)
  | hbmParityError (ch : Nat)
  | hbmParityRetry (ch : Nat) (ok : Bool)
  | hbmUeRateFail (ch : Nat)
  | hbmPowerDown (ch pc : Nat)
  | hbmRegApply (f : Fn)
  | housekeepingRound (tel : RoundTel)
  | pwrFloorHit
  | plcQuery (f : Fn) (region : Nat)
  | replCopyDone (region : Nat)
  | ctxBindWrite (f : Fn) (m : Nat) (value : Word)
  | atsCompletion (f : Fn) (pasid va : Nat) (c : AtsCpl)
  | atsCompletionTimeout (f : Fn) (pasid va : Nat)
  | pageRequestSend (f : Fn)
  | prgSuccess (f : Fn) (group : Nat)
  | prgInvalidRequest (f : Fn) (group : Nat)
  | prgResponseFailure (f : Fn) (group : Nat)
  | priTimeout (f : Fn) (group : Nat)
  | atsInvalidate (f : Fn) (pasid : Option Nat) (base size itag : Nat)
  | invalidateCompletion (f : Fn) (itag : Nat)
  | cmdDoorbell (f : Fn) (m : Nat) (desc : Word)
  | cmdDescReadDone (m : Nat) (desc : ReadData)
  | xlat (m : Nat)
  /-- `src`: the source line where the source is host memory, and whether it came poisoned. -/
  | copy (m : Nat) (src : Line) (ep : Bool)
  | advise (m : Nat)
  | cmdEnd (m : Nat)
  | flogBaseWrite (f : Fn) (p : Nat) (value : Word)
  | errPop (f : Fn)
  | scrubHbm (f : Fn)
  | scrubCellar (f : Fn) (unit : Nat)
  | scrubCellStore (f : Fn) (unit : Nat)
  | scrubNoTarget (f : Fn)
  | scrubStep (errs : List SymErr)
  | scrubDone
  /-- `lanes`: the line symbols of the lanes in use, as levels 0 to 3. -/
  | ralothFrameReceive (port : Nat) (lanes : List (List Nat))
  | ralothFrameSend (port : Nat)
  | ralothReplayTimeout (port : Nat)
  /-- `blocks`: one training block of 64 levels per lane. -/
  | trainingBlockReceive (port : Nat) (blocks : List (List Nat))
  | equaliseDone (port : Nat) (badLanes : BitVec 8)
  | alignDone (port : Nat) (badLanes peerMask : BitVec 8)
  | syncDone (port : Nat)
  | trainingTimeout (port : Nat)
  | failedRetry (port : Nat)
  | laneLossOfSignal (port lane : Nat)
  | deskewLoss (port : Nat)
  | recoverDone (port : Nat) (badLanes peerMask : BitVec 8)
  | recoverTimeout (port : Nat)
  | retrain (f : Fn) (port : Nat)
  | laneSlip (f : Fn) (port lane : Nat)
  | proceed (f : Fn) (port : Nat)
  | loopGo (f : Fn) (port mode : Nat)
  | farLoopbackExit (port : Nat)
  | txSleep (port : Nat)
  | rxSleep (port : Nat)
  | rxSignalDetect (port : Nat)
  | txWake (port : Nat)
  | txWakeDone (port : Nat)
  | rekey (f : Fn) (port : Nat)
  | keyxHello (port : Nat) (nonce pk : BitVec 256)
  | keyxKey (port : Nat) (ek : List Byte)
  /-- `ok`: decapsulation succeeds. -/
  | keyxCiphertext (port : Nat) (ct : List Byte) (ok : Bool)
  /-- `ok`: the peer's signature verifies under FIPS 205. -/
  | keyxSignature (port : Nat) (sig : List Byte) (ok : Bool)
  | keyxTimeout (port : Nat)
  | read (port : Nat) (m : RMsg)
  | readRsp (port : Nat) (m : RMsg)
  | write (port : Nat) (m : RMsg)
  | accum (port : Nat) (m : RMsg)
  | flag (port : Nat) (m : RMsg)
  | cancel (port : Nat) (m : RMsg)
  | ack (port : Nat) (m : RMsg)
  | barArrive (port : Nat) (m : RMsg)
  | barRelease (port : Nat) (m : RMsg)
  | replReq (port : Nat) (m : RMsg)
  | replRsp (port : Nat) (m : RMsg)
  | replInval (port : Nat) (m : RMsg)
  | invalAck (port : Nat) (m : RMsg)
  | enumStart (f : Fn)
  | enum (port : Nat) (m : RMsg)
  | enumEnd (port : Nat) (m : RMsg)
  | mapCollect (port : Nat) (m : RMsg)
  | mapDistribute (port : Nat) (m : RMsg)
  | mapWaitTimeout
  | enumTimeout
  | adopt (f : Fn)
  | linkid (port : Nat) (m : RMsg)
  | linkdown (port : Nat) (m : RMsg)
  | health (port : Nat) (m : RMsg)
  | memberHealthLost (stack : Nat)
  | ping (port : Nat) (m : RMsg)
  /-- `rttNs`: the measured round-trip time. -/
  | pong (port : Nat) (m : RMsg) (rttNs : Nat)
  | estate (port : Nat) (m : RMsg)
  | reservedMessage (port : Nat) (m : RMsg)
  | estateSet (f : Fn)
  | requestLost (tag : Nat)
  | requestReissue (tag : Nat)
  | holdWindowExpire
  | pwrEnterS1 (f : Fn)
  | pwrEnterS2 (f : Fn)
  | pwrEnterS3 (f : Fn)
  | pwrExitS0 (f : Fn)
  | pwrTargetInvalid (f : Fn) (target : Nat)
  | pwrTransitionDone
  | bayClockGate (bay : Nat)
  | bayPowerGate (bay : Nat)
  | wakeAdmit
  /-- `kind` and `unit` of the admitted power-up, as wake records name it. -/
  | wakeRailUp (kind unit : Nat)
  | thermalSubstep (parityOk : Bool)
  /-- `diodes`: the round's reading of each of the 96 diodes in 1/16 °C, `none` for open. -/
  | thermalSolveEnd (diodes : List (Option Int))
  | thermalShutdown
  | thermalRestart
  | dbgLevelChange (f : Fn) (target : Nat)
  | dbgEnterD3 (f : Fn)
  | d3Effect
  | dbgCntSelect (f : Fn) (k : Nat) (value : Word)
  | traceEnable (f : Fn) (value : Word)
  | traceMark (f : Fn) (value : BitVec 32)
  | brkResume (f : Fn)
  | freezePin
  | freezeRequest (f : Fn) (scope : Nat) (drive : Bool)
  | freezeHeldStart
  | freezeEntryDone
  | thaw (f : Fn)
  | freezePinRelease
  | thawDone
  | readOut (f : Fn) (space addr : Nat) (errs : List SymErr)
  | scanShift (bits : List Bool)
  | tapAccess (op : TapOp)
  | askalaOperationDone
  | testRegionEnd (test region : Nat)
  /-- `event`: an event of the same cycle that sets the field, if any. -/
  | rcFieldRead (f : Fn) (event : Option Nat)
  | pwrAlreadyInTarget (f : Fn)
  | doeDiscovery (f : Fn) (index : Nat)
  | perstRelease (port : Nat)
  deriving DecidableEq, Repr

end Sys2Proof
end

