-- ==== Sys2Proof/Decode.lean ====
section
/-! DEFINITION. The command that a word of the table spells. No row of the table has bits: commands are register writes,
bus transactions, frames and events, and the instruction words of R128 enter as operands of their rows. -/

namespace Sys2Proof

/-- No word spells a command, as the table gives no row any bits. -/
def decodeTableWord (_nbits _w : Nat) : Option Instr := none

end Sys2Proof
end

