-- ==== Sys2Proof/Config.lean ====
section
/-! DEFINITION. Values that the manual leaves open. Each is a constant without a body: nothing can be proved of its value,
so a claim that rests on one holds whatever it is. A `Nat` argument named `k` is the model's own counter of free values. -/

namespace Sys2Proof

/-- The result that an approximating unit gives before its bound is checked (R111): operation, operand bits, index. -/
opaque Config.approx : Nat → Nat → Nat → Nat

/-- A choice among `n` alternatives that the manual leaves open (placement, arbitration, arrival order). -/
opaque Config.choose : Nat → Nat

/-- What a line with a damaged encoding decompresses to, where the encoding has no meaning. -/
opaque Config.garble : Nat → BitVec 1024

/-- Nornewin's MIPI manufacturer ID (R365). -/
opaque Config.mipiId : BitVec 15

/-- Where a lane's word boundary lies before any slip, by 8 × port + lane (R383). -/
opaque Config.laneSkew : Nat → Nat

/-- Whether a temperature between two register values reads as the upper one (R487 gives no rounding). -/
opaque Config.roundUp : Rat → Bool

/-- What stands for the mean or the highest reading of a layer that has no working diode (R473, R475, R477 name none). -/
opaque Config.noDiode : Rat

/-- The floor node that holds the oscillator (0), the voltage references (1) and the converter reference (2), R481. -/
opaque Config.trimNode : Nat → Nat

/-- Random bytes drawn by the DRBG (R411). -/
opaque Config.drbg : Nat → BitVec 512

/-- The fused seed of the identity key (R412). -/
opaque Config.fusedSeed : BitVec 256

/-- What the fuses hold: a word of the vintage records, by its place in the order of R516. -/
opaque Config.fuse : Nat → BitVec 64

/-- The package constants that the floor die's fuses hold (R472, R515). -/
opaque Config.package : ThermPkg

/-- The converter code of a diode when step 1 begins by a plain register write (R474), by the counter of free values. -/
opaque Config.diode : Nat → Option Int

/-- What Borsum finds bad in a step that a plain register write starts: entries as EXCL records name units (R520). -/
opaque Config.findings : Nat → List (BitVec 64)

/-- Symbols in error that a read-out started by a plain register write meets (R505). -/
opaque Config.symErrs : Nat → List SymErr

/-- PK.root of the SLH-DSA key pair that key generation makes of SK.seed, SK.prf and PK.seed (FIPS 205). -/
opaque Config.slhRoot : BitVec 384 → BitVec 128

/-- The SLH-DSA signature of a message (FIPS 205): SK.seed, SK.prf and PK.seed, message, index. -/
opaque Config.slhSign : BitVec 384 → List (BitVec 8) → Nat → List (BitVec 8)

/-- The Diffie–Hellman public share and shared secret of a session's key exchange. -/
opaque Config.ecdhPublic : BitVec 512 → List (BitVec 8)

/-- The shared secret of a key exchange: own secret and the peer's share. -/
opaque Config.ecdhShared : BitVec 512 → List (BitVec 8) → BitVec 256

/-- ML-KEM-768 key generation: encapsulation key of the random bytes (FIPS 203). -/
opaque Config.mlkemKey : BitVec 512 → List (BitVec 8)

/-- ML-KEM-768 encapsulation: ciphertext of an encapsulation key and random bytes. -/
opaque Config.mlkemCipher : List (BitVec 8) → BitVec 512 → List (BitVec 8)

/-- ML-KEM-768 shared secret of an encapsulation. -/
opaque Config.mlkemSecret : List (BitVec 8) → BitVec 512 → BitVec 256

/-- ML-KEM-768 decapsulation with the key pair of the random bytes. -/
opaque Config.mlkemDecaps : BitVec 512 → List (BitVec 8) → BitVec 256

end Sys2Proof
end

