-- ==== Sys2Proof/Machine/Maps.lean ====
section
/-! DEFINITION. Sparse maps in canonical form (keys strictly rising), and byte and bit-field helpers. -/

namespace Sys2Proof.Machine

open Sys2Proof

/-- The value at a key. -/
def smGet {α : Type} (m : SMap α) (k : Nat) : Option α := m.lookup k

/-- The value at a key, or a default. -/
def smGetD {α : Type} (m : SMap α) (k : Nat) (d : α) : α := (m.lookup k).getD d

/-- Set the value at a key, keeping keys strictly rising. -/
def smSet {α : Type} : SMap α → Nat → α → SMap α
  | [], k, v => [(k, v)]
  | (j, w) :: m, k, v =>
    if k < j then (k, v) :: (j, w) :: m
    else if k = j then (k, v) :: m
    else (j, w) :: smSet m k v

/-- Remove a key. -/
def smDel {α : Type} (m : SMap α) (k : Nat) : SMap α := m.filter (fun e => e.1 ≠ k)

/-- Set the value at a key; the value that an unlisted key reads as removes the entry. -/
def smPut {α : Type} [DecidableEq α] (m : SMap α) (k : Nat) (v d : α) : SMap α :=
  if v = d then smDel m k else smSet m k v

/-- Change the value at a key, starting from a default. -/
def smUpd {α : Type} (m : SMap α) (k : Nat) (d : α) (f : α → α) : SMap α := smSet m k (f (smGetD m k d))

/-- Keep the entries whose key satisfies a test. -/
def smKeep {α : Type} (m : SMap α) (p : Nat → Bool) : SMap α := m.filter (fun e => p e.1)

/-- Keys strictly rising. -/
def smWf {α : Type} : SMap α → Bool
  | [] => true
  | [_] => true
  | a :: b :: m => a.1 < b.1 && smWf (b :: m)

/-- Bits [lo+len-1:lo] of a number. -/
def nbits (v lo len : Nat) : Nat := v / 2 ^ lo % 2 ^ len

/-- Bit `i` of a number. -/
def nbit (v i : Nat) : Bool := v / 2 ^ i % 2 = 1

/-- 1 or 0. -/
def b2n (b : Bool) : Nat := if b then 1 else 0

/-- Byte `i` of a bit vector. -/
def byteAt {n : Nat} (v : BitVec n) (i : Nat) : Byte := v.extractLsb' (8 * i) 8

/-- The first `k` bytes of a bit vector, byte 0 first. -/
def toBytes {n : Nat} (v : BitVec n) (k : Nat) : List Byte := (List.range k).map (byteAt v)

/-- The `k` low bytes of a number, little-endian. -/
def natBytes (v k : Nat) : List Byte := (List.range k).map (fun i => BitVec.ofNat 8 (v / 256 ^ i))

/-- The number that bytes spell, little-endian (R12). -/
def leNat : List Byte → Nat
  | [] => 0
  | b :: bs => b.toNat + 256 * leNat bs

/-- The number that bytes spell, big-endian. -/
def beNat (bs : List Byte) : Nat := bs.foldl (fun a b => 256 * a + b.toNat) 0

/-- The `k` low bytes of a number, big-endian. -/
def beBytes (v k : Nat) : List Byte := (natBytes v k).reverse

/-- `len` bytes of a list from `off`, zero past its end. -/
def sliceB (bs : List Byte) (off len : Nat) : List Byte :=
  (List.range len).map (fun i => bs.getD (off + i) 0)

/-- A little-endian field of `len` bytes at `off`. -/
def leAt (bs : List Byte) (off len : Nat) : Nat := leNat (sliceB bs off len)

/-- Replace byte `i` of a bit vector. -/
def putByte {n : Nat} (v : BitVec n) (i : Nat) (b : Byte) : BitVec n :=
  (v &&& ~~~ ((BitVec.ofNat n 255) <<< (8 * i))) ||| ((BitVec.ofNat n b.toNat) <<< (8 * i))

/-- A two's-complement value of the low `w` bits of a number. -/
def sext (v w : Nat) : Int :=
  let u := v % 2 ^ w
  if u < 2 ^ (w - 1) then (u : Int) else (u : Int) - 2 ^ w

/-- A 64-bit word from an integer, modulo 2^64. -/
def wordOf (i : Int) : Word := BitVec.ofInt 64 i

/-- The `n`-th element replaced, if present. -/
def setNth {α : Type} (l : List α) (n : Nat) (a : α) : List α := l.set n a

/-- The first `k` elements, `x` where the list is shorter. -/
def padTo {α : Type} (l : List α) (k : Nat) (x : α) : List α := l.take k ++ List.replicate (k - l.length) x

/-- Ceiling of a division. -/
def cdiv (a b : Nat) : Nat := (a + b - 1) / b

/-- Number of bits of `v` below `w` that are 1. -/
def popc (v w : Nat) : Nat := ((List.range w).filter (nbit v)).length

/-- The indices below `w` of the bits of `v` that are 1, rising. -/
def ones (v w : Nat) : List Nat := (List.range w).filter (nbit v)

/-- Floor of the binary logarithm. -/
def log2 (v : Nat) : Nat := Nat.log2 v

/-- Fold a state through the elements of a list. -/
def foldS {σ α : Type} (l : List α) (s : σ) (f : σ → α → σ) : σ := l.foldl f s

end Sys2Proof.Machine
end

