-- ==== Sys2Proof/Machine/Float.lean ====
section
/-! DEFINITION. Number formats and exact arithmetic (R90 to R116): decoding, rounding and conversion, special values,
and the bounds of the approximated operations. A status mask has the bit layout of CMP_BAY_ARITH_n. -/

namespace Sys2Proof.Machine

open Sys2Proof

/-- What the all-ones exponent encodes. -/
inductive FpSpecial where
  /-- Infinity and NaN as IEEE 754. -/
  | ieee
  /-- E4M3: NaN only, at the all-ones mantissa. -/
  | nanOnly
  /-- No infinity and no NaN. -/
  | none
  deriving DecidableEq, Repr

/-- A floating-point format (R91). -/
structure FpFmt where
  e : Nat
  m : Nat
  bias : Nat
  special : FpSpecial
  canonNan : Nat
  deriving DecidableEq, Repr

/-- FP32. -/
def fp32 : FpFmt := ⟨8, 23, 127, .ieee, 0x7FC00000⟩
/-- BF16. -/
def bf16 : FpFmt := ⟨8, 7, 127, .ieee, 0x7FC0⟩
/-- FP16. -/
def fp16 : FpFmt := ⟨5, 10, 15, .ieee, 0x7E00⟩
/-- FP8 E4M3. -/
def e4m3 : FpFmt := ⟨4, 3, 7, .nanOnly, 0x7F⟩
/-- FP8 E5M2. -/
def e5m2 : FpFmt := ⟨5, 2, 15, .ieee, 0x7F⟩
/-- MXFP6 E3M2. -/
def e3m2 : FpFmt := ⟨3, 2, 3, .none, 0⟩
/-- MXFP6 E2M3. -/
def e2m3 : FpFmt := ⟨2, 3, 1, .none, 0⟩
/-- MXFP4 E2M1. -/
def e2m1 : FpFmt := ⟨2, 1, 1, .none, 0⟩

/-- A value: NaN, an infinity, or (−1)^neg × mag × 2^ex. -/
inductive Fv where
  | nan
  | inf (neg : Bool)
  | fin (neg : Bool) (mag : Nat) (ex : Int)
  deriving DecidableEq, Repr

/-- Status bits of CMP_BAY_ARITH_n. -/
def stNanMade : Nat := 1
/-- fp8_sat. -/
def stFp8Sat : Nat := 2
/-- inf_made. -/
def stInfMade : Nat := 4
/-- int_sat. -/
def stIntSat : Nat := 8
/-- nan_to_int. -/
def stNanToInt : Nat := 16

/-- The encoding's value (R91). -/
def fpDec (f : FpFmt) (b : Nat) : Fv :=
  let neg := nbit b (f.e + f.m)
  let ee := nbits b f.m f.e
  let mm := nbits b 0 f.m
  if ee = 2 ^ f.e - 1 ∧ f.special = .ieee then (if mm = 0 then .inf neg else .nan)
  else if ee = 2 ^ f.e - 1 ∧ f.special = .nanOnly ∧ mm = 2 ^ f.m - 1 then .nan
  else if ee = 0 then .fin neg mm (1 - (f.bias : Int) - f.m)
  else .fin neg (2 ^ f.m + mm) ((ee : Int) - f.bias - f.m)

/-- mag × 2^sh rounded to an integer, nearest, ties to even. -/
def rneShift (mag : Nat) (sh : Int) : Nat :=
  if 0 ≤ sh then mag * 2 ^ sh.toNat
  else
    let d := 2 ^ (-sh).toNat
    let q := mag / d
    let r := mag % d
    if 2 * r < d then q else if d < 2 * r then q + 1 else q + q % 2

/-- Magnitude bits of mag × 2^ex rounded into a format, before overflow is judged (R102). -/
def fpRoundMag (f : FpFmt) (mag : Nat) (ex : Int) : Nat :=
  if mag = 0 then 0
  else
    let e := (Nat.log2 mag : Int) + ex
    let emin := 1 - (f.bias : Int)
    let E := max e emin
    (E - emin).toNat * 2 ^ f.m + rneShift mag (ex - (E - f.m))

/-- Magnitude bits of the largest finite value. -/
def fpMaxFinite (f : FpFmt) : Nat :=
  match f.special with
  | .ieee => (2 ^ f.e - 1) * 2 ^ f.m - 1
  | .nanOnly => 2 ^ (f.e + f.m) - 2
  | .none => 2 ^ (f.e + f.m) - 1

/-- The sign bit of a format. -/
def fpSign (f : FpFmt) (neg : Bool) : Nat := b2n neg * 2 ^ (f.e + f.m)

/-- Infinity of a format. -/
def fpInf (f : FpFmt) (neg : Bool) : Nat := fpSign f neg + (2 ^ f.e - 1) * 2 ^ f.m

/-- The format is one of the FP8 formats. -/
def fpIs8 (f : FpFmt) : Bool := f.e + f.m = 7

/-- Encode a value: bits and status (R102, R103). `sat` selects saturation for E4M3 and E5M2. -/
def fpEnc (f : FpFmt) (sat : Bool) : Fv → Nat × Nat
  | .nan => (f.canonNan, 0)
  | .inf neg =>
    match f.special with
    | .ieee => (fpInf f neg, 0)
    | .nanOnly => if sat then (fpSign f neg + fpMaxFinite f, stFp8Sat) else (f.canonNan, stNanMade)
    | .none => (fpSign f neg + fpMaxFinite f, 0)
  | .fin neg mag ex =>
    let b := fpRoundMag f mag ex
    if b ≤ fpMaxFinite f then (fpSign f neg + b, 0)
    else
      match f.special with
      | .ieee =>
        if fpIs8 f && sat then (fpSign f neg + fpMaxFinite f, stFp8Sat) else (fpInf f neg, stInfMade)
      | .nanOnly => if sat then (fpSign f neg + fpMaxFinite f, stFp8Sat) else (f.canonNan, stNanMade)
      | .none => (fpSign f neg + fpMaxFinite f, 0)

/-- A finite value from a signed integer times 2^ex; zero is +0. -/
def fvInt (i : Int) (ex : Int) : Fv := .fin (i < 0) i.natAbs ex

/-- The signed significand. -/
def fvSigned (neg : Bool) (mag : Nat) : Int := if neg then - (mag : Int) else mag

/-- The sign of a value is negative. -/
def Fv.neg : Fv → Bool
  | .nan => false
  | .inf n => n
  | .fin n _ _ => n

/-- The value is NaN. -/
def Fv.isNan : Fv → Bool
  | .nan => true
  | _ => false

/-- Negation. -/
def Fv.negate : Fv → Fv
  | .nan => .nan
  | .inf n => .inf (!n)
  | .fin n m e => .fin (!n) m e

/-- Exact sum, unrounded; an exact zero of opposite signs is +0 (R105). -/
def fvAdd : Fv → Fv → Fv
  | .nan, _ => .nan
  | _, .nan => .nan
  | .inf a, .inf b => if a = b then .inf a else .nan
  | .inf a, _ => .inf a
  | _, .inf b => .inf b
  | .fin n1 m1 e1, .fin n2 m2 e2 =>
    let e := min e1 e2
    let i := fvSigned n1 m1 * 2 ^ (e1 - e).toNat + fvSigned n2 m2 * 2 ^ (e2 - e).toNat
    if i = 0 then .fin (n1 && n2) 0 e else fvInt i e

/-- Exact product. -/
def fvMul : Fv → Fv → Fv
  | .nan, _ => .nan
  | _, .nan => .nan
  | .inf a, .inf b => .inf (a != b)
  | .inf a, .fin n m _ => if m = 0 then .nan else .inf (a != n)
  | .fin n m _, .inf b => if m = 0 then .nan else .inf (n != b)
  | .fin n1 m1 e1, .fin n2 m2 e2 => .fin (n1 != n2) (m1 * m2) (e1 + e2)

/-- Comparison of values other than NaN: −1, 0 or 1; zeros are equal. -/
def fvCmp : Fv → Fv → Int
  | .nan, _ => 0
  | _, .nan => 0
  | .inf a, .inf b => if a = b then 0 else if a then -1 else 1
  | .inf a, _ => if a then -1 else 1
  | _, .inf b => if b then 1 else -1
  | .fin n1 m1 e1, .fin n2 m2 e2 =>
    let e := min e1 e2
    let x := fvSigned n1 m1 * 2 ^ (e1 - e).toNat
    let y := fvSigned n2 m2 * 2 ^ (e2 - e).toNat
    if x < y then -1 else if x = y then 0 else 1

/-- Maximum: NaN if either is NaN; of zeros of both signs +0 (R105). -/
def fvMax (a b : Fv) : Fv :=
  if a.isNan || b.isNan then .nan
  else if fvCmp a b = 0 then (if a.neg then b else a) else if fvCmp a b = 1 then a else b

/-- Minimum: NaN if either is NaN; of zeros of both signs −0. -/
def fvMin (a b : Fv) : Fv :=
  if a.isNan || b.isNan then .nan
  else if fvCmp a b = 0 then (if a.neg then a else b) else if fvCmp a b = 1 then b else a

/-- Round a result into a format; `ins` are the operands, for the NaN status (R94). -/
def fpResult (f : FpFmt) (ins : List Fv) (r : Fv) : Nat × Nat :=
  let (b, st) := fpEnc f false r
  (b, if r.isNan ∧ ¬ ins.any Fv.isNan then st ||| stNanMade else st)

/-- Addition in a format, rounded once. -/
def fpAdd (f : FpFmt) (a b : Nat) : Nat × Nat :=
  fpResult f [fpDec f a, fpDec f b] (fvAdd (fpDec f a) (fpDec f b))

/-- Subtraction. -/
def fpSub (f : FpFmt) (a b : Nat) : Nat × Nat :=
  fpResult f [fpDec f a, fpDec f b] (fvAdd (fpDec f a) (fpDec f b).negate)

/-- Multiplication. -/
def fpMul (f : FpFmt) (a b : Nat) : Nat × Nat :=
  fpResult f [fpDec f a, fpDec f b] (fvMul (fpDec f a) (fpDec f b))

/-- d + a × b, rounded once. -/
def fpFma (f : FpFmt) (d a b : Nat) : Nat × Nat :=
  fpResult f [fpDec f d, fpDec f a, fpDec f b] (fvAdd (fpDec f d) (fvMul (fpDec f a) (fpDec f b)))

/-- Minimum or maximum in a format. -/
def fpMinMax (f : FpFmt) (mx : Bool) (a b : Nat) : Nat :=
  (fpEnc f false (if mx then fvMax (fpDec f a) (fpDec f b) else fvMin (fpDec f a) (fpDec f b))).1

/-- A comparison: 0 equal, 1 less, 2 less or equal; false with NaN. -/
def fpRel (f : FpFmt) (op a b : Nat) : Bool :=
  let x := fpDec f a
  let y := fpDec f b
  if x.isNan || y.isNan then false
  else if op = 0 then fvCmp x y = 0 else if op = 1 then fvCmp x y = -1 else fvCmp x y ≠ 1

/-- A value rounded to an integer, nearest even, saturating to `w` bits: the integer and status (R102). -/
def fvToInt (w : Nat) : Fv → Int × Nat
  | .nan => (0, stNanToInt)
  | .inf neg => (if neg then - 2 ^ (w - 1) else 2 ^ (w - 1) - 1, stIntSat)
  | .fin neg mag ex =>
    let i := fvSigned neg (rneShift mag ex)
    if i < - 2 ^ (w - 1) then (- 2 ^ (w - 1), stIntSat)
    else if 2 ^ (w - 1) - 1 < i then (2 ^ (w - 1) - 1, stIntSat)
    else (i, 0)

/-- The value of an integer. -/
def fvOfInt (i : Int) : Fv := fvInt i 0

/-- Floating-point format of a code below 0x05. -/
def fmtOf (c : Nat) : FpFmt :=
  if c = 0 then fp32 else if c = 1 then bf16 else if c = 2 then fp16 else if c = 3 then e4m3 else e5m2

/-- Width in bits of an integer code of CVT: INT8, INT32 and the 64-bit integer. -/
def intWidth (c : Nat) : Nat := if c = 5 then 8 else if c = 6 then 32 else 64

/-- Is the code an integer code? -/
def isIntCode (c : Nat) : Bool := c = 5 || c = 6 || c = 0x3F

/-- CVT accepts the code. -/
def cvtCode (c : Nat) : Bool := c ≤ 6 || c = 0x3F

/-- The value that CVT reads from a register. -/
def cvtRead (src : Nat) (v : Word) : Fv :=
  if isIntCode src then fvOfInt (sext v.toNat (intWidth src))
  else fpDec (fmtOf src) (v.toNat % 2 ^ ((fmtOf src).e + (fmtOf src).m + 1))

/-- CVT: the register's new value and status (R102, R103). -/
def cvtRun (src target : Nat) (sat : Bool) (v : Word) : Word × Nat :=
  let x := cvtRead src v
  if isIntCode target then
    if isIntCode src ∧ intWidth src ≤ intWidth target then (wordOf (sext v.toNat (intWidth src)), 0)
    else (wordOf (fvToInt (intWidth target) x).1, (fvToInt (intWidth target) x).2)
  else
    let (b, st) := fpEnc (fmtOf target) sat x
    (BitVec.ofNat 64 b, st)

/-! ### Approximated operations (R111) -/

/-- The rational value of a finite value. -/
def fvRat : Fv → Rat
  | .fin n m e => fvSigned n m * (if 0 ≤ e then (2 : Rat) ^ e.toNat else 1 / (2 : Rat) ^ (-e).toNat)
  | _ => 0

/-- Fixed point with 160 fraction bits. -/
def fxOne : Int := 2 ^ 160

/-- A rational in fixed point, rounded down. -/
def fxOf (r : Rat) : Int := (r * fxOne).floor

/-- Product in fixed point. -/
def fxMul (a b : Int) : Int := a * b / fxOne

/-- ln 2 in fixed point, from Σ 1 / (k 2^k). -/
def fxLn2 : Int := (List.range 170).foldl (fun (a : Int) (k : Nat) => a + fxOne / (((k + 1 : Nat) : Int) * 2 ^ (k + 1))) 0

/-- exp of a fixed-point number of magnitude below 1, by its series. -/
def fxExpSmall (x : Int) : Int :=
  ((List.range 40).foldl (fun (a : Int × Int) (k : Nat) => (a.1 + a.2, fxMul a.2 x / ((k + 1 : Nat) : Int))) (0, fxOne)).1

/-- 2 to a fixed-point power: the significand in fixed point in [1, 2) and the exponent. -/
def fxExp2 (x : Int) : Int × Int :=
  (fxExpSmall (fxMul (x % fxOne) fxLn2), x / fxOne)

/-- e to a fixed-point power, as a rational; flushed to 0 below 2^−300 and capped above 2^300. -/
def ratExp (x : Int) : Rat :=
  let y := x * fxOne / fxLn2
  let (m, e) := fxExp2 (max (min y (300 * fxOne)) (-300 * fxOne))
  (m : Rat) / fxOne * (if 0 ≤ e then (2 : Rat) ^ e.toNat else 1 / (2 : Rat) ^ (-e).toNat)

/-- Fraction bits of log2 of a significand in [1, 2), by repeated squaring. -/
def fxLogBits : Nat → Int → Int → Int → Int
  | 0, _, _, acc => acc
  | n + 1, m, bit, acc =>
    let q := fxMul m m
    if 2 * fxOne ≤ q then fxLogBits n (q / 2) (bit / 2) (acc + bit) else fxLogBits n q (bit / 2) acc

/-- log2 of a positive rational given as mag × 2^ex. -/
def ratLog2 (mag : Nat) (ex : Int) : Rat :=
  let k := Nat.log2 mag
  let m := (mag : Int) * fxOne / 2 ^ k
  (ex + k : Int) + (fxLogBits 120 m (fxOne / 2) 0 : Rat) / fxOne

/-- Integer square root, by bits. -/
def isqrt (n : Nat) : Nat :=
  (List.range (Nat.log2 n / 2 + 1)).foldr (fun i r => if (r + 2 ^ i) * (r + 2 ^ i) ≤ n then r + 2 ^ i else r) 0

/-- Operations of R111 by number: 0 reciprocal, 1 reciprocal square root, 2 exp2, 3 log2, 4 tanh, 5 sigmoid, 6 GELU,
7 SiLU. Special cases: the value, or none for an ordinary operand. -/
def apxSpecial (op : Nat) (x : Fv) : Option Fv :=
  match x with
  | .nan => some .nan
  | .inf n =>
    if op = 0 then some (.fin n 0 0)
    else if op = 1 then some (if n then .nan else .fin false 0 0)
    else if op = 2 then some (if n then .fin false 0 0 else .inf false)
    else if op = 3 then some (if n then .nan else .inf false)
    else if op = 4 then some (.fin n 1 0)
    else if op = 5 then some (if n then .fin false 0 0 else .fin false 1 0)
    else some (if n then .fin true 0 0 else .inf false)
  | .fin n m e =>
    if op = 0 ∧ m = 0 then some (.inf n)
    else if op = 1 ∧ m = 0 then some (.inf n)
    else if op = 1 ∧ n then some .nan
    else if op = 2 ∧ 128 ≤ fvRat (.fin n m e) then some (.inf false)
    else if op = 2 ∧ fvRat (.fin n m e) < -149 then some (.fin false 0 0)
    else if op = 3 ∧ m = 0 then some (.inf true)
    else if op = 3 ∧ n then some .nan
    else none

/-- The function's value at an ordinary operand, to far more bits than any bound of R111. -/
def apxExact (op : Nat) (n : Bool) (m : Nat) (e : Int) : Rat :=
  let x := fvRat (.fin n m e)
  let fx := fxOf x
  if op = 0 then 1 / x
  else if op = 1 then
    -- 1 / sqrt x with 100 bits beyond its leading bit
    let y := 1 / x
    let sh := 2 * ((Nat.log2 m : Int) + e).natAbs + 220
    (isqrt ((y * 2 ^ sh).floor.toNat) : Rat) / 2 ^ (sh / 2)
  else if op = 2 then
    let (q, k) := fxExp2 fx
    (q : Rat) / fxOne * (if 0 ≤ k then (2 : Rat) ^ k.toNat else 1 / (2 : Rat) ^ (-k).toNat)
  else if op = 3 then ratLog2 m e
  else if op = 4 then 1 - 2 / (ratExp (2 * max (min fx (100 * fxOne)) (-100 * fxOne)) + 1)
  else if op = 5 then 1 / (1 + ratExp (- fx))
  else if op = 6 then
    -- sqrt (2 / π) = 0.79788456080286535588
    let c := max (min x 1000) (-1000)
    let u : Rat := 79788456080286535588 / 100000000000000000000 * (c + 44715 / 1000000 * c * c * c)
    x / 2 * (2 - 2 / (ratExp (fxOf (2 * max (min u 100) (-100))) + 1))
  else x / (1 + ratExp (- fx))

/-- Exponent of the leading bit of a positive rational. -/
def ratExpo (r : Rat) : Int :=
  let k := (Nat.log2 r.num.natAbs : Int) - Nat.log2 r.den
  let p := fun (i : Int) => if 0 ≤ i then (2 : Rat) ^ i.toNat else 1 / (2 : Rat) ^ (-i).toNat
  if |r| < p k then k - 1 else k

/-- One unit in the last place of FP32 at a rational. -/
def ulp32 (r : Rat) : Rat :=
  let q := max (if r = 0 then -126 else ratExpo r) (-126) - 23
  if 0 ≤ q then (2 : Rat) ^ q.toNat else 1 / (2 : Rat) ^ (-q).toNat

/-- The error bound of an operation at an operand with exact result `y` (R111). -/
def apxBound (op : Nat) (x y : Rat) : Rat :=
  if op = 0 ∨ op = 1 then ulp32 y
  else if op = 2 then 2 * ulp32 y
  else if op = 3 then (if 1 / 2 ≤ x ∧ x ≤ 2 then 1 / 2 ^ 22 else 2 * ulp32 y)
  else if op = 4 ∨ op = 5 then 1 / 2 ^ 20
  else max (|y| / 2 ^ 16) (1 / 2 ^ 24)

/-- A rational rounded to FP32, nearest (fallback of an approximated operation). -/
def ratToFp32 (r : Rat) : Nat :=
  let q := (if r = 0 then 0 else ratExpo r) - 60
  let p : Rat := if 0 ≤ q then (2 : Rat) ^ q.toNat else 1 / (2 : Rat) ^ (-q).toNat
  (fpEnc fp32 false (fvInt (r / p).floor q)).1

/-- An approximated operation on a value: FP32 bits before output rounding. The unit's result is free within the bound
of R111: the free value counts where it lies within the bound, else the correctly rounded value stands. -/
def apxRun (op : Nat) (x : Fv) (k : Nat) : Nat :=
  match apxSpecial op x with
  | some v => (fpEnc fp32 false v).1
  | none =>
    match x with
    | .fin n m e =>
      let y := apxExact op n m e
      let c := Config.approx op (fpEnc fp32 false x).1 k % 2 ^ 32
      match fpDec fp32 c with
      | .fin cn cm ce =>
        if |fvRat (.fin cn cm ce) - y| ≤ apxBound op (fvRat x) y then c else ratToFp32 y
      | _ => ratToFp32 y
    | _ => fp32.canonNan

/-- An approximated operation in a format: bits and status. A NaN of a negative operand sets nan_made; exp2 of a finite
operand from 128 on overflows and sets inf_made. -/
def fpApprox (f : FpFmt) (op a k : Nat) : Nat × Nat :=
  let x := fpDec f a
  let r := fpResult f [x] (fpDec fp32 (apxRun op x k))
  match x with
  | .fin n m e => if op = 2 ∧ 128 ≤ fvRat (.fin n m e) then (r.1, r.2 ||| stInfMade) else r
  | _ => r

/-! ### Stochastic rounding (R104) -/

/-- One step of the generator. -/
def lfsrStep (s : BitVec 32) : BitVec 32 :=
  (s <<< 1) ||| (if s.getLsbD 31 ^^ s.getLsbD 21 ^^ s.getLsbD 1 ^^ s.getLsbD 0 then 1 else 0)

/-- n steps. -/
def lfsrSteps : Nat → BitVec 32 → BitVec 32
  | 0, s => s
  | n + 1, s => lfsrSteps n (lfsrStep s)

/-- Draw: the new state; its low 16 bits are the value. -/
def lfsrDraw (s : BitVec 32) : BitVec 32 := lfsrSteps 16 s

/-- The seed of a cell's generator. -/
def lfsrSeed (seed : BitVec 32) (cell : Nat) : BitVec 32 :=
  let x := seed ^^^ BitVec.ofNat 32 (cell * 0x9E37)
  if x = 0 then 1 else x

/-- Stochastic rounding of FP32 bits to BF16 with a 16-bit random value: bits and status. -/
def stochBf16 (b r : Nat) : Nat × Nat :=
  match fpDec fp32 b with
  | .nan => (bf16.canonNan, 0)
  | .inf n => (fpInf bf16 n, 0)
  | .fin n _ _ =>
    let m := (b % 2 ^ 31 + r % 2 ^ 16) / 2 ^ 16
    if m ≤ fpMaxFinite bf16 then (fpSign bf16 n + m, 0) else (fpInf bf16 n, stInfMade)

/-! ### Accumulate-on-write (R113) -/

/-- One lane of `w` bits. -/
def accumLane (op : Nat) (stored written : Nat) : Nat :=
  if op = 1 then (fpAdd fp32 stored written).1
  else if op = 2 then (fpAdd bf16 stored written).1
  else if op = 3 then fpMinMax fp32 true stored written
  else if op = 4 then fpMinMax bf16 true stored written
  else stored + written

/-- Lane width in bits of an accumulate opcode. -/
def accumWidth (op : Nat) : Nat := if op = 2 ∨ op = 4 then 16 else if op = 6 then 64 else 32

/-- A sector after an accumulate: lanes whose mask bit is 0 keep their stored value (R113). -/
def accumSector (op : Nat) (mask : BitVec 16) (stored written : Sector) : Sector :=
  let w := accumWidth op
  BitVec.ofNat 256 ((List.range (256 / w)).foldl (fun a i =>
    let x := nbits stored.toNat (w * i) w
    let y := nbits written.toNat (w * i) w
    a + (if mask.getLsbD i then accumLane op x y % 2 ^ w else x) * 2 ^ (w * i)) 0)

end Sys2Proof.Machine
end

