-- ==== Sys2Proof/Machine/State.lean ====
section
/-! DEFINITION. The state of the stack as plain data, chapter by chapter, and the state before power is applied
(`State.reset`). Software-visible registers live in one sparse store (`regs`), keyed by BAR0 byte offset; an unlisted
register holds the reset value of its table (Machine/Regs.lean). Collections are lists or sparse maps. -/

namespace Sys2Proof.Machine

open Sys2Proof

/-- What the block sends out, in order: messages, transactions, answers and frames. -/
inductive Out where
  /-- An MSI-X message of a function on a vector (R361). -/
  | msix (f : Fn) (vector : Nat)
  /-- The value that a register read returns. -/
  | regData (f : Fn) (value : Word)
  /-- A completion with Unsupported Request status. -/
  | unsupported (f : Fn) (tag : Nat)
  /-- A BAR2 read completion: 0 data, 1 data with EP set, 2 Completer Abort, 3 Unsupported Request. -/
  | bar2Cpl (f : Fn) (tag status addr : Nat) (data : List Byte)
  /-- A memory write of the stack to host memory. -/
  | hostWrite (port : Nat) (bus : Nat) (bytes : List (Option Byte)) (ep : Bool)
  /-- A memory read of the stack from host memory. -/
  | hostRead (port : Nat) (bus len : Nat)
  /-- An ATS Translation Request (R273). -/
  | atsReq (f : Fn) (pasid va : Nat) (noWrite exe priv : Bool)
  /-- A page request (R283). -/
  | pageReq (f : Fn) (pasid va group : Nat) (w exe : Bool)
  /-- An Invalidate Completion (R287). -/
  | invDone (f : Fn) (itag : Nat)
  /-- Bytes or words returned by the I3C target. -/
  | i3c (words : List Nat)
  /-- An SPDM response (R416 to R420): the response code and its data. -/
  | spdm (f : Fn) (code : Nat) (data : List Byte)
  /-- A DOE Discovery answer: vendor, protocol, next index. -/
  | doe (f : Fn) (vendor protocol next : Nat)
  /-- The line symbols of one frame, lane by lane (R370 to R374). -/
  | ralFrame (port : Nat) (lanes : List (List Nat))
  /-- A training block of the code given, per lane (R381). -/
  | ralBlock (port code mask : Nat)
  /-- Electrical idle on a port. -/
  | ralIdle (port : Nat)
  /-- What the test access port reads. -/
  | tap (value : Word) (data : BitVec 512) (status : Nat)
  deriving DecidableEq, Repr

/-- Where a translated access lands (R133, R275). -/
inductive Phys where
  /-- This stack's HBM data window, by local address. -/
  | hbm (addr : Nat)
  /-- Another stack, by fabric address. -/
  | remote (fab : Nat)
  /-- Host memory: port, bus address, untranslated request, No Snoop. -/
  | host (port bus : Nat) (untranslated noSnoop : Bool)
  /-- Any other local or unreachable address: an address error (R51). -/
  | bad (addr : Nat)
  deriving DecidableEq, Repr

/-! ### Threads, tasks and contexts (chapter 04) -/

/-- A store, SACC or flag update that a thread has issued and that is not yet performed (R132, R139). -/
structure StoreEnt where
  target : Phys
  size : Nat
  /-- Stamp of its issue. -/
  seq : Nat
  deriving DecidableEq, Repr

/-- Why a thread is not ready. -/
inductive Wait where
  /-- A translation is pending; the instruction issues again afterwards (R133). -/
  | xlat
  /-- Earlier accesses have to be performed before a release (R138), an overlapping load (R137), or a store entry has to
  free (R132); the instruction issues again afterwards. -/
  | stores (upTo : Nat)
  /-- Load data: destination, size in bytes, sign extension, hint, virtual address, target, stamp of its issue. -/
  | data (d size : Nat) (signed : Bool) (hint va : Nat) (target : Phys) (seq : Nat)
  /-- The reply of FLAG SET or ADD: destination, target, address, stamp. -/
  | flagReply (d : Nat) (target : Phys) (va seq : Nat)
  /-- FLAG WAIT: destination, condition, operand, target; `cancelled` after the timeout. -/
  | flagWait (d cond : Nat) (v : Word) (target : Phys) (va : Nat) (cancelled : Bool)
  /-- FLAG WAIT answered retry: reissued by FLAG_WAIT_RETRY (R145); `last` is the word at that answer. -/
  | flagRetry (d cond : Nat) (v : Word) (target : Phys) (va : Nat) (last : Word)
  /-- BAR WAIT on counter `key` until its phase differs from `phase` (R141). -/
  | bar (key : Nat) (phase : Bool)
  /-- ARRIVE on a counter that awaits release: counted at the release (R143). -/
  | barHeld (key d : Nat)
  deriving DecidableEq, Repr

/-- State of a thread. -/
inductive ThrSt where
  | ready
  | waiting (w : Wait)
  /-- Halted on BRK (R498). -/
  | halted
  deriving DecidableEq, Repr

/-- A hardware thread in its slot (R127). Slot = 128 × cell + 8 × pipeline + thread, cell = 24 × row + column. -/
structure Thread where
  part : Nat
  ctx : Nat
  task : Nat
  idx : Nat
  pc : Nat
  /-- g0 to g62; unlisted registers hold zero. -/
  regs : SMap Word
  /-- Issue slots used (R128, index 8). -/
  issue : Nat
  /-- The word of the instruction issued last. -/
  word : Nat
  st : ThrSt
  stores : List StoreEnt
  /-- Ends at its next issue slot with this code (R126, R153), if any. -/
  ending : Option Nat
  /-- Stops at its next issue slot for a suspend (R152). -/
  stopping : Bool
  deriving DecidableEq, Repr

/-- A task descriptor as accepted (R124). -/
structure TaskDesc where
  abortOnFault : Bool
  n : Nat
  entry : Nat
  arg : Word
  stackBase : Nat
  stackSize : Nat
  bayHint : Nat
  doneFlag : Nat
  faultRec : Nat
  deriving DecidableEq, Repr

/-- The first fault recorded for a task (R149). -/
structure FaultInfo where
  code : Nat
  idx : Nat
  pc : Nat
  va : Nat
  fid : Nat
  row : Nat
  col : Nat
  bay : Nat
  pipe : Nat
  word : Nat
  deriving DecidableEq, Repr

/-- A task whose threads run. -/
structure TaskRun where
  part : Nat
  ctx : Nat
  desc : TaskDesc
  /-- Threads not yet ended. -/
  live : Nat
  /-- Threads ended other than by EXIT. -/
  abnormal : Nat
  fault : Option FaultInfo
  /-- Cells on which its threads ran (R126). -/
  cells : List Nat
  deriving DecidableEq, Repr

/-- A context (R151): state code of CMP_CTX_CTRL, its queued tasks, the thread states of a suspended context with the
save area's address. -/
structure Ctx where
  state : Nat
  queue : List TaskDesc
  saved : List Thread
  saveAddr : Nat
  /-- An operation of CMP_CTX_CTRL in progress: 1 suspend, 2 resume, 3 abort. -/
  op : Nat
  /-- Doorbells whose descriptor is being read (R123). -/
  reading : List Word
  deriving DecidableEq, Repr

/-- A barrier counter (R140, R143). -/
structure Bar where
  target : Nat
  count : Nat
  phase : Bool
  awaiting : Bool
  deriving DecidableEq, Repr

/-- A line of a cell's L1 (R76, R134): the physical line, data, poison of its two cell-store words, keep, and the age
stamp of its last use (0 for evict-first). -/
structure L1Line where
  target : Phys
  data : Line
  poison : BitVec 2
  keep : Bool
  age : Nat
  deriving DecidableEq, Repr

/-- A cell-store word (R58, R330): data, valid bit, poison bit. -/
structure CsWord where
  data : BitVec 512
  valid : Bool
  poison : Bool
  deriving DecidableEq, Repr

/-! ### Tiles (chapter 05) -/

/-- Progress of a piece (R166 to R174). -/
inductive PiecePh where
  | unstarted
  /-- Step 1 or 2 of R169: translating or waiting for page requests; pages not yet usable. -/
  | translating (missing : List Nat)
  | translated
  /-- Placed on a bay; `ran`: its operands are read and its writes are under way. -/
  | placed (bay : Nat) (ran : Bool)
  | ended (status : Nat)
  deriving DecidableEq, Repr

/-- A TLB run entry (R276). `size`: 0 for 4 KiB, 1 for 2 MiB, 2 for 1 GiB; the run holds 2^j pages. -/
structure TlbEnt where
  part : Nat
  ctx : Nat
  size : Nat
  j : Nat
  va : Nat
  ta : Nat
  r : Bool
  w : Bool
  exe : Bool
  u : Bool
  n : Bool
  deriving DecidableEq, Repr

/-- A piece: rows m0 to m1 and columns (or keys) n0 to n1, exclusive; `cuts` are the ends of the key chunks of ATTN. -/
structure Piece where
  m0 : Nat
  m1 : Nat
  n0 : Nat
  n1 : Nat
  cuts : List Nat
  ph : PiecePh
  /-- Translations that the piece holds (R169). -/
  trans : List TlbEnt
  /-- Lines of other stacks that it has read, by fabric address. -/
  far : SMap (Line × BitVec 4)
  /-- Its contribution to Q of its bay in KiB (R264). -/
  kib : Nat
  /-- Status that its accesses have given so far. -/
  bad : Nat
  deriving DecidableEq, Repr

/-- A tile in an operator queue (R165): its 64-byte descriptor, owner and pieces. -/
structure Tile where
  id : Nat
  part : Nat
  ctx : Nat
  desc : BitVec 512
  cut : Bool
  pieces : List Piece
  /-- Local lines read with a last-use hint (R173). -/
  lastUse : List Nat
  deriving DecidableEq, Repr

/-- A write that the stack makes in a context once a task, tile or command has ended (R126, R170, R293): bytes at a
virtual address, a flag add, or the invalidation of the L1s of cells. -/
inductive PostOp where
  | bytes (va : Nat) (data : List Byte)
  | add (va : Nat) (v : Word)
  /-- The add on a tile's completion flag; `q` is 4 × bay + queue. -/
  | tile (q va : Nat) (v : Word)
  | l1 (cells : List Nat)
  deriving DecidableEq, Repr

/-- Such writes in their order; `waits` while a translation is pending. -/
structure Post where
  m : Nat
  ops : List PostOp
  waits : Bool
  deriving DecidableEq, Repr

/-! ### Translation (chapter 09) -/

/-- What an access is (R274). -/
inductive Acc where
  | read | fetch | write | update
  deriving DecidableEq, Repr

/-- Who waits on a translation or a page request. `post`: a write that the stack makes on its own behalf of the context. -/
inductive WaitWho where
  | post
  | thread (slot : Nat)
  | piece (bay q tile idx : Nat)
  | taskDesc (desc : Word)
  | cmdDesc (desc : Word)
  | cmd
  deriving DecidableEq, Repr

/-- A waiter entry (R281, R282). -/
structure Waiter where
  who : WaitWho
  m : Nat
  va : Nat
  acc : Acc
  bay : Nat
  /-- Consecutive Success responses for its page (R283). -/
  succ : Nat
  deriving DecidableEq, Repr

/-- An ATS translation request in flight (R279, R288). -/
structure AtsReq where
  f : Fn
  pasid : Nat
  va : Nat
  waiters : List Waiter
  /-- An invalidation covered the page after the request was sent. -/
  stale : Bool
  deriving DecidableEq, Repr

/-- A page request (R281 to R283): `group` is none until it is sent. -/
structure PageReq where
  part : Nat
  f : Fn
  pasid : Nat
  va : Nat
  group : Option Nat
  waiters : List Waiter
  successes : Nat
  timedOut : Bool
  deriving DecidableEq, Repr

/-- An ATS invalidation that awaits its completion (R286, R287). -/
structure Inval where
  f : Fn
  itag : Nat
  /-- Contexts whose entries were removed; accesses of theirs issued before `stamp` have to be performed. -/
  ctxs : List Nat
  stamp : Nat
  /-- Pieces in step 4 that held translations of the range: bay, queue, tile id, index. -/
  pieces : List (Nat × Nat × Nat × Nat)
  deriving DecidableEq, Repr

/-- A translation-block command (R290). -/
structure Cmd where
  kind : Nat
  flags : Nat
  base : Nat
  dst : Nat
  len : Nat
  doneFlag : Nat
  /-- Bytes of the range processed. -/
  pos : Nat
  /-- 0 running, else the status with which it ends plus one. -/
  ended : Nat
  /-- COPY: the line asked of another stack by fabric address, and the line once it has come. -/
  asked : Option Nat
  got : Option (Line × BitVec 4)
  deriving DecidableEq, Repr

/-- The command queue of a context. -/
structure CmdQ where
  queue : List Cmd
  reading : List Word
  deriving DecidableEq, Repr

/-! ### Cellar (chapter 06) -/

/-- States of a line in its order of R195. -/
inductive LineSt where
  | absent | filling | clean | dirty | zero | dead
  deriving DecidableEq, Repr

/-- A line entry of a frame (R187). -/
structure LineEnt where
  line : Nat
  cls : Nat
  quarter : Nat
  st : LineSt
  hint : Nat
  racked : Bool
  pinned : Bool
  poison : BitVec 4
  data : Line
  deriving DecidableEq, Repr

/-- A frame with its tag entry (R187): the group it holds (channel and channel-local group index) and its age stamp. -/
structure Frame where
  ch : Nat
  grp : Nat
  age : Nat
  lines : List LineEnt
  deriving DecidableEq, Repr

/-- An operation that waits for a line: for a fill (R196), a frame (R202) or a place (R212). -/
inductive SliceOp where
  | read (hint : Nat)
  | write (be : BitVec 128) (data : Line) (poison : BitVec 4)
  | accum (op : Nat) (mask : BitVec 16) (data : Sector) (poison : Bool)
  | flagSet (v : Word)
  | flagAdd (v : Word)
  | flagWait (cond : Nat) (v : Word)
  | pin (p : Nat)
  | unpin
  | clean
  | flush
  | rack (on : Bool)
  | kill
  | pref
  deriving DecidableEq, Repr

/-- A request held at a slice. -/
structure Held where
  who : Requester
  addr : Nat
  hint : Nat
  op : SliceOp
  deriving DecidableEq, Repr

/-- A fill entry (R210) or, with `privileged`, a miss register (R211), of one line. -/
structure FillEnt where
  addr : Nat
  privileged : Bool
  bays : BitVec 32
  ports : BitVec 8
  waiters : List Held
  deriving DecidableEq, Repr

/-- A request that waits at a channel: a write-back, a kill, a sidecar update (R231), or an uncached access (R200). -/
inductive ChanReq where
  | writeBack (addr : Nat) (data : Line) (poison : BitVec 4)
  | kill (addr : Nat)
  | sidecar (addr : Nat)
  | uncached (h : Held)
  deriving DecidableEq, Repr

/-- A flag wait entry (R145). -/
structure WaitEnt where
  who : Requester
  addr : Nat
  cond : Nat
  v : Word
  deriving DecidableEq, Repr

/-- The controller state of a slice. -/
structure Slice where
  /-- 0 active, 1 draining, 2 retired. -/
  state : Nat
  subst : Nat
  fills : List FillEnt
  /-- Requests of each line in their order of arrival that wait for a fill. -/
  waiting : List Held
  side : List Held
  victim : List Held
  held : List Held
  merge : List (Nat × Line)
  waits : List WaitEnt
  /-- Misses per set in this round, and sets that raised an event (R206). -/
  misses : SMap Nat
  missPart : SMap Nat
  thrashed : List Nat
  /-- Quarantined sets (R336). -/
  quarantined : List Nat
  deriving DecidableEq, Repr

/-- A reply on its way to a thread: slot, the line, poison per sector, status (0 done, 1 address error, 3 retry later,
4 lost, 5 poisoned flag, 6 retry of R145, 7 cancelled), flag word, and where it comes from: 0 this stack, 1 another
stack, 2 host memory. -/
structure Reply where
  slot : Nat
  addr : Nat
  data : Line
  poison : BitVec 4
  status : Nat
  word : Word
  source : Nat
  deriving DecidableEq, Repr

/-- A range operation in progress (R216). -/
structure RangeOp where
  op : Nat
  base : Nat
  len : Nat
  deriving DecidableEq, Repr

/-! ### HBM (chapter 07) -/

/-- A stored block with its sidecar entry (R226, R227): the two halves as stored and the MAC field. -/
structure Block where
  /-- Local address of the block. -/
  addr : Nat
  half0 : Line
  half1 : Line
  valid : Bool
  keygen : Nat
  zero0 : Bool
  zero1 : Bool
  poison : Bool
  mac : BitVec 56
  deriving DecidableEq, Repr

/-- A fill as a channel delivers it to its slice. -/
structure FillData where
  addr : Nat
  valid : Bool
  data : Line
  poison : BitVec 4
  deriving DecidableEq, Repr

/-- A channel controller: sidecar cache (page and dirty, most recent first), parity retry attempt,
uncorrectable codewords of the round, power-down and recalibration per pseudo-channel, temperature at the last
calibration and rounds since, next refresh due. -/
structure Channel where
  scache : List (Nat × Bool)
  attempt : Nat
  ueRound : Nat
  pdown : BitVec 2
  recal : BitVec 2
  calTemp : SMap Nat
  calRounds : SMap Nat
  refreshes : Nat
  deriving DecidableEq, Repr

/-! ### Placement (chapter 08) -/

/-- A tracked region (R248, R249). -/
structure Heat where
  heat : Nat
  n : Nat
  racked : Bool
  part : Nat
  deriving DecidableEq, Repr

/-- A replica map entry: the home region by fabric region number, pool slot region, state. -/
structure Replica where
  part : Nat
  home : Nat
  slot : Nat
  /-- The home stack has granted the request and the copy runs. -/
  granted : Bool
  valid : Bool
  /-- Remote heat of the region when it was requested. -/
  heat : Nat
  deriving DecidableEq, Repr

/-- A directory entry of a home stack (R259, R261). -/
structure DirEnt where
  region : Nat
  /-- Tag of the invalidations in flight. -/
  tag : Nat
  sharers : BitVec 16
  /-- Acknowledgements awaited. -/
  waiting : BitVec 16
  held : List Held
  deriving DecidableEq, Repr

/-! ### Raloth (chapter 13) -/

/-- Key establishment of a port (R389). -/
structure Keyx where
  myNonce : BitVec 256
  peerNonce : BitVec 256
  peerPk : BitVec 256
  /-- 0 idle, 1 HELLO sent, 2 key sent or awaited, 3 ciphertext exchanged, 4 signature sent. -/
  phase : Nat
  initiator : Bool
  ek : List Byte
  ct : List Byte
  secret : BitVec 256
  sigSent : Bool
  sigOk : Bool
  i2r : BitVec 256
  r2i : BitVec 256
  deriving DecidableEq, Repr

/-- A Raloth port (R376 to R391). -/
structure RalPort where
  /-- State code of R380. -/
  state : Nat
  /-- Lane mask of the LINK record (R314), all lanes without one. -/
  mask : BitVec 8
  width : Nat
  /-- Valid training blocks received in a row (DETECT), blocks with code 4 received (SYNC). -/
  blocksIn : Nat
  /-- Usable-lane mask of the peer. -/
  peerMask : BitVec 8
  /-- Frame counters: next to send, next expected. -/
  txCtr : Nat
  rxCtr : Nat
  /-- Counted frames sent and not acknowledged, with their content as sent. -/
  replay : List (Nat × List Byte)
  /-- Counter from which a replay has to be sent, if any. -/
  replayFrom : Option Nat
  nak : Bool
  owesAck : Bool
  badInRow : Nat
  tagFailsRound : Nat
  txCredits : List Nat
  rxReturn : List Nat
  txq : List RMsg
  rxq : List RMsg
  /-- Transmit and receive key of the current epoch, and the new pair awaiting the switch. -/
  txKey : BitVec 256
  rxKey : BitVec 256
  newTx : Option (BitVec 256)
  newRx : Option (BitVec 256)
  txEpoch : Nat
  rxEpoch : Nat
  /-- This end was initiator of the exchange that made the transmit key, the receive key. -/
  txInit : Bool
  rxInit : Bool
  kx : Keyx
  /-- Scrambler registers of transmitter and receiver per lane, and run state per lane (level and length). -/
  txScr : List Nat
  rxScr : List Nat
  txRun : List (Nat × Nat)
  rxRun : List (Nat × Nat)
  txSleep : Bool
  rxSleep : Bool
  /-- A frame with sleep set was received. -/
  sleepSeen : Bool
  waking : Bool
  loop : Nat
  /-- Slips per lane (R383). -/
  slips : List Nat
  /-- Permissions of the LINK record: transmit sleep, receive sleep. -/
  txMaySleep : Bool
  rxMaySleep : Bool
  /-- OFF for the run (R368). -/
  off : Bool
  deriving DecidableEq, Repr

/-- An outstanding request to another stack (R405). -/
structure RalReq where
  tag : Nat
  who : Requester
  msg : RMsg
  port : Nat
  hold : Bool
  retry : Bool
  deriving DecidableEq, Repr

/-- A request addressed to this stack that is answered hold and kept (R404). -/
structure Kept where
  port : Nat
  msg : RMsg
  deriving DecidableEq, Repr

/-- A peer record (R53, R398). -/
structure Peer where
  hops : Nat
  port : Nat
  reach : Bool
  chord : Bool
  latency : Nat
  bw : Nat
  deriving DecidableEq, Repr

/-! ### Blend (chapter 10) -/

/-- A PART record (R305). -/
structure Part where
  bays : BitVec 32
  ways : BitVec 16
  rate : Nat
  depth : Nat
  hard : Bool
  pf : BitVec 2
  vf : BitVec 32
  counters : BitVec 64
  trellis : BitVec 64
  base : Nat
  len : Nat
  deriving DecidableEq, Repr

/-- An OPER record (R308). -/
structure Oper where
  part : Nat
  op : Nat
  kind : Nat
  grainM : Nat
  grainN : Nat
  h : Nat
  sat : Bool
  stoch : Bool
  layer : Bool
  scale : BitVec 32
  seed : BitVec 32
  bays : BitVec 32
  group : BitVec 24
  split : List Nat
  fmtA : Nat
  fmtB : Nat
  chain : List Nat
  prog : List Word
  deriving DecidableEq, Repr

/-- The settings of the loaded Blend that the stack keeps beside the registers it writes. -/
structure Blend where
  parts : SMap Part
  opers : List Oper
  /-- Per partition: strict mode and pin_cap (R311). -/
  cach : List (Nat × Bool × Nat)
  /-- Pin ranges: partition, base, length. -/
  pins : List (Nat × Nat × Nat)
  /-- LINK: port, role, lanes, sleep permissions. -/
  links : List (Nat × Nat × BitVec 8 × BitVec 2)
  /-- SECU partition records: partition, sealable, decant_share. -/
  secu : List (Nat × Bool × Nat)
  key : List Byte
  /-- TEST: kinds, interval, save_base. -/
  test : Option (Nat × Nat × Nat)
  /-- Digests for attestation (R319): header and table, SECU key. -/
  headDig : BitVec 256
  keyDig : BitVec 256
  buildId : Word
  deriving DecidableEq, Repr

/-! ### Security (chapter 14) -/

/-- A data key (R414): its generation, XTS key and MAC key. -/
structure DataKey where
  gen : Nat
  xts : BitVec 512
  mac : BitVec 256
  deriving DecidableEq, Repr

/-- The security state of a partition (R423 to R438). -/
structure SecPart where
  state : Nat
  writeGen : Nat
  oldGen : Nat
  keys : List DataKey
  importKey : BitVec 256
  debugKey : BitVec 256
  base : Nat
  len : Nat
  peers : List Nat
  latchT : Nat
  latchS : Nat
  /-- Next block of the decant walk, if one runs. -/
  decant : Option Nat
  /-- The partition's records in the Blend in force at SEAL (R441): PART, SECU, key, OPER. -/
  part : Option Part
  snapKey : List Byte
  snapOpers : List Oper
  snapDecant : Nat
  /-- IMPORT in progress: starting function and chunks done; destination and length as the go found them. -/
  imp : Option (Fn × Nat)
  impDst : Nat
  impLen : Nat
  /-- The session whose SEAL or ERASE awaits its aborts. -/
  waitFn : Option Fn
  deriving DecidableEq, Repr

/-- An SPDM session (R417). -/
structure Session where
  id : Nat
  f : Fn
  established : Bool
  /-- The key exchange has ended. -/
  keyed : Bool
  key : BitVec 256
  deriving DecidableEq, Repr

/-- An operation of the Askala engine (R409): class (1 Raloth, 2 SPDM), function or port, code and data. -/
structure AskOp where
  cls : Nat
  f : Fn
  code : Nat
  data : List Byte
  deriving DecidableEq, Repr

/-! ### Power, thermal, debug -/

/-- A pending wake (R460): kind 0 floor, 1 slice power-up, 2 slice clock start, 3 port wake, 4 bay power-up, 5 bay clock
start, 6 Borsum power-up; unit; higher priority; age stamp. -/
structure Wake where
  kind : Nat
  unit : Nat
  high : Bool
  age : Nat
  /-- CLK_AON count when it was queued. -/
  since : Nat
  deriving DecidableEq, Repr

/-- The state, chapter 12 and 19: pins, ports, functions, sideband. -/
structure PciSt where
  pwrgood : Bool := false
  resetLow : Bool := false
  supplyFault : Bool := false
  perstLow : BitVec 2 := 0b11
  freezeLow : Bool := false
  frozenPin : Bool := false
  thermtrip : Bool := false
  alert : Bool := false
  /-- Elected owner port (R350), and whether the 100 ms have passed. -/
  owner : Option Nat := none
  deadline : Bool := false
  /-- Ports that have reached DL_Active since PWRGOOD, and ports whose link is up. -/
  wasUp : BitVec 2 := 0
  up : BitVec 2 := 0
  ideKey : List (BitVec 256) := [0, 0]
  training : BitVec 2 := 0
  i3cAddr : Option (BitVec 7) := none
  i3cIdx : Nat := 0
  /-- The sampled telemetry words (R366). -/
  i3cWords : SMap Nat := []
  doeErr : List Fn := []
  deriving DecidableEq, Repr, Inhabited

/-- Configuration-space state of a function. -/
structure FnCfg where
  msix : Bool
  mask : BitVec 32
  pend : BitVec 32
  ats : Bool
  pri : Bool
  pasid : Bool
  alloc : Nat
  /-- PRI stopped by a Response Failure (R283). -/
  stopped : Bool
  bar2Log2 : Nat
  bar2Base : Option Nat
  deriving DecidableEq, Repr

/-- Chapter 14: the Askala engine and the partitions. -/
structure SecSt where
  idReady : Bool := false
  rngFail : Bool := false
  seed : BitVec 384 := 0
  pk : BitVec 256 := 0
  parts : SMap SecPart := []
  sessions : List Session := []
  nextSess : Nat := 1
  queue : List AskOp := []
  running : Option AskOp := none
  /-- Results that await RESPOND_IF_READY. -/
  ready : List (Fn × Nat × List Byte) := []
  /-- Operator gos written during a compute reset (R445): partition, op (4 IMPORT) and function. -/
  deferred : List (Nat × Nat × Fn) := []
  erasedByD3 : Nat := 0
  /-- Times that the random bit generator has been seeded again in this run (R411). -/
  drbg : Nat := 0
  deriving DecidableEq, Repr, Inhabited

/-- Chapter 18, 01, 02: bring-up, vertical interfaces, cells. -/
structure BupSt where
  /-- Voted vintage words and their shadows in order of R516. -/
  vintage : SMap Word := []
  variant : Nat := 0
  /-- The running step, the quick flag, and its test findings. -/
  step : Option (Nat × Bool) := none
  bad : List Word := []
  waitStage : Bool := false
  /-- The step's count for its status word. -/
  count : Nat := 0
  /-- Units excluded by the step. -/
  excluded : Nat := 0
  enabledOnce : Bool := false
  /-- No step may start again: a step ended with an error that needs a power-up (R513). -/
  dead : Bool := false
  failed : Bool := false
  /-- Lost bumps per bundle, key 32,768 × interface + bundle. -/
  bumps : SMap (List Nat) := []
  /-- Failed bundles. -/
  failedB : List Nat := []
  /-- CRC recoveries in progress (interface, bundle). -/
  recover : List (Nat × Nat) := []
  /-- Open power-via bundles, key 1,024 × interface + 16 × tile + n. -/
  vias : List Nat := []
  /-- Half width per bay: bit 0 down, bit 1 up. -/
  half : SMap Nat := []
  /-- Bays disabled in service (1), or at bring-up or excluded (2). -/
  bayOff : SMap Nat := []
  skip : SMap Nat := []
  removed : List Nat := []
  /-- State of logical cell 24 × r + c where not 0. -/
  cells : SMap Nat := []
  /-- Slices excluded at bring-up, lanes out of service (8 × port + lane) with their state code. -/
  laneSt : SMap Nat := []
  nd : List Word := []
  ndOver : Bool := false
  /-- Units retired in this run (R45) and vertical and retirement events. -/
  retired : Bool := false
  events : Nat := 0
  /-- Parity errors of this round per link, key 8 × cell + link. -/
  parity : SMap Nat := []
  /-- Staged EXCL (R296): digest if the image has a section, and the units. -/
  staged : Option (Option (BitVec 256)) := none
  stagedUnits : List Word := []
  loadRunning : Bool := false
  blend : Option Blend := none
  /-- Section digests of the last successful load, kept until the next one (R319). -/
  digests : List (BitVec 256) := []
  roles : BitVec 1536 := 0
  /-- A load has succeeded in this run (BLD_KEYDIG_k locks). -/
  loadedOnce : Bool := false
  /-- The go of step 9 has passed, and the ports in PLAIN at that go whose establishment has not ended (R524). -/
  step9 : Bool := false
  kxPorts : List Nat := []
  /-- Compute reset: requests waiting, hardware part running, 50 ms of R404 elapsed. -/
  cresetPending : Bool := false
  cresetRun : Bool := false
  holding : Bool := false
  holdOver : Bool := false
  /-- Borsum regions: waiting and running (test, region). -/
  regWait : List (Nat × Nat) := []
  regRun : List (Nat × Nat) := []
  /-- In-service test: rounds since the last, kind of the last, unit reached per kind, unit under test. -/
  tstRounds : Nat := 0
  tstKind : Nat := 0
  tstNext : SMap Nat := []
  tstUnit : Option (Nat × Nat) := none
  /-- Step 6 has tested the cells in this run. -/
  cellsDone : Bool := false
  /-- Vertical and retirement events per bay. -/
  bayEv : SMap Nat := []
  deriving DecidableEq, Repr, Inhabited

/-- Chapters 02 to 05: threads, tasks, barriers, queues, cells. -/
structure CmpSt where
  thr : SMap Thread := []
  tasks : SMap TaskRun := []
  nextTask : Nat := 0
  ctx : SMap Ctx := []
  /-- Context served last in each partition (R121). -/
  rot : SMap Nat := []
  /-- Barrier counters: 16 × bay + k for a bay counter, 1,024 + k for a stack counter. -/
  bars : SMap Bar := []
  /-- Operator queues by 4 × bay + queue. -/
  opq : SMap (List Tile) := []
  nextTile : Nat := 0
  /-- Queue served last, by 2 × bay + level (R166), and bay chosen last by each dispatcher (R264). -/
  qTurn : SMap Nat := []
  lastBay : SMap Nat := []
  l1 : SMap (List L1Line) := []
  /-- Cell-store words by 16,384 × cell + 512 × bank + word, those that hold something. -/
  cs : SMap CsWord := []
  /-- Age stamps of the L1s. -/
  clock : Nat := 0
  replies : List Reply := []
  posts : List Post := []
  deriving DecidableEq, Repr, Inhabited

/-- Chapter 09: translation. -/
structure XltSt where
  bay : SMap (List TlbEnt) := []
  l2 : List TlbEnt := []
  ats : List AtsReq := []
  prs : List PageReq := []
  invs : List Inval := []
  seq : BitVec 32 := 0
  flogFn : SMap Fn := []
  cmds : SMap CmdQ := []
  deriving DecidableEq, Repr, Inhabited

/-- Chapter 06: cellar. -/
structure CelSt where
  /-- Frames by 524,288 × slice + 16 × set + way. -/
  frames : SMap Frame := []
  slices : SMap Slice := []
  ranges : SMap RangeOp := []
  /-- Age stamp. -/
  clock : Nat := 0
  /-- Requests on their way to slices, and to channels. -/
  xbar : List Held := []
  hbmq : List ChanReq := []
  fillq : List FillData := []
  deriving DecidableEq, Repr, Inhabited

/-- Chapter 07: HBM. -/
structure HbmSt where
  /-- Blocks with valid = 1 or nonzero content, by storage location: 2^24 × (2 × channel + pseudo-channel) + slot. -/
  blocks : SMap Block := []
  chans : SMap Channel := []
  /-- Regulator values in force: rate, depth, hard. -/
  regs : SMap (Nat × Nat × Bool) := []
  selfRefresh : Bool := false
  deriving DecidableEq, Repr, Inhabited

/-- Chapter 08: placement. -/
structure PlcSt where
  heat : SMap Heat := []
  /-- Remote regions counted at egress (R260). -/
  rheat : SMap Heat := []
  /-- Remote regions whose request was refused, with their heat then (R260). -/
  refused : SMap Nat := []
  /-- Advice ranges, latest first: first region, regions, record. -/
  advice : List (Nat × Nat × Nat) := []
  replicas : List Replica := []
  dir : List DirEnt := []
  /-- Racking and unracking requests not yet made: region, line, on (R255). -/
  rackReqs : List (Nat × Nat × Bool) := []
  /-- The distance table snapshot being written. -/
  dist : Option (List Byte × Fn × Nat) := none
  gen : BitVec 32 := 0
  /-- Configuration in force in this round: offset and value (R269). -/
  cfg : SMap Word := []
  deriving DecidableEq, Repr, Inhabited

/-- Chapter 13: Raloth. -/
structure RalSt where
  ports : SMap RalPort := []
  enumTag : Nat := 0
  /-- The stored map, 80 bytes (R397). -/
  map : List Nat := []
  peers : SMap Peer := []
  pings : List Nat := []
  linkTag : SMap Nat := []
  pendingMap : Option RMsg := none
  nextTag : Nat := 0
  reqs : List RalReq := []
  kept : List Kept := []
  /-- Head: members' health words and rounds since the last (R401). -/
  mHealth : SMap Word := []
  mRounds : SMap Nat := []
  headGen : Nat := 0
  /-- Members' 4-bit states as last received or computed. -/
  mStates : Word := 0
  /-- Links reported down since the map was stored: stack id and port (R406). -/
  downs : List (Nat × Nat) := []
  /-- Barrier arrivals at the head: counter, phase, stacks that arrived; trellis arrivals at a master. -/
  arrivals : List (Nat × Bool × BitVec 16) := []
  estArr : List (Nat × Bool × List Nat) := []
  /-- An id has been adopted, and the neighbour's stored map is awaited (R399). -/
  adopting : Bool := false
  deriving DecidableEq, Repr, Inhabited

/-- Chapters 15 and 16: power and thermal. -/
structure PwrSt where
  /-- Power state 0 to 3, transition target while in transit. -/
  state : Nat := 0
  target : Option Nat := none
  wakes : List Wake := []
  /-- Charged steps admitted in the preceding CLK_AON cycles (latest first), in half amperes. -/
  recent : List Nat := []
  /-- CLK_AON cycles since a rung was admitted, none if none. -/
  rung : Option Nat := none
  wakeClock : Nat := 0
  /-- Bays: 1 clock-gated, 2 power-gated. -/
  bayGate : SMap Nat := []
  /-- Power-ups admitted whose rail is not yet up. -/
  rails : List Wake := []
  overRounds : Nat := 0
  halved : Bool := false
  aon : Nat := 0
  /-- Thermal model: constants, raw temperature of each node in °C, node powers, calibration offsets, consecutive
  rounds at the trip point. -/
  pkg : ThermPkg := ⟨[], [], []⟩
  temps : SMap Rat := []
  power : SMap Nat := []
  offs : SMap Rat := []
  tripRun : SMap Nat := []
  modelOn : Bool := false
  substep : Nat := 0
  shutdown : Bool := false
  tripRounds : Nat := 0
  /-- Sensors-only operation (R477); diodes marked failed, kept through a restart (R474). -/
  sensorsOnly : Bool := false
  diodeBad : List Nat := []
  /-- Thermal cap of each bay, and of the slice-layers of each cellar node (R480). -/
  thermalCap : SMap Nat := []
  layerCap : SMap Nat := []
  /-- Temperatures to which the oscillator, the voltage references and the converter reference are trimmed (R481). -/
  trims : List Rat := []
  /-- A trigger found at the last solve: cause, node, diode, temperature. -/
  trig : Option (Nat × Nat × Nat × Int) := none
  deriving DecidableEq, Repr, Inhabited

/-- Chapters 11 and 17: errors, scrub, debug. -/
structure DbgSt where
  /-- The ERR queue, oldest first: 32-byte records. -/
  errq : List (BitVec 256) := []
  errSeq : BitVec 16 := 0
  /-- Scrub in progress: target, next unit, end. -/
  scrub : Option (Nat × Nat × Nat) := none
  /-- A D3 request waits for the erasures. -/
  d3Wait : Bool := false
  halted : List Nat := []
  /-- Scope of the freeze in force, from its acceptance until its thaw has completed (R499, R503). -/
  frozen : Nat := 0
  /-- Scopes of the standing register and FREEZE_N requests. -/
  regFreeze : Nat := 0
  pinFreeze : Nat := 0
  driving : Bool := false
  /-- The entry has not completed; the thaw has begun. -/
  entering : Bool := false
  thawing : Bool := false
  /-- Scopes of held requests by register and by pin. -/
  heldReg : Nat := 0
  heldPin : Nat := 0
  /-- Requests kept during a core freeze and applied at thaw (R501). -/
  keptInv : List Instr := []
  /-- Trace: slices of the ring, buffered records, frames by frame key. -/
  trSlices : List Nat := []
  trBuf : List (BitVec 256) := []
  trace : SMap Line := []
  deriving DecidableEq, Repr, Inhabited

/-- The state of the stack. `regs` is the register store; `fns` the configuration space of the functions; `pending` the
commands that wait, first in first out; `out` what the block has sent; `free` the model's own counter of free values. -/
structure State where
  regs : SMap Word := []
  fns : SMap FnCfg := []
  pci : PciSt := {}
  sec : SecSt := {}
  bup : BupSt := {}
  cmp : CmpSt := {}
  xlt : XltSt := {}
  cel : CelSt := {}
  hbm : HbmSt := {}
  plc : PlcSt := {}
  ral : RalSt := {}
  pwr : PwrSt := {}
  dbg : DbgSt := {}
  out : List Out := []
  free : Nat := 0
  pending : List Instr := []
  deriving DecidableEq, Repr, Inhabited

/-- Reasons to stop with a fault. No meaning of this model stops with one: every event of the table has an effect. -/
inductive Fault where
  /-- Never raised: the spec describes an effect for every row of the table. Safe. -/
  | none
  deriving DecidableEq, Repr

/-- Reasons to refuse a command. -/
inductive Refusal where
  /-- Raised by the dispatcher for a row that has no meaning yet. Safe: nothing is claimed of it. -/
  | notModelled (mnemonic : String)
  deriving DecidableEq, Repr

/-- The stack before power is applied: PWRGOOD is deasserted, every register at its reset value, storage listing
nothing, nothing pending. -/
def State.reset : State := {}

end Sys2Proof.Machine
end

