-- ==== Sys2Proof/Machine/Regs.lean ====
section
/-! DEFINITION. The register window: address, fields, access codes and reset values of every register, from the
register tables of the chapters (R16 to R19, R355). `r<Name>` is the BAR0 byte offset of a register, `f<Name><Field>`
the bits of a field, and `regRows` the table that register accesses follow. -/

namespace Sys2Proof.Machine

open Sys2Proof

/-- The bits of a field: lowest bit and width. -/
structure Fld where
  lo : Nat
  w : Nat
  deriving DecidableEq, Repr

/-- Access codes (R19). -/
inductive Access where
  | ro | rw | wo | w1c | w1s | rc | rl
  deriving DecidableEq, Repr

/-- Which functions reach a register (R353 and the registers rule of each chapter). -/
inductive Reach where
  /-- The owner port's physical function only. -/
  | owner
  /-- Also a function mapped to the partition that holds the bay (R553, R179). -/
  | bay
  /-- Also a function mapped to partition m div 64 (R155, R294). -/
  | context
  /-- Also a function mapped to the partition of the index (R221, R269, R294, R445). -/
  | part
  /-- Also a function mapped to any partition; the operation judges the partition (R151). -/
  | mapped
  /-- Every function (R367). -/
  | all
  /-- As R514. -/
  | bup
  deriving DecidableEq, Repr

/-- A field of a register. -/
structure FieldRow where
  f : Fld
  acc : Access
  reset : Nat
  deriving DecidableEq, Repr

/-- A register of the window: its first instance, two strides and counts, its width and its fields. -/
structure RegRow where
  base : Nat
  stride : Nat
  count : Nat
  stride2 : Nat
  count2 : Nat
  width : Nat
  reach : Reach
  /-- Bit of the interrupt enable, if any (R345). -/
  ie : Option Nat
  /-- The status bits that the enable covers. -/
  covered : Nat
  /-- Bit of the overlap field, if any (R20). -/
  overlap : Option Nat
  fields : List FieldRow
  deriving DecidableEq, Repr

def fPlcDistCtrlFetch : Fld := ⟨0, 1⟩
def fPlcDistCtrlBusy : Fld := ⟨1, 1⟩
def fPlcDistCtrlDone : Fld := ⟨2, 1⟩
def fPlcDistCtrlStale : Fld := ⟨3, 1⟩
def fPlcDistCtrlError : Fld := ⟨4, 1⟩
def fPlcDistCtrlErrCause : Fld := ⟨5, 2⟩
def fPlcDistCtrlChange : Fld := ⟨8, 1⟩
def fPlcDistCtrlChangeIe : Fld := ⟨9, 1⟩
def fPlcDistCtrlOverlap : Fld := ⟨16, 1⟩
def fPlcDistAddrAddr : Fld := ⟨6, 58⟩
def fPlcDistGenGen : Fld := ⟨0, 32⟩
def fPlcHealthWord : Fld := ⟨0, 64⟩
def fCmpBayHealthWord : Fld := ⟨0, 64⟩
def fCmpBayRoleRole : Fld := ⟨0, 48⟩
def fCmpBayCellsState : Fld := ⟨0, 48⟩
def fCmpBayCellsValid : Fld := ⟨48, 1⟩
def fCmpBayRowsSkipSite (k : Nat) : Fld := ⟨8 * k + 0, 5⟩
def fCmpBayRowsRemoved (k : Nat) : Fld := ⟨8 * k + 5, 1⟩
def fCmpBayEventCellRetired : Fld := ⟨0, 1⟩
def fCmpBayEventPortHalf : Fld := ⟨1, 1⟩
def fCmpBayEventBayDisabled : Fld := ⟨2, 1⟩
def fCmpBayEventDutyCapped : Fld := ⟨3, 1⟩
def fCmpBayEventEventIe : Fld := ⟨8, 1⟩
def fCmpBayEventOverlap : Fld := ⟨16, 1⟩
def fCmpBayRetireCell : Fld := ⟨0, 5⟩
def fCmpBayRetireGo : Fld := ⟨8, 1⟩
def fCmpBayRetireBusy : Fld := ⟨9, 1⟩
def fCmpBayRetireResult : Fld := ⟨10, 3⟩
def fCmpBayDutyDuty : Fld := ⟨0, 11⟩
def fCmpBayDutyTileCap : Fld := ⟨16, 11⟩
def fCmpBayArithNanMade : Fld := ⟨0, 1⟩
def fCmpBayArithFp8Sat : Fld := ⟨1, 1⟩
def fCmpBayArithInfMade : Fld := ⟨2, 1⟩
def fCmpBayArithIntSat : Fld := ⟨3, 1⟩
def fCmpBayArithNanToInt : Fld := ⟨4, 1⟩
def fCmpBayArithArithIe : Fld := ⟨8, 1⟩
def fCmpBayArithOverlap : Fld := ⟨16, 1⟩
def fCmpCtxCtrlPartition : Fld := ⟨0, 4⟩
def fCmpCtxCtrlContext : Fld := ⟨4, 6⟩
def fCmpCtxCtrlOp : Fld := ⟨10, 2⟩
def fCmpCtxCtrlGo : Fld := ⟨12, 1⟩
def fCmpCtxCtrlBusy : Fld := ⟨13, 1⟩
def fCmpCtxCtrlResult : Fld := ⟨14, 3⟩
def fCmpCtxCtrlState : Fld := ⟨17, 2⟩
def fCmpCtxSaveAddr : Fld := ⟨6, 37⟩
def fCmpTaskDbDesc : Fld := ⟨6, 58⟩
def fCmpTaskStatPending : Fld := ⟨0, 7⟩
def fCmpTaskStatOverflow : Fld := ⟨8, 1⟩
def fCmpTaskStatRefused : Fld := ⟨9, 1⟩
def fCmpTaskStatRefuseCode : Fld := ⟨10, 3⟩
def fCmpTaskStatOverlap : Fld := ⟨16, 1⟩
def fCmpTaskStatAccepted : Fld := ⟨32, 16⟩
def fCmpOpqStatDepth : Fld := ⟨0, 7⟩
def fCmpOpqStatRefused : Fld := ⟨8, 1⟩
def fCmpOpqStatErrored : Fld := ⟨9, 1⟩
def fCmpOpqStatStatIe : Fld := ⟨10, 1⟩
def fCmpOpqStatOverlap : Fld := ⟨16, 1⟩
def fCmpOpqStatRefuseCode : Fld := ⟨24, 4⟩
def fCmpOpqStatLastStatus : Fld := ⟨32, 3⟩
def fCmpOpqStatAccepted : Fld := ⟨40, 16⟩
def fCmpOpqFidFaultId : Fld := ⟨0, 64⟩
def fCmpOpqFvaVa : Fld := ⟨0, 64⟩
def fCelSliceStatState : Fld := ⟨0, 2⟩
def fCelSliceStatSubst : Fld := ⟨8, 8⟩
def fCelSliceStatPinned : Fld := ⟨16, 20⟩
def fCelSliceStatMrBusy : Fld := ⟨36, 7⟩
def fCelSliceStatFillBusy : Fld := ⟨43, 7⟩
def fCelSliceStatWaitBusy : Fld := ⟨50, 8⟩
def fCelEventPinDeny : Fld := ⟨0, 1⟩
def fCelEventThrash : Fld := ⟨1, 1⟩
def fCelEventStrictDead : Fld := ⟨2, 1⟩
def fCelEventDrainStart : Fld := ⟨3, 1⟩
def fCelEventDrainDone : Fld := ⟨4, 1⟩
def fCelEventEventIe : Fld := ⟨8, 1⟩
def fCelEventOverlap : Fld := ⟨16, 1⟩
def fCelPinCtrlThrashThresh : Fld := ⟨0, 16⟩
def fCelPinCtrlThrashAll : Fld := ⟨16, 1⟩
def fCelThrashSet : Fld := ⟨0, 15⟩
def fCelThrashPartition : Fld := ⟨16, 4⟩
def fCelPinDenyCount : Fld := ⟨0, 32⟩
def fCelDeadReadCount : Fld := ⟨0, 64⟩
def fCelRangeCtrlOp : Fld := ⟨0, 3⟩
def fCelRangeCtrlGo : Fld := ⟨3, 1⟩
def fCelRangeCtrlBusy : Fld := ⟨4, 1⟩
def fCelRangeCtrlResult : Fld := ⟨5, 3⟩
def fCelRangeBaseBase : Fld := ⟨7, 31⟩
def fCelRangeLenLen : Fld := ⟨7, 32⟩
def fHbmStkStatTrain : Fld := ⟨0, 2⟩
def fHbmStkStatTemp : Fld := ⟨8, 8⟩
def fHbmStkStatRefreshStep : Fld := ⟨16, 2⟩
def fHbmStkStatHot : Fld := ⟨18, 1⟩
def fHbmStkStatChanOut : Fld := ⟨24, 6⟩
def fHbmStkEventStepUp : Fld := ⟨0, 1⟩
def fHbmStkEventHot : Fld := ⟨1, 1⟩
def fHbmStkEventRecalFail : Fld := ⟨2, 1⟩
def fHbmStkEventChFailed : Fld := ⟨3, 1⟩
def fHbmStkEventEventIe : Fld := ⟨8, 1⟩
def fHbmStkEventOverlap : Fld := ⟨16, 1⟩
def fHbmChStatState : Fld := ⟨0, 2⟩
def fHbmChStatCause : Fld := ⟨8, 3⟩
def fHbmChCntCe : Fld := ⟨0, 32⟩
def fHbmChCntUe : Fld := ⟨32, 16⟩
def fHbmChCntRetry : Fld := ⟨48, 8⟩
def fHbmChCntLost : Fld := ⟨56, 8⟩
def fHbmChUeBlock : Fld := ⟨8, 30⟩
def fHbmRegRate : Fld := ⟨0, 11⟩
def fHbmRegDepth : Fld := ⟨16, 12⟩
def fHbmRegHard : Fld := ⟨28, 1⟩
def fHbmRegCtrlApply : Fld := ⟨0, 1⟩
def fHbmRegCtrlResult : Fld := ⟨1, 2⟩
def fHbmCapBackedTop : Fld := ⟨0, 40⟩
def fHbmCapChanOut : Fld := ⟨40, 8⟩
def fHbmCapChanFailed : Fld := ⟨48, 8⟩
def fPlcQryCtrlGo : Fld := ⟨0, 1⟩
def fPlcQryCtrlBusy : Fld := ⟨1, 1⟩
def fPlcQryCtrlValid : Fld := ⟨2, 1⟩
def fPlcQryCtrlRegion : Fld := ⟨16, 22⟩
def fPlcQryResHeat : Fld := ⟨0, 16⟩
def fPlcQryResTracked : Fld := ⟨16, 1⟩
def fPlcQryResRacked : Fld := ⟨17, 1⟩
def fPlcQryResTier : Fld := ⟨18, 2⟩
def fPlcQryResReadMostly : Fld := ⟨20, 1⟩
def fPlcQryResSharers : Fld := ⟨24, 16⟩
def fPlcRackCfgRackIn : Fld := ⟨0, 16⟩
def fPlcRackCfgRackOut : Fld := ⟨16, 16⟩
def fPlcRackCfgRackCap : Fld := ⟨32, 16⟩
def fPlcRackCfgRackRate : Fld := ⟨48, 8⟩
def fPlcRackCfgDecay : Fld := ⟨56, 3⟩
def fPlcWorkCfgLambda : Fld := ⟨0, 8⟩
def fPlcWorkCfgReplEn : Fld := ⟨8, 1⟩
def fPlcWorkCfgPoolBad : Fld := ⟨9, 1⟩
def fPlcWorkCfgReplIn : Fld := ⟨16, 16⟩
def fPlcWorkCfgPoolRegions : Fld := ⟨32, 13⟩
def fPlcPoolBaseBase : Fld := ⟨16, 22⟩
def fPlcCntRacked : Fld := ⟨0, 16⟩
def fPlcCntReplicas : Fld := ⟨16, 16⟩
def fPlcCntRackSkip : Fld := ⟨32, 16⟩
def fPlcCntReplInval : Fld := ⟨48, 16⟩
def fPlcBayLoadQKib : Fld := ⟨0, 24⟩
def fPlcBayLoadPieces : Fld := ⟨24, 8⟩
def fXltStatPrOut : Fld := ⟨0, 11⟩
def fXltStatWaiters : Fld := ⟨16, 15⟩
def fXltStatSeq : Fld := ⟨32, 32⟩
def fXltCfgPriTimeout : Fld := ⟨0, 16⟩
def fXltCtxBindPasid : Fld := ⟨0, 20⟩
def fXltCtxBindValid : Fld := ⟨20, 1⟩
def fXltCtxBindPriv : Fld := ⟨21, 1⟩
def fXltCtxBindPort : Fld := ⟨22, 1⟩
def fXltCtxBindFunction : Fld := ⟨23, 5⟩
def fXltCtxBindBindState : Fld := ⟨28, 2⟩
def fXltCmdDbDesc : Fld := ⟨6, 58⟩
def fXltCmdStatPending : Fld := ⟨0, 5⟩
def fXltCmdStatRefused : Fld := ⟨8, 1⟩
def fXltCmdStatErrored : Fld := ⟨9, 1⟩
def fXltCmdStatSkipped : Fld := ⟨10, 1⟩
def fXltCmdStatCmdIe : Fld := ⟨11, 1⟩
def fXltCmdStatRefuseCode : Fld := ⟨12, 3⟩
def fXltCmdStatOverlap : Fld := ⟨16, 1⟩
def fXltCmdStatAccepted : Fld := ⟨32, 16⟩
def fXltFlogBaseSize : Fld := ⟨0, 4⟩
def fXltFlogBaseEnable : Fld := ⟨4, 1⟩
def fXltFlogBaseAddr : Fld := ⟨12, 52⟩
def fXltFlogPtrHead : Fld := ⟨0, 16⟩
def fXltFlogPtrTail : Fld := ⟨16, 16⟩
def fXltFlogPtrNew : Fld := ⟨32, 1⟩
def fXltFlogPtrOverflow : Fld := ⟨33, 1⟩
def fXltFlogPtrLogIe : Fld := ⟨34, 1⟩
def fXltFlogPtrDropped : Fld := ⟨40, 8⟩
def fXltFlogPtrOverlap : Fld := ⟨48, 1⟩
def fBldSrcAddr : Fld := ⟨4, 60⟩
def fBldLenLen : Fld := ⟨0, 25⟩
def fBldCtrlStage : Fld := ⟨0, 1⟩
def fBldCtrlBusy : Fld := ⟨1, 1⟩
def fBldCtrlResult : Fld := ⟨2, 3⟩
def fBldCtrlStaged : Fld := ⟨5, 1⟩
def fBldCtrlLoaded : Fld := ⟨6, 1⟩
def fBldCtrlDone : Fld := ⟨8, 1⟩
def fBldCtrlError : Fld := ⟨9, 1⟩
def fBldCtrlBldIe : Fld := ⟨10, 1⟩
def fBldCtrlOverlap : Fld := ⟨16, 1⟩
def fBldErrCode : Fld := ⟨0, 8⟩
def fBldErrSection : Fld := ⟨8, 8⟩
def fBldErrOffset : Fld := ⟨16, 24⟩
def fBldErrRecord : Fld := ⟨40, 16⟩
def fBldErrStage : Fld := ⟨56, 1⟩
def fBldBuildBuildId : Fld := ⟨0, 64⟩
def fBldKeydigDig : Fld := ⟨0, 64⟩
def fErrStatPending : Fld := ⟨0, 7⟩
def fErrStatNew : Fld := ⟨8, 1⟩
def fErrStatOverflow : Fld := ⟨9, 1⟩
def fErrStatRecIe : Fld := ⟨10, 1⟩
def fErrStatOverlap : Fld := ⟨16, 1⟩
def fErrStatDropped : Fld := ⟨24, 8⟩
def fErrRecBytes : Fld := ⟨0, 64⟩
def fErrPopPop : Fld := ⟨0, 1⟩
def fErrSeqNext : Fld := ⟨0, 16⟩
def fErrCeCount : Fld := ⟨0, 32⟩
def fErrSyndSynd : Fld := ⟨0, 48⟩
def fErrSyndSeq : Fld := ⟨48, 16⟩
def fErrScrubCtrlTarget : Fld := ⟨0, 2⟩
def fErrScrubCtrlGo : Fld := ⟨2, 1⟩
def fErrScrubCtrlBusy : Fld := ⟨3, 1⟩
def fErrScrubCtrlResult : Fld := ⟨4, 3⟩
def fErrScrubCtrlUnit : Fld := ⟨8, 8⟩
def fErrScrubBaseBase : Fld := ⟨8, 30⟩
def fErrScrubLenLen : Fld := ⟨8, 31⟩
def fErrScrubResFixed : Fld := ⟨0, 32⟩
def fErrScrubResBad : Fld := ⟨32, 16⟩
def fPciOwnerOwner : Fld := ⟨0, 1⟩
def fPciOwnerElected : Fld := ⟨1, 1⟩
def fPciOwnerThisPort : Fld := ⟨2, 1⟩
def fPciEventLinkDownN : Fld := ⟨0, 2⟩
def fPciEventIdeInsecureN : Fld := ⟨2, 2⟩
def fPciEventFlr : Fld := ⟨4, 1⟩
def fPciEventEventIe : Fld := ⟨8, 1⟩
def fPciEventOverlap : Fld := ⟨16, 1⟩
def fPciLinkSpeed : Fld := ⟨0, 3⟩
def fPciLinkWidth : Fld := ⟨3, 4⟩
def fPciLinkFlit : Fld := ⟨7, 1⟩
def fPciLinkL0p : Fld := ⟨8, 1⟩
def fPciLinkIde : Fld := ⟨9, 2⟩
def fPciLinkNumVfs : Fld := ⟨16, 5⟩
def fRalPortStatState : Fld := ⟨0, 4⟩
def fRalPortStatWidth : Fld := ⟨4, 4⟩
def fRalPortStatLanes : Fld := ⟨8, 8⟩
def fRalPortStatEpoch : Fld := ⟨16, 2⟩
def fRalPortStatTxAsleep : Fld := ⟨18, 1⟩
def fRalPortStatRxAsleep : Fld := ⟨19, 1⟩
def fRalPortStatRole : Fld := ⟨20, 2⟩
def fRalPortStatPeerStack : Fld := ⟨24, 4⟩
def fRalPortStatPeerPort : Fld := ⟨28, 3⟩
def fRalPortStatPeerValid : Fld := ⟨31, 1⟩
def fRalPortCtrlRetrain : Fld := ⟨0, 1⟩
def fRalPortCtrlManual : Fld := ⟨1, 1⟩
def fRalPortCtrlProceed : Fld := ⟨2, 1⟩
def fRalPortCtrlLoop : Fld := ⟨3, 2⟩
def fRalPortCtrlLoopGo : Fld := ⟨5, 1⟩
def fRalPortCtrlAllowFar : Fld := ⟨6, 1⟩
def fRalPortCtrlRekey : Fld := ⟨7, 1⟩
def fRalPortCtrlResult : Fld := ⟨8, 3⟩
def fRalPortEventUp : Fld := ⟨0, 1⟩
def fRalPortEventSecure : Fld := ⟨1, 1⟩
def fRalPortEventRecover : Fld := ⟨2, 1⟩
def fRalPortEventFailed : Fld := ⟨3, 1⟩
def fRalPortEventLaneLost : Fld := ⟨4, 1⟩
def fRalPortEventKeyFail : Fld := ⟨5, 1⟩
def fRalPortEventTagFail : Fld := ⟨6, 1⟩
def fRalPortEventEventIe : Fld := ⟨8, 1⟩
def fRalPortEventOverlap : Fld := ⟨16, 1⟩
def fRalPortCntFecCorr : Fld := ⟨0, 32⟩
def fRalPortCntReplays : Fld := ⟨32, 16⟩
def fRalPortCntTagFails : Fld := ⟨48, 8⟩
def fRalPortCntRecovers : Fld := ⟨56, 8⟩
def fRalPortCfgIdle : Fld := ⟨0, 12⟩
def fRalPeerDigDig : Fld := ⟨0, 64⟩
def fRalLaneSlip : Fld := ⟨0, 1⟩
def fRalLaneLock : Fld := ⟨1, 1⟩
def fRalLaneState : Fld := ⟨2, 2⟩
def fRalLaneErrors : Fld := ⟨8, 24⟩
def fRalEnumGo : Fld := ⟨0, 1⟩
def fRalEnumAdopt : Fld := ⟨1, 1⟩
def fRalEnumBusy : Fld := ⟨2, 1⟩
def fRalEnumResult : Fld := ⟨3, 3⟩
def fRalEnumHead : Fld := ⟨6, 1⟩
def fRalEnumClosed : Fld := ⟨7, 1⟩
def fRalEnumStackId : Fld := ⟨8, 4⟩
def fRalEnumCount : Fld := ⟨12, 5⟩
def fRalEnumHasId : Fld := ⟨17, 1⟩
def fRalEnumAdoptId : Fld := ⟨24, 4⟩
def fRalEnumAdoptCount : Fld := ⟨28, 5⟩
def fRalEstateTrellis : Fld := ⟨0, 10⟩
def fRalEstateSet : Fld := ⟨10, 1⟩
def fRalTrellisHealthWord : Fld := ⟨0, 64⟩
def fRalTbarMembers : Fld := ⟨0, 16⟩
def fRalTbarEstate : Fld := ⟨16, 1⟩
def fRalTbarMaster : Fld := ⟨17, 1⟩
def fRalTbarMasterTrellis : Fld := ⟨18, 10⟩
def fRalTbarEstateCount : Fld := ⟨28, 11⟩
def fSecStatIdReady : Fld := ⟨0, 1⟩
def fSecStatRngFail : Fld := ⟨1, 1⟩
def fSecStatSealed : Fld := ⟨16, 16⟩
def fSecPartState : Fld := ⟨0, 3⟩
def fSecPartSealable : Fld := ⟨3, 1⟩
def fSecPartWriteGen : Fld := ⟨4, 2⟩
def fSecPartOldGen : Fld := ⟨6, 2⟩
def fSecPartDecant : Fld := ⟨8, 1⟩
def fSecPartOldBlocks : Fld := ⟨16, 30⟩
def fSecPartCtrlOp : Fld := ⟨0, 2⟩
def fSecPartCtrlGo : Fld := ⟨2, 1⟩
def fSecPartCtrlBusy : Fld := ⟨3, 1⟩
def fSecPartCtrlResult : Fld := ⟨4, 3⟩
def fSecPartEventSealed : Fld := ⟨0, 1⟩
def fSecPartEventErased : Fld := ⟨1, 1⟩
def fSecPartEventDecantDone : Fld := ⟨2, 1⟩
def fSecPartEventMacFail : Fld := ⟨3, 1⟩
def fSecPartEventEventIe : Fld := ⟨8, 1⟩
def fSecPartEventOverlap : Fld := ⟨16, 1⟩
def fSecImpSrcAddr : Fld := ⟨4, 60⟩
def fSecImpDstDst : Fld := ⟨16, 22⟩
def fSecImpLenLen : Fld := ⟨16, 22⟩
def fSecImpCtrlGo : Fld := ⟨0, 1⟩
def fSecImpCtrlBusy : Fld := ⟨1, 1⟩
def fSecImpCtrlResult : Fld := ⟨2, 3⟩
def fSecImpCtrlChunks : Fld := ⟨8, 24⟩
def fPwrStateCtrlTarget : Fld := ⟨0, 3⟩
def fPwrStateCtrlGo : Fld := ⟨3, 1⟩
def fPwrStateCtrlBusy : Fld := ⟨4, 1⟩
def fPwrStateCtrlResult : Fld := ⟨5, 3⟩
def fPwrStateCtrlState : Fld := ⟨8, 2⟩
def fPwrStateCtrlTransit : Fld := ⟨10, 1⟩
def fPwrBlockContexts : Fld := ⟨0, 1⟩
def fPwrBlockQueues : Fld := ⟨1, 1⟩
def fPwrBlockWaits : Fld := ⟨2, 1⟩
def fPwrBlockTbar : Fld := ⟨3, 1⟩
def fPwrBlockOps : Fld := ⟨4, 1⟩
def fPwrBlockPinned : Fld := ⟨5, 1⟩
def fPwrEventStateDone : Fld := ⟨0, 1⟩
def fPwrEventRefused : Fld := ⟨1, 1⟩
def fPwrEventLimitHit : Fld := ⟨2, 1⟩
def fPwrEventFloorHit : Fld := ⟨3, 1⟩
def fPwrEventEventIe : Fld := ⟨8, 1⟩
def fPwrEventOverlap : Fld := ⟨16, 1⟩
def fPwrLimitLimit : Fld := ⟨0, 12⟩
def fPwrLimitGain : Fld := ⟨16, 4⟩
def fPwrLimitVariantLimit : Fld := ⟨20, 12⟩
def fPwrSlewCfgLimit : Fld := ⟨0, 10⟩
def fPwrIdleCfgClkIdle : Fld := ⟨0, 16⟩
def fPwrIdleCfgPwrIdle : Fld := ⟨16, 16⟩
def fPwrWakeStatQueued : Fld := ⟨0, 8⟩
def fPwrWakeStatMaxWait : Fld := ⟨8, 16⟩
def fPwrWakeStatAdmitted : Fld := ⟨32, 32⟩
def fPwrDutyPcap : Fld := ⟨0, 11⟩
def fPwrTelValue : Fld := ⟨0, 32⟩
def fPwrTileCurrent : Fld := ⟨0, 16⟩
def fPwrTileOpen : Fld := ⟨16, 5⟩
def fThmStatHottest : Fld := ⟨0, 16⟩
def fThmStatNode : Fld := ⟨16, 9⟩
def fThmStatSensorsOnly : Fld := ⟨25, 1⟩
def fThmStatThrottling : Fld := ⟨26, 1⟩
def fThmStatHbmMax : Fld := ⟨32, 16⟩
def fThmCfgGain : Fld := ⟨0, 8⟩
def fThmCfgDivThresh : Fld := ⟨8, 8⟩
def fThmCfgSink : Fld := ⟨16, 16⟩
def fThmLimitLimit : Fld := ⟨0, 16⟩
def fThmLimitTrip : Fld := ⟨16, 16⟩
def fThmEventThrottle : Fld := ⟨0, 1⟩
def fThmEventDivergence : Fld := ⟨1, 1⟩
def fThmEventDiodeFail : Fld := ⟨2, 1⟩
def fThmEventModelFail : Fld := ⟨3, 1⟩
def fThmEventEventIe : Fld := ⟨8, 1⟩
def fThmEventOverlap : Fld := ⟨16, 1⟩
def fThmTripCause : Fld := ⟨0, 2⟩
def fThmTripNode : Fld := ⟨2, 9⟩
def fThmTripDiode : Fld := ⟨11, 7⟩
def fThmTripTemp : Fld := ⟨18, 16⟩
def fThmTripTrips : Fld := ⟨34, 8⟩
def fThmNodeEstimate : Fld := ⟨0, 16⟩
def fThmNodeGoverning : Fld := ⟨16, 16⟩
def fThmNodeNcap : Fld := ⟨32, 11⟩
def fThmDiodeReading : Fld := ⟨0, 16⟩
def fThmDiodeFailed : Fld := ⟨16, 1⟩
def fDbgLevelTarget : Fld := ⟨0, 2⟩
def fDbgLevelGo : Fld := ⟨2, 1⟩
def fDbgLevelBusy : Fld := ⟨3, 1⟩
def fDbgLevelResult : Fld := ⟨4, 3⟩
def fDbgLevelLevel : Fld := ⟨8, 2⟩
def fDbgLevelD3Entered : Fld := ⟨10, 1⟩
def fDbgLevelBrkEn : Fld := ⟨11, 1⟩
def fDbgLevelBrkFreeze : Fld := ⟨12, 1⟩
def fDbgFreezeScope : Fld := ⟨0, 2⟩
def fDbgFreezeReq : Fld := ⟨2, 1⟩
def fDbgFreezeThaw : Fld := ⟨3, 1⟩
def fDbgFreezeDrive : Fld := ⟨4, 1⟩
def fDbgFreezePinScope : Fld := ⟨5, 2⟩
def fDbgFreezeState : Fld := ⟨7, 2⟩
def fDbgFreezePending : Fld := ⟨9, 1⟩
def fDbgFreezeResult : Fld := ⟨10, 3⟩
def fDbgFreezeSeq : Fld := ⟨16, 16⟩
def fDbgEventFrozen : Fld := ⟨0, 1⟩
def fDbgEventThawed : Fld := ⟨1, 1⟩
def fDbgEventBrk : Fld := ⟨2, 1⟩
def fDbgEventTraceFull : Fld := ⟨3, 1⟩
def fDbgEventTraceOff : Fld := ⟨4, 1⟩
def fDbgEventPinIgnored : Fld := ⟨5, 1⟩
def fDbgEventEventIe : Fld := ⟨8, 1⟩
def fDbgEventOverlap : Fld := ⟨16, 1⟩
def fDbgBrkBay : Fld := ⟨0, 5⟩
def fDbgBrkCell : Fld := ⟨5, 5⟩
def fDbgBrkPipeline : Fld := ⟨10, 4⟩
def fDbgBrkThread : Fld := ⟨14, 3⟩
def fDbgBrkPartition : Fld := ⟨17, 4⟩
def fDbgBrkContext : Fld := ⟨21, 6⟩
def fDbgBrkHalted : Fld := ⟨32, 17⟩
def fDbgBrkResume : Fld := ⟨56, 1⟩
def fDbgBrkPcPc : Fld := ⟨0, 64⟩
def fDbgTraceCfgWays : Fld := ⟨0, 16⟩
def fDbgTraceCfgEn : Fld := ⟨16, 1⟩
def fDbgTraceCfgStop : Fld := ⟨17, 1⟩
def fDbgTraceCfgEvents : Fld := ⟨32, 16⟩
def fDbgTraceCfgPart : Fld := ⟨48, 4⟩
def fDbgTraceCfgPartEn : Fld := ⟨52, 1⟩
def fDbgTraceStatNext : Fld := ⟨0, 40⟩
def fDbgTraceStatWrapped : Fld := ⟨40, 1⟩
def fDbgTraceStatFull : Fld := ⟨41, 1⟩
def fDbgTraceStatResult : Fld := ⟨42, 3⟩
def fDbgTraceStatSlices : Fld := ⟨48, 8⟩
def fDbgTraceStatDropped : Fld := ⟨56, 8⟩
def fDbgTraceMarkValue : Fld := ⟨0, 32⟩
def fDbgCntEvent : Fld := ⟨0, 4⟩
def fDbgCntBay : Fld := ⟨8, 5⟩
def fDbgCntBayAll : Fld := ⟨13, 1⟩
def fDbgCntPartition : Fld := ⟨14, 4⟩
def fDbgCntPartEn : Fld := ⟨18, 1⟩
def fDbgCntCount : Fld := ⟨24, 40⟩
def fDbgRoAddr : Fld := ⟨0, 34⟩
def fDbgRoGo : Fld := ⟨40, 1⟩
def fDbgRoBusy : Fld := ⟨41, 1⟩
def fDbgRoStatus : Fld := ⟨42, 3⟩
def fDbgRoPartition : Fld := ⟨48, 4⟩
def fDbgRoSpace : Fld := ⟨60, 4⟩
def fDbgRoDataBytes : Fld := ⟨0, 64⟩
def fBupStepStep : Fld := ⟨0, 4⟩
def fBupStepQuick : Fld := ⟨4, 1⟩
def fBupStepGo : Fld := ⟨5, 1⟩
def fBupStepBusy : Fld := ⟨6, 1⟩
def fBupStepResult : Fld := ⟨7, 3⟩
def fBupDoneDone : Fld := ⟨1, 10⟩
def fBupDoneQuick5 : Fld := ⟨11, 1⟩
def fBupDoneQuick6 : Fld := ⟨12, 1⟩
def fBupEventStepDone : Fld := ⟨0, 1⟩
def fBupEventStepError : Fld := ⟨1, 1⟩
def fBupEventNewdefect : Fld := ⟨2, 1⟩
def fBupEventTestFail : Fld := ⟨3, 1⟩
def fBupEventCresetDone : Fld := ⟨4, 1⟩
def fBupEventEventIe : Fld := ⟨8, 1⟩
def fBupEventOverlap : Fld := ⟨16, 1⟩
def fBupGradeVariant : Fld := ⟨0, 2⟩
def fBupGradeDegraded : Fld := ⟨2, 1⟩
def fBupGradeValid : Fld := ⟨3, 1⟩
def fBupGradeCells : Fld := ⟨4, 10⟩
def fBupGradeSlices : Fld := ⟨14, 8⟩
def fBupGradeChannels : Fld := ⟨22, 8⟩
def fBupGradeBays : Fld := ⟨30, 6⟩
def fBupNdCtrlCount : Fld := ⟨0, 11⟩
def fBupNdCtrlOverflow : Fld := ⟨11, 1⟩
def fBupNdCtrlIndex : Fld := ⟨16, 10⟩
def fBupNdDataEntry : Fld := ⟨0, 64⟩
def fBupCresetGo : Fld := ⟨0, 1⟩
def fBupCresetBusy : Fld := ⟨1, 1⟩
def fBupCresetResult : Fld := ⟨2, 2⟩
def fBupCresetPending : Fld := ⟨4, 1⟩
def fBupCresetHolding : Fld := ⟨5, 1⟩
def fBupTestStatKind : Fld := ⟨0, 2⟩
def fBupTestStatRunning : Fld := ⟨2, 1⟩
def fBupTestStatUnit : Fld := ⟨8, 24⟩
def fBupTestStatTested : Fld := ⟨32, 16⟩
def fBupTestStatFailed : Fld := ⟨48, 8⟩
def fBupTestStatSkipped : Fld := ⟨56, 8⟩
def fBupStatusOutcome : Fld := ⟨0, 4⟩
def fBupStatusCause : Fld := ⟨4, 4⟩
def fBupStatusCount : Fld := ⟨8, 12⟩

/-- PLC_DIST_CTRL (01_stack_and_levels). -/
def rPlcDistCtrl : Nat := 0x500100
/-- PLC_DIST_ADDR (01_stack_and_levels). -/
def rPlcDistAddr : Nat := 0x500108
/-- PLC_DIST_GEN (01_stack_and_levels). -/
def rPlcDistGen : Nat := 0x500110
/-- PLC_HEALTH (01_stack_and_levels). -/
def rPlcHealth : Nat := 0x500118
/-- CMP_BAY_HEALTH_n (02_cells). -/
def rCmpBayHealth (n : Nat) : Nat := 0x1000000 + 0x40000 * n
/-- CMP_BAY_ROLE_n (02_cells). -/
def rCmpBayRole (n : Nat) : Nat := 0x1000008 + 0x40000 * n
/-- CMP_BAY_CELLS_n (02_cells). -/
def rCmpBayCells (n : Nat) : Nat := 0x1000010 + 0x40000 * n
/-- CMP_BAY_ROWS_n (02_cells). -/
def rCmpBayRows (n : Nat) : Nat := 0x1000018 + 0x40000 * n
/-- CMP_BAY_EVENT_n (02_cells). -/
def rCmpBayEvent (n : Nat) : Nat := 0x1000020 + 0x40000 * n
/-- CMP_BAY_RETIRE_n (02_cells). -/
def rCmpBayRetire (n : Nat) : Nat := 0x1000028 + 0x40000 * n
/-- CMP_BAY_DUTY_n (02_cells). -/
def rCmpBayDuty (n : Nat) : Nat := 0x1000030 + 0x40000 * n
/-- CMP_BAY_ARITH_n (03_arithmetic). -/
def rCmpBayArith (n : Nat) : Nat := 0x1000038 + 0x40000 * n
/-- CMP_CTX_CTRL (04_threads). -/
def rCmpCtxCtrl : Nat := 0x1800000
/-- CMP_CTX_SAVE (04_threads). -/
def rCmpCtxSave : Nat := 0x1800008
/-- CMP_TASK_DB (04_threads). -/
def rCmpTaskDb (n : Nat) : Nat := 0x1810000 + 0x8 * n
/-- CMP_TASK_STAT (04_threads). -/
def rCmpTaskStat (n : Nat) : Nat := 0x1812000 + 0x8 * n
/-- CMP_OPQ_STAT_n (05_operators). -/
def rCmpOpqStat (n k : Nat) : Nat := 0x1000040 + 0x40000 * n + 0x8 * k
/-- CMP_OPQ_FID_n (05_operators). -/
def rCmpOpqFid (n k : Nat) : Nat := 0x1000060 + 0x40000 * n + 0x8 * k
/-- CMP_OPQ_FVA_n (05_operators). -/
def rCmpOpqFva (n k : Nat) : Nat := 0x1000080 + 0x40000 * n + 0x8 * k
/-- CEL_SLICE_STAT_n (06_cellar). -/
def rCelSliceStat (n : Nat) : Nat := 0x800000 + 0x2000 * n
/-- CEL_EVENT_n (06_cellar). -/
def rCelEvent (n : Nat) : Nat := 0x800008 + 0x2000 * n
/-- CEL_PIN_CTRL_n (06_cellar). -/
def rCelPinCtrl (n : Nat) : Nat := 0x800010 + 0x2000 * n
/-- CEL_THRASH_n (06_cellar). -/
def rCelThrash (n : Nat) : Nat := 0x800018 + 0x2000 * n
/-- CEL_PIN_DENY_p (06_cellar). -/
def rCelPinDeny (n : Nat) : Nat := 0x980000 + 0x8 * n
/-- CEL_DEAD_READ_p (06_cellar). -/
def rCelDeadRead (n : Nat) : Nat := 0x980080 + 0x8 * n
/-- CEL_RANGE_CTRL_p (06_cellar). -/
def rCelRangeCtrl (n : Nat) : Nat := 0x980100 + 0x20 * n
/-- CEL_RANGE_BASE_p (06_cellar). -/
def rCelRangeBase (n : Nat) : Nat := 0x980108 + 0x20 * n
/-- CEL_RANGE_LEN_p (06_cellar). -/
def rCelRangeLen (n : Nat) : Nat := 0x980110 + 0x20 * n
/-- HBM_STK_STAT_n (07_hbm_tier). -/
def rHbmStkStat (n : Nat) : Nat := 0xC00000 + 0x10000 * n
/-- HBM_STK_EVENT_n (07_hbm_tier). -/
def rHbmStkEvent (n : Nat) : Nat := 0xC00008 + 0x10000 * n
/-- HBM_CH_STAT_n (07_hbm_tier). -/
def rHbmChStat (n : Nat) : Nat := 0xC00100 + 0x10000 * (n / 32) + 0x40 * (n % 32)
/-- HBM_CH_CNT_n (07_hbm_tier). -/
def rHbmChCnt (n : Nat) : Nat := 0xC00108 + 0x10000 * (n / 32) + 0x40 * (n % 32)
/-- HBM_CH_UE_n (07_hbm_tier). -/
def rHbmChUe (n : Nat) : Nat := 0xC00110 + 0x10000 * (n / 32) + 0x40 * (n % 32)
/-- HBM_REG_p (07_hbm_tier). -/
def rHbmReg (n : Nat) : Nat := 0xC80000 + 0x8 * n
/-- HBM_REG_CTRL (07_hbm_tier). -/
def rHbmRegCtrl : Nat := 0xC80080
/-- HBM_CAP (07_hbm_tier). -/
def rHbmCap : Nat := 0xC80088
/-- PLC_QRY_CTRL (08_placement). -/
def rPlcQryCtrl : Nat := 0x500200
/-- PLC_QRY_RES (08_placement). -/
def rPlcQryRes : Nat := 0x500208
/-- PLC_RACK_CFG_p (08_placement). -/
def rPlcRackCfg (n : Nat) : Nat := 0x501000 + 0x20 * n
/-- PLC_WORK_CFG_p (08_placement). -/
def rPlcWorkCfg (n : Nat) : Nat := 0x501008 + 0x20 * n
/-- PLC_POOL_BASE_p (08_placement). -/
def rPlcPoolBase (n : Nat) : Nat := 0x501010 + 0x20 * n
/-- PLC_CNT_p (08_placement). -/
def rPlcCnt (n : Nat) : Nat := 0x501018 + 0x20 * n
/-- PLC_BAY_LOAD_b (08_placement). -/
def rPlcBayLoad (n : Nat) : Nat := 0x502000 + 0x8 * n
/-- XLT_STAT (09_translation). -/
def rXltStat : Nat := 0x600000
/-- XLT_CFG (09_translation). -/
def rXltCfg : Nat := 0x600008
/-- XLT_CTX_BIND_m (09_translation). -/
def rXltCtxBind (n : Nat) : Nat := 0x610000 + 0x8 * n
/-- XLT_CMD_DB_m (09_translation). -/
def rXltCmdDb (n : Nat) : Nat := 0x620000 + 0x8 * n
/-- XLT_CMD_STAT_m (09_translation). -/
def rXltCmdStat (n : Nat) : Nat := 0x622000 + 0x8 * n
/-- XLT_FLOG_BASE_p (09_translation). -/
def rXltFlogBase (n : Nat) : Nat := 0x630000 + 0x20 * n
/-- XLT_FLOG_PTR_p (09_translation). -/
def rXltFlogPtr (n : Nat) : Nat := 0x630008 + 0x20 * n
/-- BLD_SRC (10_blend). -/
def rBldSrc : Nat := 0x2200000
/-- BLD_LEN (10_blend). -/
def rBldLen : Nat := 0x2200008
/-- BLD_CTRL (10_blend). -/
def rBldCtrl : Nat := 0x2200010
/-- BLD_ERR (10_blend). -/
def rBldErr : Nat := 0x2200018
/-- BLD_BUILD (10_blend). -/
def rBldBuild : Nat := 0x2200020
/-- BLD_KEYDIG_k (10_blend). -/
def rBldKeydig (n : Nat) : Nat := 0x2200040 + 0x8 * n
/-- ERR_STAT (11_integrity). -/
def rErrStat : Nat := 0x400000
/-- ERR_REC_k (11_integrity). -/
def rErrRec (n : Nat) : Nat := 0x400008 + 0x8 * n
/-- ERR_POP (11_integrity). -/
def rErrPop : Nat := 0x400028
/-- ERR_SEQ (11_integrity). -/
def rErrSeq : Nat := 0x400030
/-- ERR_CE_k (11_integrity). -/
def rErrCe (n : Nat) : Nat := 0x400100 + 0x8 * n
/-- ERR_SYND (11_integrity). -/
def rErrSynd : Nat := 0x400140
/-- ERR_SCRUB_CTRL (11_integrity). -/
def rErrScrubCtrl : Nat := 0x400200
/-- ERR_SCRUB_BASE (11_integrity). -/
def rErrScrubBase : Nat := 0x400208
/-- ERR_SCRUB_LEN (11_integrity). -/
def rErrScrubLen : Nat := 0x400210
/-- ERR_SCRUB_RES (11_integrity). -/
def rErrScrubRes : Nat := 0x400218
/-- PCI_OWNER (12_host_ports). -/
def rPciOwner : Nat := 0x2100000
/-- PCI_EVENT (12_host_ports). -/
def rPciEvent : Nat := 0x2100010
/-- PCI_LINK_n (12_host_ports). -/
def rPciLink (n : Nat) : Nat := 0x2100100 + 0x8 * n
/-- RAL_PORT_STAT_n (13_raloth_links). -/
def rRalPortStat (n : Nat) : Nat := 0x2000000 + 0x10000 * n
/-- RAL_PORT_CTRL_n (13_raloth_links). -/
def rRalPortCtrl (n : Nat) : Nat := 0x2000008 + 0x10000 * n
/-- RAL_PORT_EVENT_n (13_raloth_links). -/
def rRalPortEvent (n : Nat) : Nat := 0x2000010 + 0x10000 * n
/-- RAL_PORT_CNT_n (13_raloth_links). -/
def rRalPortCnt (n : Nat) : Nat := 0x2000018 + 0x10000 * n
/-- RAL_PORT_CFG_n (13_raloth_links). -/
def rRalPortCfg (n : Nat) : Nat := 0x2000020 + 0x10000 * n
/-- RAL_PEER_DIG_n (13_raloth_links). -/
def rRalPeerDig (n k : Nat) : Nat := 0x2000040 + 0x10000 * n + 0x8 * k
/-- RAL_LANE_n (13_raloth_links). -/
def rRalLane (n k : Nat) : Nat := 0x2000100 + 0x10000 * n + 0x8 * k
/-- RAL_ENUM (13_raloth_links). -/
def rRalEnum : Nat := 0x2080000
/-- RAL_ESTATE (13_raloth_links). -/
def rRalEstate : Nat := 0x2080008
/-- RAL_TRELLIS_HEALTH (13_raloth_links). -/
def rRalTrellisHealth : Nat := 0x2080010
/-- RAL_TBAR_c (13_raloth_links). -/
def rRalTbar (n : Nat) : Nat := 0x2081000 + 0x8 * n
/-- SEC_STAT (14_security). -/
def rSecStat : Nat := 0x200000
/-- SEC_PART_p (14_security). -/
def rSecPart (n : Nat) : Nat := 0x200100 + 0x20 * n
/-- SEC_PART_CTRL_p (14_security). -/
def rSecPartCtrl (n : Nat) : Nat := 0x200108 + 0x20 * n
/-- SEC_PART_EVENT_p (14_security). -/
def rSecPartEvent (n : Nat) : Nat := 0x200110 + 0x20 * n
/-- SEC_IMP_SRC_p (14_security). -/
def rSecImpSrc (n : Nat) : Nat := 0x201000 + 0x40 * n
/-- SEC_IMP_DST_p (14_security). -/
def rSecImpDst (n : Nat) : Nat := 0x201008 + 0x40 * n
/-- SEC_IMP_LEN_p (14_security). -/
def rSecImpLen (n : Nat) : Nat := 0x201010 + 0x40 * n
/-- SEC_IMP_CTRL_p (14_security). -/
def rSecImpCtrl (n : Nat) : Nat := 0x201018 + 0x40 * n
/-- PWR_STATE_CTRL (15_power_clocks). -/
def rPwrStateCtrl : Nat := 0x100000
/-- PWR_BLOCK (15_power_clocks). -/
def rPwrBlock : Nat := 0x100008
/-- PWR_EVENT (15_power_clocks). -/
def rPwrEvent : Nat := 0x100010
/-- PWR_LIMIT (15_power_clocks). -/
def rPwrLimit : Nat := 0x100018
/-- PWR_SLEW_CFG (15_power_clocks). -/
def rPwrSlewCfg : Nat := 0x100020
/-- PWR_IDLE_CFG (15_power_clocks). -/
def rPwrIdleCfg : Nat := 0x100028
/-- PWR_WAKE_STAT (15_power_clocks). -/
def rPwrWakeStat : Nat := 0x100030
/-- PWR_DUTY (15_power_clocks). -/
def rPwrDuty : Nat := 0x100038
/-- PWR_TEL_k (15_power_clocks). -/
def rPwrTel (n : Nat) : Nat := 0x100100 + 0x8 * n
/-- PWR_TILE_n (15_power_clocks). -/
def rPwrTile (n : Nat) : Nat := 0x101000 + 0x4 * n
/-- THM_STAT (16_thermal). -/
def rThmStat : Nat := 0x180000
/-- THM_CFG (16_thermal). -/
def rThmCfg : Nat := 0x180008
/-- THM_LIMIT_L (16_thermal). -/
def rThmLimit (n : Nat) : Nat := 0x180010 + 0x8 * n
/-- THM_EVENT (16_thermal). -/
def rThmEvent : Nat := 0x180040
/-- THM_TRIP (16_thermal). -/
def rThmTrip : Nat := 0x180048
/-- THM_NODE_n (16_thermal). -/
def rThmNode (n : Nat) : Nat := 0x181000 + 0x8 * n
/-- THM_DIODE_m (16_thermal). -/
def rThmDiode (n : Nat) : Nat := 0x183000 + 0x4 * n
/-- DBG_LEVEL (17_debug_freeze). -/
def rDbgLevel : Nat := 0x300000
/-- DBG_FREEZE (17_debug_freeze). -/
def rDbgFreeze : Nat := 0x300008
/-- DBG_EVENT (17_debug_freeze). -/
def rDbgEvent : Nat := 0x300010
/-- DBG_BRK (17_debug_freeze). -/
def rDbgBrk : Nat := 0x300018
/-- DBG_BRK_PC (17_debug_freeze). -/
def rDbgBrkPc : Nat := 0x300020
/-- DBG_TRACE_CFG (17_debug_freeze). -/
def rDbgTraceCfg : Nat := 0x300040
/-- DBG_TRACE_STAT (17_debug_freeze). -/
def rDbgTraceStat : Nat := 0x300048
/-- DBG_TRACE_MARK (17_debug_freeze). -/
def rDbgTraceMark : Nat := 0x300050
/-- DBG_CNT_k (17_debug_freeze). -/
def rDbgCnt (n : Nat) : Nat := 0x300080 + 0x8 * n
/-- DBG_RO (17_debug_freeze). -/
def rDbgRo : Nat := 0x300100
/-- DBG_RO_DATA_k (17_debug_freeze). -/
def rDbgRoData (n : Nat) : Nat := 0x300108 + 0x8 * n
/-- BUP_STEP (18_bringup). -/
def rBupStep : Nat := 0x0
/-- BUP_DONE (18_bringup). -/
def rBupDone : Nat := 0x8
/-- BUP_EVENT (18_bringup). -/
def rBupEvent : Nat := 0x10
/-- BUP_GRADE (18_bringup). -/
def rBupGrade : Nat := 0x18
/-- BUP_ND_CTRL (18_bringup). -/
def rBupNdCtrl : Nat := 0x20
/-- BUP_ND_DATA (18_bringup). -/
def rBupNdData : Nat := 0x28
/-- BUP_CRESET (18_bringup). -/
def rBupCreset : Nat := 0x30
/-- BUP_TEST_STAT (18_bringup). -/
def rBupTestStat : Nat := 0x38
/-- BUP_STATUS_k (18_bringup). -/
def rBupStatus (n : Nat) : Nat := 0x100 + 0x4 * n

/-- BUP_STEP. -/
def rowBupStep : RegRow :=
  ⟨0x0, 0x0, 1, 0x0, 1, 32, .bup, none, 0x0, none,
    [⟨fBupStepStep, .rw, 0⟩,
     ⟨fBupStepQuick, .rw, 0⟩,
     ⟨fBupStepGo, .wo, 0⟩,
     ⟨fBupStepBusy, .ro, 0⟩,
     ⟨fBupStepResult, .ro, 0⟩]⟩
/-- BUP_DONE. -/
def rowBupDone : RegRow :=
  ⟨0x8, 0x0, 1, 0x0, 1, 32, .bup, none, 0x0, none,
    [⟨fBupDoneDone, .ro, 0⟩,
     ⟨fBupDoneQuick5, .ro, 0⟩,
     ⟨fBupDoneQuick6, .ro, 0⟩]⟩
/-- BUP_EVENT. -/
def rowBupEvent : RegRow :=
  ⟨0x10, 0x0, 1, 0x0, 1, 32, .bup, some 8, 0x1F, some 16,
    [⟨fBupEventStepDone, .w1c, 0⟩,
     ⟨fBupEventStepError, .w1c, 0⟩,
     ⟨fBupEventNewdefect, .w1c, 0⟩,
     ⟨fBupEventTestFail, .w1c, 0⟩,
     ⟨fBupEventCresetDone, .w1c, 0⟩,
     ⟨fBupEventEventIe, .rw, 0⟩,
     ⟨fBupEventOverlap, .w1c, 0⟩]⟩
/-- BUP_GRADE. -/
def rowBupGrade : RegRow :=
  ⟨0x18, 0x0, 1, 0x0, 1, 64, .bup, none, 0x0, none,
    [⟨fBupGradeVariant, .ro, 0⟩,
     ⟨fBupGradeDegraded, .ro, 0⟩,
     ⟨fBupGradeValid, .ro, 0⟩,
     ⟨fBupGradeCells, .ro, 0⟩,
     ⟨fBupGradeSlices, .ro, 0⟩,
     ⟨fBupGradeChannels, .ro, 0⟩,
     ⟨fBupGradeBays, .ro, 0⟩]⟩
/-- BUP_ND_CTRL. -/
def rowBupNdCtrl : RegRow :=
  ⟨0x20, 0x0, 1, 0x0, 1, 32, .bup, none, 0x0, none,
    [⟨fBupNdCtrlCount, .ro, 0⟩,
     ⟨fBupNdCtrlOverflow, .ro, 0⟩,
     ⟨fBupNdCtrlIndex, .rw, 0⟩]⟩
/-- BUP_ND_DATA. -/
def rowBupNdData : RegRow :=
  ⟨0x28, 0x0, 1, 0x0, 1, 64, .bup, none, 0x0, none,
    [⟨fBupNdDataEntry, .ro, 0⟩]⟩
/-- BUP_CRESET. -/
def rowBupCreset : RegRow :=
  ⟨0x30, 0x0, 1, 0x0, 1, 32, .bup, none, 0x0, none,
    [⟨fBupCresetGo, .wo, 0⟩,
     ⟨fBupCresetBusy, .ro, 0⟩,
     ⟨fBupCresetResult, .ro, 0⟩,
     ⟨fBupCresetPending, .ro, 0⟩,
     ⟨fBupCresetHolding, .ro, 0⟩]⟩
/-- BUP_TEST_STAT. -/
def rowBupTestStat : RegRow :=
  ⟨0x38, 0x0, 1, 0x0, 1, 64, .bup, none, 0x0, none,
    [⟨fBupTestStatKind, .ro, 0⟩,
     ⟨fBupTestStatRunning, .ro, 0⟩,
     ⟨fBupTestStatUnit, .ro, 0⟩,
     ⟨fBupTestStatTested, .ro, 0⟩,
     ⟨fBupTestStatFailed, .ro, 0⟩,
     ⟨fBupTestStatSkipped, .ro, 0⟩]⟩
/-- BUP_STATUS_k. -/
def rowBupStatus : RegRow :=
  ⟨0x100, 0x4, 11, 0x0, 1, 32, .bup, none, 0x0, none,
    [⟨fBupStatusOutcome, .ro, 0⟩,
     ⟨fBupStatusCause, .ro, 0⟩,
     ⟨fBupStatusCount, .ro, 0⟩]⟩

/-- The registers of the BUP block. -/
def rowsBup : List RegRow :=
  [rowBupStep, rowBupDone, rowBupEvent, rowBupGrade, rowBupNdCtrl, rowBupNdData, rowBupCreset, rowBupTestStat, rowBupStatus]

/-- PWR_STATE_CTRL. -/
def rowPwrStateCtrl : RegRow :=
  ⟨0x100000, 0x0, 1, 0x0, 1, 32, .owner, none, 0x0, none,
    [⟨fPwrStateCtrlTarget, .rw, 0⟩,
     ⟨fPwrStateCtrlGo, .wo, 0⟩,
     ⟨fPwrStateCtrlBusy, .ro, 0⟩,
     ⟨fPwrStateCtrlResult, .ro, 0⟩,
     ⟨fPwrStateCtrlState, .ro, 0⟩,
     ⟨fPwrStateCtrlTransit, .ro, 0⟩]⟩
/-- PWR_BLOCK. -/
def rowPwrBlock : RegRow :=
  ⟨0x100008, 0x0, 1, 0x0, 1, 32, .owner, none, 0x0, none,
    [⟨fPwrBlockContexts, .ro, 0⟩,
     ⟨fPwrBlockQueues, .ro, 0⟩,
     ⟨fPwrBlockWaits, .ro, 0⟩,
     ⟨fPwrBlockTbar, .ro, 0⟩,
     ⟨fPwrBlockOps, .ro, 0⟩,
     ⟨fPwrBlockPinned, .ro, 0⟩]⟩
/-- PWR_EVENT. -/
def rowPwrEvent : RegRow :=
  ⟨0x100010, 0x0, 1, 0x0, 1, 32, .owner, some 8, 0xF, some 16,
    [⟨fPwrEventStateDone, .w1c, 0⟩,
     ⟨fPwrEventRefused, .w1c, 0⟩,
     ⟨fPwrEventLimitHit, .w1c, 0⟩,
     ⟨fPwrEventFloorHit, .w1c, 0⟩,
     ⟨fPwrEventEventIe, .rw, 0⟩,
     ⟨fPwrEventOverlap, .w1c, 0⟩]⟩
/-- PWR_LIMIT. -/
def rowPwrLimit : RegRow :=
  ⟨0x100018, 0x0, 1, 0x0, 1, 32, .owner, none, 0x0, none,
    [⟨fPwrLimitLimit, .rw, 0⟩,
     ⟨fPwrLimitGain, .rw, 4⟩,
     ⟨fPwrLimitVariantLimit, .ro, 0⟩]⟩
/-- PWR_SLEW_CFG. -/
def rowPwrSlewCfg : RegRow :=
  ⟨0x100020, 0x0, 1, 0x0, 1, 32, .owner, none, 0x0, none,
    [⟨fPwrSlewCfgLimit, .rw, 200⟩]⟩
/-- PWR_IDLE_CFG. -/
def rowPwrIdleCfg : RegRow :=
  ⟨0x100028, 0x0, 1, 0x0, 1, 32, .owner, none, 0x0, none,
    [⟨fPwrIdleCfgClkIdle, .rw, 20⟩,
     ⟨fPwrIdleCfgPwrIdle, .rw, 1000⟩]⟩
/-- PWR_WAKE_STAT. -/
def rowPwrWakeStat : RegRow :=
  ⟨0x100030, 0x0, 1, 0x0, 1, 64, .owner, none, 0x0, none,
    [⟨fPwrWakeStatQueued, .ro, 0⟩,
     ⟨fPwrWakeStatMaxWait, .rc, 0⟩,
     ⟨fPwrWakeStatAdmitted, .ro, 0⟩]⟩
/-- PWR_DUTY. -/
def rowPwrDuty : RegRow :=
  ⟨0x100038, 0x0, 1, 0x0, 1, 32, .owner, none, 0x0, none,
    [⟨fPwrDutyPcap, .ro, 1024⟩]⟩
/-- PWR_TEL_k. -/
def rowPwrTel : RegRow :=
  ⟨0x100100, 0x8, 8, 0x0, 1, 32, .owner, none, 0x0, none,
    [⟨fPwrTelValue, .ro, 0⟩]⟩
/-- PWR_TILE_n. -/
def rowPwrTile : RegRow :=
  ⟨0x101000, 0x4, 384, 0x0, 1, 32, .owner, none, 0x0, none,
    [⟨fPwrTileCurrent, .ro, 0⟩,
     ⟨fPwrTileOpen, .ro, 0⟩]⟩

/-- The registers of the PWR block. -/
def rowsPwr : List RegRow :=
  [rowPwrStateCtrl, rowPwrBlock, rowPwrEvent, rowPwrLimit, rowPwrSlewCfg, rowPwrIdleCfg, rowPwrWakeStat, rowPwrDuty, rowPwrTel, rowPwrTile]

/-- THM_STAT. -/
def rowThmStat : RegRow :=
  ⟨0x180000, 0x0, 1, 0x0, 1, 64, .owner, none, 0x0, none,
    [⟨fThmStatHottest, .ro, 0⟩,
     ⟨fThmStatNode, .ro, 0⟩,
     ⟨fThmStatSensorsOnly, .ro, 0⟩,
     ⟨fThmStatThrottling, .ro, 0⟩,
     ⟨fThmStatHbmMax, .ro, 0⟩]⟩
/-- THM_CFG. -/
def rowThmCfg : RegRow :=
  ⟨0x180008, 0x0, 1, 0x0, 1, 32, .owner, none, 0x0, none,
    [⟨fThmCfgGain, .rw, 16⟩,
     ⟨fThmCfgDivThresh, .rw, 5⟩,
     ⟨fThmCfgSink, .rw, 720⟩]⟩
/-- THM_LIMIT_L. -/
def rowThmLimit : RegRow :=
  ⟨0x180010, 0x8, 3, 0x0, 1, 32, .owner, none, 0x0, none,
    [⟨fThmLimitLimit, .rw, 0⟩,
     ⟨fThmLimitTrip, .ro, 0⟩]⟩
/-- THM_EVENT. -/
def rowThmEvent : RegRow :=
  ⟨0x180040, 0x0, 1, 0x0, 1, 32, .owner, some 8, 0xF, some 16,
    [⟨fThmEventThrottle, .w1c, 0⟩,
     ⟨fThmEventDivergence, .w1c, 0⟩,
     ⟨fThmEventDiodeFail, .w1c, 0⟩,
     ⟨fThmEventModelFail, .w1c, 0⟩,
     ⟨fThmEventEventIe, .rw, 0⟩,
     ⟨fThmEventOverlap, .w1c, 0⟩]⟩
/-- THM_TRIP. -/
def rowThmTrip : RegRow :=
  ⟨0x180048, 0x0, 1, 0x0, 1, 64, .owner, none, 0x0, none,
    [⟨fThmTripCause, .ro, 0⟩,
     ⟨fThmTripNode, .ro, 0⟩,
     ⟨fThmTripDiode, .ro, 0⟩,
     ⟨fThmTripTemp, .ro, 0⟩,
     ⟨fThmTripTrips, .ro, 0⟩]⟩
/-- THM_NODE_n. -/
def rowThmNode : RegRow :=
  ⟨0x181000, 0x8, 384, 0x0, 1, 64, .owner, none, 0x0, none,
    [⟨fThmNodeEstimate, .ro, 0⟩,
     ⟨fThmNodeGoverning, .ro, 0⟩,
     ⟨fThmNodeNcap, .ro, 1024⟩]⟩
/-- THM_DIODE_m. -/
def rowThmDiode : RegRow :=
  ⟨0x183000, 0x4, 96, 0x0, 1, 32, .owner, none, 0x0, none,
    [⟨fThmDiodeReading, .ro, 0⟩,
     ⟨fThmDiodeFailed, .ro, 0⟩]⟩

/-- The registers of the THM block. -/
def rowsThm : List RegRow :=
  [rowThmStat, rowThmCfg, rowThmLimit, rowThmEvent, rowThmTrip, rowThmNode, rowThmDiode]

/-- SEC_STAT. -/
def rowSecStat : RegRow :=
  ⟨0x200000, 0x0, 1, 0x0, 1, 32, .owner, none, 0x0, none,
    [⟨fSecStatIdReady, .ro, 0⟩,
     ⟨fSecStatRngFail, .ro, 0⟩,
     ⟨fSecStatSealed, .ro, 0⟩]⟩
/-- SEC_PART_p. -/
def rowSecPart : RegRow :=
  ⟨0x200100, 0x20, 16, 0x0, 1, 64, .part, none, 0x0, none,
    [⟨fSecPartState, .ro, 0⟩,
     ⟨fSecPartSealable, .ro, 0⟩,
     ⟨fSecPartWriteGen, .ro, 0⟩,
     ⟨fSecPartOldGen, .ro, 0⟩,
     ⟨fSecPartDecant, .ro, 0⟩,
     ⟨fSecPartOldBlocks, .ro, 0⟩]⟩
/-- SEC_PART_CTRL_p. -/
def rowSecPartCtrl : RegRow :=
  ⟨0x200108, 0x20, 16, 0x0, 1, 32, .part, none, 0x0, none,
    [⟨fSecPartCtrlOp, .rw, 0⟩,
     ⟨fSecPartCtrlGo, .wo, 0⟩,
     ⟨fSecPartCtrlBusy, .ro, 0⟩,
     ⟨fSecPartCtrlResult, .ro, 0⟩]⟩
/-- SEC_PART_EVENT_p. -/
def rowSecPartEvent : RegRow :=
  ⟨0x200110, 0x20, 16, 0x0, 1, 32, .part, some 8, 0xF, some 16,
    [⟨fSecPartEventSealed, .w1c, 0⟩,
     ⟨fSecPartEventErased, .w1c, 0⟩,
     ⟨fSecPartEventDecantDone, .w1c, 0⟩,
     ⟨fSecPartEventMacFail, .w1c, 0⟩,
     ⟨fSecPartEventEventIe, .rw, 0⟩,
     ⟨fSecPartEventOverlap, .w1c, 0⟩]⟩
/-- SEC_IMP_SRC_p. -/
def rowSecImpSrc : RegRow :=
  ⟨0x201000, 0x40, 16, 0x0, 1, 64, .part, none, 0x0, none,
    [⟨fSecImpSrcAddr, .rw, 0⟩]⟩
/-- SEC_IMP_DST_p. -/
def rowSecImpDst : RegRow :=
  ⟨0x201008, 0x40, 16, 0x0, 1, 64, .part, none, 0x0, none,
    [⟨fSecImpDstDst, .rw, 0⟩]⟩
/-- SEC_IMP_LEN_p. -/
def rowSecImpLen : RegRow :=
  ⟨0x201010, 0x40, 16, 0x0, 1, 64, .part, none, 0x0, none,
    [⟨fSecImpLenLen, .rw, 0⟩]⟩
/-- SEC_IMP_CTRL_p. -/
def rowSecImpCtrl : RegRow :=
  ⟨0x201018, 0x40, 16, 0x0, 1, 32, .part, none, 0x0, none,
    [⟨fSecImpCtrlGo, .wo, 0⟩,
     ⟨fSecImpCtrlBusy, .ro, 0⟩,
     ⟨fSecImpCtrlResult, .ro, 0⟩,
     ⟨fSecImpCtrlChunks, .ro, 0⟩]⟩

/-- The registers of the SEC block. -/
def rowsSec : List RegRow :=
  [rowSecStat, rowSecPart, rowSecPartCtrl, rowSecPartEvent, rowSecImpSrc, rowSecImpDst, rowSecImpLen, rowSecImpCtrl]

/-- DBG_LEVEL. -/
def rowDbgLevel : RegRow :=
  ⟨0x300000, 0x0, 1, 0x0, 1, 32, .owner, none, 0x0, none,
    [⟨fDbgLevelTarget, .rw, 0⟩,
     ⟨fDbgLevelGo, .wo, 0⟩,
     ⟨fDbgLevelBusy, .ro, 0⟩,
     ⟨fDbgLevelResult, .ro, 0⟩,
     ⟨fDbgLevelLevel, .ro, 0⟩,
     ⟨fDbgLevelD3Entered, .ro, 0⟩,
     ⟨fDbgLevelBrkEn, .rw, 0⟩,
     ⟨fDbgLevelBrkFreeze, .rw, 0⟩]⟩
/-- DBG_FREEZE. -/
def rowDbgFreeze : RegRow :=
  ⟨0x300008, 0x0, 1, 0x0, 1, 32, .owner, none, 0x0, none,
    [⟨fDbgFreezeScope, .rw, 0⟩,
     ⟨fDbgFreezeReq, .wo, 0⟩,
     ⟨fDbgFreezeThaw, .wo, 0⟩,
     ⟨fDbgFreezeDrive, .rw, 0⟩,
     ⟨fDbgFreezePinScope, .rw, 0⟩,
     ⟨fDbgFreezeState, .ro, 0⟩,
     ⟨fDbgFreezePending, .ro, 0⟩,
     ⟨fDbgFreezeResult, .ro, 0⟩,
     ⟨fDbgFreezeSeq, .ro, 0⟩]⟩
/-- DBG_EVENT. -/
def rowDbgEvent : RegRow :=
  ⟨0x300010, 0x0, 1, 0x0, 1, 32, .owner, some 8, 0x3F, some 16,
    [⟨fDbgEventFrozen, .w1c, 0⟩,
     ⟨fDbgEventThawed, .w1c, 0⟩,
     ⟨fDbgEventBrk, .w1c, 0⟩,
     ⟨fDbgEventTraceFull, .w1c, 0⟩,
     ⟨fDbgEventTraceOff, .w1c, 0⟩,
     ⟨fDbgEventPinIgnored, .w1c, 0⟩,
     ⟨fDbgEventEventIe, .rw, 0⟩,
     ⟨fDbgEventOverlap, .w1c, 0⟩]⟩
/-- DBG_BRK. -/
def rowDbgBrk : RegRow :=
  ⟨0x300018, 0x0, 1, 0x0, 1, 64, .owner, none, 0x0, none,
    [⟨fDbgBrkBay, .ro, 0⟩,
     ⟨fDbgBrkCell, .ro, 0⟩,
     ⟨fDbgBrkPipeline, .ro, 0⟩,
     ⟨fDbgBrkThread, .ro, 0⟩,
     ⟨fDbgBrkPartition, .ro, 0⟩,
     ⟨fDbgBrkContext, .ro, 0⟩,
     ⟨fDbgBrkHalted, .ro, 0⟩,
     ⟨fDbgBrkResume, .wo, 0⟩]⟩
/-- DBG_BRK_PC. -/
def rowDbgBrkPc : RegRow :=
  ⟨0x300020, 0x0, 1, 0x0, 1, 64, .owner, none, 0x0, none,
    [⟨fDbgBrkPcPc, .ro, 0⟩]⟩
/-- DBG_TRACE_CFG. -/
def rowDbgTraceCfg : RegRow :=
  ⟨0x300040, 0x0, 1, 0x0, 1, 64, .owner, none, 0x0, none,
    [⟨fDbgTraceCfgWays, .rw, 0⟩,
     ⟨fDbgTraceCfgEn, .rw, 0⟩,
     ⟨fDbgTraceCfgStop, .rw, 0⟩,
     ⟨fDbgTraceCfgEvents, .rw, 0⟩,
     ⟨fDbgTraceCfgPart, .rw, 0⟩,
     ⟨fDbgTraceCfgPartEn, .rw, 0⟩]⟩
/-- DBG_TRACE_STAT. -/
def rowDbgTraceStat : RegRow :=
  ⟨0x300048, 0x0, 1, 0x0, 1, 64, .owner, none, 0x0, none,
    [⟨fDbgTraceStatNext, .ro, 0⟩,
     ⟨fDbgTraceStatWrapped, .ro, 0⟩,
     ⟨fDbgTraceStatFull, .ro, 0⟩,
     ⟨fDbgTraceStatResult, .ro, 0⟩,
     ⟨fDbgTraceStatSlices, .ro, 0⟩,
     ⟨fDbgTraceStatDropped, .ro, 0⟩]⟩
/-- DBG_TRACE_MARK. -/
def rowDbgTraceMark : RegRow :=
  ⟨0x300050, 0x0, 1, 0x0, 1, 32, .owner, none, 0x0, none,
    [⟨fDbgTraceMarkValue, .wo, 0⟩]⟩
/-- DBG_CNT_k. -/
def rowDbgCnt : RegRow :=
  ⟨0x300080, 0x8, 16, 0x0, 1, 64, .owner, none, 0x0, none,
    [⟨fDbgCntEvent, .rw, 0⟩,
     ⟨fDbgCntBay, .rw, 0⟩,
     ⟨fDbgCntBayAll, .rw, 1⟩,
     ⟨fDbgCntPartition, .rw, 0⟩,
     ⟨fDbgCntPartEn, .rw, 0⟩,
     ⟨fDbgCntCount, .ro, 0⟩]⟩
/-- DBG_RO. -/
def rowDbgRo : RegRow :=
  ⟨0x300100, 0x0, 1, 0x0, 1, 64, .owner, none, 0x0, none,
    [⟨fDbgRoAddr, .rw, 0⟩,
     ⟨fDbgRoGo, .wo, 0⟩,
     ⟨fDbgRoBusy, .ro, 0⟩,
     ⟨fDbgRoStatus, .ro, 0⟩,
     ⟨fDbgRoPartition, .ro, 0⟩,
     ⟨fDbgRoSpace, .rw, 0⟩]⟩
/-- DBG_RO_DATA_k. -/
def rowDbgRoData : RegRow :=
  ⟨0x300108, 0x8, 8, 0x0, 1, 64, .owner, none, 0x0, none,
    [⟨fDbgRoDataBytes, .ro, 0⟩]⟩

/-- The registers of the DBG block. -/
def rowsDbg : List RegRow :=
  [rowDbgLevel, rowDbgFreeze, rowDbgEvent, rowDbgBrk, rowDbgBrkPc, rowDbgTraceCfg, rowDbgTraceStat, rowDbgTraceMark, rowDbgCnt, rowDbgRo, rowDbgRoData]

/-- ERR_STAT. -/
def rowErrStat : RegRow :=
  ⟨0x400000, 0x0, 1, 0x0, 1, 32, .owner, some 10, 0x300, some 16,
    [⟨fErrStatPending, .ro, 0⟩,
     ⟨fErrStatNew, .w1c, 0⟩,
     ⟨fErrStatOverflow, .w1c, 0⟩,
     ⟨fErrStatRecIe, .rw, 0⟩,
     ⟨fErrStatOverlap, .w1c, 0⟩,
     ⟨fErrStatDropped, .ro, 0⟩]⟩
/-- ERR_REC_k. -/
def rowErrRec : RegRow :=
  ⟨0x400008, 0x8, 4, 0x0, 1, 64, .owner, none, 0x0, none,
    [⟨fErrRecBytes, .ro, 0⟩]⟩
/-- ERR_POP. -/
def rowErrPop : RegRow :=
  ⟨0x400028, 0x0, 1, 0x0, 1, 32, .owner, none, 0x0, none,
    [⟨fErrPopPop, .wo, 0⟩]⟩
/-- ERR_SEQ. -/
def rowErrSeq : RegRow :=
  ⟨0x400030, 0x0, 1, 0x0, 1, 32, .owner, none, 0x0, none,
    [⟨fErrSeqNext, .ro, 0⟩]⟩
/-- ERR_CE_k. -/
def rowErrCe : RegRow :=
  ⟨0x400100, 0x8, 8, 0x0, 1, 32, .owner, none, 0x0, none,
    [⟨fErrCeCount, .ro, 0⟩]⟩
/-- ERR_SYND. -/
def rowErrSynd : RegRow :=
  ⟨0x400140, 0x0, 1, 0x0, 1, 64, .owner, none, 0x0, none,
    [⟨fErrSyndSynd, .ro, 0⟩,
     ⟨fErrSyndSeq, .ro, 0⟩]⟩
/-- ERR_SCRUB_CTRL. -/
def rowErrScrubCtrl : RegRow :=
  ⟨0x400200, 0x0, 1, 0x0, 1, 32, .owner, none, 0x0, none,
    [⟨fErrScrubCtrlTarget, .rw, 0⟩,
     ⟨fErrScrubCtrlGo, .wo, 0⟩,
     ⟨fErrScrubCtrlBusy, .ro, 0⟩,
     ⟨fErrScrubCtrlResult, .ro, 0⟩,
     ⟨fErrScrubCtrlUnit, .rw, 0⟩]⟩
/-- ERR_SCRUB_BASE. -/
def rowErrScrubBase : RegRow :=
  ⟨0x400208, 0x0, 1, 0x0, 1, 64, .owner, none, 0x0, none,
    [⟨fErrScrubBaseBase, .rw, 0⟩]⟩
/-- ERR_SCRUB_LEN. -/
def rowErrScrubLen : RegRow :=
  ⟨0x400210, 0x0, 1, 0x0, 1, 64, .owner, none, 0x0, none,
    [⟨fErrScrubLenLen, .rw, 0⟩]⟩
/-- ERR_SCRUB_RES. -/
def rowErrScrubRes : RegRow :=
  ⟨0x400218, 0x0, 1, 0x0, 1, 64, .owner, none, 0x0, none,
    [⟨fErrScrubResFixed, .ro, 0⟩,
     ⟨fErrScrubResBad, .ro, 0⟩]⟩

/-- The registers of the ERR block. -/
def rowsErr : List RegRow :=
  [rowErrStat, rowErrRec, rowErrPop, rowErrSeq, rowErrCe, rowErrSynd, rowErrScrubCtrl, rowErrScrubBase, rowErrScrubLen, rowErrScrubRes]

/-- PLC_DIST_CTRL. -/
def rowPlcDistCtrl : RegRow :=
  ⟨0x500100, 0x0, 1, 0x0, 1, 32, .owner, some 9, 0x100, some 16,
    [⟨fPlcDistCtrlFetch, .wo, 0⟩,
     ⟨fPlcDistCtrlBusy, .ro, 0⟩,
     ⟨fPlcDistCtrlDone, .w1c, 0⟩,
     ⟨fPlcDistCtrlStale, .w1c, 0⟩,
     ⟨fPlcDistCtrlError, .w1c, 0⟩,
     ⟨fPlcDistCtrlErrCause, .ro, 0⟩,
     ⟨fPlcDistCtrlChange, .w1c, 0⟩,
     ⟨fPlcDistCtrlChangeIe, .rw, 0⟩,
     ⟨fPlcDistCtrlOverlap, .w1c, 0⟩]⟩
/-- PLC_DIST_ADDR. -/
def rowPlcDistAddr : RegRow :=
  ⟨0x500108, 0x0, 1, 0x0, 1, 64, .owner, none, 0x0, none,
    [⟨fPlcDistAddrAddr, .rw, 0⟩]⟩
/-- PLC_DIST_GEN. -/
def rowPlcDistGen : RegRow :=
  ⟨0x500110, 0x0, 1, 0x0, 1, 32, .owner, none, 0x0, none,
    [⟨fPlcDistGenGen, .ro, 0⟩]⟩
/-- PLC_HEALTH. -/
def rowPlcHealth : RegRow :=
  ⟨0x500118, 0x0, 1, 0x0, 1, 64, .owner, none, 0x0, none,
    [⟨fPlcHealthWord, .ro, 1⟩]⟩
/-- PLC_QRY_CTRL. -/
def rowPlcQryCtrl : RegRow :=
  ⟨0x500200, 0x0, 1, 0x0, 1, 64, .owner, none, 0x0, none,
    [⟨fPlcQryCtrlGo, .wo, 0⟩,
     ⟨fPlcQryCtrlBusy, .ro, 0⟩,
     ⟨fPlcQryCtrlValid, .ro, 0⟩,
     ⟨fPlcQryCtrlRegion, .rw, 0⟩]⟩
/-- PLC_QRY_RES. -/
def rowPlcQryRes : RegRow :=
  ⟨0x500208, 0x0, 1, 0x0, 1, 64, .owner, none, 0x0, none,
    [⟨fPlcQryResHeat, .ro, 0⟩,
     ⟨fPlcQryResTracked, .ro, 0⟩,
     ⟨fPlcQryResRacked, .ro, 0⟩,
     ⟨fPlcQryResTier, .ro, 0⟩,
     ⟨fPlcQryResReadMostly, .ro, 0⟩,
     ⟨fPlcQryResSharers, .ro, 0⟩]⟩
/-- PLC_RACK_CFG_p. -/
def rowPlcRackCfg : RegRow :=
  ⟨0x501000, 0x20, 16, 0x0, 1, 64, .part, none, 0x0, none,
    [⟨fPlcRackCfgRackIn, .rw, 0⟩,
     ⟨fPlcRackCfgRackOut, .rw, 0⟩,
     ⟨fPlcRackCfgRackCap, .rw, 0⟩,
     ⟨fPlcRackCfgRackRate, .rw, 64⟩,
     ⟨fPlcRackCfgDecay, .rw, 3⟩]⟩
/-- PLC_WORK_CFG_p. -/
def rowPlcWorkCfg : RegRow :=
  ⟨0x501008, 0x20, 16, 0x0, 1, 64, .part, none, 0x0, none,
    [⟨fPlcWorkCfgLambda, .rw, 48⟩,
     ⟨fPlcWorkCfgReplEn, .rl, 0⟩,
     ⟨fPlcWorkCfgPoolBad, .ro, 0⟩,
     ⟨fPlcWorkCfgReplIn, .rl, 4096⟩,
     ⟨fPlcWorkCfgPoolRegions, .rl, 0⟩]⟩
/-- PLC_POOL_BASE_p. -/
def rowPlcPoolBase : RegRow :=
  ⟨0x501010, 0x20, 16, 0x0, 1, 64, .part, none, 0x0, none,
    [⟨fPlcPoolBaseBase, .rl, 0⟩]⟩
/-- PLC_CNT_p. -/
def rowPlcCnt : RegRow :=
  ⟨0x501018, 0x20, 16, 0x0, 1, 64, .part, none, 0x0, none,
    [⟨fPlcCntRacked, .ro, 0⟩,
     ⟨fPlcCntReplicas, .ro, 0⟩,
     ⟨fPlcCntRackSkip, .ro, 0⟩,
     ⟨fPlcCntReplInval, .ro, 0⟩]⟩
/-- PLC_BAY_LOAD_b. -/
def rowPlcBayLoad : RegRow :=
  ⟨0x502000, 0x8, 32, 0x0, 1, 32, .owner, none, 0x0, none,
    [⟨fPlcBayLoadQKib, .ro, 0⟩,
     ⟨fPlcBayLoadPieces, .ro, 0⟩]⟩

/-- The registers of the PLC block. -/
def rowsPlc : List RegRow :=
  [rowPlcDistCtrl, rowPlcDistAddr, rowPlcDistGen, rowPlcHealth, rowPlcQryCtrl, rowPlcQryRes, rowPlcRackCfg, rowPlcWorkCfg, rowPlcPoolBase, rowPlcCnt, rowPlcBayLoad]

/-- XLT_STAT. -/
def rowXltStat : RegRow :=
  ⟨0x600000, 0x0, 1, 0x0, 1, 64, .owner, none, 0x0, none,
    [⟨fXltStatPrOut, .ro, 0⟩,
     ⟨fXltStatWaiters, .ro, 0⟩,
     ⟨fXltStatSeq, .ro, 0⟩]⟩
/-- XLT_CFG. -/
def rowXltCfg : RegRow :=
  ⟨0x600008, 0x0, 1, 0x0, 1, 32, .owner, none, 0x0, none,
    [⟨fXltCfgPriTimeout, .rw, 5000⟩]⟩
/-- XLT_CTX_BIND_m. -/
def rowXltCtxBind : RegRow :=
  ⟨0x610000, 0x8, 1024, 0x0, 1, 64, .context, none, 0x0, none,
    [⟨fXltCtxBindPasid, .rw, 0⟩,
     ⟨fXltCtxBindValid, .rw, 0⟩,
     ⟨fXltCtxBindPriv, .rw, 0⟩,
     ⟨fXltCtxBindPort, .rw, 0⟩,
     ⟨fXltCtxBindFunction, .rw, 0⟩,
     ⟨fXltCtxBindBindState, .ro, 0⟩]⟩
/-- XLT_CMD_DB_m. -/
def rowXltCmdDb : RegRow :=
  ⟨0x620000, 0x8, 1024, 0x0, 1, 64, .context, none, 0x0, none,
    [⟨fXltCmdDbDesc, .wo, 0⟩]⟩
/-- XLT_CMD_STAT_m. -/
def rowXltCmdStat : RegRow :=
  ⟨0x622000, 0x8, 1024, 0x0, 1, 64, .context, some 11, 0x700, some 16,
    [⟨fXltCmdStatPending, .ro, 0⟩,
     ⟨fXltCmdStatRefused, .w1c, 0⟩,
     ⟨fXltCmdStatErrored, .w1c, 0⟩,
     ⟨fXltCmdStatSkipped, .w1c, 0⟩,
     ⟨fXltCmdStatCmdIe, .rw, 0⟩,
     ⟨fXltCmdStatRefuseCode, .ro, 0⟩,
     ⟨fXltCmdStatOverlap, .w1c, 0⟩,
     ⟨fXltCmdStatAccepted, .ro, 0⟩]⟩
/-- XLT_FLOG_BASE_p. -/
def rowXltFlogBase : RegRow :=
  ⟨0x630000, 0x20, 16, 0x0, 1, 64, .part, none, 0x0, none,
    [⟨fXltFlogBaseSize, .rw, 0⟩,
     ⟨fXltFlogBaseEnable, .rw, 0⟩,
     ⟨fXltFlogBaseAddr, .rw, 0⟩]⟩
/-- XLT_FLOG_PTR_p. -/
def rowXltFlogPtr : RegRow :=
  ⟨0x630008, 0x20, 16, 0x0, 1, 64, .part, some 34, 0x300000000, some 48,
    [⟨fXltFlogPtrHead, .ro, 0⟩,
     ⟨fXltFlogPtrTail, .rw, 0⟩,
     ⟨fXltFlogPtrNew, .w1c, 0⟩,
     ⟨fXltFlogPtrOverflow, .w1c, 0⟩,
     ⟨fXltFlogPtrLogIe, .rw, 0⟩,
     ⟨fXltFlogPtrDropped, .ro, 0⟩,
     ⟨fXltFlogPtrOverlap, .w1c, 0⟩]⟩

/-- The registers of the XLT block. -/
def rowsXlt : List RegRow :=
  [rowXltStat, rowXltCfg, rowXltCtxBind, rowXltCmdDb, rowXltCmdStat, rowXltFlogBase, rowXltFlogPtr]

/-- CEL_SLICE_STAT_n. -/
def rowCelSliceStat : RegRow :=
  ⟨0x800000, 0x2000, 192, 0x0, 1, 64, .owner, none, 0x0, none,
    [⟨fCelSliceStatState, .ro, 0⟩,
     ⟨fCelSliceStatSubst, .ro, 0⟩,
     ⟨fCelSliceStatPinned, .ro, 0⟩,
     ⟨fCelSliceStatMrBusy, .ro, 0⟩,
     ⟨fCelSliceStatFillBusy, .ro, 0⟩,
     ⟨fCelSliceStatWaitBusy, .ro, 0⟩]⟩
/-- CEL_EVENT_n. -/
def rowCelEvent : RegRow :=
  ⟨0x800008, 0x2000, 192, 0x0, 1, 32, .owner, some 8, 0x1F, some 16,
    [⟨fCelEventPinDeny, .w1c, 0⟩,
     ⟨fCelEventThrash, .w1c, 0⟩,
     ⟨fCelEventStrictDead, .w1c, 0⟩,
     ⟨fCelEventDrainStart, .w1c, 0⟩,
     ⟨fCelEventDrainDone, .w1c, 0⟩,
     ⟨fCelEventEventIe, .rw, 0⟩,
     ⟨fCelEventOverlap, .w1c, 0⟩]⟩
/-- CEL_PIN_CTRL_n. -/
def rowCelPinCtrl : RegRow :=
  ⟨0x800010, 0x2000, 192, 0x0, 1, 32, .owner, none, 0x0, none,
    [⟨fCelPinCtrlThrashThresh, .rw, 1024⟩,
     ⟨fCelPinCtrlThrashAll, .rw, 0⟩]⟩
/-- CEL_THRASH_n. -/
def rowCelThrash : RegRow :=
  ⟨0x800018, 0x2000, 192, 0x0, 1, 32, .owner, none, 0x0, none,
    [⟨fCelThrashSet, .ro, 0⟩,
     ⟨fCelThrashPartition, .ro, 0⟩]⟩
/-- CEL_PIN_DENY_p. -/
def rowCelPinDeny : RegRow :=
  ⟨0x980000, 0x8, 16, 0x0, 1, 32, .part, none, 0x0, none,
    [⟨fCelPinDenyCount, .ro, 0⟩]⟩
/-- CEL_DEAD_READ_p. -/
def rowCelDeadRead : RegRow :=
  ⟨0x980080, 0x8, 16, 0x0, 1, 64, .part, none, 0x0, none,
    [⟨fCelDeadReadCount, .ro, 0⟩]⟩
/-- CEL_RANGE_CTRL_p. -/
def rowCelRangeCtrl : RegRow :=
  ⟨0x980100, 0x20, 16, 0x0, 1, 32, .part, none, 0x0, none,
    [⟨fCelRangeCtrlOp, .rw, 0⟩,
     ⟨fCelRangeCtrlGo, .wo, 0⟩,
     ⟨fCelRangeCtrlBusy, .ro, 0⟩,
     ⟨fCelRangeCtrlResult, .ro, 0⟩]⟩
/-- CEL_RANGE_BASE_p. -/
def rowCelRangeBase : RegRow :=
  ⟨0x980108, 0x20, 16, 0x0, 1, 64, .part, none, 0x0, none,
    [⟨fCelRangeBaseBase, .rw, 0⟩]⟩
/-- CEL_RANGE_LEN_p. -/
def rowCelRangeLen : RegRow :=
  ⟨0x980110, 0x20, 16, 0x0, 1, 64, .part, none, 0x0, none,
    [⟨fCelRangeLenLen, .rw, 0⟩]⟩

/-- The registers of the CEL block. -/
def rowsCel : List RegRow :=
  [rowCelSliceStat, rowCelEvent, rowCelPinCtrl, rowCelThrash, rowCelPinDeny, rowCelDeadRead, rowCelRangeCtrl, rowCelRangeBase, rowCelRangeLen]

/-- HBM_STK_STAT_n. -/
def rowHbmStkStat : RegRow :=
  ⟨0xC00000, 0x10000, 6, 0x0, 1, 32, .owner, none, 0x0, none,
    [⟨fHbmStkStatTrain, .ro, 0⟩,
     ⟨fHbmStkStatTemp, .ro, 0⟩,
     ⟨fHbmStkStatRefreshStep, .ro, 0⟩,
     ⟨fHbmStkStatHot, .ro, 0⟩,
     ⟨fHbmStkStatChanOut, .ro, 0⟩]⟩
/-- HBM_STK_EVENT_n. -/
def rowHbmStkEvent : RegRow :=
  ⟨0xC00008, 0x10000, 6, 0x0, 1, 32, .owner, some 8, 0xF, some 16,
    [⟨fHbmStkEventStepUp, .w1c, 0⟩,
     ⟨fHbmStkEventHot, .w1c, 0⟩,
     ⟨fHbmStkEventRecalFail, .w1c, 0⟩,
     ⟨fHbmStkEventChFailed, .w1c, 0⟩,
     ⟨fHbmStkEventEventIe, .rw, 0⟩,
     ⟨fHbmStkEventOverlap, .w1c, 0⟩]⟩
/-- HBM_CH_STAT_n. -/
def rowHbmChStat : RegRow :=
  ⟨0xC00100, 0x10000, 6, 0x40, 32, 32, .owner, none, 0x0, none,
    [⟨fHbmChStatState, .ro, 0⟩,
     ⟨fHbmChStatCause, .ro, 0⟩]⟩
/-- HBM_CH_CNT_n. -/
def rowHbmChCnt : RegRow :=
  ⟨0xC00108, 0x10000, 6, 0x40, 32, 64, .owner, none, 0x0, none,
    [⟨fHbmChCntCe, .ro, 0⟩,
     ⟨fHbmChCntUe, .ro, 0⟩,
     ⟨fHbmChCntRetry, .ro, 0⟩,
     ⟨fHbmChCntLost, .ro, 0⟩]⟩
/-- HBM_CH_UE_n. -/
def rowHbmChUe : RegRow :=
  ⟨0xC00110, 0x10000, 6, 0x40, 32, 64, .owner, none, 0x0, none,
    [⟨fHbmChUeBlock, .ro, 0⟩]⟩
/-- HBM_REG_p. -/
def rowHbmReg : RegRow :=
  ⟨0xC80000, 0x8, 16, 0x0, 1, 32, .owner, none, 0x0, none,
    [⟨fHbmRegRate, .rw, 0⟩,
     ⟨fHbmRegDepth, .rw, 0⟩,
     ⟨fHbmRegHard, .rw, 0⟩]⟩
/-- HBM_REG_CTRL. -/
def rowHbmRegCtrl : RegRow :=
  ⟨0xC80080, 0x0, 1, 0x0, 1, 32, .owner, none, 0x0, none,
    [⟨fHbmRegCtrlApply, .wo, 0⟩,
     ⟨fHbmRegCtrlResult, .ro, 0⟩]⟩
/-- HBM_CAP. -/
def rowHbmCap : RegRow :=
  ⟨0xC80088, 0x0, 1, 0x0, 1, 64, .owner, none, 0x0, none,
    [⟨fHbmCapBackedTop, .ro, 0⟩,
     ⟨fHbmCapChanOut, .ro, 0⟩,
     ⟨fHbmCapChanFailed, .ro, 0⟩]⟩

/-- The registers of the HBM block. -/
def rowsHbm : List RegRow :=
  [rowHbmStkStat, rowHbmStkEvent, rowHbmChStat, rowHbmChCnt, rowHbmChUe, rowHbmReg, rowHbmRegCtrl, rowHbmCap]

/-- CMP_BAY_HEALTH_n. -/
def rowCmpBayHealth : RegRow :=
  ⟨0x1000000, 0x40000, 32, 0x0, 1, 64, .bay, none, 0x0, none,
    [⟨fCmpBayHealthWord, .ro, 1⟩]⟩
/-- CMP_BAY_ROLE_n. -/
def rowCmpBayRole : RegRow :=
  ⟨0x1000008, 0x40000, 32, 0x0, 1, 64, .bay, none, 0x0, none,
    [⟨fCmpBayRoleRole, .ro, 0⟩]⟩
/-- CMP_BAY_CELLS_n. -/
def rowCmpBayCells : RegRow :=
  ⟨0x1000010, 0x40000, 32, 0x0, 1, 64, .bay, none, 0x0, none,
    [⟨fCmpBayCellsState, .ro, 0⟩,
     ⟨fCmpBayCellsValid, .ro, 0⟩]⟩
/-- CMP_BAY_ROWS_n. -/
def rowCmpBayRows : RegRow :=
  ⟨0x1000018, 0x40000, 32, 0x0, 1, 32, .bay, none, 0x0, none,
    [⟨⟨0, 5⟩, .ro, 24⟩,
     ⟨⟨8, 5⟩, .ro, 24⟩,
     ⟨⟨16, 5⟩, .ro, 24⟩,
     ⟨⟨24, 5⟩, .ro, 24⟩,
     ⟨⟨5, 1⟩, .ro, 0⟩,
     ⟨⟨13, 1⟩, .ro, 0⟩,
     ⟨⟨21, 1⟩, .ro, 0⟩,
     ⟨⟨29, 1⟩, .ro, 0⟩]⟩
/-- CMP_BAY_EVENT_n. -/
def rowCmpBayEvent : RegRow :=
  ⟨0x1000020, 0x40000, 32, 0x0, 1, 32, .bay, some 8, 0xF, some 16,
    [⟨fCmpBayEventCellRetired, .w1c, 0⟩,
     ⟨fCmpBayEventPortHalf, .w1c, 0⟩,
     ⟨fCmpBayEventBayDisabled, .w1c, 0⟩,
     ⟨fCmpBayEventDutyCapped, .w1c, 0⟩,
     ⟨fCmpBayEventEventIe, .rw, 0⟩,
     ⟨fCmpBayEventOverlap, .w1c, 0⟩]⟩
/-- CMP_BAY_RETIRE_n. -/
def rowCmpBayRetire : RegRow :=
  ⟨0x1000028, 0x40000, 32, 0x0, 1, 32, .owner, none, 0x0, none,
    [⟨fCmpBayRetireCell, .rw, 0⟩,
     ⟨fCmpBayRetireGo, .wo, 0⟩,
     ⟨fCmpBayRetireBusy, .ro, 0⟩,
     ⟨fCmpBayRetireResult, .ro, 0⟩]⟩
/-- CMP_BAY_DUTY_n. -/
def rowCmpBayDuty : RegRow :=
  ⟨0x1000030, 0x40000, 32, 0x0, 1, 32, .bay, none, 0x0, none,
    [⟨fCmpBayDutyDuty, .ro, 1024⟩,
     ⟨fCmpBayDutyTileCap, .ro, 1024⟩]⟩
/-- CMP_BAY_ARITH_n. -/
def rowCmpBayArith : RegRow :=
  ⟨0x1000038, 0x40000, 32, 0x0, 1, 32, .bay, some 8, 0x1F, some 16,
    [⟨fCmpBayArithNanMade, .w1c, 0⟩,
     ⟨fCmpBayArithFp8Sat, .w1c, 0⟩,
     ⟨fCmpBayArithInfMade, .w1c, 0⟩,
     ⟨fCmpBayArithIntSat, .w1c, 0⟩,
     ⟨fCmpBayArithNanToInt, .w1c, 0⟩,
     ⟨fCmpBayArithArithIe, .rw, 0⟩,
     ⟨fCmpBayArithOverlap, .w1c, 0⟩]⟩
/-- CMP_CTX_CTRL. -/
def rowCmpCtxCtrl : RegRow :=
  ⟨0x1800000, 0x0, 1, 0x0, 1, 32, .mapped, none, 0x0, none,
    [⟨fCmpCtxCtrlPartition, .rw, 0⟩,
     ⟨fCmpCtxCtrlContext, .rw, 0⟩,
     ⟨fCmpCtxCtrlOp, .rw, 0⟩,
     ⟨fCmpCtxCtrlGo, .wo, 0⟩,
     ⟨fCmpCtxCtrlBusy, .ro, 0⟩,
     ⟨fCmpCtxCtrlResult, .ro, 0⟩,
     ⟨fCmpCtxCtrlState, .ro, 0⟩]⟩
/-- CMP_CTX_SAVE. -/
def rowCmpCtxSave : RegRow :=
  ⟨0x1800008, 0x0, 1, 0x0, 1, 64, .mapped, none, 0x0, none,
    [⟨fCmpCtxSaveAddr, .rw, 0⟩]⟩
/-- CMP_TASK_DB. -/
def rowCmpTaskDb : RegRow :=
  ⟨0x1810000, 0x8, 1024, 0x0, 1, 64, .context, none, 0x0, none,
    [⟨fCmpTaskDbDesc, .wo, 0⟩]⟩
/-- CMP_TASK_STAT. -/
def rowCmpTaskStat : RegRow :=
  ⟨0x1812000, 0x8, 1024, 0x0, 1, 64, .context, none, 0x300, some 16,
    [⟨fCmpTaskStatPending, .ro, 0⟩,
     ⟨fCmpTaskStatOverflow, .w1c, 0⟩,
     ⟨fCmpTaskStatRefused, .w1c, 0⟩,
     ⟨fCmpTaskStatRefuseCode, .ro, 0⟩,
     ⟨fCmpTaskStatOverlap, .w1c, 0⟩,
     ⟨fCmpTaskStatAccepted, .ro, 0⟩]⟩
/-- CMP_OPQ_STAT_n. -/
def rowCmpOpqStat : RegRow :=
  ⟨0x1000040, 0x40000, 32, 0x8, 4, 64, .bay, some 10, 0x300, some 16,
    [⟨fCmpOpqStatDepth, .ro, 0⟩,
     ⟨fCmpOpqStatRefused, .w1c, 0⟩,
     ⟨fCmpOpqStatErrored, .w1c, 0⟩,
     ⟨fCmpOpqStatStatIe, .rw, 0⟩,
     ⟨fCmpOpqStatOverlap, .w1c, 0⟩,
     ⟨fCmpOpqStatRefuseCode, .ro, 0⟩,
     ⟨fCmpOpqStatLastStatus, .ro, 0⟩,
     ⟨fCmpOpqStatAccepted, .ro, 0⟩]⟩
/-- CMP_OPQ_FID_n. -/
def rowCmpOpqFid : RegRow :=
  ⟨0x1000060, 0x40000, 32, 0x8, 4, 64, .bay, none, 0x0, none,
    [⟨fCmpOpqFidFaultId, .ro, 0⟩]⟩
/-- CMP_OPQ_FVA_n. -/
def rowCmpOpqFva : RegRow :=
  ⟨0x1000080, 0x40000, 32, 0x8, 4, 64, .bay, none, 0x0, none,
    [⟨fCmpOpqFvaVa, .ro, 0⟩]⟩

/-- The registers of the CMP block. -/
def rowsCmp : List RegRow :=
  [rowCmpBayHealth, rowCmpBayRole, rowCmpBayCells, rowCmpBayRows, rowCmpBayEvent, rowCmpBayRetire, rowCmpBayDuty, rowCmpBayArith, rowCmpCtxCtrl, rowCmpCtxSave, rowCmpTaskDb, rowCmpTaskStat, rowCmpOpqStat, rowCmpOpqFid, rowCmpOpqFva]

/-- RAL_PORT_STAT_n. -/
def rowRalPortStat : RegRow :=
  ⟨0x2000000, 0x10000, 8, 0x0, 1, 64, .owner, none, 0x0, none,
    [⟨fRalPortStatState, .ro, 0⟩,
     ⟨fRalPortStatWidth, .ro, 0⟩,
     ⟨fRalPortStatLanes, .ro, 0⟩,
     ⟨fRalPortStatEpoch, .ro, 0⟩,
     ⟨fRalPortStatTxAsleep, .ro, 0⟩,
     ⟨fRalPortStatRxAsleep, .ro, 0⟩,
     ⟨fRalPortStatRole, .ro, 0⟩,
     ⟨fRalPortStatPeerStack, .ro, 0⟩,
     ⟨fRalPortStatPeerPort, .ro, 0⟩,
     ⟨fRalPortStatPeerValid, .ro, 0⟩]⟩
/-- RAL_PORT_CTRL_n. -/
def rowRalPortCtrl : RegRow :=
  ⟨0x2000008, 0x10000, 8, 0x0, 1, 32, .owner, none, 0x0, none,
    [⟨fRalPortCtrlRetrain, .wo, 0⟩,
     ⟨fRalPortCtrlManual, .rw, 0⟩,
     ⟨fRalPortCtrlProceed, .wo, 0⟩,
     ⟨fRalPortCtrlLoop, .rw, 0⟩,
     ⟨fRalPortCtrlLoopGo, .wo, 0⟩,
     ⟨fRalPortCtrlAllowFar, .rw, 0⟩,
     ⟨fRalPortCtrlRekey, .wo, 0⟩,
     ⟨fRalPortCtrlResult, .ro, 0⟩]⟩
/-- RAL_PORT_EVENT_n. -/
def rowRalPortEvent : RegRow :=
  ⟨0x2000010, 0x10000, 8, 0x0, 1, 32, .owner, some 8, 0x7F, some 16,
    [⟨fRalPortEventUp, .w1c, 0⟩,
     ⟨fRalPortEventSecure, .w1c, 0⟩,
     ⟨fRalPortEventRecover, .w1c, 0⟩,
     ⟨fRalPortEventFailed, .w1c, 0⟩,
     ⟨fRalPortEventLaneLost, .w1c, 0⟩,
     ⟨fRalPortEventKeyFail, .w1c, 0⟩,
     ⟨fRalPortEventTagFail, .w1c, 0⟩,
     ⟨fRalPortEventEventIe, .rw, 0⟩,
     ⟨fRalPortEventOverlap, .w1c, 0⟩]⟩
/-- RAL_PORT_CNT_n. -/
def rowRalPortCnt : RegRow :=
  ⟨0x2000018, 0x10000, 8, 0x0, 1, 64, .owner, none, 0x0, none,
    [⟨fRalPortCntFecCorr, .ro, 0⟩,
     ⟨fRalPortCntReplays, .ro, 0⟩,
     ⟨fRalPortCntTagFails, .ro, 0⟩,
     ⟨fRalPortCntRecovers, .ro, 0⟩]⟩
/-- RAL_PORT_CFG_n. -/
def rowRalPortCfg : RegRow :=
  ⟨0x2000020, 0x10000, 8, 0x0, 1, 32, .owner, none, 0x0, none,
    [⟨fRalPortCfgIdle, .rw, 40⟩]⟩
/-- RAL_PEER_DIG_n. -/
def rowRalPeerDig : RegRow :=
  ⟨0x2000040, 0x10000, 8, 0x8, 4, 64, .owner, none, 0x0, none,
    [⟨fRalPeerDigDig, .rw, 0⟩]⟩
/-- RAL_LANE_n. -/
def rowRalLane : RegRow :=
  ⟨0x2000100, 0x10000, 8, 0x8, 8, 32, .owner, none, 0x0, none,
    [⟨fRalLaneSlip, .wo, 0⟩,
     ⟨fRalLaneLock, .ro, 0⟩,
     ⟨fRalLaneState, .ro, 0⟩,
     ⟨fRalLaneErrors, .ro, 0⟩]⟩
/-- RAL_ENUM. -/
def rowRalEnum : RegRow :=
  ⟨0x2080000, 0x0, 1, 0x0, 1, 64, .owner, none, 0x0, none,
    [⟨fRalEnumGo, .wo, 0⟩,
     ⟨fRalEnumAdopt, .wo, 0⟩,
     ⟨fRalEnumBusy, .ro, 0⟩,
     ⟨fRalEnumResult, .ro, 0⟩,
     ⟨fRalEnumHead, .ro, 0⟩,
     ⟨fRalEnumClosed, .ro, 0⟩,
     ⟨fRalEnumStackId, .ro, 0⟩,
     ⟨fRalEnumCount, .ro, 0⟩,
     ⟨fRalEnumHasId, .ro, 0⟩,
     ⟨fRalEnumAdoptId, .rw, 0⟩,
     ⟨fRalEnumAdoptCount, .rw, 0⟩]⟩
/-- RAL_ESTATE. -/
def rowRalEstate : RegRow :=
  ⟨0x2080008, 0x0, 1, 0x0, 1, 32, .owner, none, 0x0, none,
    [⟨fRalEstateTrellis, .rw, 0⟩,
     ⟨fRalEstateSet, .w1s, 0⟩]⟩
/-- RAL_TRELLIS_HEALTH. -/
def rowRalTrellisHealth : RegRow :=
  ⟨0x2080010, 0x0, 1, 0x0, 1, 64, .owner, none, 0x0, none,
    [⟨fRalTrellisHealthWord, .ro, 0⟩]⟩
/-- RAL_TBAR_c. -/
def rowRalTbar : RegRow :=
  ⟨0x2081000, 0x8, 64, 0x0, 1, 64, .owner, none, 0x0, none,
    [⟨fRalTbarMembers, .rw, 0⟩,
     ⟨fRalTbarEstate, .rw, 0⟩,
     ⟨fRalTbarMaster, .rw, 0⟩,
     ⟨fRalTbarMasterTrellis, .rw, 0⟩,
     ⟨fRalTbarEstateCount, .rw, 0⟩]⟩

/-- The registers of the RAL block. -/
def rowsRal : List RegRow :=
  [rowRalPortStat, rowRalPortCtrl, rowRalPortEvent, rowRalPortCnt, rowRalPortCfg, rowRalPeerDig, rowRalLane, rowRalEnum, rowRalEstate, rowRalTrellisHealth, rowRalTbar]

/-- PCI_OWNER. -/
def rowPciOwner : RegRow :=
  ⟨0x2100000, 0x0, 1, 0x0, 1, 32, .all, none, 0x0, none,
    [⟨fPciOwnerOwner, .ro, 0⟩,
     ⟨fPciOwnerElected, .ro, 0⟩,
     ⟨fPciOwnerThisPort, .ro, 0⟩]⟩
/-- PCI_EVENT. -/
def rowPciEvent : RegRow :=
  ⟨0x2100010, 0x0, 1, 0x0, 1, 32, .owner, some 8, 0x1F, some 16,
    [⟨fPciEventLinkDownN, .w1c, 0⟩,
     ⟨fPciEventIdeInsecureN, .w1c, 0⟩,
     ⟨fPciEventFlr, .w1c, 0⟩,
     ⟨fPciEventEventIe, .rw, 0⟩,
     ⟨fPciEventOverlap, .w1c, 0⟩]⟩
/-- PCI_LINK_n. -/
def rowPciLink : RegRow :=
  ⟨0x2100100, 0x8, 2, 0x0, 1, 32, .owner, none, 0x0, none,
    [⟨fPciLinkSpeed, .ro, 0⟩,
     ⟨fPciLinkWidth, .ro, 0⟩,
     ⟨fPciLinkFlit, .ro, 0⟩,
     ⟨fPciLinkL0p, .ro, 0⟩,
     ⟨fPciLinkIde, .ro, 0⟩,
     ⟨fPciLinkNumVfs, .ro, 0⟩]⟩

/-- The registers of the PCI block. -/
def rowsPci : List RegRow :=
  [rowPciOwner, rowPciEvent, rowPciLink]

/-- BLD_SRC. -/
def rowBldSrc : RegRow :=
  ⟨0x2200000, 0x0, 1, 0x0, 1, 64, .owner, none, 0x0, none,
    [⟨fBldSrcAddr, .rw, 0⟩]⟩
/-- BLD_LEN. -/
def rowBldLen : RegRow :=
  ⟨0x2200008, 0x0, 1, 0x0, 1, 32, .owner, none, 0x0, none,
    [⟨fBldLenLen, .rw, 0⟩]⟩
/-- BLD_CTRL. -/
def rowBldCtrl : RegRow :=
  ⟨0x2200010, 0x0, 1, 0x0, 1, 32, .owner, some 10, 0x300, some 16,
    [⟨fBldCtrlStage, .wo, 0⟩,
     ⟨fBldCtrlBusy, .ro, 0⟩,
     ⟨fBldCtrlResult, .ro, 0⟩,
     ⟨fBldCtrlStaged, .ro, 0⟩,
     ⟨fBldCtrlLoaded, .ro, 0⟩,
     ⟨fBldCtrlDone, .w1c, 0⟩,
     ⟨fBldCtrlError, .w1c, 0⟩,
     ⟨fBldCtrlBldIe, .rw, 0⟩,
     ⟨fBldCtrlOverlap, .w1c, 0⟩]⟩
/-- BLD_ERR. -/
def rowBldErr : RegRow :=
  ⟨0x2200018, 0x0, 1, 0x0, 1, 64, .owner, none, 0x0, none,
    [⟨fBldErrCode, .ro, 0⟩,
     ⟨fBldErrSection, .ro, 0⟩,
     ⟨fBldErrOffset, .ro, 0⟩,
     ⟨fBldErrRecord, .ro, 0⟩,
     ⟨fBldErrStage, .ro, 0⟩]⟩
/-- BLD_BUILD. -/
def rowBldBuild : RegRow :=
  ⟨0x2200020, 0x0, 1, 0x0, 1, 64, .owner, none, 0x0, none,
    [⟨fBldBuildBuildId, .ro, 0⟩]⟩
/-- BLD_KEYDIG_k. -/
def rowBldKeydig : RegRow :=
  ⟨0x2200040, 0x8, 4, 0x0, 1, 64, .owner, none, 0x0, none,
    [⟨fBldKeydigDig, .rw, 0⟩]⟩

/-- The registers of the BLD block. -/
def rowsBld : List RegRow :=
  [rowBldSrc, rowBldLen, rowBldCtrl, rowBldErr, rowBldBuild, rowBldKeydig]

/-- Every register of the window. -/
def regRows : List RegRow :=
  rowsBup ++ rowsPwr ++ rowsThm ++ rowsSec ++ rowsDbg ++ rowsErr ++ rowsPlc ++ rowsXlt ++ rowsCel ++ rowsHbm ++ rowsCmp ++ rowsRal ++ rowsPci ++ rowsBld

/-- The index of the instance of `r` that holds byte offset `off`, if it holds it. With two strides the index is
count2 × first index + second index. -/
def RegRow.index (r : RegRow) (off : Nat) : Option Nat :=
  if off < r.base then none else
  let d := off - r.base
  let i := if r.stride = 0 then 0 else d / r.stride
  let e := d - i * r.stride
  let j := if r.stride2 = 0 then 0 else e / r.stride2
  let b := e - j * r.stride2
  if i < r.count ∧ j < r.count2 ∧ b < r.width / 8 then some (r.count2 * i + j) else none

/-- The BAR0 offset of instance `k` of a register. -/
def RegRow.addr (r : RegRow) (k : Nat) : Nat :=
  r.base + r.stride * (k / r.count2) + r.stride2 * (k % r.count2)

/-- The register and instance that hold byte offset `off`. -/
def regAt (off : Nat) : Option (RegRow × Nat) :=
  regRows.findSome? (fun r => (r.index off).map (fun k => (r, k)))

/-- The reset value that the field table gives. -/
def RegRow.tableReset (r : RegRow) : Word :=
  r.fields.foldl (fun v f => v ||| (BitVec.ofNat 64 (f.reset % 2 ^ f.f.w) <<< f.f.lo)) 0

end Sys2Proof.Machine
end

