-- ==== Sys2Proof/Machine/Ops.lean ====
section
/-! DEFINITION. The named operations that every family shares: the register store, partitions and the functions mapped
to them, the address map, error records, health words and unit counts. -/

namespace Sys2Proof.Machine

open Sys2Proof

/-! ### Register store (R16 to R21) -/

/-- The field's value in a register's word. -/
def Fld.get (f : Fld) (v : Word) : Nat := v.toNat / 2 ^ f.lo % 2 ^ f.w

/-- The bits of a field. -/
def Fld.mask (f : Fld) : Word := BitVec.ofNat 64 ((2 ^ f.w - 1) * 2 ^ f.lo)

/-- A register's word with a field replaced. -/
def Fld.put (f : Fld) (v : Word) (x : Nat) : Word :=
  (v &&& ~~~ f.mask) ||| BitVec.ofNat 64 (x % 2 ^ f.w * 2 ^ f.lo)

/-- One bit of a field of several bits. -/
def Fld.bit (f : Fld) (i : Nat) : Fld := ⟨f.lo + i, 1⟩

/-- Package power limit in W and CLK_CMP in MHz of a variant (R4). -/
def variantLimit (v : Nat) : Nat := if v = 0 then 850 else if v = 1 then 650 else 450

/-- Reset values that depend on the instance or the variant: CEL_SLICE_STAT_n.subst is n, PWR_LIMIT holds the variant
limit, THM_LIMIT_L differs by L. -/
def regSpecial (variant : Nat) (r : RegRow) (k : Nat) : Word :=
  if r.base = rCelSliceStat 0 then fCelSliceStatSubst.put 0 k
  else if r.base = rPwrLimit then
    fPwrLimitVariantLimit.put (fPwrLimitLimit.put 0 (variantLimit variant)) (variantLimit variant)
  else if r.base = rThmLimit 0 then
    fThmLimitTrip.put (fThmLimitLimit.put 0 (if k = 1 then 0x5F0 else 0x640)) (if k = 1 then 0x6E0 else 0x730)
  else 0

/-- The value of a register after power-up (R18). -/
def regReset (variant off : Nat) : Word :=
  match regAt off with
  | none => 0
  | some (r, k) => r.tableReset ||| regSpecial variant r k

/-- The stored value of the register at a BAR0 offset. -/
def State.reg (s : State) (off : Nat) : Word := (smGet s.regs off).getD (regReset s.bup.variant off)

/-- Store a register's value. -/
def State.setReg (s : State) (off : Nat) (v : Word) : State :=
  { s with regs := smPut s.regs off v (regReset s.bup.variant off) }

/-- A field of a stored register. -/
def State.fld (s : State) (off : Nat) (f : Fld) : Nat := f.get (s.reg off)

/-- Set a field of a stored register. -/
def State.setFld (s : State) (off : Nat) (f : Fld) (x : Nat) : State := s.setReg off (f.put (s.reg off) x)

/-- Return every register whose offset satisfies a test to its reset value. -/
def State.resetRegs (s : State) (p : Nat → Bool) : State := { s with regs := smKeep s.regs (fun o => !p o) }

/-- Add to a field, saturating at its largest value. -/
def State.addSat (s : State) (off : Nat) (f : Fld) (n : Nat) : State :=
  s.setFld off f (Nat.min (s.fld off f + n) (2 ^ f.w - 1))

/-- Add to a field, modulo its range. -/
def State.addMod (s : State) (off : Nat) (f : Fld) (n : Nat) : State := s.setFld off f (s.fld off f + n)

/-- Send something out. -/
def State.emit (s : State) (o : Out) : State := { s with out := s.out ++ [o] }

/-- Take a fresh index for the free values of Config. -/
def State.tick (s : State) : State := { s with free := s.free + 1 }

/-! ### Functions and partitions (R353, R305, R306) -/

/-- The key of a function in the configuration-space map. -/
def fnKey (f : Fn) : Nat := 32 * f.port + f.vf

/-- Configuration space after reset of a function. -/
def FnCfg.initial : FnCfg := ⟨false, 0, 0, false, false, false, 0, false, 43, none⟩

/-- The configuration space of a function. -/
def State.fn (s : State) (f : Fn) : FnCfg := smGetD s.fns (fnKey f) FnCfg.initial

/-- Store the configuration space of a function. -/
def State.setFn (s : State) (f : Fn) (c : FnCfg) : State :=
  { s with fns := smPut s.fns (fnKey f) c FnCfg.initial }

/-- The owner port's physical function, once elected (R350). -/
def State.ownerFn (s : State) : Option Fn := s.pci.owner.map (fun p => ⟨p, 0⟩)

/-- Is this function the owner port's physical function? -/
def State.isOwner (s : State) (f : Fn) : Bool := s.ownerFn = some f

/-- The security state of a partition; open or absent where nothing is held (R423). -/
def State.secState (s : State) (p : Nat) : Nat :=
  match smGet s.sec.parts p with
  | some q => q.state
  | none =>
    match s.bup.blend with
    | some b => if (smGet b.parts p).isSome then 1 else 0
    | none => 0

/-- Is the partition sealed? -/
def State.sealed (s : State) (p : Nat) : Bool := s.secState p = 3

/-- The PART record in force: of a sealing or sealed partition the one of its SEAL (R441), else the loaded Blend's. -/
def State.part (s : State) (p : Nat) : Option Part :=
  match smGet s.sec.parts p with
  | some q => if q.state = 2 ∨ q.state = 3 then q.part else s.bup.blend.bind (fun b => smGet b.parts p)
  | none => s.bup.blend.bind (fun b => smGet b.parts p)

/-- The OPER records in force of a partition. -/
def State.opers (s : State) (p : Nat) : List Oper :=
  match smGet s.sec.parts p with
  | some q =>
    if q.state = 2 ∨ q.state = 3 then q.snapOpers
    else ((s.bup.blend.map Blend.opers).getD []).filter (fun o => o.part = p)
  | none => ((s.bup.blend.map Blend.opers).getD []).filter (fun o => o.part = p)

/-- The partition that satisfies a test on its PART record, lowest number first. -/
def State.findPart (s : State) (t : Part → Bool) : Option Nat :=
  (List.range 16).find? (fun p => match s.part p with | some r => t r | none => false)

/-- The partition that holds bay `b`. -/
def State.partOfBay (s : State) (b : Nat) : Option Nat := s.findPart (fun r => nbit r.bays.toNat b)

/-- The partition whose share holds a local address. -/
def State.partOfAddr (s : State) (a : Nat) : Option Nat :=
  s.findPart (fun r => r.base ≤ a && a < r.base + r.len)

/-- The function is mapped to partition `p`; the owner's physical function reaches every partition (R306). -/
def State.mapped (s : State) (p : Nat) (f : Fn) : Bool :=
  s.isOwner f ||
  match s.part p with
  | none => false
  | some r => if f.vf = 0 then nbit r.pf.toNat f.port else nbit r.vf.toNat (16 * f.port + f.vf - 1)

/-- The function is mapped to some partition. -/
def State.mappedAny (s : State) (f : Fn) : Bool := (List.range 16).any (fun p => s.mapped p f)

/-- The 34 functions of the two ports. -/
def allFns : List Fn := (List.range 2).flatMap (fun p => (List.range 17).map (fun v => ⟨p, v⟩))

/-! ### Interrupts (R345, R361, R362) -/

/-- Signal a vector of a function: nothing when MSI-X is disabled, a Pending Bit when the vector is masked. -/
def sendMsix (s : State) (f : Fn) (v : Nat) : State :=
  let c := s.fn f
  if !c.msix then s
  else if nbit c.mask.toNat v then s.setFn f { c with pend := c.pend ||| BitVec.ofNat 32 (2 ^ v) }
  else s.emit (.msix f v)

/-- Signal the owner's physical function. -/
def msixOwner (s : State) (v : Nat) : State :=
  match s.ownerFn with
  | none => s
  | some f => sendMsix s f v

/-- Signal a partition-scoped source: vector 16 + p of the owner's physical function and of every physical function
mapped to p, vector `vfVec` of every virtual function mapped to p. -/
def msixPart (s : State) (p vfVec : Nat) : State :=
  foldS (allFns.filter (s.mapped p)) s (fun t f => sendMsix t f (if f.vf = 0 then 16 + p else vfVec))

/-- Signal a source of a bay: partition-scoped where the bay is in a partition, else vector 10. -/
def msixBay (s : State) (b vfVec : Nat) : State :=
  match s.partOfBay b with
  | some p => msixPart s p vfVec
  | none => msixOwner s 10

/-- Signal the message of a register with an interrupt enable, by its block and instance. -/
def signal (s : State) (r : RegRow) (k : Nat) : State :=
  if r.base = rErrStat then msixOwner s 0
  else if r.base = rPlcDistCtrl then msixOwner s 5
  else if r.base = rHbmStkEvent 0 then msixOwner s 6
  else if r.base = rCelEvent 0 then msixOwner s 7
  else if r.base = rRalPortEvent 0 then msixOwner s 8
  else if r.base = rPciEvent then msixOwner s 9
  else if r.base = rCmpBayEvent 0 ∨ r.base = rCmpBayArith 0 then msixBay s k 3
  else if r.base = rCmpOpqStat 0 0 then msixBay s (k / 4) 2
  else if r.base = rXltCmdStat 0 then msixPart s (k / 64) 1
  else if r.base = rXltFlogPtr 0 then msixPart s k 0
  else if r.base = rSecPartEvent 0 then msixOwner s 3
  else if r.base = rDbgEvent then msixOwner s 4
  else if r.base = rPwrEvent ∨ r.base = rThmEvent then msixOwner s 2
  else msixOwner s 1

/-- Hardware sets status bits of a register: a message when a covered bit rises and the enable is 1 (R345). -/
def raiseMask (s : State) (off : Nat) (m : Word) : State :=
  let old := s.reg off
  let s1 := s.setReg off (old ||| m)
  match regAt off with
  | none => s1
  | some (r, k) =>
    match r.ie with
    | none => s1
    | some e =>
      if nbit old.toNat e ∧ (m &&& ~~~ old &&& BitVec.ofNat 64 r.covered) ≠ 0 then signal s1 r k else s1

/-- Set a status field. -/
def raise (s : State) (off : Nat) (f : Fld) : State := raiseMask s off f.mask

/-! ### Counters and trace (R491 to R496) -/

/-- An event counted `n` times by every DBG_CNT_k that selects it; `bay` 0xFF and `part` 0xFF for none. -/
def countEv (s : State) (ev bay part n : Nat) : State :=
  foldS (List.range 16) s (fun t k =>
    let v := t.reg (rDbgCnt k)
    if fDbgCntEvent.get v = ev ∧ (fDbgCntBayAll.get v = 1 ∨ bay = 0xFF ∨ fDbgCntBay.get v = bay) ∧
        (fDbgCntPartEn.get v = 0 ∨ fDbgCntPartition.get v = part) then
      t.addMod (rDbgCnt k) fDbgCntCount n
    else t)

/-- A trace record's 256 bits (R494); `flr` is the CLK_FLR count since the last CLK_AON edge. -/
def traceRecord (aon flr kind bay part ctx arg32 addr arg64 : Nat) : BitVec 256 :=
  BitVec.ofNat 256 (aon % 2 ^ 48 + 2 ^ 48 * (flr % 512) + 2 ^ 64 * (kind % 256) + 2 ^ 72 * (bay % 256)
    + 2 ^ 80 * (part % 256) + 2 ^ 88 * (ctx % 256) + 2 ^ 96 * (arg32 % 2 ^ 32) + 2 ^ 128 * (addr % 2 ^ 64)
    + 2 ^ 192 * (arg64 % 2 ^ 64))

/-- The frame key of a slice, set and way (R183). -/
def frameKey (slice set way : Nat) : Nat := 524288 * slice + 16 * set + way

/-- Four buffered records are written into their frame (R493); the ring wraps, or stops with DBG_TRACE_CFG.stop. -/
def traceFlush (s : State) : State :=
  let cfg := s.reg rDbgTraceCfg
  let ws := ones (fDbgTraceCfgWays.get cfg) 16
  let a := s.dbg.trSlices.length
  let f := s.fld rDbgTraceStat fDbgTraceStatNext / 4 - 1
  let q := f / a
  let sl := s.dbg.trSlices.getD (f % a) 0
  let key := frameKey sl (q / ws.length) (ws.getD (q % ws.length) 0)
  let line : Line := s.dbg.trBuf.zipIdx.foldl (fun d e => d ||| (BitVec.ofNat 1024 e.1.toNat <<< (256 * e.2))) 0
  let gone := smGetD s.cel.slices sl ⟨0, sl, [], [], [], [], [], [], [], [], [], [], []⟩ |>.state
  let s1 : State := { s with dbg := { s.dbg with
    trBuf := []
    trace := if gone = 2 then s.dbg.trace else smPut s.dbg.trace key line 0 } }
  let s2 := if gone = 2 then s1.addSat rDbgTraceStat fDbgTraceStatDropped 4 else s1
  if f + 1 = a * ws.length * 32768 then
    if fDbgTraceCfgStop.get cfg = 1 then
      raise (s2.setFld rDbgTraceStat fDbgTraceStatFull 1) rDbgEvent fDbgEventTraceFull
    else (s2.setFld rDbgTraceStat fDbgTraceStatNext 0).setFld rDbgTraceStat fDbgTraceStatWrapped 1
  else s2

/-- Trace an event of kind `k` (R495); a sealed partition's record carries no arguments (R496). -/
def trace (s : State) (k bay part ctx arg32 addr arg64 : Nat) : State :=
  let cfg := s.reg rDbgTraceCfg
  if fDbgTraceCfgEn.get cfg = 1 ∧ s.fld rDbgTraceStat fDbgTraceStatFull = 0 ∧ s.dbg.frozen = 0 ∧
      s.pwr.state = 0 ∧ nbit (fDbgTraceCfgEvents.get cfg) k ∧
      (fDbgTraceCfgPartEn.get cfg = 0 ∨ fDbgTraceCfgPart.get cfg = part) then
    let hide := s.sealed part
    let r := traceRecord s.pwr.aon (Config.choose s.free) k bay part ctx (if hide then 0 else arg32)
      (if hide then 0 else addr) (if hide then 0 else arg64)
    let s1 := s.tick.addMod rDbgTraceStat fDbgTraceStatNext 1
    let s2 : State := { s1 with dbg := { s1.dbg with trBuf := s1.dbg.trBuf ++ [r] } }
    if s2.dbg.trBuf.length = 4 then traceFlush s2 else s2
  else s

/-! ### Error records (R340 to R342) -/

/-- The record's 256 bits (R341). -/
def errRecord (src sev seq part time : Nat) (payload : BitVec 128) : BitVec 256 :=
  BitVec.ofNat 256 (src % 256 + 2 ^ 8 * (sev % 256) + 2 ^ 16 * (seq % 65536) + 2 ^ 32 * (part % 256)
    + 2 ^ 64 * (time % 2 ^ 64) + 2 ^ 128 * payload.toNat)

/-- Post a record: it enters the queue, or is dropped when 64 are held; either way it takes a sequence number. A record
of severity 2 drives ALERT_N (R546). -/
def postErr (s : State) (src sev part : Nat) (payload : Nat) : State :=
  let r := errRecord src sev s.dbg.errSeq.toNat part s.pwr.aon (BitVec.ofNat 128 payload)
  let s0 : State := { s with dbg := { s.dbg with errSeq := s.dbg.errSeq + 1 } }
  let s1 := trace s0 13 0xFF part 0xFF s.dbg.errSeq.toNat 0 0
  if s.dbg.errq.length < 64 then
    let s2 := { s1 with
      dbg := { s1.dbg with errq := s1.dbg.errq ++ [r] }
      pci := { s1.pci with alert := s1.pci.alert || sev = 2 } }
    raise s2 rErrStat fErrStatNew
  else raise (s1.addSat rErrStat fErrStatDropped 1) rErrStat fErrStatOverflow

/-- The partition field of a record: 0xFF for none. -/
def partByte (p : Option Nat) : Nat := p.getD 0xFF

/-- Address error record (R51, R342): requester code, write, local address. -/
def addrError (s : State) (requester : Nat) (write : Bool) (a : Nat) : State :=
  postErr s 5 1 (partByte (s.partOfAddr a)) (requester + 256 * b2n write + 2 ^ 64 * a)

/-- Count corrections in ERR_CE_k (R327). -/
def countCe (s : State) (k n : Nat) : State := s.addMod (rErrCe k) fErrCeCount n

/-- Capture syndromes of a codeword in error with the sequence number of the record just posted (R329). -/
def captureSynd (s : State) (synd : Nat) : State :=
  s.setReg rErrSynd (fErrSyndSeq.put (fErrSyndSynd.put 0 synd) (s.dbg.errSeq - 1).toNat)

/-! ### Bring-up state -/

/-- Step k is done (BUP_DONE). -/
def State.stepDone (s : State) (k : Nat) : Bool := nbit (s.reg rBupDone).toNat k

/-- The always-on domain runs: PWRGOOD asserted, SYS_RESET_N high and no supply fault (R541, R543, R545). -/
def State.on (s : State) : Bool := s.pci.pwrgood && !s.pci.resetLow && !s.pci.supplyFault && !s.pwr.shutdown

/-- Queues accept work: step 10 is done and the stack has not failed (R525, R46). -/
def State.enabled (s : State) : Bool := s.stepDone 10 && !s.bup.failed && !s.bup.holding

/-- No freeze is in force. -/
def State.thawed (s : State) : Bool := s.dbg.frozen = 0

/-! ### Cells, bays, slices, channels (R42, R43, R80, R83, R87) -/

/-- Bay of cell 24 r + c. -/
def bayOfCell (i : Nat) : Nat := 4 * (i / 24 / 4) + i % 24 / 6

/-- Local index of cell 24 r + c in its bay. -/
def localOfCell (i : Nat) : Nat := 6 * (i / 24 % 4) + i % 24 % 6

/-- Cell 24 r + c of local index i in bay b. -/
def cellOf (b i : Nat) : Nat := 24 * (4 * (b / 4) + i / 6) + 6 * (b % 4) + i % 6

/-- The cells of a bay by local index. -/
def cellsOfBay (b : Nat) : List Nat := (List.range 24).map (cellOf b)

/-- Skip site of a row (R80). -/
def State.skipOf (s : State) (r : Nat) : Nat := smGetD s.bup.skip r 24

/-- Physical site that carries cell 24 r + c. -/
def State.siteOf (s : State) (i : Nat) : Nat := if i % 24 < s.skipOf (i / 24) then i % 24 else i % 24 + 1

/-- Power tile of a site of a row (R83): 8 × tile row + tile column. -/
def tileOfSite (r site : Nat) : Nat := 8 * (r / 4) + (if site < 21 then site / 3 else 7)

/-- State of a cell as CMP_BAY_CELLS codes it. -/
def State.cellSt (s : State) (i : Nat) : Nat := smGetD s.bup.cells i 0

/-- The cell is in service. -/
def State.cellOn (s : State) (i : Nat) : Bool := s.cellSt i = 0

/-- Role of a cell (R60); a cell out of service is parked (R62). -/
def State.role (s : State) (i : Nat) : Nat := if s.cellOn i then nbits s.bup.roles.toNat (2 * i) 2 else 0

/-- Number of active cells of a bay. -/
def State.bayActive (s : State) (b : Nat) : Nat := ((cellsOfBay b).filter s.cellOn).length

/-- The bay is in service: neither disabled nor excluded. -/
def State.bayOn (s : State) (b : Nat) : Bool := smGetD s.bup.bayOff b 0 = 0

/-- Bays in service. -/
def State.baysOn (s : State) : Nat := ((List.range 32).filter s.bayOn).length

/-- Active cells of the stack. -/
def State.cellsOn (s : State) : Nat := ((List.range 768).filter s.cellOn).length

/-- A slice as it stands when nothing is held for it. -/
def Slice.initial (n : Nat) : Slice := ⟨0, n, [], [], [], [], [], [], [], [], [], [], []⟩

/-- The controller state of slice n. -/
def State.slice (s : State) (n : Nat) : Slice := smGetD s.cel.slices n (Slice.initial n)

/-- Store the controller state of slice n. -/
def State.setSlice (s : State) (n : Nat) (x : Slice) : State :=
  { s with cel := { s.cel with slices := smPut s.cel.slices n x (Slice.initial n) } }

/-- Active slices. -/
def State.slicesOn (s : State) : Nat := ((List.range 192).filter (fun n => (s.slice n).state = 0)).length

/-- State code of a channel: 0 in service, 1 mapped out, 2 failed in service. -/
def State.chanSt (s : State) (c : Nat) : Nat := s.fld (rHbmChStat c) fHbmChStatState

/-- Channels in service. -/
def State.chansOn (s : State) : Nat := ((List.range 192).filter (fun c => s.chanSt c = 0)).length

/-- Channels mapped out, in ascending order. -/
def State.chansOut (s : State) : List Nat := (List.range 192).filter (fun c => s.chanSt c = 1)

/-- Open power-via bundles of a tile, by the interface beneath the supplied layer (R38). -/
def State.openVias (s : State) (iface tile : Nat) : Nat :=
  (s.bup.vias.filter (fun k => k / 1024 = iface ∧ k % 1024 / 16 = tile)).length

/-- Cap of a tile in 1,024ths: (16 − f)/16 (R39). -/
def State.tileCap (s : State) (iface tile : Nat) : Nat := 64 * (16 - s.openVias iface tile)

/-- Tiles that hold the sites of a bay's cells in service. -/
def State.bayTiles (s : State) (b : Nat) : List Nat :=
  ((cellsOfBay b).filter s.cellOn).map (fun i => tileOfSite (i / 24) (s.siteOf i))

/-- Lowest power-tile cap on a bay (R83). -/
def State.bayCap (s : State) (b : Nat) : Nat := (s.bayTiles b).foldl (fun m t => Nat.min m (s.tileCap 5 t)) 1024

/-! ### Health (R45, R46) -/

/-- The floor of a variant: active cells, slices, channels (R523). -/
def gradeFloor (v : Nat) : Nat × Nat × Nat :=
  if v = 0 then (744, 188, 188) else if v = 1 then (720, 184, 186) else (696, 180, 184)

/-- The stack reports a degraded grade. -/
def State.belowFloor (s : State) : Bool :=
  let (c, l, h) := gradeFloor s.bup.variant
  s.cellsOn < c || s.slicesOn < l || s.chansOn < h

/-- The stack's health state (R45, R46, R527). -/
def State.health (s : State) : Nat :=
  if s.bup.failed then 6
  else if s.bup.holding then 4
  else if s.pci.frozenPin then 5
  else if !s.stepDone 10 then 1
  else if s.bup.retired || s.fld rBupGrade fBupGradeDegraded = 1 then 3
  else 2

/-- Compute capacity of a bay in 24 × 1,024ths. -/
def State.bayCapacity (s : State) (b : Nat) : Nat := s.bayActive b * s.bayCap b

/-- The health word's layout. -/
def healthWord (state active total mem cmp events gen : Nat) : Word :=
  BitVec.ofNat 64 (state % 16 + 2 ^ 8 * (active % 256) + 2 ^ 16 * (total % 256) + 2 ^ 24 * (mem % 256)
    + 2 ^ 32 * (cmp % 256) + 2 ^ 40 * (events % 256) + 2 ^ 48 * (gen % 65536))

/-- PLC_HEALTH: after power-up and until step 3 reads 1 (initialising) with every count of R45 filled from step 7. -/
def State.stackHealth (s : State) : Word :=
  if !s.stepDone 7 ∧ !s.bup.enabledOnce then BitVec.ofNat 64 s.health
  else
    let cap := (List.range 32).foldl (fun a b => a + s.bayCapacity b) 0
    healthWord s.health s.baysOn 32 (100 * s.chansOn / 192) (100 * cap / (768 * 1024)) (Nat.min s.bup.events 255)
      s.plc.gen.toNat

/-- The state of a bay: failed, the stack's own while it is not working, degraded, ready (R45). -/
def State.bayState (s : State) (b : Nat) : Nat :=
  if !s.bayOn b then 6
  else if s.health ≠ 2 ∧ s.health ≠ 3 then s.health
  else if (cellsOfBay b).any (fun i => s.cellSt i = 2) ∨ smGetD s.bup.half b 0 ≠ 0 then 3
  else 2

/-- CMP_BAY_HEALTH_n. -/
def State.bayHealth (s : State) (b : Nat) : Word :=
  if !s.stepDone 7 ∧ !s.bup.enabledOnce then BitVec.ofNat 64 (s.bayState b)
  else
    healthWord (s.bayState b) (s.bayActive b) 24
      (if !s.bayOn b then 0 else if smGetD s.bup.half b 0 ≠ 0 then 50 else 100)
      (100 * s.bayCapacity b / (24 * 1024))
      (Nat.min (smGetD s.bup.bayEv b 0) 255) s.plc.gen.toNat

/-- The generation of the distance table increments, and PLC_DIST_CTRL.change is set; not before the first step 10. -/
def incGen (s : State) : State :=
  if s.bup.enabledOnce then
    raise { s with plc := { s.plc with gen := s.plc.gen + 1 } } rPlcDistCtrl fPlcDistCtrlChange
  else s

/-- The stack has failed once no bay or no HBM channel remains in service (R46). -/
def checkFailed (s : State) : State :=
  if s.baysOn = 0 ∨ s.chansOn = 0 then { s with bup := { s.bup with failed := true } } else s

/-- The unit that a wake of a kind starts: floor, slices, ports, bays, units under test. -/
def wakeClass (kind : Nat) : Nat := if kind = 2 then 1 else if kind = 5 then 4 else kind

/-- Queue a wake (R460): a unit has at most one wake pending, and a later request of higher priority raises it. -/
def queueWake (s : State) (kind unit : Nat) (high : Bool) : State :=
  let same := fun (w : Wake) => w.unit = unit && wakeClass w.kind = wakeClass kind
  let up := fun (w : Wake) => if same w then { w with high := w.high || high } else w
  if s.pwr.wakes.any same || s.pwr.rails.any same then
    { s with pwr := { s.pwr with wakes := s.pwr.wakes.map up, rails := s.pwr.rails.map up } }
  else { s with pwr := { s.pwr with
    wakes := s.pwr.wakes ++ [⟨kind, unit, high, s.pwr.wakeClock, s.pwr.aon⟩]
    wakeClock := s.pwr.wakeClock + 1 } }

/-- Work for a bay: a gated bay wakes (R450, R451): kind 5 clock start, kind 4 power-up. -/
def wakeBay (s : State) (b : Nat) (high : Bool) : State :=
  let g := smGetD s.pwr.bayGate b 0
  if g = 0 then s else queueWake s (if g = 2 then 4 else 5) b high

/-- A cell of the bay is under in-service test: the bay's wakes wait for the restore (R530). -/
def State.bayUnderTest (s : State) (b : Nat) : Bool :=
  match s.bup.tstUnit with
  | some (k, u) => k = 1 && bayOfCell u = b
  | none => false

/-- The bay is in service and its clock runs. -/
def State.bayRuns (s : State) (b : Nat) : Bool := s.bayOn b && smGetD s.pwr.bayGate b 0 = 0

/-- A vertical or retirement event of this run, counted in the health word. -/
def countEvent (s : State) : State := { s with bup := { s.bup with events := s.bup.events + 1 } }

/-- An entry of the new-defect list: not listed twice, 1,024 at most (R522). -/
def newDefect (s : State) (e : Word) : State :=
  if s.bup.nd.contains e then s
  else if s.bup.nd.length < 1024 then
    raise { s with bup := { s.bup with nd := s.bup.nd ++ [e] } } rBupEvent fBupEventNewdefect
  else { s with bup := { s.bup with ndOver := true } }

/-- The 8-byte record that names a unit (R316): type, tag, bytes 4 to 7. -/
def unitEntry (typ tag arg : Nat) : Word := BitVec.ofNat 64 (typ + 2 ^ 8 * tag + 2 ^ 16 * 8 + 2 ^ 32 * arg)

/-- What an always-on domain that has lost the rest keeps of the power state: the running thermal model and the cycle
count (R484, R543). -/
def keepThermal (p : PwrSt) : PwrSt :=
  { ({} : PwrSt) with
    aon := p.aon, pkg := p.pkg, temps := p.temps, power := p.power, offs := p.offs, tripRun := p.tripRun
    modelOn := p.modelOn, substep := p.substep, shutdown := p.shutdown, tripRounds := p.tripRounds
    sensorsOnly := p.sensorsOnly, diodeBad := p.diodeBad, trims := p.trims }

/-- An alert condition holds (R546). -/
def State.alerting (s : State) : Bool :=
  s.fld rThmStat fThmStatThrottling = 1 || (List.range 6).any (fun d => s.fld (rHbmStkStat d) fHbmStkStatHot = 1)
    || s.pwr.halved || s.pci.thermtrip || s.dbg.errq.any (fun r => nbits r.toNat 8 8 = 2)

/-- ALERT_N is driven low when a condition begins. -/
def alertAssert (s : State) : State := if s.alerting then { s with pci := { s.pci with alert := true } } else s

/-- ALERT_N at the end of a round: low exactly while a condition holds. -/
def alertRound (s : State) : State := { s with pci := { s.pci with alert := s.alerting } }

/-! ### Addresses (R47 to R50, R230) -/

/-- This stack's trellis id: 0 until host software has assigned one (R49, R400). -/
def State.trellisId (s : State) : Nat :=
  if s.fld rRalEstate fRalEstateSet = 1 then s.fld rRalEstate fRalEstateTrellis else 0

/-- This stack's stack id. -/
def State.stackId (s : State) : Nat := s.fld rRalEnum fRalEnumStackId

/-- Usable HBM capacity in bytes (HBM_CAP.backed_top). -/
def State.backedTop (s : State) : Nat := s.fld rHbmCap fHbmCapBackedTop

/-- The local address lies in the backed HBM data window. -/
def State.backed (s : State) (a : Nat) : Bool := a < s.backedTop

/-- The enumerated stack count, 1 before enumeration. -/
def State.peerCount (s : State) : Nat := Nat.max 1 (s.fld rRalEnum fRalEnumCount)

/-- Decode of a fabric address (R48, R49, R51). -/
def State.fabric (s : State) (a : Nat) : Phys :=
  let t := a / 2 ^ 47 % 1024
  let k := a / 2 ^ 43 % 16
  let l := a % 2 ^ 43
  if t = s.trellisId ∧ k = s.stackId then (if s.backed l then .hbm l else .bad l)
  else if t = s.trellisId then (if k < s.peerCount then .remote (a % 2 ^ 57) else .bad l)
  else if s.fld rRalEstate fRalEstateSet = 1 then .remote (a % 2 ^ 57) else .bad l

end Sys2Proof.Machine
end

