-- ==== Sys2Proof/Machine/Flags.lean ====
section
/-! DEFINITION. The arithmetic status of a bay (R94, R103, R118) and the comparison conditions of the cell instruction set
(R131). -/

namespace Sys2Proof.Machine

open Sys2Proof

/-- A unit of bay `b` meets events: bits [4:0] of CMP_BAY_ARITH_n are set (R118). -/
def raiseArith (s : State) (b st : Nat) : State :=
  if st % 32 = 0 then s else raiseMask s (rCmpBayArith b) (BitVec.ofNat 64 (st % 32))

/-- Conditions 0 eq, 1 ne, 2 lt, 3 ge (signed), 4 ult, 5 uge (R131). -/
def condHolds (c : Nat) (a b : Word) : Bool :=
  if c = 0 then a == b
  else if c = 1 then a != b
  else if c = 2 then a.slt b
  else if c = 3 then !a.slt b
  else if c = 4 then a.ult b
  else !a.ult b

/-- All ones or zero. -/
def maskOf (b : Bool) : Word := if b then BitVec.allOnes 64 else 0

/-- Leading zeros; 64 for 0. -/
def clz64 (a : Word) : Nat := if a = 0 then 64 else 63 - Nat.log2 a.toNat

/-- Trailing zeros; 64 for 0. -/
def ctz64 (a : Word) : Nat := ((List.range 64).find? (fun i => a.getLsbD i)).getD 64

/-- Signed quotient, rounded towards zero; 0 for b = 0; −2^63 ÷ −1 is −2^63. -/
def quotS (a b : Word) : Word := if b = 0 then 0 else BitVec.ofInt 64 (a.toInt.tdiv b.toInt)

/-- Signed remainder, with the sign of a; a for b = 0. -/
def remS (a b : Word) : Word := if b = 0 then a else BitVec.ofInt 64 (a.toInt.tmod b.toInt)

/-- Unsigned quotient; 0 for b = 0. -/
def quotU (a b : Word) : Word := if b = 0 then 0 else BitVec.ofNat 64 (a.toNat / b.toNat)

/-- Unsigned remainder; a for b = 0. -/
def remU (a b : Word) : Word := if b = 0 then a else BitVec.ofNat 64 (a.toNat % b.toNat)

end Sys2Proof.Machine
end

