-- ==== Sys2Proof/Machine/Isa.lean ====
section
/-! DEFINITION. The 32-bit words of the cell instruction set (R129 to R131): the word of a thread instruction, and the
instruction of a word, where every other word is an illegal instruction (R130). A thread command carries its instruction's
fields; the word is what a fault record reports (R149), and a field that no instruction can hold makes the command name no
instruction. -/

namespace Sys2Proof.Machine

open Sys2Proof

/-- Format R. -/
def wordR (op d a b fn : Nat) : BitVec 32 :=
  BitVec.ofNat 32 (op * 2 ^ 26 + d % 64 * 2 ^ 20 + a % 64 * 2 ^ 14 + b % 64 * 2 ^ 8 + fn % 256)

/-- Formats K and C: two registers and 14 bits. -/
def wordK (op d a imm : Nat) : BitVec 32 :=
  BitVec.ofNat 32 (op * 2 ^ 26 + d % 64 * 2 ^ 20 + a % 64 * 2 ^ 14 + imm % 2 ^ 14)

/-- Format L. -/
def wordL (op d imm : Nat) : BitVec 32 := BitVec.ofNat 32 (op * 2 ^ 26 + d % 64 * 2 ^ 20 + imm % 2 ^ 20)

/-- Format J. -/
def wordJ (op imm : Nat) : BitVec 32 := BitVec.ofNat 32 (op * 2 ^ 26 + imm % 2 ^ 26)

/-- Format M. -/
def wordM (op d a hint imm : Nat) : BitVec 32 := wordK op d a (hint % 4 * 2 ^ 12 + imm % 2 ^ 12)

/-- The word of a thread instruction; none for a command that is no instruction. -/
def isaWord : Instr → Option (BitVec 32)
  | .add _ d a b => some (wordR 0x00 d a b 0x00)
  | .sub _ d a b => some (wordR 0x00 d a b 0x01)
  | .and _ d a b => some (wordR 0x00 d a b 0x02)
  | .or _ d a b => some (wordR 0x00 d a b 0x03)
  | .xor _ d a b => some (wordR 0x00 d a b 0x04)
  | .andn _ d a b => some (wordR 0x00 d a b 0x05)
  | .shl _ d a b => some (wordR 0x00 d a b 0x06)
  | .shr _ d a b => some (wordR 0x00 d a b 0x07)
  | .sar _ d a b => some (wordR 0x00 d a b 0x08)
  | .min _ d a b => some (wordR 0x00 d a b 0x0A)
  | .max _ d a b => some (wordR 0x00 d a b 0x0B)
  | .minu _ d a b => some (wordR 0x00 d a b 0x0C)
  | .maxu _ d a b => some (wordR 0x00 d a b 0x0D)
  | .mul _ d a b => some (wordR 0x00 d a b 0x10)
  | .mulhs _ d a b => some (wordR 0x00 d a b 0x11)
  | .mulhu _ d a b => some (wordR 0x00 d a b 0x12)
  | .divs _ d a b => some (wordR 0x00 d a b 0x14)
  | .divu _ d a b => some (wordR 0x00 d a b 0x15)
  | .rmds _ d a b => some (wordR 0x00 d a b 0x16)
  | .rmdu _ d a b => some (wordR 0x00 d a b 0x17)
  | .clz _ d a => some (wordR 0x00 d a 0 0x18)
  | .ctz _ d a => some (wordR 0x00 d a 0 0x19)
  | .popc _ d a => some (wordR 0x00 d a 0 0x1A)
  | .sel _ d a b => some (wordR 0x00 d a b 0x1B)
  | .fadd _ fmt d a b => some (wordR 0x01 d a b (fmt * 64 + 0x00))
  | .fsub _ fmt d a b => some (wordR 0x01 d a b (fmt * 64 + 0x01))
  | .fmul _ fmt d a b => some (wordR 0x01 d a b (fmt * 64 + 0x02))
  | .fmac _ fmt d a b => some (wordR 0x01 d a b (fmt * 64 + 0x03))
  | .fmin _ fmt d a b => some (wordR 0x01 d a b (fmt * 64 + 0x04))
  | .fmax _ fmt d a b => some (wordR 0x01 d a b (fmt * 64 + 0x05))
  | .feq _ fmt d a b => some (wordR 0x01 d a b (fmt * 64 + 0x06))
  | .flt _ fmt d a b => some (wordR 0x01 d a b (fmt * 64 + 0x07))
  | .fle _ fmt d a b => some (wordR 0x01 d a b (fmt * 64 + 0x08))
  | .fabs _ fmt d a => some (wordR 0x01 d a 0 (fmt * 64 + 0x09))
  | .fneg _ fmt d a => some (wordR 0x01 d a 0 (fmt * 64 + 0x0A))
  | .frcp _ fmt d a => some (wordR 0x01 d a 0 (fmt * 64 + 0x0B))
  | .frsq _ fmt d a => some (wordR 0x01 d a 0 (fmt * 64 + 0x0C))
  | .fexp2 _ fmt d a => some (wordR 0x01 d a 0 (fmt * 64 + 0x0D))
  | .flog2 _ fmt d a => some (wordR 0x01 d a 0 (fmt * 64 + 0x0E))
  | .cvt _ d a src target sat => some (wordR 0x02 d a src (target % 64 + 64 * b2n sat))
  | .cmp _ cond d a b => some (wordR 0x03 d a b cond)
  | .addk _ d a imm => some (wordK 0x04 d a imm.toNat)
  | .andk _ d a imm => some (wordK 0x05 d a imm.toNat)
  | .ork _ d a imm => some (wordK 0x06 d a imm.toNat)
  | .xork _ d a imm => some (wordK 0x07 d a imm.toNat)
  | .cmpkLt _ d a imm => some (wordK 0x08 d a imm.toNat)
  | .cmpkUlt _ d a imm => some (wordK 0x09 d a imm.toNat)
  | .shlk _ d a imm => some (wordK 0x0A d a imm.toNat)
  | .shrk _ d a imm => some (wordK 0x0B d a imm.toNat)
  | .sark _ d a imm => some (wordK 0x0C d a imm.toNat)
  | .seti _ d imm => some (wordL 0x0D d imm.toNat)
  | .shin _ d imm => some (wordL 0x0E d imm.toNat)
  | .pca _ d imm => some (wordL 0x0F d imm.toNat)
  | .ldl _ d imm => some (wordL 0x1A d imm.toNat)
  | .cbrEq _ a b imm => some (wordK 0x10 a b imm.toNat)
  | .cbrNe _ a b imm => some (wordK 0x11 a b imm.toNat)
  | .cbrLt _ a b imm => some (wordK 0x12 a b imm.toNat)
  | .cbrGe _ a b imm => some (wordK 0x13 a b imm.toNat)
  | .cbrUlt _ a b imm => some (wordK 0x14 a b imm.toNat)
  | .cbrUge _ a b imm => some (wordK 0x15 a b imm.toNat)
  | .jmp _ imm => some (wordJ 0x16 imm.toNat)
  | .call _ imm => some (wordJ 0x17 imm.toNat)
  | .jmpr _ a imm => some (wordK 0x18 0 a imm.toNat)
  | .callr _ a imm => some (wordK 0x19 0 a imm.toNat)
  | .ldu8 _ d a hint imm => some (wordM 0x20 d a hint imm.toNat)
  | .lds8 _ d a hint imm => some (wordM 0x21 d a hint imm.toNat)
  | .ldu16 _ d a hint imm => some (wordM 0x22 d a hint imm.toNat)
  | .lds16 _ d a hint imm => some (wordM 0x23 d a hint imm.toNat)
  | .ldu32 _ d a hint imm => some (wordM 0x24 d a hint imm.toNat)
  | .lds32 _ d a hint imm => some (wordM 0x25 d a hint imm.toNat)
  | .ld64 _ d a hint imm => some (wordM 0x26 d a hint imm.toNat)
  | .st8 _ v a hint imm => some (wordM 0x28 v a hint imm.toNat)
  | .st16 _ v a hint imm => some (wordM 0x29 v a hint imm.toNat)
  | .st32 _ v a hint imm => some (wordM 0x2A v a hint imm.toNat)
  | .st64 _ v a hint imm => some (wordM 0x2B v a hint imm.toNat)
  | .sacc _ op d a b => some (wordR 0x2C d a b op)
  | .pref _ d a hint imm => some (wordM 0x2D d a hint imm.toNat)
  | .cinv _ a imm => some (wordM 0x2E 0 a 0 imm.toNat)
  | .fenceRelease _ => some (wordR 0x30 0 0 0 1)
  | .fenceAcquire _ => some (wordR 0x30 0 0 0 2)
  | .fenceFull _ => some (wordR 0x30 0 0 0 3)
  | .barrierInit _ scope d a ctr => some (wordR 0x31 d a ctr (128 * scope))
  | .barrierArrive _ scope d ctr => some (wordR 0x31 d 0 ctr (128 * scope + 1))
  | .barrierWait _ scope a ctr => some (wordR 0x31 0 a ctr (128 * scope + 2))
  | .barrierQuery _ scope d ctr => some (wordR 0x31 d 0 ctr (128 * scope + 3))
  | .flagSet _ d a b rel => some (wordR 0x32 d a b (16 * b2n rel))
  | .flagAdd _ d a b rel => some (wordR 0x32 d a b (16 * b2n rel + 1))
  | .flagWait _ d a b cond => some (wordR 0x32 d a b (4 * (cond % 4) + 2))
  | .opcall _ d a q => some (wordR 0x34 d a 0 (q % 4))
  | .spawn _ d a _ => some (wordR 0x35 d a 0 0)
  | .nop _ => some (wordR 0x38 0 0 0 0)
  | .exit _ => some (wordR 0x38 0 0 0 1)
  | .brk _ => some (wordR 0x38 0 0 0 2)
  | .rds _ d b => some (wordR 0x38 d 0 b 3)
  | _ => none

/-- Integer operations of major opcode 0x00, by fn. -/
def decodeInt (t d a b : Nat) : Nat → Option Instr
  | 0x00 => some (.add t d a b)
  | 0x01 => some (.sub t d a b)
  | 0x02 => some (.and t d a b)
  | 0x03 => some (.or t d a b)
  | 0x04 => some (.xor t d a b)
  | 0x05 => some (.andn t d a b)
  | 0x06 => some (.shl t d a b)
  | 0x07 => some (.shr t d a b)
  | 0x08 => some (.sar t d a b)
  | 0x0A => some (.min t d a b)
  | 0x0B => some (.max t d a b)
  | 0x0C => some (.minu t d a b)
  | 0x0D => some (.maxu t d a b)
  | 0x10 => some (.mul t d a b)
  | 0x11 => some (.mulhs t d a b)
  | 0x12 => some (.mulhu t d a b)
  | 0x14 => some (.divs t d a b)
  | 0x15 => some (.divu t d a b)
  | 0x16 => some (.rmds t d a b)
  | 0x17 => some (.rmdu t d a b)
  | 0x18 => if b = 0 then some (.clz t d a) else none
  | 0x19 => if b = 0 then some (.ctz t d a) else none
  | 0x1A => if b = 0 then some (.popc t d a) else none
  | 0x1B => some (.sel t d a b)
  | _ => none

/-- Floating-point operations of major opcode 0x01, by fn[5:0]. -/
def decodeFp (t fmt d a b : Nat) : Nat → Option Instr
  | 0x00 => some (.fadd t fmt d a b)
  | 0x01 => some (.fsub t fmt d a b)
  | 0x02 => some (.fmul t fmt d a b)
  | 0x03 => some (.fmac t fmt d a b)
  | 0x04 => some (.fmin t fmt d a b)
  | 0x05 => some (.fmax t fmt d a b)
  | 0x06 => some (.feq t fmt d a b)
  | 0x07 => some (.flt t fmt d a b)
  | 0x08 => some (.fle t fmt d a b)
  | 0x09 => if b = 0 then some (.fabs t fmt d a) else none
  | 0x0A => if b = 0 then some (.fneg t fmt d a) else none
  | 0x0B => if b = 0 then some (.frcp t fmt d a) else none
  | 0x0C => if b = 0 then some (.frsq t fmt d a) else none
  | 0x0D => if b = 0 then some (.fexp2 t fmt d a) else none
  | 0x0E => if b = 0 then some (.flog2 t fmt d a) else none
  | _ => none

/-- Barrier operations, by fn[1:0]; fields that an operation does not use are not marked as unused and are ignored. -/
def decodeBar (t scope d a ctr : Nat) : Nat → Option Instr
  | 0 => some (.barrierInit t scope d a ctr)
  | 1 => some (.barrierArrive t scope d ctr)
  | 2 => some (.barrierWait t scope a ctr)
  | 3 => some (.barrierQuery t scope d ctr)
  | _ => none

/-- Flag operations, by fn[1:0]. -/
def decodeFlag (t d a b cond : Nat) (rel : Bool) : Nat → Option Instr
  | 0 => some (.flagSet t d a b rel)
  | 1 => some (.flagAdd t d a b rel)
  | 2 => some (.flagWait t d a b cond)
  | _ => none

/-- Major opcode 0x38, by fn. -/
def decodeSys (t d a b : Nat) : Nat → Option Instr
  | 0 => if d = 0 ∧ a = 0 ∧ b = 0 then some (.nop t) else none
  | 1 => if d = 0 ∧ a = 0 ∧ b = 0 then some (.exit t) else none
  | 2 => if d = 0 ∧ a = 0 ∧ b = 0 then some (.brk t) else none
  | 3 => if a = 0 ∧ b ≤ 8 then some (.rds t d b) else none
  | _ => none

/-- FENCE, by fn. -/
def decodeFence (t d a b : Nat) (fn : Nat) : Option Instr :=
  if d ≠ 0 ∨ a ≠ 0 ∨ b ≠ 0 then none
  else if fn = 1 then some (.fenceRelease t)
  else if fn = 2 then some (.fenceAcquire t)
  else if fn = 3 then some (.fenceFull t)
  else none

/-- A shift by an immediate: imm14[13:6] is unused. -/
def shiftImm (imm14 : Nat) (f : BitVec 6 → Instr) : Option Instr :=
  if imm14 / 64 = 0 then some (f (BitVec.ofNat 6 imm14)) else none

/-- The instruction of a word at thread `t`, by its major opcode; none: illegal (R130). `desc` completes SPAWN. -/
def decodeMajor (t : Nat) (desc : ReadData) (v d a b fn : Nat) : Nat → Option Instr
  | 0x00 => decodeInt t d a b fn
  | 0x01 => if fn / 64 = 3 then none else decodeFp t (fn / 64) d a b (fn % 64)
  | 0x02 =>
    if fn / 128 = 0 ∧ (fn % 64 ≤ 6 ∨ fn % 64 = 0x3F) ∧ (b ≤ 6 ∨ b = 0x3F) then
      some (.cvt t d a b (fn % 64) (decide (fn / 64 % 2 = 1)))
    else none
  | 0x03 => if fn < 6 then some (.cmp t fn d a b) else none
  | 0x04 => some (.addk t d a (BitVec.ofNat 14 v))
  | 0x05 => some (.andk t d a (BitVec.ofNat 14 v))
  | 0x06 => some (.ork t d a (BitVec.ofNat 14 v))
  | 0x07 => some (.xork t d a (BitVec.ofNat 14 v))
  | 0x08 => some (.cmpkLt t d a (BitVec.ofNat 14 v))
  | 0x09 => some (.cmpkUlt t d a (BitVec.ofNat 14 v))
  | 0x0A => shiftImm (v % 2 ^ 14) (.shlk t d a)
  | 0x0B => shiftImm (v % 2 ^ 14) (.shrk t d a)
  | 0x0C => shiftImm (v % 2 ^ 14) (.sark t d a)
  | 0x0D => some (.seti t d (BitVec.ofNat 20 v))
  | 0x0E => some (.shin t d (BitVec.ofNat 20 v))
  | 0x0F => some (.pca t d (BitVec.ofNat 20 v))
  | 0x10 => some (.cbrEq t d a (BitVec.ofNat 14 v))
  | 0x11 => some (.cbrNe t d a (BitVec.ofNat 14 v))
  | 0x12 => some (.cbrLt t d a (BitVec.ofNat 14 v))
  | 0x13 => some (.cbrGe t d a (BitVec.ofNat 14 v))
  | 0x14 => some (.cbrUlt t d a (BitVec.ofNat 14 v))
  | 0x15 => some (.cbrUge t d a (BitVec.ofNat 14 v))
  | 0x16 => some (.jmp t (BitVec.ofNat 26 v))
  | 0x17 => some (.call t (BitVec.ofNat 26 v))
  | 0x18 => if d = 0 then some (.jmpr t a (BitVec.ofNat 14 v)) else none
  | 0x19 => if d = 0 then some (.callr t a (BitVec.ofNat 14 v)) else none
  | 0x1A => some (.ldl t d (BitVec.ofNat 20 v))
  | 0x20 => some (.ldu8 t d a (v / 2 ^ 12 % 4) (BitVec.ofNat 12 v))
  | 0x21 => some (.lds8 t d a (v / 2 ^ 12 % 4) (BitVec.ofNat 12 v))
  | 0x22 => some (.ldu16 t d a (v / 2 ^ 12 % 4) (BitVec.ofNat 12 v))
  | 0x23 => some (.lds16 t d a (v / 2 ^ 12 % 4) (BitVec.ofNat 12 v))
  | 0x24 => some (.ldu32 t d a (v / 2 ^ 12 % 4) (BitVec.ofNat 12 v))
  | 0x25 => some (.lds32 t d a (v / 2 ^ 12 % 4) (BitVec.ofNat 12 v))
  | 0x26 => some (.ld64 t d a (v / 2 ^ 12 % 4) (BitVec.ofNat 12 v))
  | 0x28 => if v / 2 ^ 12 % 4 = 3 then none else some (.st8 t d a (v / 2 ^ 12 % 4) (BitVec.ofNat 12 v))
  | 0x29 => if v / 2 ^ 12 % 4 = 3 then none else some (.st16 t d a (v / 2 ^ 12 % 4) (BitVec.ofNat 12 v))
  | 0x2A => if v / 2 ^ 12 % 4 = 3 then none else some (.st32 t d a (v / 2 ^ 12 % 4) (BitVec.ofNat 12 v))
  | 0x2B => if v / 2 ^ 12 % 4 = 3 then none else some (.st64 t d a (v / 2 ^ 12 % 4) (BitVec.ofNat 12 v))
  | 0x2C => if d % 4 = 0 ∧ 1 ≤ fn ∧ fn ≤ 6 then some (.sacc t fn d a b) else none
  | 0x2D => if d ≤ 1 then some (.pref t d a (v / 2 ^ 12 % 4) (BitVec.ofNat 12 v)) else none
  | 0x2E => if d = 0 ∧ v / 2 ^ 12 % 4 = 0 then some (.cinv t a (BitVec.ofNat 12 v)) else none
  | 0x30 => decodeFence t d a b fn
  | 0x31 => if fn / 4 % 32 = 0 then decodeBar t (fn / 128) d a b (fn % 4) else none
  | 0x32 => if fn / 32 = 0 then decodeFlag t d a b (fn / 4 % 4) (decide (fn / 16 % 2 = 1)) (fn % 4) else none
  | 0x34 => if a % 8 = 0 ∧ b = 0 ∧ fn < 4 then some (.opcall t d a fn) else none
  | 0x35 => if b = 0 ∧ fn = 0 then some (.spawn t d a desc) else none
  | 0x38 => decodeSys t d a b fn
  | _ => none

/-- The instruction of a word (R129 to R131); none: an illegal instruction. -/
def isaDecode (t : Nat) (desc : ReadData) (w : BitVec 32) : Option Instr :=
  decodeMajor t desc w.toNat (w.toNat / 2 ^ 20 % 64) (w.toNat / 2 ^ 14 % 64) (w.toNat / 2 ^ 8 % 64) (w.toNat % 256)
    (w.toNat / 2 ^ 26)

/-- What SPAWN carries beside its word. -/
def descOf : Instr → ReadData
  | .spawn _ _ _ desc => desc
  | _ => ⟨[], false⟩

/-- The thread of a thread instruction's command. -/
def slotOf : Instr → Nat
  | .add t _ _ _ => t
  | .sub t _ _ _ => t
  | .and t _ _ _ => t
  | .or t _ _ _ => t
  | .xor t _ _ _ => t
  | .andn t _ _ _ => t
  | .shl t _ _ _ => t
  | .shr t _ _ _ => t
  | .sar t _ _ _ => t
  | .min t _ _ _ => t
  | .max t _ _ _ => t
  | .minu t _ _ _ => t
  | .maxu t _ _ _ => t
  | .mul t _ _ _ => t
  | .mulhs t _ _ _ => t
  | .mulhu t _ _ _ => t
  | .divs t _ _ _ => t
  | .divu t _ _ _ => t
  | .rmds t _ _ _ => t
  | .rmdu t _ _ _ => t
  | .clz t _ _ => t
  | .ctz t _ _ => t
  | .popc t _ _ => t
  | .sel t _ _ _ => t
  | .fadd t _ _ _ _ => t
  | .fsub t _ _ _ _ => t
  | .fmul t _ _ _ _ => t
  | .fmac t _ _ _ _ => t
  | .fmin t _ _ _ _ => t
  | .fmax t _ _ _ _ => t
  | .feq t _ _ _ _ => t
  | .flt t _ _ _ _ => t
  | .fle t _ _ _ _ => t
  | .fabs t _ _ _ => t
  | .fneg t _ _ _ => t
  | .frcp t _ _ _ => t
  | .frsq t _ _ _ => t
  | .fexp2 t _ _ _ => t
  | .flog2 t _ _ _ => t
  | .cvt t _ _ _ _ _ => t
  | .cmp t _ _ _ _ => t
  | .addk t _ _ _ => t
  | .andk t _ _ _ => t
  | .ork t _ _ _ => t
  | .xork t _ _ _ => t
  | .cmpkLt t _ _ _ => t
  | .cmpkUlt t _ _ _ => t
  | .shlk t _ _ _ => t
  | .shrk t _ _ _ => t
  | .sark t _ _ _ => t
  | .seti t _ _ => t
  | .shin t _ _ => t
  | .pca t _ _ => t
  | .ldl t _ _ => t
  | .cbrEq t _ _ _ => t
  | .cbrNe t _ _ _ => t
  | .cbrLt t _ _ _ => t
  | .cbrGe t _ _ _ => t
  | .cbrUlt t _ _ _ => t
  | .cbrUge t _ _ _ => t
  | .jmp t _ => t
  | .call t _ => t
  | .jmpr t _ _ => t
  | .callr t _ _ => t
  | .ldu8 t _ _ _ _ => t
  | .lds8 t _ _ _ _ => t
  | .ldu16 t _ _ _ _ => t
  | .lds16 t _ _ _ _ => t
  | .ldu32 t _ _ _ _ => t
  | .lds32 t _ _ _ _ => t
  | .ld64 t _ _ _ _ => t
  | .st8 t _ _ _ _ => t
  | .st16 t _ _ _ _ => t
  | .st32 t _ _ _ _ => t
  | .st64 t _ _ _ _ => t
  | .sacc t _ _ _ _ => t
  | .pref t _ _ _ _ => t
  | .cinv t _ _ => t
  | .fenceRelease t => t
  | .fenceAcquire t => t
  | .fenceFull t => t
  | .barrierInit t _ _ _ _ => t
  | .barrierArrive t _ _ _ => t
  | .barrierWait t _ _ _ => t
  | .barrierQuery t _ _ _ => t
  | .flagSet t _ _ _ _ => t
  | .flagAdd t _ _ _ _ => t
  | .flagWait t _ _ _ _ => t
  | .opcall t _ _ _ => t
  | .spawn t _ _ _ => t
  | .nop t => t
  | .exit t => t
  | .brk t => t
  | .rds t _ _ => t
  | _ => 0

end Sys2Proof.Machine
end

