-- ==== Sys2Proof/Machine/Access.lean ====
section
/-! DEFINITION. Which accesses the register window serves (R352, R353, R455, R501, R514, R527) and when the parts of the
stack run. -/

namespace Sys2Proof.Machine

open Sys2Proof

/-- The blocks of BAR0 (R355). -/
inductive Blk where
  | bup | pwr | thm | sec | dbg | err | plc | xlt | cel | hbm | cmp | ral | pci | bld | none
  deriving DecidableEq, Repr

/-- The block that holds a BAR0 offset (R355). -/
def blockOf (off : Nat) : Blk :=
  if off < 0x100000 then .bup
  else if off < 0x180000 then .pwr
  else if off < 0x200000 then .thm
  else if off < 0x300000 then .sec
  else if off < 0x400000 then .dbg
  else if off < 0x500000 then .err
  else if off < 0x600000 then .plc
  else if off < 0x800000 then .xlt
  else if off < 0xC00000 then .cel
  else if off < 0x1000000 then .hbm
  else if off < 0x2000000 then .cmp
  else if off < 0x2100000 then .ral
  else if off < 0x2200000 then .pci
  else if off < 0x2300000 then .bld
  else .none

/-- The scope of the freeze in force: 0 none, 1 core, 2 full (R499). -/
def State.freeze (s : State) : Nat := s.dbg.frozen

/-- The stack sleeps or is in transit between power states (R455, R456). -/
def State.asleep (s : State) : Bool := s.pwr.state ≠ 0 || s.pwr.target.isSome

/-- The block responds: before step 2 only BUP, ERR and PCI (R352); asleep, in a core freeze and in a compute reset the
blocks that R456, R501 and R527 name; a full freeze takes the links down (R502). -/
def State.responds (s : State) (b : Blk) : Bool :=
  s.on && s.freeze ≠ 2 &&
  (if s.pci.owner = none ∨ ¬ s.stepDone 2 then [Blk.bup, .err, .pci].contains b else true) &&
  (if s.asleep then [Blk.bup, .pwr, .thm, .sec, .err, .ral, .pci].contains b else true) &&
  (if s.freeze = 1 then [Blk.bup, .pwr, .thm, .sec, .dbg, .err, .ral, .pci].contains b else true) &&
  (if s.bup.cresetRun then [Blk.bup, .pwr, .thm, .sec, .dbg, .err, .ral, .pci, .hbm, .bld].contains b else true)

/-- The function reaches the register (R353 and the register rule of each chapter). -/
def State.allows (s : State) (f : Fn) (r : RegRow) (k : Nat) : Bool :=
  match r.reach with
  | .owner => s.isOwner f
  | .bup => s.isOwner f
  | .all => true
  | .mapped => s.mappedAny f
  | .part => s.mapped k f
  | .context => s.mapped (k / 64) f
  | .bay =>
    -- a register with four queues to a bay is numbered 4 × bay + queue
    let b := if r.count2 = 4 then k / 4 else k
    match s.partOfBay b with
    | some p => s.mapped p f
    | none => s.isOwner f

/-- A write through the function takes effect at this offset. -/
def State.canWrite (s : State) (f : Fn) (off : Nat) : Bool :=
  s.responds (blockOf off) &&
  (match regAt off with
   | some (r, k) => s.allows f r k
   | none => false)

/-- The compute die, the cellar and the floor fabric run: power is on, no freeze, no sleep, no compute reset. -/
def State.live (s : State) : Bool := s.on && s.thawed && !s.asleep && !s.bup.cresetRun

/-- An access to a register of a bay wakes the bay, at the lower priority (R450, R460). -/
def regWake (s : State) (off : Nat) : State :=
  if 0x1000000 ≤ off ∧ off < 0x1800000 then wakeBay s ((off - 0x1000000) / 0x40000) false else s

/-- Start a register operation: when the function reaches the register and the block responds, else nothing. -/
def whenReached (s : State) (f : Fn) (off : Nat) (g : State → State) : State :=
  if s.canWrite f off then g (regWake s off) else s

/-- An event of the compute die, the cellar, HBM or the floor fabric, which happens only while they run. -/
def whenLive (s : State) (g : State → State) : State := if s.live then g s else s

end Sys2Proof.Machine
end

