-- ==== Sys2Proof/Machine/Compress.lean ====
section
/-! DEFINITION. Compression of cellar lines (R188 to R193): sector modes, their encoder in the order of R193, and the
decoder. -/

namespace Sys2Proof.Machine

open Sys2Proof

/-- Element `j` of `w` bytes of a sector (R191). -/
def elemOf (x : Sector) (w j : Nat) : Nat := nbits x.toNat (8 * w * j) (8 * w)

/-- The bytes that a base-delta of widths `w`, `d` gives the sector, if it reproduces it (R191). -/
def baseDelta (x : Sector) (w d : Nat) : Option (List Byte) :=
  let n := 32 / w
  let m := 2 ^ (8 * w)
  let base := elemOf x w 0
  let delta := fun j => (elemOf x w j + m - base) % m
  let fits := fun j =>
    if d = 0 then delta j = 0
    else delta j < 2 ^ (8 * d - 1) ∨ m - 2 ^ (8 * d - 1) ≤ delta j
  if (List.range n).all (fun j => fits j) then
    let wc := if w = 2 then 0 else if w = 4 then 1 else 2
    let dc := if d = 4 then 3 else d
    some (natBytes (wc + 4 * dc) 1 ++ natBytes base w
      ++ (List.range (n - 1)).flatMap (fun j => natBytes (delta (j + 1)) d))
  else none

/-- The sector that a base-delta payload encodes. -/
def baseDeltaDec (p : List Byte) : Option (Sector × Nat) :=
  let h := leAt p 0 1
  let wc := h % 4
  let dc := h / 4 % 4
  let w := if wc = 0 then 2 else if wc = 1 then 4 else 8
  let d := if dc = 3 then 4 else dc
  if wc = 3 ∨ w ≤ d ∨ 16 ≤ h then none
  else
    let n := 32 / w
    let base := leAt p 1 w
    let delta := fun j => if d = 0 ∨ j = 0 then 0 else sext (leAt p (1 + w + (j - 1) * d) d) (8 * d)
    let elem := fun j => (((base : Int) + delta j) % (2 ^ (8 * w) : Nat)).toNat
    some ((List.range n).foldl (fun a j => a ||| BitVec.ofNat 256 (elem j * 2 ^ (8 * w * j))) 0, 1 + w + (n - 1) * d)

/-- Width of an element of an exponent-run type, and the place and width of its exponent field (R192). -/
def expoShape (t : Nat) : Nat × Nat × Nat := if t = 0 then (16, 7, 8) else if t = 1 then (8, 3, 4) else (8, 2, 5)

/-- Exponent and rest (sign uppermost) of an element. -/
def expoSplit (t e : Nat) : Nat × Nat :=
  let (w, lo, k) := expoShape t
  (nbits e lo k, nbits e 0 lo + 2 ^ lo * (e / 2 ^ (w - 1) % 2))

/-- The element of an exponent and a rest. -/
def expoJoin (t ex rest : Nat) : Nat :=
  let (w, lo, k) := expoShape t
  rest % 2 ^ lo + 2 ^ lo * (ex % 2 ^ k) + 2 ^ (w - 1) * (rest / 2 ^ lo % 2)

/-- Bytes of a little-endian bit stream of `n` fields of `w` bits. -/
def bitStream (n w : Nat) (f : Nat → Nat) : List Byte :=
  natBytes ((List.range n).foldl (fun a j => a + f j % 2 ^ w * 2 ^ (w * j)) 0) (n * w / 8)

/-- The bytes that an exponent-run of type `t` and offset width `b` gives, if it reproduces the sector. The base is the
smallest exponent (DESIGN CHOICE, assumption log 23). -/
def expoRun (x : Sector) (t b : Nat) : Option (List Byte) :=
  let w := (expoShape t).1
  let n := 256 / w
  let el := fun j => expoSplit t (nbits x.toNat (w * j) w)
  let base := (List.range n).foldl (fun m j => Nat.min m (el j).1) 255
  if (List.range n).all (fun j => (el j).1 - base < 2 ^ b) then
    some (natBytes (t + 4 * b) 1 ++ natBytes base 1 ++ bitStream n b (fun j => (el j).1 - base)
      ++ bitStream n ((expoShape t).2.1 + 1) (fun j => (el j).2))
  else none

/-- The sector that an exponent-run payload encodes. -/
def expoRunDec (p : List Byte) : Option (Sector × Nat) :=
  let h := leAt p 0 1
  let t := h % 4
  let b := h / 4 % 4
  if t = 3 ∨ 16 ≤ h then none
  else
    let (w, lo, _) := expoShape t
    let n := 256 / w
    let base := leAt p 1 1
    let offs := leAt p 2 (n * b / 8)
    let rest := leAt p (2 + n * b / 8) (n * (lo + 1) / 8)
    some ((List.range n).foldl (fun a j => a ||| BitVec.ofNat 256
        (expoJoin t (base + nbits offs (b * j) b) (nbits rest ((lo + 1) * j) (lo + 1)) * 2 ^ (w * j))) 0,
      2 + n * b / 8 + n * (lo + 1) / 8)

/-- The sector encodings in the order of R193: mode and payload. -/
def sectorModes (x : Sector) : List (Nat × List Byte) :=
  (if x = 0 then [(0, [])] else [])
  ++ [(2, 0), (2, 1), (4, 0), (4, 1), (4, 2), (8, 0), (8, 1), (8, 2), (8, 4)].filterMap (fun e =>
      (baseDelta x e.1 e.2).map (fun p => (1, p)))
  ++ (List.range 3).flatMap (fun t => (List.range 4).filterMap (fun b => (expoRun x t b).map (fun p => (2, p))))
  ++ [(3, toBytes x 32)]

/-- The first encoding of smallest size (R193). -/
def encodeSector (x : Sector) : Nat × List Byte :=
  (sectorModes x).foldl (fun best e => if e.2.length < best.2.length then e else best) (3, toBytes x 32 ++ [0])

/-- Sector `j` of a line. -/
def sectorOf (d : Line) (j : Nat) : Sector := d.extractLsb' (256 * j) 256

/-- A line with sector `j` replaced. -/
def putSector (d : Line) (j : Nat) (x : Sector) : Line :=
  (d &&& ~~~ (BitVec.ofNat 1024 (2 ^ 256 - 1) <<< (256 * j))) ||| (BitVec.ofNat 1024 x.toNat <<< (256 * j))

/-- The encoding of a line (R189). -/
def encodeLine (d : Line) : List Byte :=
  let es := (List.range 4).map (fun j => encodeSector (sectorOf d j))
  natBytes (es.zipIdx.foldl (fun a e => a + e.1.1 * 4 ^ e.2) 0) 1 ++ es.flatMap Prod.snd

/-- The size class of a line's content (R189): 0, 32, 64 or 128. -/
def classOf (d : Line) : Nat :=
  if d = 0 then 0
  else
    let n := (encodeLine d).length
    if n ≤ 32 then 32 else if n ≤ 64 then 64 else 128

/-- One sector decoded from the bytes that are left: the sector and the bytes it used. -/
def decodeSector (mode : Nat) (p : List Byte) : Option (Sector × Nat) :=
  if mode = 0 then some (0, 0)
  else if mode = 1 then baseDeltaDec p
  else if mode = 2 then expoRunDec p
  else some (BitVec.ofNat 256 (leAt p 0 32), 32)

/-- The line that an encoding stands for; none where a sub-header has a reserved value. -/
def decodeLine (b : List Byte) : Option Line :=
  let m := leAt b 0 1
  ((List.range 4).foldl (fun (acc : Option (Line × List Byte)) j =>
    acc.bind (fun a => (decodeSector (m / 4 ^ j % 4) a.2).map (fun r => (putSector a.1 j r.1, a.2.drop r.2))))
    (some (0, b.drop 1))).map Prod.fst

/-- The bytes of a line as a class stores them (R188): the whole line, or the encoding padded with zeros. -/
def storedBytes (d : Line) (cls : Nat) : List Byte :=
  if cls = 128 then toBytes d 128 else padTo (encodeLine d) cls 0

end Sys2Proof.Machine
end

