-- ==== Sys2Proof/Machine/Crypto.lean ====
section
/-! DEFINITION. The public algorithms that the manual names (R410 and the security and link chapters): SHA-256, HMAC,
HKDF, AES-256, counter mode, GHASH, GCM and XTS, on bytes in the order of their standards (R12). -/

namespace Sys2Proof.Machine

open Sys2Proof

/-! ### SHA-256 (FIPS 180-4) -/

/-- The round constants. -/
def shaK : List (BitVec 32) :=
  [
    0x428a2f98, 0x71374491, 0xb5c0fbcf, 0xe9b5dba5, 0x3956c25b, 0x59f111f1, 0x923f82a4, 0xab1c5ed5,
    0xd807aa98, 0x12835b01, 0x243185be, 0x550c7dc3, 0x72be5d74, 0x80deb1fe, 0x9bdc06a7, 0xc19bf174] ++
  [
    0xe49b69c1, 0xefbe4786, 0x0fc19dc6, 0x240ca1cc, 0x2de92c6f, 0x4a7484aa, 0x5cb0a9dc, 0x76f988da,
    0x983e5152, 0xa831c66d, 0xb00327c8, 0xbf597fc7, 0xc6e00bf3, 0xd5a79147, 0x06ca6351, 0x14292967] ++
  [
    0x27b70a85, 0x2e1b2138, 0x4d2c6dfc, 0x53380d13, 0x650a7354, 0x766a0abb, 0x81c2c92e, 0x92722c85,
    0xa2bfe8a1, 0xa81a664b, 0xc24b8b70, 0xc76c51a3, 0xd192e819, 0xd6990624, 0xf40e3585, 0x106aa070] ++
  [
    0x19a4c116, 0x1e376c08, 0x2748774c, 0x34b0bcb5, 0x391c0cb3, 0x4ed8aa4a, 0x5b9cca4f, 0x682e6ff3,
    0x748f82ee, 0x78a5636f, 0x84c87814, 0x8cc70208, 0x90befffa, 0xa4506ceb, 0xbef9a3f7, 0xc67178f2]

/-- The initial hash value. -/
def shaH : List (BitVec 32) :=
  [
    0x6a09e667, 0xbb67ae85, 0x3c6ef372, 0xa54ff53a, 0x510e527f, 0x9b05688c, 0x1f83d9ab, 0x5be0cd19]

/-- σ0 and σ1 of the message schedule. -/
def shaS0 (x : BitVec 32) : BitVec 32 := x.rotateRight 7 ^^^ x.rotateRight 18 ^^^ (x >>> 3)

/-- σ1. -/
def shaS1 (x : BitVec 32) : BitVec 32 := x.rotateRight 17 ^^^ x.rotateRight 19 ^^^ (x >>> 10)

/-- The schedule's words, newest first, after `n` more words. -/
def shaExpand : Nat → List (BitVec 32) → List (BitVec 32)
  | 0, w => w
  | n + 1, w => shaExpand n ((shaS1 (w.getD 1 0) + w.getD 6 0 + shaS0 (w.getD 14 0) + w.getD 15 0) :: w)

/-- One round on the eight working words. -/
def shaRound (st : List (BitVec 32)) (kw : BitVec 32 × BitVec 32) : List (BitVec 32) :=
  match st with
  | [a, b, c, d, e, f, g, h] =>
    let t1 := h + (e.rotateRight 6 ^^^ e.rotateRight 11 ^^^ e.rotateRight 25) + ((e &&& f) ^^^ (~~~ e &&& g)) + kw.1
      + kw.2
    let t2 := (a.rotateRight 2 ^^^ a.rotateRight 13 ^^^ a.rotateRight 22) + ((a &&& b) ^^^ (a &&& c) ^^^ (b &&& c))
    [t1 + t2, a, b, c, d + t1, e, f, g]
  | _ => st

/-- The compression of one 64-byte block. -/
def shaBlock (h : List (BitVec 32)) (blk : List Byte) : List (BitVec 32) :=
  let w0 := (List.range 16).map (fun i => BitVec.ofNat 32 (beNat (sliceB blk (4 * i) 4)))
  let w := (shaExpand 48 w0.reverse).reverse
  let st := (shaK.zip w).foldl shaRound h
  (h.zip st).map (fun p => p.1 + p.2)

/-- The padded message. -/
def shaPad (m : List Byte) : List Byte :=
  m ++ [0x80] ++ List.replicate ((119 - m.length % 64) % 64) 0 ++ beBytes (8 * m.length) 8

/-- SHA-256. -/
def sha256 (m : List Byte) : List Byte :=
  let p := shaPad m
  let h := (List.range (p.length / 64)).foldl (fun h i => shaBlock h (sliceB p (64 * i) 64)) shaH
  h.flatMap (fun w => beBytes w.toNat 4)

/-- A digest as a number whose byte 0 is the digest's first byte. -/
def digest (m : List Byte) : BitVec 256 := BitVec.ofNat 256 (leNat (sha256 m))

/-- HMAC-SHA-256 (RFC 2104). -/
def hmac (key m : List Byte) : List Byte :=
  let k := padTo (if key.length > 64 then sha256 key else key) 64 0
  sha256 (k.map (· ^^^ 0x5C) ++ sha256 (k.map (· ^^^ 0x36) ++ m))

/-- HKDF-Expand: `n` blocks after the block `t` (RFC 5869). -/
def hkdfBlocks (prk info : List Byte) : Nat → Nat → List Byte → List Byte
  | 0, _, _ => []
  | n + 1, i, t =>
    let b := hmac prk (t ++ info ++ [BitVec.ofNat 8 i])
    b ++ hkdfBlocks prk info n (i + 1) b

/-- HKDF-Expand to `len` bytes. -/
def hkdfExpand (prk info : List Byte) (len : Nat) : List Byte :=
  (hkdfBlocks prk info (cdiv len 32) 1 []).take len

/-- HKDF with salt. -/
def hkdf (salt ikm info : List Byte) (len : Nat) : List Byte := hkdfExpand (hmac salt ikm) info len

/-- The bytes of a text. -/
def ascii (t : String) : List Byte := t.toList.map (fun c => BitVec.ofNat 8 c.toNat)

/-! ### AES-256 (FIPS 197) -/

/-- Multiplication by x in GF(2^8) with the field polynomial `poly` (9 bits). -/
def gfDouble (poly a : Nat) : Nat := if 2 * a < 256 then 2 * a else (2 * a) ^^^ poly

/-- Multiplication in GF(2^8). -/
def gfMul (poly a b : Nat) : Nat :=
  (List.range 8).foldl (fun acc i => gfDouble poly acc ^^^ (if nbit b (7 - i) then a else 0)) 0

/-- Powers in GF(2^8). -/
def gfPow (poly a : Nat) : Nat → Nat
  | 0 => 1
  | n + 1 => gfMul poly a (gfPow poly a n)

/-- The inverse in GF(2^8), 0 for 0: a^254 by squaring. -/
def gfInv (poly a : Nat) : Nat :=
  let sq := fun x => gfMul poly x x
  let a2 := sq a
  let a3 := gfMul poly a2 a
  let a6 := sq a3
  let a12 := sq a6
  let a15 := gfMul poly a12 a3
  let a30 := sq a15
  let a60 := sq a30
  let a120 := sq a60
  let a126 := gfMul poly a120 a6
  let a127 := gfMul poly a126 a
  sq a127

/-- The substitution byte. -/
def aesSbox (a : Nat) : Nat :=
  let b := gfInv 0x11B a
  let r := fun k => (b * 2 ^ k + b * 2 ^ k / 256) % 256
  b ^^^ r 1 ^^^ r 2 ^^^ r 3 ^^^ r 4 ^^^ 0x63

/-- One key schedule word: index `i`, the previous words newest first. -/
def aesKeyWord (i : Nat) (w : List (List Nat)) : List Nat :=
  let t := w.getD 0 []
  let t' :=
    if i % 8 = 0 then
      let r := (t.drop 1 ++ t.take 1).map aesSbox
      (r.take 1).map (· ^^^ gfPow 0x11B 2 (i / 8 - 1)) ++ r.drop 1
    else if i % 8 = 4 then t.map aesSbox else t
  (t'.zip (w.getD 7 [])).map (fun p => p.1 ^^^ p.2)

/-- The schedule's words, newest first, after `n` more words from index `i`. -/
def aesExpand : Nat → Nat → List (List Nat) → List (List Nat)
  | 0, _, w => w
  | n + 1, i, w => aesExpand n (i + 1) (aesKeyWord i w :: w)

/-- The fifteen round keys, 16 bytes each. -/
def aesKeys (key : List Byte) : List (List Nat) :=
  let w0 := (List.range 8).map (fun i => (sliceB key (4 * i) 4).map BitVec.toNat)
  let w := (aesExpand 52 8 w0.reverse).reverse
  (List.range 15).map (fun r => (List.range 4).flatMap (fun j => w.getD (4 * r + j) []))

/-- ShiftRows on the 16 bytes, column by column. -/
def aesShift (st : List Nat) : List Nat :=
  (List.range 16).map (fun i => st.getD ((i + 4 * (i % 4)) % 16) 0)

/-- MixColumns on one column's byte `r`. -/
def aesMix (st : List Nat) : List Nat :=
  (List.range 16).map (fun i =>
    let c := i / 4 * 4
    let x := fun k => st.getD (c + (i + k) % 4) 0
    gfMul 0x11B 2 (x 0) ^^^ gfMul 0x11B 3 (x 1) ^^^ x 2 ^^^ x 3)

/-- XOR of two lists of bytes. -/
def xorN (a b : List Nat) : List Nat := (a.zip b).map (fun p => p.1 ^^^ p.2)

/-- AES-256 encryption of one block under expanded keys. -/
def aesEncryptK (ks : List (List Nat)) (blk : List Byte) : List Byte :=
  let s0 := xorN (blk.map BitVec.toNat) (ks.getD 0 [])
  let s := (List.range 13).foldl (fun st r => xorN (aesMix (aesShift (st.map aesSbox))) (ks.getD (r + 1) [])) s0
  (xorN (aesShift (s.map aesSbox)) (ks.getD 14 [])).map (BitVec.ofNat 8)

/-- AES-256 encryption of one block. -/
def aesEncrypt (key blk : List Byte) : List Byte := aesEncryptK (aesKeys key) blk

/-- The inverse substitution byte. -/
def aesInvSbox (a : Nat) : Nat :=
  let r := fun k => (a * 2 ^ k + a * 2 ^ k / 256) % 256
  gfInv 0x11B (r 1 ^^^ r 3 ^^^ r 6 ^^^ 0x05)

/-- Inverse ShiftRows. -/
def aesInvShift (st : List Nat) : List Nat :=
  (List.range 16).map (fun i => st.getD ((i + 12 * (i % 4)) % 16) 0)

/-- Inverse MixColumns. -/
def aesInvMix (st : List Nat) : List Nat :=
  (List.range 16).map (fun i =>
    let c := i / 4 * 4
    let x := fun k => st.getD (c + (i + k) % 4) 0
    gfMul 0x11B 14 (x 0) ^^^ gfMul 0x11B 11 (x 1) ^^^ gfMul 0x11B 13 (x 2) ^^^ gfMul 0x11B 9 (x 3))

/-- AES-256 decryption of one block under expanded keys. -/
def aesDecryptK (ks : List (List Nat)) (blk : List Byte) : List Byte :=
  let s0 := (aesInvShift (xorN (blk.map BitVec.toNat) (ks.getD 14 []))).map aesInvSbox
  let s := (List.range 13).foldl
    (fun st r => (aesInvShift (aesInvMix (xorN st (ks.getD (13 - r) [])))).map aesInvSbox) s0
  (xorN s (ks.getD 0 [])).map (BitVec.ofNat 8)

/-! ### Modes -/

/-- XOR of byte strings, to the length of the first. -/
def xorB (a b : List Byte) : List Byte := (List.range a.length).map (fun i => a.getD i 0 ^^^ b.getD i 0)

/-- Counter mode from a 16-byte counter block whose last 32 bits count (SP 800-38D). -/
def aesCtr (key iv16 data : List Byte) : List Byte :=
  let ks := aesKeys key
  let c0 := beNat (iv16.drop 12)
  (List.range (cdiv data.length 16)).flatMap (fun i =>
    xorB ((data.drop (16 * i)).take 16)
      (aesEncryptK ks (iv16.take 12 ++ beBytes ((c0 + i) % 2 ^ 32) 4)))

/-- Multiplication in GF(2^128) of GCM, on numbers whose most significant bit is bit 0 of the standard. -/
def ghashMul (x y : Nat) : Nat :=
  ((List.range 128).foldl (fun (zv : Nat × Nat) i =>
    ((if nbit x (127 - i) then zv.1 ^^^ zv.2 else zv.1),
     (if zv.2 % 2 = 1 then (zv.2 / 2) ^^^ 0xE1000000000000000000000000000000 else zv.2 / 2))) (0, y)).1

/-- GHASH over data whose length is padded to blocks with zeros. -/
def ghash (h : Nat) (data : List Byte) : Nat :=
  (List.range (cdiv data.length 16)).foldl
    (fun y i => ghashMul (y ^^^ beNat (sliceB data (16 * i) 16)) h) 0

/-- Zero padding to a multiple of 16 bytes. -/
def pad16 (d : List Byte) : List Byte := d ++ List.replicate ((16 - d.length % 16) % 16) 0

/-- The GCM tag, 16 bytes, with a 12-byte IV. -/
def gcmTag (key iv aad ct : List Byte) : List Byte :=
  let ks := aesKeys key
  let h := beNat (aesEncryptK ks (List.replicate 16 0))
  let y := ghash h (pad16 aad ++ pad16 ct ++ beBytes (8 * aad.length) 8 ++ beBytes (8 * ct.length) 8)
  xorB (beBytes y 16) (aesEncryptK ks (iv ++ [0, 0, 0, 1]))

/-- GCM encryption (and decryption: the same counter stream). -/
def gcmCrypt (key iv data : List Byte) : List Byte := aesCtr key (iv ++ [0, 0, 0, 2]) data

/-- Multiplication of an XTS tweak by α (IEEE 1619), little-endian. -/
def xtsDouble (t : Nat) : Nat :=
  if t / 2 ^ 127 % 2 = 1 then (2 * t % 2 ^ 128) ^^^ 0x87 else 2 * t

/-- A number doubled `n` times in the field of XTS. -/
def xtsPow (t : Nat) : Nat → Nat
  | 0 => t
  | n + 1 => xtsDouble (xtsPow t n)

/-- XTS over whole 16-byte blocks of a data unit, from its block `first` on: key1, key2 (32 bytes each), 16-byte
tweak. -/
def xtsRun (enc : Bool) (k1 k2 tweak : List Byte) (first : Nat) (data : List Byte) : List Byte :=
  let ks := aesKeys k1
  let t0 := xtsPow (leNat (aesEncrypt k2 tweak)) first
  ((List.range (data.length / 16)).foldl (fun (acc : List Byte × Nat) i =>
    let t := natBytes acc.2 16
    let x := xorB (sliceB data (16 * i) 16) t
    (acc.1 ++ xorB (if enc then aesEncryptK ks x else aesDecryptK ks x) t, xtsDouble acc.2)) ([], t0)).1

end Sys2Proof.Machine
end

