-- ==== Sys2Proof/Machine/Rs.lean ====
section
/-! DEFINITION. The Reed–Solomon code of stored words (R322 to R326) and the shorter code of Raloth frames: encoder,
syndromes and decoder. -/

namespace Sys2Proof.Machine

open Sys2Proof

/-- The field polynomial x⁸ + x⁴ + x³ + x² + 1 (R322). -/
def rsPoly : Nat := 0x11D

/-- α to a power, with α = 2. -/
def alphaPow : Nat → Nat
  | 0 => 1
  | n + 1 => gfDouble rsPoly (alphaPow n)

/-- Product in the field of the code. -/
def rsMul (a b : Nat) : Nat := gfMul rsPoly a b

/-- The generator polynomial with roots α⁰ to α^(n−1), low coefficient first, without its leading 1. -/
def rsGen (n : Nat) : List Nat :=
  ((List.range n).foldl (fun g i =>
    xorN (0 :: g) (g.map (rsMul (alphaPow i)) ++ [0])) [1]).take n

/-- Check bytes: the remainder of the message polynomial, symbols given from the highest position down (R323). -/
def rsCheck (n : Nat) (msg : List Nat) : List Nat :=
  let g := rsGen n
  msg.foldl (fun r m =>
    let fb := m ^^^ r.getD (n - 1) 0
    xorN (0 :: r.take (n - 1)) (g.map (rsMul fb))) (List.replicate n 0)

/-- The message symbols of a codeword of stored words: virtual bytes at 72 to 70, then data bytes 63 to 0. -/
def rsMessage (v : Nat) (data : BitVec 512) : List Nat :=
  [nbits v 16 8, nbits v 8 8, nbits v 0 8] ++ ((toBytes data 64).reverse).map BitVec.toNat

/-- The six check bytes of a stored word of 64 bytes with virtual value V (R323, R324). -/
def checkBytes (v : Nat) (data : BitVec 512) : List Nat := rsCheck 6 (rsMessage v data)

/-- V of a cell-store word (R324). -/
def vCell (row site bank word : Nat) : Nat := row * 2 ^ 19 + site * 2 ^ 14 + bank * 2 ^ 9 + word

/-- V of a cellar codeword. -/
def vCellar (slice die row c : Nat) : Nat := slice % 16 * 2 ^ 20 + die * 2 ^ 18 + row * 2 + c

/-- V of an HBM codeword: A[29:6] xor (A[42:30] shifted left by 11). -/
def vHbm (a : Nat) : Nat := nbits a 6 24 ^^^ (nbits a 30 13 * 2 ^ 11)

/-- Syndromes of a difference pattern: S_i is the sum of d α^(i p) (R325). -/
def rsSynd (n : Nat) (errs : List (Nat × Nat)) : List Nat :=
  (List.range n).map (fun i => errs.foldl (fun a e => a ^^^ rsMul (alphaPow (i * e.1 % 255)) e.2) 0)

/-- Remove the contribution of position p from syndromes; one fewer remains. -/
def rsElim (p : Nat) (s : List Nat) : List Nat :=
  (s.drop 1).zipWith (fun hi lo => hi ^^^ rsMul (alphaPow (p % 255)) lo) s

/-- Positions, rising from p0 and below n, of a pattern of at most k symbols that yields the syndromes. -/
def rsFind (n : Nat) : Nat → Nat → List Nat → Option (List Nat)
  | 0, _, s => if s.all (· = 0) then some [] else none
  | k + 1, p0, s =>
    if s.all (· = 0) then some []
    else
      (List.range n).findSome? (fun p =>
        if p < p0 then none else (rsFind n k (p + 1) (rsElim p s)).map (p :: ·))

/-- The difference at position p, given every position of the pattern. -/
def rsMagnitude (ps : List Nat) (s : List Nat) (p : Nat) : Nat :=
  let others := ps.filter (· ≠ p)
  let u := others.foldl (fun t q => rsElim q t) s
  let den := others.foldl (fun a q => rsMul a (alphaPow (p % 255) ^^^ alphaPow (q % 255))) 1
  rsMul (u.getD 0 0) (gfInv rsPoly den)

/-- What the decoder gives (R325). -/
inductive RsOutcome where
  | clean
  /-- The pattern found: positions and differences. -/
  | corrected (pattern : List (Nat × Nat))
  | addressFault
  | uncorrectable
  deriving DecidableEq, Repr

/-- The decoder of a code of `n` positions with `c` check symbols: patterns of up to c/2 symbols; a pattern that touches
a position from `stored` on is an address fault. -/
def rsDecode (n c stored : Nat) (synd : List Nat) : RsOutcome :=
  if synd.all (· = 0) then .clean
  else
    match rsFind n (c / 2) 0 synd with
    | none => .uncorrectable
    | some ps =>
      if ps.any (fun p => stored ≤ p) then .addressFault
      else .corrected (ps.map (fun p => (p, rsMagnitude ps synd p)))

/-- The wrong symbols of codeword `cw` of a read, as positions and differences. -/
def errsOf (errs : List SymErr) (cw : Nat) : List (Nat × Nat) :=
  (errs.filter (fun e => e.cw = cw)).map (fun e => (e.pos, e.diff.toNat))

/-- Syndromes of codeword `cw` of a read. -/
def syndOf (errs : List SymErr) (cw : Nat) : List Nat := rsSynd 6 (errsOf errs cw)

/-- Syndromes as ERR_SYND holds them. -/
def syndNat (s : List Nat) : Nat := leNat (s.map (BitVec.ofNat 8))

/-- The outcome of decoding codeword `cw` of a read. -/
def decodeCw (errs : List SymErr) (cw : Nat) : RsOutcome := rsDecode 73 6 70 (syndOf errs cw)

/-- The data that a list of differences at positions 6 to 69 changes. -/
def flipData (d : BitVec 512) (ps : List (Nat × Nat)) : BitVec 512 :=
  ps.foldl (fun x e =>
    if 6 ≤ e.1 ∧ e.1 < 70 then x ^^^ (BitVec.ofNat 512 (e.2 % 256) <<< (8 * (e.1 - 6))) else x) d

/-- The 64 bytes delivered for codeword `cw`: as read, with the correction applied. -/
def deliver (errs : List SymErr) (cw : Nat) (stored : BitVec 512) : BitVec 512 :=
  let raw := flipData stored (errsOf errs cw)
  match decodeCw errs cw with
  | .corrected ps => flipData raw ps
  | _ => raw

/-- The codeword failed: uncorrectable, or an address fault. -/
def RsOutcome.bad : RsOutcome → Bool
  | .addressFault => true
  | .uncorrectable => true
  | _ => false

/-- The codeword was corrected. -/
def RsOutcome.fixed : RsOutcome → Bool
  | .corrected _ => true
  | _ => false

/-- The record kind of a failed codeword: 2 for an address fault, else 1 (R342). -/
def RsOutcome.kind : RsOutcome → Nat
  | .addressFault => 2
  | _ => 1

end Sys2Proof.Machine
end

