-- ==== Sys2Proof/Machine/HbmCore.lean ====
section
/-! DEFINITION. The HBM tier: the slice hash (R185), the place of a block (R223, R242), access to sealed ranges (R422,
R426), protection of sealed blocks (R428 to R430), and the requests of a channel (R231 to R234). The commands of the
tier are in Machine/Hbm.lean. -/

namespace Sys2Proof.Machine

open Sys2Proof

/-! ### Where a line lives (R185, R223, R242) -/

/-- The 512-byte group of a local address: A[37:9]. -/
def groupOf (a : Nat) : Nat := nbits a 9 29

/-- Channel-local group index L. -/
def lidxOf (a : Nat) : Nat := groupOf a / 192

/-- The fold of L. -/
def foldOf (l : Nat) : Nat := nbits l 0 6 ^^^ nbits l 6 6 ^^^ nbits l 12 6 ^^^ nbits l 18 6

/-- Slice and HBM channel of a local address (R185). -/
def sliceOf (a : Nat) : Nat := 64 * (groupOf a % 3) + ((groupOf a / 3 % 64) ^^^ foldOf (lidxOf a))

/-- Set of a local address. -/
def setOf (a : Nat) : Nat := lidxOf a % 32768

/-- Line within the group. -/
def lineOf (a : Nat) : Nat := nbits a 7 2

/-- The line address that holds a local address. -/
def lineAddr (a : Nat) : Nat := a / 128 * 128

/-- The block address that holds a local address. -/
def blockAddr (a : Nat) : Nat := a / 256 * 256

/-- The local address of a line from its channel, channel-local group index and line index: the inverse of R185. -/
def addrOf (ch l line : Nat) : Nat :=
  let r := ch / 64
  let g3 := 64 * l + (ch % 64 ^^^ foldOf l)
  (3 * g3 + r) * 512 + line * 128

/-- Groups that a channel holds. -/
def lMax : Nat := 2604166

/-- L′ with f channels mapped out (R230). -/
def lPrime (f : Nat) : Nat := (192 - f) * lMax / 192

/-- Storing channel and group slot of a local address: as R223, or relocated when its channel is mapped out (R242). -/
def State.placeOf (s : State) (a : Nat) : Nat × Nat :=
  let c := sliceOf a
  let l := lidxOf a
  if s.chanSt c = 1 then
    let out := s.chansOut
    let k := (out.filter (· < c)).length
    let ins := (List.range 192).filter (fun x => !out.contains x)
    let j := k * lPrime out.length + l
    (ins.getD (j % ins.length) 0, lPrime out.length + j / ins.length)
  else (c, l)

/-- Pseudo-channel of a local address: A[8]. -/
def pcOf (a : Nat) : Nat := nbits a 8 1

/-- The storage key of a block: channel, pseudo-channel and group slot. -/
def blockKey (d pc slot : Nat) : Nat := 2 ^ 24 * (2 * d + pc) + slot

/-- The set of a slice is under in-service test: requests to it wait at the controller (R530). -/
def State.setUnderTest (s : State) (n set : Nat) : Bool :=
  match s.bup.tstUnit with
  | some (k, u) => k = 2 && u / 256 = n && u % 64 = set / 512
  | none => false

/-- The block is under in-service test: requests to it wait (R530). -/
def State.blockUnderTest (s : State) (a : Nat) : Bool :=
  match s.bup.tstUnit with
  | some (k, u) => let (d, slot) := s.placeOf a; k = 3 && u / 1024 = 2 * d + pcOf a && u % 1024 = slot / 4096
  | none => false

/-- The key of the block that holds a local address. -/
def State.keyOf (s : State) (a : Nat) : Nat := let (d, q) := s.placeOf a; blockKey d (pcOf a) q

/-- A block with valid = 0 and nothing stored. -/
def Block.blank (a : Nat) : Block := ⟨blockAddr a, 0, 0, false, 0, false, false, false, 0⟩

/-- The block that holds a local address. -/
def State.block (s : State) (a : Nat) : Block := smGetD s.hbm.blocks (s.keyOf a) (Block.blank a)

/-- Store a block; one with valid = 0 and nothing stored is not listed. -/
def State.putBlock (s : State) (a : Nat) (b : Block) : State :=
  { s with hbm := { s.hbm with blocks := smPut s.hbm.blocks (s.keyOf a) b (Block.blank a) } }

/-! ### Requesters and sealed ranges (R421, R422, R426) -/

/-- The sealed partition whose share holds a local address. -/
def State.sealedAt (s : State) (a : Nat) : Option (Nat × SecPart) :=
  s.sec.parts.find? (fun e => e.2.state = 3 && (match e.2.part with
    | some r => decide (r.base ≤ a ∧ a < r.base + r.len)
    | none => false))

/-- The requester belongs to partition p (R421). -/
def State.ofPart (s : State) (who : Requester) (p : Nat) : Bool :=
  match who with
  | .thread t => match smGet s.cmp.thr t with | some x => x.part = p | none => false
  | .piece b q tile _ =>
    match (smGetD s.cmp.opq (4 * b + q) []).find? (fun x => x.id = tile) with
    | some x => x.part = p
    | none => false
  | .command m => m / 64 = p
  | .bar2 f _ _ => s.mapped p f
  | .raloth _ srcT srcS part _ _ =>
    match smGet s.sec.parts p with
    | some q => srcT = q.latchT ∧ srcS < 16 ∧ q.peers.getD srcS 0xFF = part
    | none => false
  | .imp q => q = p
  | _ => false

/-- The access is permitted (R422, R426): an open share is open to every requester; a sealed share only to requesters
of its partition; its sealed range is read by threads, tiles and commands and written by IMPORT only. -/
def State.permits (s : State) (who : Requester) (write : Bool) (a : Nat) : Bool :=
  match s.sealedAt a with
  | none => true
  | some (p, q) =>
    s.ofPart who p &&
    (if q.base ≤ a ∧ a < q.base + q.len then
      match who with
      | .thread _ => !write
      | .piece _ _ _ _ => !write
      | .command _ => !write
      | .imp _ => true
      | _ => false
    else true)

/-- The local address lies in the sealed range of a sealed partition. -/
def State.inSealed (s : State) (a : Nat) : Bool :=
  match s.sealedAt a with
  | none => false
  | some (_, q) => q.base ≤ a && a < q.base + q.len

/-- The requester code of an address error record (R342). -/
def whoCode : Requester → Nat
  | .thread _ => 1
  | .piece _ _ _ _ => 2
  | .bar2 _ _ _ => 3
  | .raloth _ _ _ _ _ _ => 4
  | _ => 5

/-! ### Protection of sealed blocks (R428 to R430) -/

/-- The metadata byte (R227). -/
def Block.metadata (b : Block) : Nat :=
  b2n b.valid + 2 * (b.keygen % 4) + 8 * b2n b.zero0 + 16 * b2n b.zero1 + 32 * b2n b.poison

/-- The key of a generation. -/
def SecPart.key (q : SecPart) (g : Nat) : Option DataKey := q.keys.find? (fun k => k.gen = g)

/-- The fabric block address of R428: fabric address bits [56:8] from the latched ids. -/
def SecPart.fabBlock (q : SecPart) (a : Nat) : Nat := (q.latchT * 2 ^ 47 + q.latchS * 2 ^ 43 + a) / 256

/-- XTS of one half of a block. -/
def xtsHalf (enc : Bool) (q : SecPart) (k : DataKey) (a h : Nat) (d : Line) : Line :=
  let key := toBytes k.xts 64
  let tweak := natBytes (q.fabBlock a + k.gen * 2 ^ 120) 16
  BitVec.ofNat 1024 (leNat (xtsRun enc (key.take 32) (key.drop 32) tweak (8 * h) (toBytes d 128)))

/-- The 56-bit MAC of a sealed block (R429) over metadata and the halves as stored. -/
def sealMac (q : SecPart) (k : DataKey) (a : Nat) (b : Block) (h0 h1 : Line) : BitVec 56 :=
  let key := toBytes k.mac 32
  let ks := aesKeys key
  let h := beNat (aesEncryptK ks (List.replicate 16 0))
  let aad := natBytes (q.fabBlock a) 8 ++ natBytes b.metadata 1 ++ natBytes 0 7
  let c := if b.valid then
      toBytes (if b.zero0 then 0 else h0) 128 ++ toBytes (if b.zero1 then 0 else h1) 128
    else []
  let y := ghash h (aad ++ c ++ beBytes (8 * aad.length) 8 ++ beBytes (8 * c.length) 8)
  BitVec.ofNat 56 (leNat ((aesEncryptK ks (beBytes y 16)).take 7))

/-- The MAC field of a block of no sealed partition: two more copies of the metadata (R228). -/
def openMac (b : Block) : BitVec 56 := BitVec.ofNat 56 (b.metadata * 257)

/-- The block with its MAC field written: under its generation where it lies in a sealed partition. -/
def State.withMac (s : State) (a : Nat) (b : Block) : Block :=
  match s.sealedAt a with
  | none => { b with mac := openMac b }
  | some (_, q) =>
    match q.key b.keygen with
    | some k => { b with mac := sealMac q k a b b.half0 b.half1 }
    | none => b

/-- Half h as stored. -/
def Block.half (b : Block) (h : Nat) : Line := if h = 0 then b.half0 else b.half1

/-- The zero flag of half h. -/
def Block.zero (b : Block) (h : Nat) : Bool := if h = 0 then b.zero0 else b.zero1

/-- Replace half h and its zero flag. -/
def Block.setHalf (b : Block) (h : Nat) (d : Line) (z : Bool) : Block :=
  if h = 0 then { b with half0 := d, zero0 := z } else { b with half1 := d, zero1 := z }

/-- The half in plaintext. -/
def State.plainHalf (s : State) (a h : Nat) (b : Block) (d : Line) : Line :=
  match s.sealedAt a with
  | none => d
  | some (_, q) => match q.key b.keygen with | some k => xtsHalf false q k a h d | none => d

/-- A line as the block stands, without an access: zero where nothing is stored. -/
def State.peekBlock (s : State) (a : Nat) : Line :=
  let b := s.block a
  let h := nbits a 7 1
  if !b.valid ∨ b.zero h then 0 else s.plainHalf a h b (b.half h)

/-! ### Channel bookkeeping -/

/-- A channel controller at rest. -/
def Channel.initial : Channel := ⟨[], 0, 0, 0, 0, [], [], 0⟩

/-- Controller of channel d. -/
def State.chan (s : State) (d : Nat) : Channel := smGetD s.hbm.chans d Channel.initial

/-- Store a channel controller. -/
def State.setChan (s : State) (d : Nat) (c : Channel) : State :=
  { s with hbm := { s.hbm with chans := smPut s.hbm.chans d c Channel.initial } }

/-- A request touches the sidecar page of its block (R225): most recent first, 32 entries, least recently used leaves.
The pseudo-channel leaves power-down (R222). -/
def touchSidecar (s : State) (a : Nat) (dirty : Bool) : State :=
  let (d, slot) := s.placeOf a
  let c := s.chan d
  let page := 2 ^ 20 * pcOf a + slot / 32
  let was := match c.scache.find? (fun e => e.1 = page) with | some e => e.2 | none => false
  s.setChan d { c with
    scache := ((page, was || dirty) :: c.scache.filter (fun e => e.1 ≠ page)).take 32
    pdown := c.pdown &&& ~~~ BitVec.ofNat 2 (2 ^ pcOf a) }

/-- HBM bursts moved, counted for the partition of the address (R491 event 7). -/
def countBursts (s : State) (a n : Nat) : State := countEv s 7 0xFF (partByte (s.partOfAddr a)) n

/-- The storing channel has failed in service (R243). -/
def State.chanFailed (s : State) (a : Nat) : Bool := s.chanSt (s.placeOf a).1 = 2

/-- A discarded write-back or uncached write (R243). -/
def lostWrite (s : State) (a : Nat) : State := s.addSat (rHbmChCnt (s.placeOf a).1) fHbmChCntLost 1

/-- The HBM record's 16 bytes (R244). -/
def hbmPayload (kind ch store whr slot addr : Nat) : Nat :=
  kind + 2 ^ 8 * ch + 2 ^ 16 * store + 2 ^ 24 * whr + 2 ^ 32 * slot + 2 ^ 64 * addr

/-- A failed read of a block (R232): `bad` names the failed codewords with their outcome, empty for a MAC failure. The
poison bit is set and one record posted, unless the bit was set already (R245). -/
def blockFailed (s : State) (a : Nat) (bad : List (Nat × RsOutcome)) (errs : List SymErr) : State :=
  let b := s.block a
  let (d, slot) := s.placeOf a
  let c := s.chan d
  let s1 := (s.setChan d { c with ueRound := c.ueRound + bad.length }).addSat (rHbmChCnt d) fHbmChCntUe 1
  if b.poison then s1
  else
    let kind := if bad.any (fun e => e.2 = .addressFault) then 3 else 1
    let bits := bad.foldl (fun v e => v ||| 2 ^ (1 + e.1 % 2)) 0
    let s2 := s1.putBlock a (s1.withMac a { b with poison := true })
    let s3 := postErr s2 2 1 (partByte (s.partOfAddr a))
      (hbmPayload kind (sliceOf a) d (pcOf a + bits) slot (blockAddr a))
    let s4 := s3.setFld (rHbmChUe d) fHbmChUeBlock (blockAddr a / 256)
    match bad.getLast? with
    | some e => captureSynd s4 (syndNat (syndOf errs e.1))
    | none => s4

/-- Corrected codewords counted for the storing channel (R327). -/
def blockFixed (s : State) (a n : Nat) : State :=
  if n = 0 then s else countCe (s.addMod (rHbmChCnt (s.placeOf a).1) fHbmChCntCe n) 2 n

/-- Half h as its two codewords deliver it (R325): data, failed codewords, corrections. -/
def readHalf (b : Block) (h : Nat) (errs : List SymErr) : Line × List (Nat × RsOutcome) × Nat :=
  let c0 := 2 * h
  let cws := [c0, c0 + 1].map (fun c => (c, decodeCw errs c))
  let lo := deliver errs c0 ((b.half h).extractLsb' 0 512)
  let hi := deliver errs (c0 + 1) ((b.half h).extractLsb' 512 512)
  (hi ++ lo, cws.filter (fun e => e.2.bad), (cws.filter (fun e => e.2.fixed)).length)

/-- Read the halves named, check the MAC of a sealed block over them, and record what fails. Answers the state, the
halves delivered as stored, and whether the read failed. -/
def readBlock (s : State) (a : Nat) (halves : List Nat) (errs : List SymErr) : State × Line × Line × Bool :=
  let b := s.block a
  let one := fun h => if halves.contains h ∧ ¬ b.zero h then readHalf b h errs else (b.half h, [], 0)
  let (d0, f0, k0) := one 0
  let (d1, f1, k1) := one 1
  let bad := f0 ++ f1
  let macBad : Bool := match s.sealedAt a with
    | none => false
    | some (_, q) => match q.key b.keygen with
      | some k => decide (b.mac ≠ sealMac q k a b d0 d1)
      | none => true
  let s1 := blockFixed s a (k0 + k1)
  let s2 := match s.sealedAt a with
    | some (p, _) => if macBad then raise s1 (rSecPartEvent p) fSecPartEventMacFail else s1
    | none => s1
  if bad ≠ [] ∨ macBad then (blockFailed s2 a bad errs, d0, d1, true) else (s2, d0, d1, false)

/-! ### Requests of a channel (R231) -/

/-- What a read of one line delivers: the block's valid bit, the line, poison per sector. -/
structure LineRead where
  valid : Bool
  data : Line
  poison : BitVec 4
  deriving DecidableEq, Repr

/-- A fill, or the read of an uncached access (R231, R232). -/
def readLine (s : State) (a : Nat) (errs : List SymErr) : State × LineRead :=
  if s.chanFailed a then (s, ⟨true, 0, 0xF⟩)
  else
    let b := s.block a
    let h := nbits a 7 1
    let s1 := touchSidecar s a false
    if !b.valid then (countBursts s1 a 1, ⟨false, 0, 0⟩)
    else if b.zero h then (countBursts s1 a 1, ⟨true, 0, if b.poison then 0xF else 0⟩)
    else
      let sealedBlk := (s.sealedAt a).isSome
      let s2 := countBursts s1 a (if sealedBlk ∧ ¬ b.zero (1 - h) then 9 else 5)
      if b.poison then (s2, ⟨true, s.plainHalf a h b (b.half h), 0xF⟩)
      else
        let (s3, d0, d1, bad) := readBlock s2 a (if sealedBlk then [0, 1] else [h]) errs
        (s3, ⟨true, s.plainHalf a h b (if h = 0 then d0 else d1), if bad then 0xF else 0⟩)

/-- Write one line into its block (R231, R232): `keepPoison` for an uncached write, which never clears the poison bit. In
a sealed partition the half is encrypted under the write generation, and the other half is read, checked and carried
over to it. -/
def writeLine (s : State) (a : Nat) (data : Line) (poison : BitVec 4) (keepPoison : Bool) (errs : List SymErr) : State :=
  let h := nbits a 7 1
  let b := s.block a
  let sl := s.sealedAt a
  let other := 1 - h
  let (s1, o, bad) :=
    if b.valid ∧ sl.isSome ∧ ¬ b.zero other then
      let (t, d0, d1, f) := readBlock s a [other] errs
      (t, (if other = 0 then d0 else d1), f)
    else (s, b.half other, false)
  let b0 := s1.block a
  let base : Block := if b.valid then b0 else
    { b0 with valid := true, keygen := 0, zero0 := true, zero1 := true, poison := false }
  let p1 := if poison ≠ 0 ∨ bad then true else if keepPoison then base.poison else base.poison && !base.zero other
  let b1 := { base with poison := p1 }
  let b2 := match sl with
    | none => ({ b1 with keygen := 0 } : Block).setHalf h data false
    | some (_, q) =>
      match q.key q.writeGen with
      | none => b1.setHalf h data false
      | some k =>
        let c := ({ b1 with keygen := q.writeGen } : Block).setHalf h (xtsHalf true q k a h data) false
        if b.valid ∧ ¬ b1.zero other ∧ b1.keygen ≠ q.writeGen then
          c.setHalf other (xtsHalf true q k a other (s.plainHalf a other b o)) false
        else c
  let s2 := touchSidecar s1 a true
  countBursts (s2.putBlock a (s2.withMac a b2)) a (if b.valid ∧ sl.isSome ∧ ¬ b.zero other then 10 else 6)

/-- A write-back of a line (R231); discarded and counted at a failed channel. -/
def writeBack (s : State) (a : Nat) (data : Line) (poison : BitVec 4) (errs : List SymErr) : State :=
  if s.chanFailed a then lostWrite s a else writeLine s a data poison false errs

/-- The block with valid cleared and all other metadata 0. -/
def Block.clear (b : Block) : Block :=
  { b with
    valid := false
    keygen := 0
    zero0 := false
    zero1 := false
    poison := false
    mac := 0 }

/-- A kill of a line (R231, R232). A block whose poison bit is set counts as not zero (DEDUCED, assumption log 24). -/
def killLine (s : State) (a : Nat) (errs : List SymErr) : State :=
  if s.chanFailed a then s
  else
    let h := nbits a 7 1
    let other := 1 - h
    let b := s.block a
    let s1 := countBursts (touchSidecar s a true) a (if b.valid ∧ ¬ b.zero other then 6 else 2)
    if !b.valid then s1
    else if b.zero other then s1.putBlock a b.clear
    else
      let (s2, d0, d1, bad) := readBlock s1 a [other] errs
      let z := s.plainHalf a other b (if other = 0 then d0 else d1)
      if z = 0 ∧ ¬ bad ∧ ¬ b.poison then s2.putBlock a b.clear
      else
        let b1 := s2.block a
        s2.putBlock a (s2.withMac a (b1.setHalf h (b1.half h) true))

/-- A line with the enabled bytes of another. -/
def mergeBytes (old new : Line) (be : BitVec 128) : Line :=
  let m : Line := (List.range 128).foldl (fun v i =>
    if be.getLsbD i then v ||| (BitVec.ofNat 1024 255 <<< (8 * i)) else v) 0
  (old &&& ~~~ m) ||| (new &&& m)

/-- The 64-bit word of a line at a byte offset. -/
def wordAt (d : Line) (off : Nat) : Word := d.extractLsb' (8 * (off / 8 * 8)) 64

/-- A line with the 64-bit word at a byte offset replaced. -/
def putWord (d : Line) (off : Nat) (v : Word) : Line :=
  (d &&& ~~~ (BitVec.ofNat 1024 (2 ^ 64 - 1) <<< (8 * (off / 8 * 8)))) |||
    (BitVec.ofNat 1024 v.toNat <<< (8 * (off / 8 * 8)))

/-- Failure of a channel in service (R243): cause 5, 6 or 7. -/
def chanFail (s : State) (d cause : Nat) : State :=
  if s.chanSt d ≠ 0 then s
  else
    let s1 := (s.setFld (rHbmChStat d) fHbmChStatState 2).setFld (rHbmChStat d) fHbmChStatCause cause
    let s2 := (s1.addSat rHbmCap fHbmCapChanFailed 1).addSat (rHbmStkStat (d / 32)) fHbmStkStatChanOut 1
    let s3 := s2.setChan d { s2.chan d with scache := [] }
    let s4 := postErr s3 2 2 0xFF (hbmPayload 2 d d 0 0 0)
    let s5 := raise s4 (rHbmStkEvent (d / 32)) fHbmStkEventChFailed
    let s6 := newDefect s5 (unitEntry 4 0 d)
    checkFailed { s6 with bup := { s6.bup with retired := true, events := s6.bup.events + 1 } }

end Sys2Proof.Machine
end

