-- ==== Sys2Proof/Machine/LineCode.lean ====
section
/-! DEFINITION. The line coding and frame layout of a Raloth port (R370 to R375, R381, R387, R392): scrambler, Gray
mapping, stuffing, codewords, frame content, messages and training blocks. -/

namespace Sys2Proof.Machine

open Sys2Proof

/-! ### Scrambler, levels and stuffing -/

/-- The seed register of lane l: bit i is p_i (R371). -/
def scrSeed (l : Nat) : Nat := 0x1D8700 + l

/-- The register after one bit: bit i becomes bit i + 1 of before, and the new top bit is p_(k+5) xor p_k. -/
def scrNext (r : Nat) : Nat := r / 2 + (if nbit r 0 != nbit r 5 then 2 ^ 22 else 0)

/-- XOR bits with the sequence from a register: the bits and the register after them. -/
def scramble : List Bool → Nat → List Bool × Nat
  | [], r => ([], r)
  | b :: bs, r =>
    let (out, r') := scramble bs (scrNext r)
    ((b != nbit r 0) :: out, r')

/-- Bits of bytes, bit 0 of each byte first. -/
def bitsOf (bs : List Byte) : List Bool := bs.flatMap (fun b => (List.range 8).map (fun i => b.getLsbD i))

/-- The number that bits spell, bit 0 first. -/
def bitsNat : List Bool → Nat
  | [] => 0
  | b :: bs => b2n b + 2 * bitsNat bs

/-- Bytes of bits; an incomplete last byte is dropped. -/
def bytesOfBits : List Bool → List Byte
  | a :: b :: c :: d :: e :: f :: g :: h :: bs => BitVec.ofNat 8 (bitsNat [a, b, c, d, e, f, g, h]) :: bytesOfBits bs
  | _ => []

/-- The level of a symbol with upper bit `hi` and lower bit `lo` (R370). -/
def grayLevel (hi lo : Bool) : Nat :=
  match hi, lo with
  | false, false => 0
  | false, true => 1
  | true, true => 2
  | true, false => 3

/-- The bits of a level: lower, upper. -/
def grayBits (l : Nat) : Bool × Bool := (l = 1 ∨ l = 2, l = 2 ∨ l = 3)

/-- Levels of bits, two bits a symbol. -/
def levels : List Bool → List Nat
  | lo :: hi :: bs => grayLevel hi lo :: levels bs
  | _ => []

/-- Bits of levels. -/
def unlevels (ls : List Nat) : List Bool := ls.flatMap (fun l => [(grayBits l).1, (grayBits l).2])

/-- The stuff symbol after a run at level l (R372). -/
def stuffLevel (l : Nat) : Nat := if l ≤ 1 then 3 else 0

/-- The run (level, length) after one more symbol. -/
def runNext (run : Nat × Nat) (x : Nat) : Nat × Nat := if run.1 = x ∧ 0 < run.2 then (x, run.2 + 1) else (x, 1)

/-- Stuffing: after the 24th identical symbol a stuff symbol begins a new run. -/
def stuff : List Nat → Nat × Nat → List Nat × (Nat × Nat)
  | [], run => ([], run)
  | x :: xs, run =>
    let r := runNext run x
    if r.2 = 24 then
      let (out, r') := stuff xs (stuffLevel x, 1)
      (x :: stuffLevel x :: out, r')
    else
      let (out, r') := stuff xs r
      (x :: out, r')

/-- Discard the symbol after any 24 identical ones; `bad` when it is not the expected stuff level. The flag `skip` says
that the next symbol is to be discarded. -/
def destuff : List Nat → Nat × Nat → Bool → List Nat × Bool × (Nat × Nat)
  | [], run, skip => ([], skip, run)
  | x :: xs, run, true =>
    let (out, bad, r') := destuff xs (x, 1) false
    (out, bad || x ≠ stuffLevel run.1, r')
  | x :: xs, run, false =>
    let r := runNext run x
    let (out, bad, r') := destuff xs r (r.2 = 24)
    (x :: out, bad, r')

/-- The line symbols of a lane's bytes: scrambled, mapped, stuffed. -/
def lineEncode (bs : List Byte) (scr : Nat) (run : Nat × Nat) : List Nat × Nat × (Nat × Nat) :=
  let (b, scr') := scramble (bitsOf bs) scr
  let (sy, run') := stuff (levels b) run
  (sy, scr', run')

/-- The bytes of a lane's line symbols, whether a stuff symbol was wrong, and the states after them. -/
def lineDecode (sy : List Nat) (scr : Nat) (run : Nat × Nat) : List Byte × Bool × Nat × (Nat × Nat) :=
  let (ls, bad, run') := destuff sy run false
  let (b, scr') := scramble (unlevels ls) scr
  (bytesOfBits b, bad, scr', run')

/-! ### Codewords (R374) -/

/-- Data bytes of codeword c: content bytes 8j + c. -/
def cwData (content : List Byte) (c : Nat) : List Byte := (List.range 131).map (fun j => content.getD (8 * j + c) 0)

/-- Codeword c as sent: data bytes 0 to 130, then check bytes 0 to 3. -/
def cwEncode (content : List Byte) (c : Nat) : List Byte :=
  let d := cwData content c
  d ++ (rsCheck 4 (d.reverse.map BitVec.toNat)).map (BitVec.ofNat 8)

/-- The bytes of lane i of w, its codewords in ascending order. -/
def laneBytes (content : List Byte) (w i : Nat) : List Byte :=
  ((List.range 8).filter (fun c => c % w = i)).flatMap (cwEncode content)

/-- Decode a received codeword of 135 bytes: the data bytes and symbols corrected, or none if uncorrectable. -/
def cwDecode (cw : List Byte) : Option (List Byte × Nat) :=
  let pos := fun i => if i < 131 then 4 + i else i - 131
  let syms := (List.range 135).map (fun i => (pos i, (cw.getD i 0).toNat))
  match rsDecode 135 4 135 (rsSynd 4 syms) with
  | .clean => some (cw.take 131, 0)
  | .corrected ps =>
    some ((List.range 131).map (fun i =>
      ps.foldl (fun b e => if e.1 = 4 + i then b ^^^ BitVec.ofNat 8 e.2 else b) (cw.getD i 0)), ps.length)
  | _ => none

/-- The content of a frame from its codewords' data. -/
def joinCws (ds : List (List Byte)) : List Byte :=
  (List.range 1048).map (fun i => (ds.getD (i % 8) []).getD (i / 8) 0)

/-! ### Messages (R392) -/

/-- Encode a message in slots of 32 bytes. -/
def msgBytes (m : RMsg) : List Byte :=
  natBytes m.typ 1 ++ natBytes (m.vc % 4 + 4 * b2n m.prio + 8 * m.data.length) 1 ++ natBytes m.tag 2
    ++ natBytes (m.srcT % 1024 + 1024 * (m.srcS % 16)) 2 ++ natBytes (m.hint % 4 + 4 * (m.op % 8)) 1
    ++ natBytes (m.part % 16 + 16 * m.poison.toNat) 1 ++ natBytes (m.addr % 2 ^ 57) 8 ++ toBytes m.arg 16
    ++ m.data.flatMap (fun d => toBytes d 32)

/-- Slots that a message occupies. -/
def msgSlots (m : RMsg) : Nat := 1 + m.data.length

/-- Decode the message whose header begins a list of bytes. -/
def msgOf (b : List Byte) : RMsg :=
  let h := leAt b 1 1
  let src := leAt b 4 2
  { typ := leAt b 0 1, vc := h % 4, prio := nbit h 2, tag := leAt b 2 2, srcT := src % 1024, srcS := src / 1024 % 16
    hint := leAt b 6 1 % 4, op := leAt b 6 1 / 4 % 8, part := leAt b 7 1 % 16
    poison := BitVec.ofNat 4 (leAt b 7 1 / 16), addr := leAt b 8 8 % 2 ^ 57, arg := BitVec.ofNat 128 (leAt b 16 16)
    data := (List.range (h / 8 % 32)).map (fun i => BitVec.ofNat 256 (leAt b (32 + 32 * i) 32)) }

/-- The messages of a body, at most `n` slots or messages. -/
def bodyMsgs : Nat → List Byte → List RMsg
  | 0, _ => []
  | n + 1, b =>
    if b.length < 32 then []
    else if leAt b 0 1 = 0 then bodyMsgs n (b.drop 32)
    else msgOf b :: bodyMsgs n (b.drop (32 * msgSlots (msgOf b)))

/-! ### Frames (R373, R387) -/

/-- The 8-byte header. -/
def frameHeader (seq ack mode : Nat) (nak sleep ackOnly : Bool) (credits : List Nat) : List Byte :=
  natBytes (seq % 65536) 2 ++ natBytes (ack % 65536) 2
    ++ natBytes (mode + 4 * b2n nak + 8 * b2n sleep + 16 * b2n ackOnly) 1
    ++ natBytes ((List.range 4).foldl (fun a v => a + credits.getD v 0 % 64 * 2 ^ (6 * v)) 0) 3

/-- The fixed field of the nonce: 0 in mode 0, else 1 towards the responder and 2 towards the initiator. -/
def nonceField (mode : Nat) (fromInitiator : Bool) : Nat := if mode = 0 then 0 else if fromInitiator then 1 else 2

/-- The 96-bit nonce. -/
def frameNonce (mode : Nat) (fromInitiator : Bool) (ctr : Nat) : List Byte :=
  beBytes (nonceField mode fromInitiator) 4 ++ beBytes ctr 8

/-- Bytes of a key, byte 0 first. -/
def keyBytes (k : BitVec 256) : List Byte := toBytes k 32

/-- The content of a counted frame: header, encrypted body, tag. -/
def frameContent (hdr body : List Byte) (key : BitVec 256) (nonce : List Byte) : List Byte :=
  let ct := gcmCrypt (keyBytes key) nonce body
  hdr ++ ct ++ gcmTag (keyBytes key) nonce hdr ct

/-- A filler frame: mode 3, every other byte of the content zero. -/
def fillerContent : List Byte := frameHeader 0 0 3 false false false [] ++ List.replicate 1040 0

/-- The body of messages, padded with empty slots. -/
def bodyOf (ms : List RMsg) : List Byte := padTo (ms.flatMap msgBytes) 1024 0

/-! ### Training blocks (R381) -/

/-- A pair: a 2-bit unit as level x, then level 3 − x. -/
def trainPair (u : Nat) : List Nat :=
  let l := grayLevel (nbit u 1) (nbit u 0)
  [l, 3 - l]

/-- The first 28 bits of a lane's sequence, as units of 2 bits. -/
def seedUnits (l : Nat) : List Nat :=
  let b := (scramble (List.replicate 28 false) (scrSeed l)).1
  (List.range 14).map (fun i => b2n (b.getD (2 * i) false) + 2 * b2n (b.getD (2 * i + 1) false))

/-- The training block of a lane. -/
def trainBlock (lane code mask : Nat) : List Nat :=
  List.replicate 8 3 ++ List.replicate 8 0 ++ [1, 2]
    ++ trainPair (lane / 4) ++ trainPair (lane % 4) ++ trainPair (code / 4) ++ trainPair (code % 4)
    ++ trainPair (mask / 64) ++ trainPair (mask / 16 % 4) ++ trainPair (mask / 4 % 4) ++ trainPair (mask % 4)
    ++ (seedUnits lane).flatMap trainPair ++ [2, 1]

/-- The 2-bit unit of a level. -/
def unitOf (l : Nat) : Nat := b2n (grayBits l).1 + 2 * b2n (grayBits l).2

/-- Code and mask of a block, if it is a valid block of the lane. -/
def trainParse (lane : Nat) (b : List Nat) : Option (Nat × Nat) :=
  let u := fun i => unitOf (b.getD i 0)
  let code := 4 * u 22 + u 24
  let mask := 64 * u 26 + 16 * u 28 + 4 * u 30 + u 32
  if b = trainBlock lane code mask then some (code, mask) else none

end Sys2Proof.Machine
end

