-- ==== Sys2Proof/Machine/RalCore.lean ====
section
/-! DEFINITION. Raloth ports, routes and requests to other stacks (R368, R392 to R406): the operations that other
families use. -/

namespace Sys2Proof.Machine

open Sys2Proof

/-- Key establishment at rest. -/
def Keyx.initial : Keyx := ⟨0, 0, 0, 0, false, [], [], 0, false, false, 0, 0⟩

/-- A port before training. -/
def RalPort.initial : RalPort :=
  { state := 0, mask := 0xFF, width := 0, blocksIn := 0, peerMask := 0xFF, txCtr := 0, rxCtr := 0, replay := []
    replayFrom := none, nak := false, owesAck := false, badInRow := 0, tagFailsRound := 0
    txCredits := [256, 256, 256, 256], rxReturn := [0, 0, 0, 0], txq := [], rxq := [], txKey := 0, rxKey := 0
    newTx := none, newRx := none, txEpoch := 0, rxEpoch := 0, txInit := false, rxInit := false, kx := Keyx.initial
    txScr := (List.range 8).map scrSeed, rxScr := (List.range 8).map scrSeed
    txRun := List.replicate 8 (0, 0), rxRun := List.replicate 8 (0, 0), txSleep := false, rxSleep := false
    sleepSeen := false, waking := false, loop := 0, slips := List.replicate 8 0, txMaySleep := false
    rxMaySleep := false, off := false }

/-- Port n. -/
def State.port (s : State) (n : Nat) : RalPort := smGetD s.ral.ports n RalPort.initial

/-- Store port n; a change of its state is traced (R495, kind 12). -/
def State.setPort (s : State) (n : Nat) (p : RalPort) : State :=
  let s1 : State := { s with ral := { s.ral with ports := smPut s.ral.ports n p RalPort.initial } }
  if p.state = (s.port n).state then s1 else trace s1 12 0xFF 0xFF 0xFF (n % 8 + 16 * p.state) 0 0

/-- Change port n. -/
def State.updPort (s : State) (n : Nat) (f : RalPort → RalPort) : State := s.setPort n (f (s.port n))

/-- The role of a port: by position, 0 when off (R368). -/
def State.portRole (s : State) (n : Nat) : Nat :=
  if (s.port n).off then 0 else if n ≤ 1 then 1 else if n ≤ 5 then 2 else 3

/-- State of lane l of port n as RAL_LANE codes it. -/
def State.laneSt (s : State) (n l : Nat) : Nat := smGetD s.bup.laneSt (8 * n + l) 0

/-- Mask of the usable lanes of port n (R369). -/
def State.usable (s : State) (n : Nat) : Nat :=
  (List.range 8).foldl (fun a l => if (s.port n).mask.getLsbD l && s.laneSt n l = 0 then a + 2 ^ l else a) 0

/-- The largest power of two not above a lane count. -/
def widthOf (lanes : Nat) : Nat :=
  let c := popc lanes 8
  if 8 ≤ c then 8 else if 4 ≤ c then 4 else if 2 ≤ c then 2 else c

/-- The lanes that a port of width w uses: the lowest-numbered of those usable at both ends. -/
def State.lanesUsed (s : State) (n : Nat) : List Nat :=
  (ones (s.usable n &&& (s.port n).peerMask.toNat) 8).take (s.port n).width

/-- The port carries frames: PLAIN or SECURE. -/
def RalPort.framing (p : RalPort) : Bool := p.state = 5 || p.state = 6

/-- The message is a response, which spends no credit (R379). -/
def isResponse (t : Nat) : Bool := t = 0x02 || t = 0x07 || t = 0x0B || t = 0x0D || t = 0x18

/-- The message types that a port in PLAIN carries (R388). -/
def plainType (t : Nat) : Bool :=
  t = 0x10 || t = 0x11 || t = 0x12 || t = 0x13 || t = 0x15 || t = 0x16 || t = 0x17 || t = 0x18

/-- The types that intermediate stacks forward (R393); LINKDOWN and HEALTH travel to every member the same way. -/
def endToEnd (t : Nat) : Bool := (1 ≤ t && t ≤ 0x0D) || t = 0x14 || t = 0x15 || t = 0x19

/-- Queue a message on a port. -/
def ralSend (s : State) (n : Nat) (m : RMsg) : State := s.updPort n (fun p => { p with txq := p.txq ++ [m] })

/-- A Raloth ERR record (R407): kind, port, byte 2, byte 3, fabric address. Severity 2 where capacity is lost, 0 for an
enumeration error, else 1 (DEDUCED, assumption log 21). -/
def ralErr (s : State) (kind port b2 b3 fab : Nat) : State :=
  postErr s 9 (if kind = 1 ∨ kind = 2 then 2 else if kind = 8 then 0 else 1) 0xFF
    (kind + 256 * port + 2 ^ 16 * b2 + 2 ^ 24 * b3 + 2 ^ 64 * fab)

/-- A control message of this stack: VC 0, higher priority (R379). -/
def ctlMsg (s : State) (typ addr : Nat) (arg : BitVec 128) (data : List Sector) : RMsg :=
  { typ := typ, vc := 0, prio := true, tag := 0, srcT := s.trellisId, srcS := s.stackId, hint := 0, op := 0
    part := 0, poison := 0, addr := addr, arg := arg, data := data }

/-! ### Map and routes (R397, R398, R406) -/

/-- The link of port `p` of stack `a` in the map: peer and log2 of its width; port 0's link is its peer's port 1. -/
def State.mapLink (s : State) (a p : Nat) : Option (Nat × Nat) :=
  let byte := fun i => s.ral.map.getD i 0xFF
  let dec := fun b => if b = 0xFF then none else some (b % 16, b / 16 % 4)
  let up := fun (k q : Nat) => ¬ s.ral.downs.contains (k, q)
  if p = 0 then
    ((List.range 16).find? (fun b => byte (64 + b) ≠ 0xFF ∧ byte (64 + b) % 16 = a)).bind (fun b =>
      if up a 0 ∧ up b 1 then some (b, byte (64 + b) / 16 % 4) else none)
  else if p = 1 then
    (dec (byte (64 + a))).bind (fun e => if up a 1 ∧ up e.1 0 then some e else none)
  else if p ≤ 5 then
    (dec (byte (4 * a + (p - 2)))).bind (fun e => if up a p then some e else none)
  else none

/-- Stacks within one more hop of a set. -/
def State.spread (s : State) (l : List Nat) : List Nat :=
  (List.range 16).filter (fun k =>
    l.contains k || (List.range 6).any (fun p => match s.mapLink k p with | some e => l.contains e.1 | none => false))

/-- Fewest hops from a stack to `k`, at most 15. -/
def State.hops (s : State) (a k : Nat) : Option Nat :=
  let grow := (List.range 16).foldl (fun (acc : List (List Nat)) _ => acc ++ [s.spread (acc.getLastD [])]) [[k]]
  (List.range 17).find? (fun h => (grow.getD h []).contains a)

/-- First-hop port from stack `a` to `k`: the lowest-numbered port that begins a path of fewest hops. -/
def State.firstHop (s : State) (a k : Nat) : Option Nat :=
  if a = k then none
  else
    (s.hops a k).bind (fun h =>
      (List.range 6).find? (fun p =>
        match s.mapLink a p with
        | some e => s.hops e.1 k = some (h - 1)
        | none => false))

/-- The smallest ⌊106 × w / 8⌋ along the hop-by-hop route; `n` bounds the hops. -/
def State.routeBw (s : State) : Nat → Nat → Nat → Nat
  | 0, _, _ => 0
  | n + 1, a, k =>
    if a = k then 65535
    else
      match s.firstHop a k with
      | none => 0
      | some p =>
        match s.mapLink a p with
        | none => 0
        | some (b, lw) => Nat.min (106 * 2 ^ lw / 8) (s.routeBw n b k)

/-- A peer before enumeration or unreachable. -/
def Peer.none : Peer := ⟨0xFF, 0xFF, false, false, 0, 0⟩

/-- The peer record of stack id k (R398); `old` keeps the measured latency. -/
def State.computePeer (s : State) (k : Nat) (old : Peer) : Peer :=
  if k = s.stackId then ⟨0, 0xFF, true, false, 0, 0⟩
  else
    match s.hops s.stackId k, s.firstHop s.stackId k with
    | some h, some p => ⟨h, p, true, 2 ≤ p, old.latency, s.routeBw 16 s.stackId k⟩
    | _, _ => Peer.none

/-- The record of peer k. -/
def State.peer (s : State) (k : Nat) : Peer :=
  smGetD s.ral.peers k (if k = s.stackId then ⟨0, 0xFF, true, false, 0, 0⟩ else Peer.none)

/-- Recompute every route (R398). -/
def routes (s : State) : State :=
  { s with ral := { s.ral with
    peers := (List.range s.peerCount).foldl (fun m k => smSet m k (s.computePeer k (s.peer k))) [] } }

/-- The uplink that this stack's own ports offer towards a trellis: port 6 for even and 7 for odd ids when both are
SECURE, the SECURE one when only one is (R400). -/
def State.ownUplink (s : State) (t : Nat) : Option Nat :=
  let up := fun n => (s.port n).state = 6
  if up 6 ∧ up 7 then some (6 + t % 2) else if up 6 then some 6 else if up 7 then some 7 else none

/-- A member's uplink in SECURE is known only to that member; the nearest reachable member other than this stack takes
the message (R400; the choice among members rests on Config.choose, assumption log 22). -/
def State.uplinkVia (s : State) : Option Nat :=
  let ms := (List.range s.peerCount).filter (fun k => k ≠ s.stackId ∧ (s.peer k).reach)
  if ms = [] then none else (ms[Config.choose s.free % ms.length]?).map (fun k => (s.peer k).port)

/-- The port towards a fabric address that is not this stack's. -/
def State.routePort (s : State) (fab : Nat) : Option Nat :=
  let t := fab / 2 ^ 47 % 1024
  let k := fab / 2 ^ 43 % 16
  if t = s.trellisId then (if (s.peer k).reach then some (s.peer k).port else none)
  else match s.ownUplink t with
    | some n => some n
    | none => s.uplinkVia

/-- Queue a message towards its fabric address, if a route exists. -/
def ralRoute (s : State) (m : RMsg) : State × Bool :=
  match s.routePort m.addr with
  | some n => (ralSend s n m, true)
  | none => (s, false)

/-- The fabric address of a stack of this trellis. -/
def State.stackAddr (s : State) (k : Nat) : Nat := s.trellisId * 2 ^ 47 + k * 2 ^ 43

/-- A response to a request: same tag, addressed to the source. -/
def respond (s : State) (q : RMsg) (typ : Nat) (arg : BitVec 128) (poison : BitVec 4) (data : List Sector) : State :=
  (ralRoute s { typ := typ, vc := q.vc, prio := q.prio, tag := q.tag, srcT := s.trellisId, srcS := s.stackId
                hint := 0, op := 0, part := q.part, poison := poison
                addr := q.srcT * 2 ^ 47 + q.srcS * 2 ^ 43, arg := arg, data := data }).1

/-- A request to another stack: a fresh tag, kept until its final response (R405). Without a route the request is lost
at once: answers false. -/
def remoteReq (s : State) (who : Requester) (m : RMsg) : State × Bool :=
  let tag := s.ral.nextTag % 65536
  let m1 := { m with tag := tag, srcT := s.trellisId, srcS := s.stackId }
  match s.routePort m.addr with
  | none => (s, false)
  | some n =>
    let s1 := ralSend s n m1
    ({ s1 with ral := { s1.ral with
      nextTag := tag + 1
      reqs := s1.ral.reqs ++ [⟨tag, who, m1, n, false, false⟩] } }, true)

/-- A message with every field zero. -/
def blankMsg : RMsg := ⟨0, 0, false, 0, 0, 0, 0, 0, 0, 0, 0, 0, []⟩

/-- READ of a line (R393). -/
def readMsg (fab part hint : Nat) : RMsg :=
  { blankMsg with
    typ := 1
    vc := 0
    hint := hint
    part := part
    addr := fab / 128 * 128
    arg := 0xF }

/-- WRITE of a line with byte enables: sectors with any enable, ascending. -/
def writeMsg (fab part hint : Nat) (be : BitVec 128) (data : Line) (poison : BitVec 4) : RMsg :=
  let used := (List.range 4).filter (fun i => be.extractLsb' (32 * i) 32 ≠ 0)
  { blankMsg with
    typ := 3
    vc := 1
    hint := hint
    part := part
    addr := fab / 128 * 128
    arg := be
    poison := poison
    data := used.map (fun i => data.extractLsb' (256 * i) 256) }

/-- ACCUM of a sector. -/
def accumMsg (fab part op : Nat) (mask : BitVec 16) (d : Sector) : RMsg :=
  { blankMsg with
    typ := 4
    vc := 1
    op := op
    part := part
    addr := fab / 32 * 32
    arg := BitVec.ofNat 128 mask.toNat
    data := [d] }

/-- FLAG: op 0 SET, 1 ADD, 2 WAIT. -/
def flagMsg (fab part op cond : Nat) (v : Word) : RMsg :=
  { blankMsg with
    typ := 5
    vc := 2
    op := op
    part := part
    addr := fab
    arg := BitVec.ofNat 128 (v.toNat + 2 ^ 64 * cond) }

end Sys2Proof.Machine
end

