-- ==== Sys2Proof/Machine/PlaceCore.lean ====
section
/-! DEFINITION. Regions, heat, advice, replica pools and the directory of sharers, as every access meets them (R247 to
R262). The commands of the placement engine are in Machine/Placement.lean. -/

namespace Sys2Proof.Machine

open Sys2Proof

/-- The region of a local address (R247). -/
def regionOf (a : Nat) : Nat := nbits a 16 22

/-- A placement register's value in force in this round (R269). -/
def State.plcCfg (s : State) (off : Nat) : Word := (smGet s.plc.cfg off).getD (regReset s.bup.variant off)

/-- A field of a placement register in force. -/
def State.plcFld (s : State) (off : Nat) (f : Fld) : Nat := f.get (s.plcCfg off)

/-- The advice record of a region (R251). -/
def State.adviceOf (s : State) (r : Nat) : Nat :=
  match s.plc.advice.find? (fun e => e.1 ≤ r && r < e.1 + e.2.1) with
  | some e => e.2.2
  | none => 0

/-- Effective heat of a region (R250). -/
def State.effHeat (s : State) (r heat : Nat) : Nat :=
  let t := s.adviceOf r % 4
  Nat.min 65535 (if t = 1 then heat * 4 else if t = 2 then heat / 4 else heat)

/-- A counted request for a region in a tracked table of `sets` sets of 16 ways (R248). -/
def heatCount (m : SMap Heat) (sets r part : Nat) : SMap Heat :=
  match smGet m r with
  | some h => smSet m r { h with n := h.n + 1 }
  | none =>
    let same := m.filter (fun e => e.1 % sets = r % sets)
    let new : Heat := ⟨0, 1, false, part⟩
    if same.length < 16 then smSet m r new
    else
      let c := same.filter (fun e => !e.2.racked)
      match c.foldl (fun best e => match best with
        | none => some e
        | some b => if e.2.heat < b.2.heat then some e else some b) none with
      | none => m
      | some v => smSet (smDel m v.1) r new

/-- The region is racked. -/
def State.racked (s : State) (r : Nat) : Bool := match smGet s.plc.heat r with | some h => h.racked | none => false

/-- The requester's requests count towards heat (R247): those of a bay port or a Raloth port. Reads of a sharer are the
copy of its replica. -/
def State.heats (s : State) (who : Requester) (a : Nat) : Bool :=
  match who with
  | .thread _ => true
  | .piece _ _ _ _ => true
  | .raloth _ srcT srcS _ _ _ =>
    !(srcT = s.trellisId && s.plc.dir.any (fun d => d.region = regionOf a && nbit d.sharers.toNat srcS))
  | _ => false

/-- Count a request at a slice. -/
def countHeat (s : State) (who : Requester) (a : Nat) : State :=
  if s.heats who a then
    { s with plc := { s.plc with
      heat := heatCount s.plc.heat 4096 (regionOf a) ((s.partOfAddr a).getD 16) } }
  else s

/-- The partition in whose replica pool a local address lies (R259). -/
def State.poolOf (s : State) (a : Nat) : Option Nat :=
  (List.range 16).find? (fun p =>
    let n := s.plcFld (rPlcWorkCfg p) fPlcWorkCfgPoolRegions
    let b := s.plcFld (rPlcPoolBase p) fPlcPoolBaseBase
    n ≠ 0 && b ≤ regionOf a && regionOf a < b + n && (s.part p).isSome)

/-- The access is not withheld (R259): in a pool only the engine's own accesses and reads that a valid replica serves. -/
def State.poolAllows (s : State) (who : Requester) (reads : Bool) (a : Nat) : Bool :=
  match s.poolOf a with
  | none => true
  | some _ =>
    match who with
    | .placement => true
    | .thread _ => reads && s.plc.replicas.any (fun r => r.valid && r.slot = regionOf a)
    | .piece _ _ _ _ => reads && s.plc.replicas.any (fun r => r.valid && r.slot = regionOf a)
    | _ => false

/-- The local address that serves reads of a remote address through a replica (R260 step 5, R262). -/
def State.replicaOf (s : State) (fab : Nat) : Option Nat :=
  if s.health = 2 ∨ s.health = 3 then
    (s.plc.replicas.find? (fun r => r.valid && r.home = fab / 65536)).map (fun r => r.slot * 65536 + fab % 65536)
  else none

/-- A read of a partition's bays to a remote region, counted at Raloth egress while replication is enabled (R260): a
table of 4,096 entries, 16-way. -/
def countRemote (s : State) (part fab : Nat) : State :=
  if s.plcFld (rPlcWorkCfg part) fPlcWorkCfgReplEn = 1 then
    { s with plc := { s.plc with rheat := heatCount s.plc.rheat 256 (fab / 65536) part } }
  else s

/-- The directory entry of a region with sharers or acknowledgements awaited. -/
def State.sharersOf (s : State) (r : Nat) : Option DirEnt := s.plc.dir.find? (fun d => d.region = r)

/-- A message of replication: types 0x0A to 0x0D, on VC 3. -/
def replMsg (typ tag addr : Nat) : RMsg := { blankMsg with typ := typ, vc := 3, tag := tag, addr := addr }

/-- Hold a request at the home of a shared region (R261): the first one sends an invalidation to each sharer. -/
def holdForSharers (s : State) (d : DirEnt) (h : Held) : State :=
  let first := d.waiting = 0
  let tag := s.ral.nextTag % 65536
  let d1 := { d with
    held := d.held ++ [h]
    waiting := if first then d.sharers else d.waiting
    tag := if first then tag else d.tag }
  let s1 : State := { s with plc := { s.plc with dir := s.plc.dir.map (fun x => if x.region = d.region then d1 else x) } }
  if first then
    let p := (s.partOfAddr h.addr).getD 0
    let s2 := s1.addMod (rPlcCnt p) fPlcCntReplInval 1
    let s3 : State := { s2 with ral := { s2.ral with nextTag := tag + 1 } }
    foldS (ones d.sharers.toNat 16) s3 (fun t k =>
      (ralRoute t { replMsg 0x0C tag (t.stackAddr k + d.region * 65536) with
        srcT := t.trellisId, srcS := t.stackId }).1)
  else s1

end Sys2Proof.Machine
end

