-- ==== Sys2Proof/Machine/CelCore.lean ====
section
/-! DEFINITION. The cellar: frames, placement and replacement, line states, fills, flag waits, and the accesses that an
engine makes in one step (R181 to R220). The commands of the cellar are in Machine/Cellar.lean. -/

namespace Sys2Proof.Machine

open Sys2Proof

/-! ### Answers -/

/-- A store of a thread has been performed (R139): its entry leaves, and a thread that waits for stores issues again. -/
def storeDone (s : State) (slot : Nat) (t : Phys → Bool) : State :=
  match smGet s.cmp.thr slot with
  | none => s
  | some x =>
    match x.stores.find? (fun e => t e.target) with
    | none => s
    | some e =>
      let st := match x.st with
        | .waiting (.stores _) => ThrSt.ready
        | o => o
      { s with cmp := { s.cmp with thr := smSet s.cmp.thr slot { x with stores := x.stores.erase e, st := st } } }

/-- Change a piece of a tile in a queue. -/
def updPiece (s : State) (b q tile idx : Nat) (f : Piece → Piece) : State :=
  let l := smGetD s.cmp.opq (4 * b + q) []
  { s with cmp := { s.cmp with opq := smPut s.cmp.opq (4 * b + q) (l.map (fun t =>
      if t.id = tile then { t with pieces := t.pieces.modify idx f } else t)) [] } }

/-- The place lies in the line of a local address. -/
def inLine (a : Nat) (p : Phys) : Bool := match p with | .hbm b => lineAddr b = lineAddr a | _ => false

/-- The sectors of a line that a mask selects, ascending. -/
def pickSectors (d : Line) (mask : Nat) : List Sector := (ones mask 4).map (sectorOf d)

/-- The request that a Raloth requester's answer belongs to. -/
def ralothAsk (srcT srcS part tag vc : Nat) : RMsg :=
  { blankMsg with vc := vc, tag := tag, srcT := srcT, srcS := srcS, part := part }

/-- Answer a read: line, poison per sector, status 0 or 1 (address error). -/
def answerRead (s : State) (who : Requester) (addr : Nat) (data : Line) (poison : BitVec 4) (status : Nat) : State :=
  match who with
  | .thread slot => { s with cmp := { s.cmp with replies := s.cmp.replies ++ [⟨slot, addr, data, poison, status, 0, 0⟩] } }
  | .bar2 f tag len =>
    let first := addr % 128 / 32
    let last := (addr % 128 + (Nat.max len 1) - 1) / 32
    let bad := status ≠ 0 ∨ (List.range 4).any (fun i => first ≤ i && i ≤ last && poison.getLsbD i)
    s.emit (.bar2Cpl f tag (if bad then 1 else 0) addr (sliceB (toBytes data 128) (addr % 128) len))
  | .raloth _ srcT srcS part tag mask =>
    respond s (ralothAsk srcT srcS part tag 0) 0x02 (BitVec.ofNat 128 status) poison (pickSectors data mask)
  | .piece b q tile idx =>
    updPiece s b q tile idx (fun p => { p with far := smSet p.far (lineAddr addr) (data, if status = 0 then poison else 0xF) })
  | _ => s

/-- Acknowledge a write, accumulate or flag operation: status and the flag word. -/
def answerAck (s : State) (who : Requester) (flag : Bool) (addr : Nat) (status : Nat) (w : Word) : State :=
  match who with
  | .thread slot =>
    if flag then { s with cmp := { s.cmp with replies := s.cmp.replies ++ [⟨slot, addr, 0, 0, status, w, 0⟩] } }
    else storeDone s slot (inLine addr)
  | .raloth _ srcT srcS part tag _ =>
    let st := if status = 6 then 3 else if status = 7 then 0 else status
    respond s (ralothAsk srcT srcS part tag (if flag then 2 else 1)) 0x07 (BitVec.ofNat 128 (st + 2 ^ 64 * w.toNat)) 0 []
  | _ => s

/-- The operation writes its line. -/
def SliceOp.writes : SliceOp → Bool
  | .write _ _ _ => true
  | .accum _ _ _ _ => true
  | .flagSet _ => true
  | .flagAdd _ => true
  | .flagWait _ _ => true
  | _ => false

/-- The operation is a flag operation. -/
def SliceOp.flag : SliceOp → Bool
  | .flagSet _ => true
  | .flagAdd _ => true
  | .flagWait _ _ => true
  | _ => false

/-- The operation comes from the stack's own management of lines and is not an access. -/
def SliceOp.manages : SliceOp → Bool
  | .pin _ => true
  | .unpin => true
  | .clean => true
  | .flush => true
  | .rack _ => true
  | .kill => true
  | _ => false

/-- Answer a request that ends with a status and no data. -/
def answerFail (s : State) (h : Held) (status : Nat) : State :=
  match h.op with
  | .read _ => answerRead s h.who h.addr 0 0xF status
  | .pref => s
  | op => if op.manages then s else answerAck s h.who op.flag h.addr status 0

/-! ### Frames (R183, R187, R188) -/

/-- The frames of a set: way and frame. -/
def State.setFrames (s : State) (n set : Nat) : List (Nat × Frame) :=
  (s.cel.frames.filter (fun e => e.1 / 16 = 32768 * n + set)).map (fun e => (e.1 % 16, e.2))

/-- Store a frame; one without lines is empty. -/
def State.putFrame (s : State) (n set way : Nat) (f : Frame) : State :=
  { s with cel := { s.cel with
    frames := if f.lines = [] then smDel s.cel.frames (frameKey n set way)
      else smSet s.cel.frames (frameKey n set way) f } }

/-- The entry of a line in the slice that serves it: way, frame, entry. -/
def State.findLine (s : State) (n a : Nat) : Option (Nat × Frame × LineEnt) :=
  (s.setFrames n (setOf a)).findSome? (fun e =>
    if e.2.ch = sliceOf a ∧ e.2.grp = lidxOf a then
      (e.2.lines.find? (fun l => l.line = lineOf a)).map (fun l => (e.1, e.2, l))
    else none)

/-- The slice that serves a line: none where the line is not cached (R200, R204, R219). -/
def State.server (s : State) (a : Nat) : Option Nat :=
  match (s.partOfAddr a).bind s.part with
  | none => none
  | some r =>
    if r.ways = 0 then none
    else
      let n := sliceOf a
      let m := if (s.slice n).state = 2 then (s.slice n).subst else n
      if (s.slice m).state = 2 then none else some m

/-- The ways of the partition that owns an address. -/
def State.waysAt (s : State) (a : Nat) : List Nat :=
  match (s.partOfAddr a).bind s.part with
  | none => []
  | some r => ones r.ways.toNat 16

/-- Quarters that an entry uses. -/
def LineEnt.quarters (l : LineEnt) : List Nat :=
  if l.cls = 0 then [] else if l.cls = 32 then [l.quarter] else if l.cls = 64 then [l.quarter, l.quarter + 1]
  else [0, 1, 2, 3]

/-- The first aligned free position of a class in a frame. -/
def Frame.fit (f : Frame) (cls : Nat) : Option Nat :=
  let used := f.lines.flatMap LineEnt.quarters
  let free := fun l => l.all (fun q => !used.contains q)
  if cls = 0 then some 0
  else if cls = 32 then (List.range 4).find? (fun q => free [q])
  else if cls = 64 then [0, 2].find? (fun q => free [q, q + 1])
  else if free [0, 1, 2, 3] then some 0 else none

/-- Rank of a line's hint (R201): evict-first 0, normal 1, keep 2, racked 3. -/
def LineEnt.rank (l : LineEnt) : Nat := if l.racked then 3 else if l.hint = 1 then 2 else if l.hint = 2 then 0 else 1

/-- Rank of a frame. -/
def Frame.rank (f : Frame) : Nat := f.lines.foldl (fun m l => Nat.max m l.rank) 0

/-- A pinned frame. -/
def Frame.pinned (f : Frame) : Bool := f.lines.any (fun l => l.pinned)

/-- Send a request to a channel. -/
def toChannel (s : State) (q : ChanReq) : State := { s with cel := { s.cel with hbmq := s.cel.hbmq ++ [q] } }

/-- Clear the merge entry of a line (R213). -/
def mergeClear (s : State) (n a : Nat) : State :=
  let x := s.slice n
  s.setSlice n { x with merge := x.merge.filter (fun e => e.1 ≠ lineAddr a) }

/-- Evict one line of a frame (R196). -/
def evictLine (s : State) (n : Nat) (f : Frame) (l : LineEnt) : State :=
  let a := addrOf f.ch f.grp l.line
  let s1 := mergeClear s n a
  match l.st with
  | .dirty => toChannel s1 (.writeBack a l.data l.poison)
  | .dead => toChannel s1 (.kill a)
  | _ => s1

/-- Evict a frame with every line in it (R202). -/
def evictFrame (s : State) (n set way : Nat) (f : Frame) : State :=
  (foldS f.lines s (fun t l => evictLine t n f l)).putFrame n set way { f with lines := [] }

/-- The victim of a set among the ways given, of rank below `lim` (R202, R256). -/
def victim (l : List (Nat × Frame)) (ways : List Nat) (lim : Nat) : Option (Nat × Frame) :=
  let c := l.filter (fun e => ways.contains e.1 && !e.2.pinned && e.2.rank < lim &&
    !e.2.lines.any (fun x => x.st = .filling))
  c.foldl (fun best e => match best with
    | none => some e
    | some b => if e.2.rank < b.2.rank ∨ (e.2.rank = b.2.rank ∧ e.2.age < b.2.age) then some e else some b) none

/-- Place an entry that its set does not hold (R194): its own frame first, another frame of the group, then an empty
way or a victim of rank below `lim`. None where no frame qualifies. -/
def placeBelow (lim : Nat) (s : State) (n a : Nat) (e : LineEnt) (own : Option Nat) : Option State :=
  let set := setOf a
  let fs := s.setFrames n set
  let same := fs.filter (fun x => x.2.ch = sliceOf a ∧ x.2.grp = lidxOf a)
  let ordered := same.filter (fun x => some x.1 = own) ++ same.filter (fun x => some x.1 ≠ own)
  let put := fun (t : State) (w : Nat) (f : Frame) (q : Nat) =>
    let t1 := t.putFrame n set w { f with lines := f.lines ++ [{ e with quarter := q }], age := t.cel.clock }
    ({ t1 with cel := { t1.cel with clock := t1.cel.clock + 1 } } : State)
  match ordered.findSome? (fun x => (x.2.fit e.cls).map (fun q => (x.1, x.2, q))) with
  | some (w, f, q) => some (put s w f q)
  | none =>
    let ways := s.waysAt a
    let blank : Frame := ⟨sliceOf a, lidxOf a, 0, []⟩
    match ways.find? (fun w => !fs.any (fun x => x.1 = w)) with
    | some w => some (put s w blank 0)
    | none =>
      match victim fs ways lim with
      | some (w, f) => some (put (evictFrame s n set w f) w blank 0)
      | none => none

/-- Place an entry in any frame that qualifies. -/
def place (s : State) (n a : Nat) (e : LineEnt) (own : Option Nat) : Option State := placeBelow 4 s n a e own

/-- Remove a line's entry from its frame. -/
def removeEnt (s : State) (n a : Nat) : State :=
  match s.findLine n a with
  | none => s
  | some (w, f, l) => s.putFrame n (setOf a) w { f with lines := f.lines.erase l }

/-- Replace a line's entry: in place where its class is unchanged, else placed anew. Renews the frame's age (R202). -/
def replaceEnt (s : State) (n a : Nat) (e : LineEnt) : Option State :=
  match s.findLine n a with
  | none => place s n a e none
  | some (w, f, l) =>
    let rest := f.lines.erase l
    let set := setOf a
    let same : Frame := { f with lines := rest, age := s.cel.clock }
    let bump := fun (t : State) => ({ t with cel := { t.cel with clock := t.cel.clock + 1 } } : State)
    if e.cls = l.cls then
      some (bump (s.putFrame n set w { same with lines := rest ++ [{ e with quarter := l.quarter }] }))
    else
      match same.fit e.cls with
      | some q => some (bump (mergeClear (s.putFrame n set w { same with lines := rest ++ [{ e with quarter := q }] }) n a))
      | none => place (mergeClear (s.putFrame n set w same) n a) n a e (some w)

/-- The class in which a line is stored (R188): 128 with any poison bit. -/
def classFor (d : Line) (poison : BitVec 4) : Nat := if poison ≠ 0 then 128 else classOf d

/-! ### Reading a frame (R182, R325, R198) -/

/-- The row bytes that a frame stores. -/
def Frame.row (f : Frame) : BitVec 1024 :=
  f.lines.foldl (fun v l =>
    v ||| (BitVec.ofNat 1024 (leNat (storedBytes l.data l.cls)) <<< (256 * l.quarter))) 0

/-- A cellar record's payload (R342): kind, die, slice, row or set, address. -/
def celPayload (kind die n row addr : Nat) : Nat := kind + 2 ^ 8 * die + 2 ^ 16 * n + 2 ^ 32 * row + 2 ^ 64 * addr

/-- Read the row of a frame: corrections are counted, and every line with quarters in a failed codeword takes all four
poison bits, with one record (R198, R328). Answers the row as delivered. -/
def readRow (s : State) (n set way : Nat) (f : Frame) (errs : List SymErr) : State × BitVec 1024 :=
  let row := f.row
  let outs := [0, 1].map (fun c => (c, decodeCw errs c))
  let bad := outs.filter (fun o => o.2.bad)
  let fixed := (outs.filter (fun o => o.2.fixed)).length
  let data := deliver errs 1 (row.extractLsb' 512 512) ++ deliver errs 0 (row.extractLsb' 0 512)
  let s1 := if fixed = 0 then s else countCe s 1 fixed
  match bad.getLast? with
  | none => (s1, data)
  | some e =>
    let hit := fun (l : LineEnt) => l.quarters.any (fun q => bad.any (fun b => b.1 = q / 2))
    let lines := f.lines.map (fun l => if hit l then { l with poison := 0xF } else l)
    let s2 := s1.putFrame n set way { f with lines := lines }
    let first := (f.lines.head?.map (fun l => addrOf f.ch f.grp l.line)).getD 0
    let kind := if bad.any (fun b => b.2 = .addressFault) then 2 else 1
    let s3 := postErr s2 3 1 (partByte (s.partOfAddr first)) (celPayload kind (way / 4) n (4 * set + way % 4) first)
    (captureSynd s3 (syndNat (syndOf errs e.1)), data)

/-- The line of an entry in a row as delivered; a damaged encoding without meaning gives a free value. -/
def rowLine (row : BitVec 1024) (l : LineEnt) (k : Nat) : Line :=
  if l.cls = 128 then row
  else (decodeLine (sliceB (toBytes row 128) (32 * l.quarter) l.cls)).getD (Config.garble k)

/-- Read a present line of a frame: from the merge entry, without a row for class 0, else from the row, whose data then
stays in the merge table (R213). Answers data and poison. -/
def readEnt (s : State) (n a : Nat) (errs : List SymErr) : State × Line × BitVec 4 :=
  match s.findLine n a with
  | none => (s, 0, 0)
  | some (w, f, l) =>
    if l.cls = 0 then (s, 0, l.poison)
    else
      match (s.slice n).merge.find? (fun e => e.1 = lineAddr a) with
      | some m => (s, m.2, l.poison)
      | none =>
        let (s1, data, k) := if errs = [] then (s, l.data, 0) else
          let (t, row) := readRow s n (setOf a) w f errs
          (t.tick, rowLine row l t.free, 1)
        let p := match s1.findLine n a with | some (_, _, x) => x.poison | none => l.poison
        let x := s1.slice n
        let keep := (x.merge ++ [(lineAddr a, data)])
        let s2 := s1.setSlice n { x with merge := keep.drop (keep.length - 16) }
        (if k = 0 then s2 else s2, data, p)

/-! ### Flag waits (R144, R145) -/

/-- The condition of a WAIT. -/
def flagCond (cond : Nat) (w v : Word) : Bool :=
  if cond = 0 then w = v else if cond = 1 then w ≠ v else if cond = 2 then v.ule w else v.sle w

/-- Byte enables of a word at an address. -/
def wordEnables (addr : Nat) : BitVec 128 := BitVec.ofNat 128 (255 * 2 ^ (addr % 128 / 8 * 8))

/-- The wait entries of words that an update touched: satisfied waiters and waiters of a sector left poisoned end. -/
def releaseWaits (s : State) (n a : Nat) (data : Line) (poison : BitVec 4) (be : BitVec 128) : State :=
  let x := s.slice n
  let touched := fun (e : WaitEnt) => lineAddr e.addr = lineAddr a ∧ be &&& wordEnables e.addr ≠ 0
  let sick := fun (e : WaitEnt) => poison.getLsbD (e.addr % 128 / 32)
  let ends := fun (e : WaitEnt) => touched e && (sick e || flagCond e.cond (wordAt data (e.addr % 128)) e.v)
  let s1 := s.setSlice n { x with waits := x.waits.filter (fun e => !ends e) }
  foldS (x.waits.filter ends) s1 (fun t e =>
    if sick e then answerAck t e.who true e.addr 5 0
    else answerAck t e.who true e.addr 0 (wordAt data (e.addr % 128)))

/-! ### Pins (R203 to R205) -/

/-- Strict mode and pin_cap of a partition (R304, R311). -/
def State.cachOf (s : State) (p : Nat) : Bool × Nat :=
  match s.bup.blend.bind (fun b => b.cach.find? (fun e => e.1 = p)) with
  | some e => e.2
  | none => (false, 0)

/-- Pinned frames of a slice among the ways given. -/
def State.pinnedIn (s : State) (n : Nat) (ways : List Nat) : Nat :=
  (s.cel.frames.filter (fun e => e.1 / 524288 = n && ways.contains (e.1 % 16) && e.2.pinned)).length

/-- A refused pin (R204): counted for its partition, event of the slice that the line hashes to. -/
def pinDeny (s : State) (p a : Nat) : State :=
  raise (s.addMod (rCelPinDeny p) fCelPinDenyCount 1) (rCelEvent (sliceOf a)) fCelEventPinDeny

/-- The caps of R204 permit one more pinned frame in the line's set and slice. -/
def State.pinFits (s : State) (n p a : Nat) : Bool :=
  let ways := s.waysAt a
  let inSet := ((s.setFrames n (setOf a)).filter (fun e => ways.contains e.1 && e.2.pinned)).length
  inSet < 3 * ways.length / 4 && s.pinnedIn n ways < (s.cachOf p).2

/-! ### Operations on a present line (R196, R198) -/

/-- Count a read of a line without data (R208, R209): counted for the partition; in strict mode also an event and a
record. Answers whether the read returns poison. -/
def deadRead (s : State) (n a : Nat) : State × Bool :=
  match s.partOfAddr a with
  | none => (s, false)
  | some p =>
    let s1 := s.addMod (rCelDeadRead p) fCelDeadReadCount 1
    if (s.cachOf p).1 then
      (postErr (raise s1 (rCelEvent n) fCelEventStrictDead) 3 1 p (celPayload 4 0 n 0 (lineAddr a)), true)
    else (s1, false)

/-- What an operation gives its requester: data and poison of a read, or status and flag word. -/
structure Ans where
  data : Line
  poison : BitVec 4
  status : Nat
  word : Word
  deriving DecidableEq, Repr

/-- Write a line's new content: DIRTY, compressed, placed anew if its class changes; then the waits on the bytes
touched. -/
def updLine (s : State) (n a : Nat) (l : LineEnt) (d : Line) (poison : BitVec 4) (hint : Nat) (be : BitVec 128) :
    Option State :=
  let e := { l with st := .dirty, data := d, poison := poison, hint := hint, cls := classFor d poison }
  (replaceEnt (mergeClear s n a) n a e).map (fun t => releaseWaits t n a d poison be)

/-- The poison bits after a plain write (R198): cleared for sectors written whole, set where the data is poison. -/
def writePoison (old : BitVec 4) (be : BitVec 128) (poison : BitVec 4) : BitVec 4 :=
  BitVec.ofNat 4 ((List.range 4).foldl (fun v i =>
    let e := be.extractLsb' (32 * i) 32
    let bit := if e = 0 then old.getLsbD i else if e = BitVec.allOnes 32 then poison.getLsbD i
      else old.getLsbD i || poison.getLsbD i
    v + b2n bit * 2 ^ i) 0)

/-- Byte enables of a sector. -/
def sectorEnables (i : Nat) : BitVec 128 := BitVec.ofNat 128 ((2 ^ 32 - 1) * 2 ^ (32 * i))

/-- A line without data: its DEAD or ZERO entry. -/
def LineEnt.empty (l : LineEnt) (st : LineSt) : LineEnt :=
  { l with st := st, data := 0, poison := 0, cls := 0, quarter := 0 }

/-- Apply an operation to a present line (not FILLING). None where the line has to be placed anew and no frame
qualifies. -/
def applyOp (s : State) (n : Nat) (h : Held) (errs : List SymErr) : Option (State × Ans) :=
  let a := lineAddr h.addr
  match s.findLine n a with
  | none => some (s, ⟨0, 0, 0, 0⟩)
  | some (_, _, l) =>
    let off := h.addr % 128
    let sec := off / 32
    let live := l.st = .clean ∨ l.st = .dirty
    match h.op with
    | .read hint =>
      if live then
        let (s1, d, p) := readEnt s n a errs
        let s2 := countEv s1 5 0xFF (partByte (s.partOfAddr a)) 1
        let ans : Ans := ⟨d, p, 0, 0⟩
        match s2.findLine n a with
        | none => some (s2, ans)
        | some (_, _, x) =>
          if hint = 3 ∧ ¬ s.inSealed a then (replaceEnt (mergeClear s2 n a) n a (x.empty .dead)).map (fun t => (t, ans))
          else (replaceEnt s2 n a { x with hint := if hint = 3 then 0 else hint }).map (fun t => (t, ans))
      else
        let (s1, strict) := deadRead s n a
        let s2 := countEv s1 5 0xFF (partByte (s.partOfAddr a)) 1
        (replaceEnt s2 n a { l with hint := if hint = 3 then l.hint else hint }).map (fun t =>
          (t, ⟨0, if strict then 0xF else 0, 0, 0⟩))
    | .write be d p =>
      if be = BitVec.allOnes 128 then
        (updLine s n a l d p h.hint be).map (fun t => (t, ⟨0, 0, 0, 0⟩))
      else
        let (s1, old, op) := readEnt s n a errs
        (updLine s1 n a l (mergeBytes old d be) (writePoison op be p) h.hint be).map (fun t => (t, ⟨0, 0, 0, 0⟩))
    | .accum op mask d p =>
      let (s1, old, oldP) := readEnt s n a errs
      let nd := putSector old sec (accumSector op mask (sectorOf old sec) d)
      let np := if p then oldP ||| BitVec.ofNat 4 (2 ^ sec) else oldP
      (updLine s1 n a l nd np h.hint (sectorEnables sec)).map (fun t => (t, ⟨0, 0, 0, 0⟩))
    | .flagSet v =>
      let (s1, old, p) := readEnt s n a errs
      if p.getLsbD sec then some (s1, ⟨0, 0, 5, 0⟩)
      else (updLine s1 n a l (putWord old off v) p h.hint (wordEnables off)).map (fun t =>
        (t, ⟨0, 0, 0, wordAt old off⟩))
    | .flagAdd v =>
      let (s1, old, p) := readEnt s n a errs
      if p.getLsbD sec then some (s1, ⟨0, 0, 5, 0⟩)
      else (updLine s1 n a l (putWord old off (wordAt old off + v)) p h.hint (wordEnables off)).map (fun t =>
        (t, ⟨0, 0, 0, wordAt old off⟩))
    | .flagWait cond v =>
      let (s1, old, p) := readEnt s n a errs
      let x := s1.slice n
      if p.getLsbD sec then some (s1, ⟨0, 0, 5, 0⟩)
      else if flagCond cond (wordAt old off) v then some (s1, ⟨0, 0, 0, wordAt old off⟩)
      else if 128 ≤ x.waits.length then some (s1, ⟨0, 0, 6, wordAt old off⟩)
      else some (s1.setSlice n { x with waits := x.waits ++ [⟨h.who, h.addr, cond, v⟩] }, ⟨0, 0, 8, 0⟩)
    | .pin p =>
      let frame : Bool := match s.findLine n a with | some (_, f, _) => f.pinned | none => false
      if l.pinned then some (s, ⟨0, 0, 0, 0⟩)
      else if frame ∨ s.pinFits n p a then
        (replaceEnt s n a { l with pinned := true }).map (fun t => (t, ⟨0, 0, 0, 0⟩))
      else (replaceEnt s n a { l with hint := 1 }).map (fun t => (pinDeny t p a, ⟨0, 0, 0, 0⟩))
    | .unpin => (replaceEnt s n a { l with pinned := false }).map (fun t => (t, ⟨0, 0, 0, 0⟩))
    | .clean | .flush =>
      let s1 := match l.st with
        | .dirty => toChannel s (.writeBack a l.data l.poison)
        | .dead => toChannel s (.kill a)
        | _ => s
      let st := match l.st with | .dirty => .clean | .dead => .zero | o => o
      if h.op = .flush ∧ ¬ l.pinned then some (removeEnt (mergeClear s1 n a) n a, ⟨0, 0, 0, 0⟩)
      else (replaceEnt s1 n a { l with st := st }).map (fun t => (t, ⟨0, 0, 0, 0⟩))
    | .rack on => (replaceEnt s n a { l with racked := on }).map (fun t => (t, ⟨0, 0, 0, 0⟩))
    | .kill =>
      if live then (replaceEnt (mergeClear s n a) n a (l.empty .dead)).map (fun t => (t, ⟨0, 0, 0, 0⟩))
      else some (s, ⟨0, 0, 0, 0⟩)
    | .pref => (replaceEnt s n a { l with hint := if h.hint = 3 then 0 else h.hint }).map (fun t => (t, ⟨0, 0, 0, 0⟩))

/-- Send an operation's answer to its requester. Status 8 is a WAIT that a wait entry holds. -/
def reply (s : State) (h : Held) (x : Ans) : State :=
  match h.op with
  | .read _ => answerRead s h.who h.addr x.data x.poison x.status
  | .pref => s
  | op =>
    if op.manages ∨ x.status = 8 then s else answerAck s h.who op.flag h.addr x.status x.word

/-! ### Fills (R210 to R212) -/

/-- The requester uses miss registers (R211). -/
def isPrivileged : Requester → Bool
  | .thread _ => true
  | .bar2 _ _ _ => true
  | .xlat => true
  | .command _ => true
  | .borsum => true
  | _ => false

/-- The delivery mask bits of a requester: bay, port. -/
def deliveryOf : Requester → Nat × Nat
  | .thread t => (2 ^ bayOfCell (t / 128), 0)
  | .piece b _ _ _ => (2 ^ b, 0)
  | .raloth n _ _ _ _ _ => (0, 2 ^ n)
  | _ => (0, 0)

/-- Join the fill of a line with a fill entry or a miss register of the requester's kind; none when none is free or the
waiter list is full. -/
def joinEntry (x : Slice) (h : Held) : Option Slice :=
  let a := lineAddr h.addr
  let priv := isPrivileged h.who
  let d := deliveryOf h.who
  match x.fills.find? (fun e => e.addr = a ∧ e.privileged = priv) with
  | some e =>
    if priv ∧ 16 ≤ e.waiters.length then none
    else
      let e1 := { e with
        bays := e.bays ||| BitVec.ofNat 32 d.1
        ports := e.ports ||| BitVec.ofNat 8 d.2
        waiters := if priv then e.waiters ++ [h] else e.waiters }
      some { x with fills := x.fills.map (fun y => if y = e then e1 else y) }
  | none =>
    if (if priv then 64 else 96) ≤ (x.fills.filter (fun e => e.privileged = priv)).length then none
    else some { x with fills := x.fills ++
      [⟨a, priv, BitVec.ofNat 32 d.1, BitVec.ofNat 8 d.2, if priv then [h] else []⟩] }

/-- Put a request into a slice's side queue. -/
def toSide (s : State) (n : Nat) (h : Held) : State :=
  let x := s.slice n
  s.setSlice n { x with side := x.side ++ [h] }

/-- Put a request among those that wait for a frame. -/
def toVictim (s : State) (n : Nat) (h : Held) : State :=
  let x := s.slice n
  s.setSlice n { x with victim := x.victim ++ [h] }

/-- An entry of a line in a state, holding nothing. -/
def LineEnt.fresh (a : Nat) (st : LineSt) (hint : Nat) : LineEnt :=
  ⟨lineOf a, 0, 0, st, if hint = 3 then 0 else hint, false, false, 0, 0⟩

/-- Reserve the FILLING entry of a line and take a fill entry or miss register; the request waits for the fill. -/
def startFill (s : State) (n : Nat) (h : Held) : State :=
  let a := lineAddr h.addr
  match joinEntry (s.slice n) h with
  | none => toSide s n h
  | some _ =>
    let racking := h.op = .rack true
    match placeBelow (if racking then 3 else 4) s n a (LineEnt.fresh a .filling (if racking then 0 else h.hint)) none with
    | none =>
      if racking then s.addSat (rPlcCnt ((s.partOfAddr a).getD 0)) fPlcCntRackSkip 1 else toVictim s n h
    | some t =>
      match joinEntry (t.slice n) h with
      | none => toSide t n h
      | some x =>
        countEv (t.setSlice n { x with waiting := x.waiting ++ [h] }) 6 0xFF (partByte (s.partOfAddr a)) 1

/-- A request finds its line ABSENT: counted for the thrash detector (R206). -/
def countMiss (s : State) (n a : Nat) : State :=
  let x := s.slice n
  let set := setOf a
  if s.fld (rCelPinCtrl n) fCelPinCtrlThrashAll = 1 ∨ (s.setFrames n set).any (fun e => e.2.pinned) then
    s.setSlice n { x with
      misses := smUpd x.misses set 0 (· + 1)
      missPart := smSet x.missPart set ((s.partOfAddr a).getD 0) }
  else s

/-- The operation needs the line's content from HBM when the line is ABSENT. -/
def SliceOp.fills : SliceOp → Bool
  | .write be _ _ => be ≠ BitVec.allOnes 128
  | .unpin => false
  | .clean => false
  | .flush => false
  | .kill => false
  | .rack on => on
  | _ => true

/-- Serve a request whose turn has come at its slice. -/
def runLine (s : State) (n : Nat) (h : Held) (errs : List SymErr) : State :=
  let a := lineAddr h.addr
  match s.findLine n a with
  | some (_, _, l) =>
    if l.st = .filling then
      match joinEntry (s.slice n) h with
      | none => toSide s n h
      | some x => s.setSlice n { x with waiting := x.waiting ++ [h] }
    else
      match applyOp s n h errs with
      | none => toVictim s n h
      | some (t, x) => reply t h x
  | none =>
    if h.op.fills then startFill s n h
    else
      match h.op with
      | .write be d p =>
        let e := { LineEnt.fresh a .dirty h.hint with data := d, poison := p, cls := classFor d p }
        match place s n a e none with
        | none => toVictim s n h
        | some t => reply (releaseWaits t n a d p be) h ⟨0, 0, 0, 0⟩
      | .kill => toChannel s (.kill a)
      | _ => s

/-- Serve a request in the order of its line (R197): behind requests of the line that wait for a frame or a place. -/
def runOrdered (s : State) (n : Nat) (h : Held) (errs : List SymErr) : State :=
  let a := lineAddr h.addr
  let x := s.slice n
  let mine := fun (l : List Held) => l.any (fun y => lineAddr y.addr = a)
  if mine x.victim then toVictim s n h
  else if mine x.side then toSide s n h
  else
    match s.findLine n a with
    | some _ => runLine s n h errs
    | none => runLine (if h.op.manages then s else countMiss s n a) n h errs

/-- Wrong bits of the tag entry: one is corrected, more quarantine the set (R335, R336). -/
def tagErrors (s : State) (n a : Nat) (errs : List SymErr) : State :=
  let bits := (errs.filter (fun e => e.cw = 2)).foldl (fun k e => k + popc e.diff.toNat 8) 0
  let x := s.slice n
  if bits = 0 then s
  else if bits = 1 then countCe s 5 1
  else if x.quarantined.contains (setOf a) then s
  else
    postErr (s.setSlice n { x with quarantined := x.quarantined ++ [setOf a] }) 3 2 0xFF (celPayload 3 0 n (setOf a) 0)

/-- A request at a quarantined set (R336). -/
def quarantineReq (s : State) (h : Held) : State :=
  match h.op with
  | .read _ => answerRead s h.who h.addr 0 0xF 0
  | .pref => s
  | op =>
    let s1 := if op.manages ∧ op ≠ .kill then s else addrError s 7 true h.addr
    answerFail s1 h 1

/-- A request for a line that is not cached (R200, R204). -/
def uncachedReq (s : State) (h : Held) : State :=
  match h.op with
  | .pin p => pinDeny s p h.addr
  | .kill => toChannel s (.kill (lineAddr h.addr))
  | .pref => s
  | op => if op.manages then s else toChannel s (.uncached h)

/-- A reserved accumulate opcode (R113). -/
def SliceOp.reserved : SliceOp → Bool
  | .accum op _ _ _ => op = 0 ∨ 7 ≤ op
  | _ => false

/-- The operation is checked against the directory (R261): writes, accumulates, flag SET and ADD, and kills. -/
def SliceOp.changes : SliceOp → Bool
  | .write _ _ _ => true
  | .accum _ _ _ _ => true
  | .flagSet _ => true
  | .flagAdd _ => true
  | .kill => true
  | _ => false

/-- A request that has passed its checks: the slice that serves its line, or the channel. -/
def sliceServe (s : State) (h : Held) (errs : List SymErr) : State :=
  let a := lineAddr h.addr
  match s.server a with
  | none => uncachedReq s h
  | some n =>
    if (s.slice n).state = 1 ∨ s.setUnderTest n (setOf a) then
      let x := s.slice n
      s.setSlice n { x with held := x.held ++ [h] }
    else
      let s1 := tagErrors s n a errs
      if (s1.slice n).quarantined.contains (setOf a) then quarantineReq s1 h
      else runOrdered s1 n h (errs.filter (fun e => e.cw < 2))

/-- A request reaches the cellar: address, pool and seal checks, the directory of sharers, then its slice. -/
def sliceReq (s : State) (h : Held) (errs : List SymErr) : State :=
  let a := lineAddr h.addr
  if ¬ s.backed h.addr then
    answerFail (if h.op = .pref then s else addrError s (whoCode h.who) h.op.writes h.addr) h 1
  else if ¬ h.op.manages ∧ ¬ (s.permits h.who h.op.writes h.addr ∧ s.poolAllows h.who (!h.op.writes) a) then
    answerFail (if h.op = .pref then s else addrError s (whoCode h.who) h.op.writes h.addr) h 1
  else if h.op.reserved then answerFail (addrError s 6 true h.addr) h 1
  else
    match (if h.op.changes then s.sharersOf (regionOf a) else none) with
    | some d => holdForSharers s d h
    | none => sliceServe (if h.op.manages then s else countHeat s h.who a) h errs

/-- A fill has arrived: the line becomes CLEAN or ZERO, and the requests that waited for it are served in their order
(R196, R210, R211). None where no frame can hold it. -/
def installFill (s : State) (n : Nat) (fd : FillData) : Option State :=
  let a := lineAddr fd.addr
  match s.findLine n a with
  | none => none
  | some (_, _, l) =>
    if l.st ≠ .filling then none
    else
      let l := { l with racked := s.racked (regionOf a) }
      let e := if fd.valid then
          { l with st := .clean, data := fd.data, poison := fd.poison, cls := classFor fd.data fd.poison }
        else l.empty .zero
      (replaceEnt s n a e).map (fun t =>
        let x := t.slice n
        let mine := fun (y : Held) => lineAddr y.addr = a
        let t1 := t.setSlice n { x with
          fills := x.fills.filter (fun f => f.addr ≠ a)
          waiting := x.waiting.filter (fun y => !mine y) }
        foldS (x.waiting.filter mine) t1 (fun u y => runOrdered u n y []))

/-! ### Requests at a channel (R200, R231, R234) -/

/-- The address of a channel request. -/
def ChanReq.addr : ChanReq → Nat
  | .writeBack a _ _ => a
  | .kill a => a
  | .sidecar a => a
  | .uncached h => h.addr

/-- Apply an uncached request (R200, R232, R234): reads from HBM; writes, accumulates and flag operations are applied and
written before they are acknowledged. -/
def serveUncached (s : State) (h : Held) (errs : List SymErr) : State :=
  let a := lineAddr h.addr
  let off := h.addr % 128
  let sec := off / 32
  let n := sliceOf a
  let upd := fun (t : State) (d : Line) (p : BitVec 4) (be : BitVec 128) =>
    if t.chanFailed a then lostWrite t a
    else
      let u := writeLine t a d p true errs
      releaseWaits u n a d (if (u.block a).poison then 0xF else 0) be
  match h.op with
  | .read _ =>
    let (s1, r) := readLine s a errs
    answerRead s1 h.who h.addr r.data r.poison 0
  | .write be d p =>
    if be = BitVec.allOnes 128 then answerAck (upd s d p be) h.who false h.addr 0 0
    else
      let (s1, r) := readLine s a errs
      answerAck (upd s1 (mergeBytes r.data d be) p be) h.who false h.addr 0 0
  | .accum op mask d p =>
    let (s1, r) := readLine s a errs
    let nd := putSector r.data sec (accumSector op mask (sectorOf r.data sec) d)
    answerAck (upd s1 nd (if p then BitVec.ofNat 4 (2 ^ sec) else 0) (sectorEnables sec)) h.who false h.addr 0 0
  | .flagSet v =>
    let (s1, r) := readLine s a errs
    if r.poison ≠ 0 then answerAck s1 h.who true h.addr 5 0
    else answerAck (upd s1 (putWord r.data off v) 0 (wordEnables off)) h.who true h.addr 0 (wordAt r.data off)
  | .flagAdd v =>
    let (s1, r) := readLine s a errs
    if r.poison ≠ 0 then answerAck s1 h.who true h.addr 5 0
    else
      answerAck (upd s1 (putWord r.data off (wordAt r.data off + v)) 0 (wordEnables off)) h.who true h.addr 0
        (wordAt r.data off)
  | .flagWait cond v =>
    let (s1, r) := readLine s a errs
    let x := s1.slice n
    if r.poison ≠ 0 then answerAck s1 h.who true h.addr 5 0
    else if flagCond cond (wordAt r.data off) v then answerAck s1 h.who true h.addr 0 (wordAt r.data off)
    else if 128 ≤ x.waits.length then answerAck s1 h.who true h.addr 6 0
    else s1.setSlice n { x with waits := x.waits ++ [⟨h.who, h.addr, cond, v⟩] }
  | _ => s

/-- Serve one request of a channel. -/
def serveChan (s : State) (q : ChanReq) (errs : List SymErr) : State :=
  match q with
  | .writeBack a d p => writeBack s a d p errs
  | .kill a => killLine s a errs
  | .sidecar a => touchSidecar s a true
  | .uncached h => serveUncached s h errs

/-- Serve the waiting channel requests that satisfy a test, in order. -/
def serveWhere (s : State) (t : ChanReq → Bool) : State :=
  let q := s.cel.hbmq.filter t
  foldS q { s with cel := { s.cel with hbmq := s.cel.hbmq.filter (fun x => !t x) } } (fun u x => serveChan u x [])

/-! ### Accesses in one step

An engine (a tile piece, a command, IMPORT, the placement engine) that moves many lines in one command makes each
access at once: what waits on the line is served first. -/

/-- Complete what waits on a line: its channel requests, then its fill. -/
def settle (s : State) (a : Nat) : State :=
  let s1 := serveWhere s (fun q => blockAddr q.addr = blockAddr a)
  match s1.server a with
  | none => s1
  | some n =>
    match s1.findLine n a with
    | some (_, _, l) =>
      if l.st = .filling then
        let (s2, r) := readLine s1 (lineAddr a) []
        (installFill { s2 with cel := { s2.cel with fillq := s2.cel.fillq.filter (fun f => f.addr ≠ lineAddr a) } } n
          ⟨lineAddr a, r.valid, r.data, r.poison⟩).getD s1
      else s1
    | none => s1

/-- An access made at once. Status 1 is an address error. A line that no frame can hold is served from HBM. -/
def engineOp (s : State) (h : Held) : State × Ans :=
  let a := lineAddr h.addr
  if ¬ s.backed h.addr ∨ ¬ s.permits h.who h.op.writes h.addr ∨ ¬ s.poolAllows h.who (!h.op.writes) a then
    (addrError s (whoCode h.who) h.op.writes h.addr, ⟨0, 0xF, 1, 0⟩)
  else if h.op.reserved then (addrError s 6 true h.addr, ⟨0, 0xF, 1, 0⟩)
  else if h.op.changes ∧ (s.sharersOf (regionOf a)).isSome then
    ((s.sharersOf (regionOf a)).elim s (fun d => holdForSharers s d h), ⟨0, 0, 0, 0⟩)
  else
    let s1 := settle (countHeat s h.who a) a
    let direct := fun (t : State) =>
      let (u, r) := readLine t a []
      (match h.op with | .read _ => u | _ => serveUncached t h [], (⟨r.data, r.poison, if h.op.flag ∧ r.poison ≠ 0 then 5 else 0, wordAt r.data (h.addr % 128)⟩ : Ans))
    match s1.server a with
    | none => direct s1
    | some n =>
      if (s1.slice n).quarantined.contains (setOf a) then
        (if h.op.writes then addrError s1 7 true h.addr else s1, ⟨0, 0xF, if h.op.writes then 1 else 0, 0⟩)
      else
        match s1.findLine n a with
        | some _ => (applyOp s1 n h []).getD (direct s1)
        | none =>
          let s2 := countMiss s1 n a
          let (s3, e) :=
            if h.op.fills then
              let (t, r) := readLine s2 a []
              let f := { LineEnt.fresh a .clean h.hint with racked := t.racked (regionOf a) }
              (countEv t 6 0xFF (partByte (s.partOfAddr a)) 1,
                if r.valid then { f with data := r.data, poison := r.poison, cls := classFor r.data r.poison }
                else f.empty .zero)
            else (s2, LineEnt.fresh a .zero h.hint)
          match place s3 n a e none with
          | none => direct s3
          | some t => (applyOp t n h []).getD (direct s3)

/-- Read a line at once. -/
def engineRead (s : State) (who : Requester) (a hint : Nat) : State × Ans :=
  engineOp s ⟨who, lineAddr a, hint, .read hint⟩

/-- Write bytes of a line at once. -/
def engineWrite (s : State) (who : Requester) (a hint : Nat) (be : BitVec 128) (d : Line) (p : BitVec 4) : State × Ans :=
  engineOp s ⟨who, lineAddr a, hint, .write be d p⟩

/-- The current content of a line, without an access. -/
def State.peekLine (s : State) (a : Nat) : Line :=
  match (s.server a).bind (fun n => s.findLine n a) with
  | some (_, _, l) => if l.st = .filling then s.peekBlock a else l.data
  | none =>
    match (s.cel.hbmq.filterMap (fun q => match q with
        | .writeBack b d _ => if b = lineAddr a then some d else none
        | .kill b => if b = lineAddr a then some 0 else none
        | _ => none)).getLast? with
    | some d => d
    | none => s.peekBlock a

/-! ### Dropping and resetting -/

/-- Drop every cellar line of an address range without write-back (R425, R438). -/
def dropLines (s : State) (base len : Nat) : State :=
  let mine := fun (f : Frame) (l : LineEnt) =>
    let a := addrOf f.ch f.grp l.line
    base ≤ a && a < base + len && l.st ≠ .filling
  let frames := s.cel.frames.filterMap (fun e =>
    let f : Frame := { e.2 with lines := e.2.lines.filter (fun l => !mine e.2 l) }
    if f.lines = [] then none else some (e.1, f))
  let inside := fun (a : Nat) => base ≤ a ∧ a < base + len
  { s with cel := { s.cel with
    frames := frames
    hbmq := s.cel.hbmq.filter (fun q => match q with
      | .writeBack a _ _ => !inside a
      | .kill a => !inside a
      | _ => true)
    slices := s.cel.slices.map (fun e => (e.1, { e.2 with merge := e.2.merge.filter (fun m => !inside m.1) })) } }

/-- What becomes of a request that waits at a slice when a compute reset starts (R554). -/
def resetHeld (s : State) (h : Held) : State :=
  match h.op with
  | .read hint =>
    match h.who with
    | .bar2 f tag _ => s.emit (.bar2Cpl f tag 2 h.addr [])
    | .raloth port srcT srcS part tag mask =>
      let m := { readMsg (s.trellisId * 2 ^ 47 + s.stackId * 2 ^ 43 + h.addr) part hint with
        tag := tag, srcT := srcT, srcS := srcS, arg := BitVec.ofNat 128 mask }
      let s1 := respond s m 0x02 (BitVec.ofNat 128 2) 0 [0]
      { s1 with ral := { s1.ral with kept := s1.ral.kept ++ [⟨port, m⟩] } }
    | _ => s
  | .flagWait _ _ =>
    match h.who with
    | .raloth _ srcT srcS part tag _ =>
      respond s (ralothAsk srcT srcS part tag 2) 0x07 (BitVec.ofNat 128 3) 0 []
    | _ => s
  | op =>
    if op.manages ∧ op ≠ .kill ∨ op = .pref then s
    else
      let (t, x) := engineOp s h
      reply t h x

/-- A compute reset in every slice (R220, R554): accepted requests are applied, DIRTY lines written back, DEAD lines
killed, and every tag entry, pin, fill, merge and wait entry cleared. -/
def cellarReset (s : State) : State :=
  let waiting := s.cel.slices.flatMap (fun e => e.2.waiting ++ e.2.side ++ e.2.victim ++ e.2.held)
  let waits := s.cel.slices.flatMap (fun e => e.2.waits)
  let clear := fun (t : State) => ({ t with cel := { t.cel with
    slices := t.cel.slices.map (fun e => (e.1, { Slice.initial e.1 with
      state := e.2.state, subst := e.2.subst, quarantined := e.2.quarantined })) } } : State)
  let filling := fun (l : LineEnt) => l.st = .filling
  let s0 : State := { s with cel := { s.cel with
    frames := s.cel.frames.filterMap (fun e =>
      let f : Frame := { e.2 with lines := e.2.lines.filter (fun l => !filling l) }
      if f.lines = [] then none else some (e.1, f)) } }
  let s1 := foldS waiting (clear s0) resetHeld
  let s2 := foldS waits s1 (fun t e => resetHeld t ⟨e.who, e.addr, 0, .flagWait e.cond e.v⟩)
  let s3 := serveWhere s2 (fun _ => true)
  let s4 := foldS s3.cel.frames s3 (fun t e => foldS e.2.lines t (fun u l =>
    let a := addrOf e.2.ch e.2.grp l.line
    match l.st with
    | .dirty => writeBack u a l.data l.poison []
    | .dead => killLine u a []
    | _ => u))
  let s5 := clear s4
  { s5 with cel := { s5.cel with frames := [], ranges := [], fillq := [], xbar := [] } }

end Sys2Proof.Machine
end

