-- ==== Sys2Proof/Machine/Remote.lean ====
section
/-! DEFINITION. Requests to other stacks: how their answers reach the requester, and what becomes of a request that has
no route or is lost (R48, R394, R400, R405). -/

namespace Sys2Proof.Machine

open Sys2Proof

/-- The place lies in the line of a fabric address of another stack. -/
def inRemoteLine (f : Nat) (p : Phys) : Bool := match p with | .remote b => lineAddr b = lineAddr f | _ => false

/-- Mark the replies added since `n` as coming from another stack. -/
def fromRemote (s : State) (n : Nat) : State :=
  { s with cmp := { s.cmp with replies := s.cmp.replies.take n ++ (s.cmp.replies.drop n).map (fun r => { r with source := 1 }) } }

/-- A line of a region being copied reaches its pool slot (R260 step 4). -/
def copyLine (s : State) (fab : Nat) (d : Line) (p : BitVec 4) : State :=
  match s.plc.replicas.find? (fun r => r.home = fab / 65536 ∧ r.granted ∧ ¬ r.valid) with
  | none => s
  | some r => (engineWrite s .placement (r.slot * 65536 + fab % 65536) 0 (BitVec.allOnes 128) d p).1

/-- A line that the running COPY of a context has asked of another stack arrives. -/
def cmdLine (s : State) (m fab : Nat) (d : Line) (p : BitVec 4) : State :=
  match smGet s.xlt.cmds m with
  | none => s
  | some x =>
    match x.queue with
    | [] => s
    | c :: rest =>
      if c.asked = some (lineAddr fab) then
        { s with xlt := { s.xlt with cmds := smSet s.xlt.cmds m { x with queue := { c with got := some (d, p) } :: rest } } }
      else s

/-- The requester is a command or a descriptor read of a context. -/
def isCommand : Requester → Bool
  | .command _ => true
  | _ => false

/-- The final answer of a request of this stack reaches its requester: status of R394, data and flag word. -/
def finishRemote (s : State) (who : Requester) (m : RMsg) (status : Nat) (data : Line) (poison : BitVec 4) (w : Word) :
    State :=
  let n := s.cmp.replies.length
  if m.typ = 0x0A then
    { s with plc := { s.plc with replicas := s.plc.replicas.filter (fun r => !(r.home = m.addr / 65536 && !r.granted)) } }
  else if m.typ = 1 ∧ isCommand who = true then
    match who with
    | .command c => cmdLine s c m.addr data (if status = 0 then poison else 0xF)
    | _ => s
  else if m.typ = 1 ∧ who = .placement then copyLine s m.addr data (if status = 0 then poison else 0xF)
  else if m.typ = 1 then fromRemote (answerRead s who m.addr data poison status) n
  else
    match who with
    | .thread slot =>
      if m.typ = 5 then fromRemote (answerAck s who true m.addr status w) n
      else storeDone s slot (inRemoteLine m.addr)
    | .piece b q tile idx => if status = 0 then s else updPiece s b q tile idx (fun p => { p with bad := 2 })
    | _ => s

/-- A request is lost (R405): a record of kind 6; a read completes as poison, anything else as an address error. -/
def loseReq (s : State) (who : Requester) (m : RMsg) (port : Nat) : State :=
  finishRemote (ralErr s 6 port 0 0 m.addr) who m (if m.typ = 1 then 0 else 1) 0 0xF 0

/-- Send a request to another stack. Without a route it is lost at once: in the own trellis the target is unreachable;
to another trellis no member has an uplink, an address error (R400). -/
def remoteAsk (s : State) (who : Requester) (m : RMsg) : State :=
  match remoteReq s who m with
  | (t, true) => t
  | (_, false) =>
    if m.addr / 2 ^ 47 = s.trellisId then loseReq s who m 0xFF
    else finishRemote (addrError s (whoCode who) (m.typ ≠ 1) (m.addr % 2 ^ 43)) who m 1 0 0xF 0

end Sys2Proof.Machine
end

