-- ==== Sys2Proof/Machine/XlatCore.lean ====
section
/-! DEFINITION. Address translation (R270 to R289): bindings, TLBs, the miss path, page requests and fault ids. The
events of the translation unit are in Machine/Xlat.lean. -/

namespace Sys2Proof.Machine

open Sys2Proof

/-- The function and PASID that context m is bound to (R270). -/
def State.binding (s : State) (m : Nat) : Option (Fn × Nat) :=
  let v := s.reg (rXltCtxBind m)
  if fXltCtxBindValid.get v = 1 then
    some (⟨fXltCtxBindPort.get v, fXltCtxBindFunction.get v⟩, fXltCtxBindPasid.get v)
  else none

/-- The context translates: bound, with ATS, PRI and PASID enabled on its function (R271). -/
def State.canXlate (s : State) (m : Nat) : Option (Fn × Nat) :=
  (s.binding m).bind (fun b =>
    let c := s.fn b.1
    if c.ats && c.pri && c.pasid then some b else none)

/-- Bytes that a run entry maps (R276). -/
def TlbEnt.span (e : TlbEnt) : Nat := 2 ^ (12 + 9 * e.size + e.j)

/-- The entry maps an address of context m = 64 × partition + context. -/
def TlbEnt.covers (e : TlbEnt) (m va : Nat) : Bool :=
  64 * e.part + e.ctx = m && va / e.span = e.va / e.span

/-- The entry grants an access (R274). -/
def TlbEnt.usable (e : TlbEnt) : Acc → Bool
  | .read => e.r
  | .fetch => e.r && e.exe
  | .write => e.w
  | .update => e.r && e.w

/-- Set index in a TLB of `sets` sets (R277). -/
def tlbSet (sets : Nat) (e : TlbEnt) : Nat := e.va / 2 ^ (16 + 9 * e.size) % sets

/-- A usable entry for an access. -/
def tlbFind (l : List TlbEnt) (m va : Nat) (acc : Acc) : Option TlbEnt :=
  l.find? (fun e => e.covers m va && e.usable acc)

/-- Insert an entry as most recently used; the least recently used entry of a full set leaves. -/
def tlbInsert (sets ways : Nat) (l : List TlbEnt) (e : TlbEnt) : List TlbEnt × Option TlbEnt :=
  let l1 := e :: l.filter (· ≠ e)
  let same := l1.filter (fun x => tlbSet sets x = tlbSet sets e)
  if same.length ≤ ways then (l1, none)
  else
    match same.getLast? with
    | none => (l1, none)
    | some v => (l1.filter (· ≠ v), some v)

/-- The TLB of bay b, most recently used first. -/
def State.bayTlb (s : State) (b : Nat) : List TlbEnt := smGetD s.xlt.bay b []

/-- Fill a bay TLB. -/
def fillBay (s : State) (b : Nat) (e : TlbEnt) : State :=
  { s with xlt := { s.xlt with bay := smSet s.xlt.bay b (tlbInsert 128 8 (s.bayTlb b) e).1 } }

/-- Fill the second-level TLB; what it evicts leaves every bay TLB (R277). -/
def fillL2 (s : State) (e : TlbEnt) : State :=
  let (l, out) := tlbInsert 2048 16 s.xlt.l2 e
  let bay := match out with
    | none => s.xlt.bay
    | some v => s.xlt.bay.map (fun p => (p.1, p.2.filter (· ≠ v)))
  { s with xlt := { s.xlt with l2 := l, bay := bay } }

/-- Remove the entries of both TLB levels that satisfy a test. -/
def tlbRemove (s : State) (t : TlbEnt → Bool) : State :=
  { s with xlt := { s.xlt with
    l2 := s.xlt.l2.filter (fun e => !t e)
    bay := s.xlt.bay.map (fun p => (p.1, p.2.filter (fun e => !t e))) } }

/-- The offset of a bus address in the owning port's BAR2, if inside. -/
def State.bar2Off (s : State) (port a : Nat) : Option Nat :=
  let c := s.fn ⟨port, 0⟩
  c.bar2Base.bind (fun b => if b ≤ a ∧ a < b + 2 ^ c.bar2Log2 then some (a - b) else none)

/-- This stack's own fabric address bits [56:43] in place. -/
def State.ownFabric (s : State) : Nat := s.trellisId * 2 ^ 47 + s.stackId * 2 ^ 43

/-- The fabric address of BAR2 offset O of a BAR2 of 2^k bytes (R275). -/
def State.bar2Fabric (s : State) (k o : Nat) : Nat := s.ownFabric / 2 ^ k * 2 ^ k + o

/-- Where a usable translation leads (R275). -/
def State.classify (s : State) (f : Fn) (e : TlbEnt) (va : Nat) : Phys :=
  let ta := e.ta + (va - e.va)
  if e.u then .host f.port va true false
  else
    match s.bar2Off f.port ta with
    | some o => s.fabric (s.bar2Fabric (s.fn ⟨f.port, 0⟩).bar2Log2 o)
    | none => .host f.port ta false e.n

/-- The run entry that a completion fills for the requested page (R276). -/
def entryOf (m va : Nat) (c : AtsCpl) : TlbEnt :=
  let z := Nat.max 12 (Nat.log2 c.size)
  let size := if 30 ≤ z then 2 else if 21 ≤ z then 1 else 0
  let base := 12 + 9 * size
  let j := Nat.min 4 (z - base)
  let span := 2 ^ (base + j)
  let v := va / span * span
  -- the translated address names the 4 KiB page; the run's translated base keeps the offset
  ⟨m / 64, m % 64, size, j, v, c.ta / 4096 * 4096 / span * span, c.r, c.w, c.exe, c.u, c.n⟩

/-! ### Faults (R284, R285) -/

/-- The access mask of a fault record. -/
def accMask : Acc → Nat
  | .read => 1
  | .fetch => 5
  | .write => 2
  | .update => 3

/-- The host bytes of a number. -/
def hostBytes (v k : Nat) : List (Option Byte) := (natBytes v k).map some

/-- Write a fault record into the partition's log (R285). -/
def logFault (s : State) (p fid va pasid acc port n resp : Nat) : State :=
  let b := s.reg (rXltFlogBase p)
  if fXltFlogBaseEnable.get b = 0 then s
  else
    let ring := 128 * 2 ^ Nat.min 8 (fXltFlogBaseSize.get b)
    let head := s.fld (rXltFlogPtr p) fXltFlogPtrHead
    let next := (head + 1) % ring
    if next = s.fld (rXltFlogPtr p) fXltFlogPtrTail then
      raise (s.addSat (rXltFlogPtr p) fXltFlogPtrDropped 1) (rXltFlogPtr p) fXltFlogPtrOverflow
    else
      let f := smGetD s.xlt.flogFn p ⟨s.pci.owner.getD 0, 0⟩
      let rec_ := natBytes fid 8 ++ natBytes va 8 ++ natBytes pasid 4
        ++ natBytes acc 1 ++ natBytes port 1 ++ natBytes (Nat.min n 65535) 2 ++ natBytes resp 1 ++ natBytes 0 7
      let s1 := s.emit (.hostWrite f.port (fXltFlogBaseAddr.get b * 4096 + 32 * head) (rec_.map some) false)
      raise (s1.setFld (rXltFlogPtr p) fXltFlogPtrHead next) (rXltFlogPtr p) fXltFlogPtrNew

/-- A fresh fault id for partition p (R284); seq skips 0. -/
def newFid (s : State) (p ctx cause : Nat) : State × Nat :=
  let q := if s.xlt.seq + 1 = 0 then 1 else s.xlt.seq + 1
  ({ s with xlt := { s.xlt with seq := q } }, q.toNat + 2 ^ 32 * p + 2 ^ 36 * ctx + 2 ^ 42 * cause)

/-- One fault for the waiters of one partition: id, log record, and each waiter with the id. -/
def faultPart (s : State) (ws : List Waiter) (cause pasid port resp : Nat) : State × List (Waiter × Nat) :=
  match ws with
  | [] => (s, [])
  | w :: _ =>
    let (s1, fid) := newFid s (w.m / 64) (w.m % 64) cause
    let acc := ws.foldl (fun a x => a ||| accMask x.acc) 0
    (logFault s1 (w.m / 64) fid w.va (if cause = 5 then 0 else pasid) acc (if cause = 5 then 0xFF else port)
      ws.length resp, ws.map (fun x => (x, fid)))

/-- A failed request: one fault id for each partition with waiters, in ascending order (R284). -/
def faultAll (s : State) (ws : List Waiter) (cause pasid port resp : Nat) : State × List (Waiter × Nat) :=
  (List.range 16).foldl (fun acc p =>
    let (s1, fs) := faultPart acc.1 (ws.filter (fun w => w.m / 64 = p)) cause pasid port resp
    (s1, acc.2 ++ fs)) (s, [])

/-! ### The miss path (R279) -/

/-- Result of a translation: the place, a wait, or a fault id. -/
inductive Tr where
  | ok (p : Phys)
  | pending
  | fault (fid : Nat)
  deriving DecidableEq, Repr

/-- Send a translation request for the waiter's page, or join the one in flight (R279 step 2). -/
def atsAsk (s : State) (f : Fn) (pasid : Nat) (w : Waiter) : State :=
  let page := w.va / 4096 * 4096
  if s.xlt.ats.any (fun a => a.f = f ∧ a.pasid = pasid ∧ a.va = page) then
    { s with xlt := { s.xlt with ats := s.xlt.ats.map (fun a =>
        if a.f = f ∧ a.pasid = pasid ∧ a.va = page then { a with waiters := a.waiters ++ [w] } else a) } }
  else
    let s1 : State := { s with xlt := { s.xlt with ats := s.xlt.ats ++ [⟨f, pasid, page, [w], false⟩] } }
    s1.emit (.atsReq f pasid page (w.acc = .read ∨ w.acc = .fetch) (w.acc = .fetch)
      (s.fld (rXltCtxBind w.m) fXltCtxBindPriv = 1))

/-- Second-level lookup for an access: the entry becomes most recently used and fills the bay TLB of a bay. -/
def l2Hit (s : State) (w : Waiter) (fillsBay : Bool) : Option (State × TlbEnt) :=
  (tlbFind s.xlt.l2 w.m w.va w.acc).map (fun e =>
    let s1 := fillL2 s e
    (if fillsBay then fillBay s1 w.bay e else s1, e))

/-- Translate an access of a thread or piece in a bay (`inBay`), or of the translation unit itself. -/
def translate (s : State) (w : Waiter) (inBay : Bool) : State × Tr :=
  match s.canXlate w.m with
  | none =>
    let (s1, fs) := faultPart s [w] 5 0 0xFF 0xFF
    (s1, .fault ((fs.head?.map Prod.snd).getD 0))
  | some (f, pasid) =>
    match (if inBay then tlbFind (s.bayTlb w.bay) w.m w.va w.acc else none) with
    | some e => (fillBay s w.bay e, .ok (s.classify f e w.va))
    | none =>
      let s0 := if inBay then countEv s 8 w.bay (w.m / 64) 1 else s
      match l2Hit s0 w inBay with
      | some (s1, e) => (s1, .ok (s1.classify f e w.va))
      | none => (atsAsk s0 f pasid w, .pending)

/-- Lookup without a miss path: the usable entry of the TLBs, if any. -/
def lookup (s : State) (m va : Nat) (acc : Acc) (b : Option Nat) : Option Phys :=
  (s.canXlate m).bind (fun fp =>
    let e := match b with
      | some b => tlbFind (s.bayTlb b) m va acc
      | none => tlbFind s.xlt.l2 m va acc
    e.map (fun e => s.classify fp.1 e va))

/-- Page requests outstanding on a function: sent and not answered, timed-out ones included (R282, R283). -/
def State.prSent (s : State) (f : Fn) : Nat :=
  (s.xlt.prs.filter (fun r => r.f = f ∧ r.group.isSome)).length

/-- Start or join the page request of the waiters of one partition for one page (R281). -/
def pageAsk (s : State) (f : Fn) (pasid page : Nat) (ws : List Waiter) : State :=
  match ws with
  | [] => s
  | w :: _ =>
    let hit := fun (r : PageReq) => r.part = w.m / 64 ∧ r.pasid = pasid ∧ r.va = page ∧ ¬ r.timedOut
    if s.xlt.prs.any (fun r => hit r) then
      { s with xlt := { s.xlt with prs := s.xlt.prs.map (fun r =>
          if hit r then { r with waiters := r.waiters ++ ws } else r) } }
    else
      let n := ws.foldl (fun a x => Nat.max a x.succ) 0
      { s with xlt := { s.xlt with
        prs := s.xlt.prs ++ [⟨w.m / 64, f, pasid, page, none, ws, n, false⟩] } }

/-- Waiters whose page is not usable after a completion: PRI stopped fails at once with cause 3, four Success responses
fail with cause 4, else a page request (R279 step 5, R283). Answers the waiters that failed. -/
def notUsable (s : State) (f : Fn) (pasid page : Nat) (ws : List Waiter) : State × List (Waiter × Nat) :=
  if (s.fn f).stopped then faultAll s ws 3 pasid f.port 0xFF
  else
    (List.range 16).foldl (fun acc p =>
      let g := ws.filter (fun w => w.m / 64 = p)
      if g.any (fun w => 4 ≤ w.succ) then
        let (s1, fs) := faultPart acc.1 g 4 pasid f.port 0
        (s1, acc.2 ++ fs)
      else (pageAsk acc.1 f pasid page g, acc.2)) (s, [])

/-- Drop every waiter that satisfies a test (suspend, abort, compute reset). -/
def dropWaiters (s : State) (t : Waiter → Bool) : State :=
  { s with xlt := { s.xlt with
    ats := s.xlt.ats.map (fun a => { a with waiters := a.waiters.filter (fun w => !t w) })
    prs := s.xlt.prs.map (fun r => { r with waiters := r.waiters.filter (fun w => !t w) }) } }

end Sys2Proof.Machine
end

