-- ==== Sys2Proof/Machine/ThreadCore.lean ====
section
/-! DEFINITION. Hardware threads: registers, the L1, the writes that end a task, the end of a thread, barrier counters
(R119 to R154, R402, R403). The instructions are in Machine/Operands.lean and the families after it. -/

namespace Sys2Proof.Machine

open Sys2Proof

/-! ### Slots and registers (R74, R127) -/

/-- Cell of a slot. -/
def cellOfSlot (t : Nat) : Nat := t / 128

/-- Bay of a slot. -/
def bayOfSlot (t : Nat) : Nat := bayOfCell (t / 128)

/-- The thread in a slot. -/
def State.thread (s : State) (t : Nat) : Option Thread := smGet s.cmp.thr t

/-- Store a thread. -/
def State.setThread (s : State) (t : Nat) (x : Thread) : State :=
  { s with cmp := { s.cmp with thr := smSet s.cmp.thr t x } }

/-- The context number m of a thread. -/
def Thread.m (x : Thread) : Nat := 64 * x.part + x.ctx

/-- A general register; g63 reads zero (R127). -/
def Thread.reg (x : Thread) (r : Nat) : Word := if r % 64 = 63 then 0 else smGetD x.regs (r % 64) 0

/-- Write a general register; a write to g63 is discarded (R127). -/
def Thread.setReg (x : Thread) (r : Nat) (v : Word) : Thread :=
  if r % 64 = 63 then x else { x with regs := smPut x.regs (r % 64) v 0 }

/-- Go to an address. -/
def Thread.goto (x : Thread) (pc : Nat) : Thread := { x with pc := pc % 2 ^ 64, st := .ready }

/-- The next instruction. -/
def Thread.next (x : Thread) : Thread := x.goto (x.pc + 4)

/-! ### The L1 (R76, R134 to R136) -/

/-- The L1 of a cell. -/
def State.l1 (s : State) (cell : Nat) : List L1Line := smGetD s.cmp.l1 cell []

/-- Store the L1 of a cell. -/
def State.setL1 (s : State) (cell : Nat) (l : List L1Line) : State :=
  { s with cmp := { s.cmp with l1 := smPut s.cmp.l1 cell l [], clock := s.cmp.clock + 1 } }

/-- Fills in flight of a cell for lines that satisfy a test are not kept: what they carry may be older than a store or an
acquire of the cell (R137, R138). They go on as loads that bypass the L1. -/
def l1Bar (s : State) (cell : Nat) (t : Phys → Bool) : State :=
  { s with cmp := { s.cmp with thr := s.cmp.thr.map (fun e =>
      if cellOfSlot e.1 = cell then
        match e.2.st with
        | .waiting (.data d size sg hint va target seq) =>
          if t target then (e.1, { e.2 with st := .waiting (.data d size sg (if hint < 3 then 4 else hint) va target seq) }) else e
        | _ => e
      else e) } }

/-- Invalidate a whole L1 (R136). -/
def l1Invalidate (s : State) (cell : Nat) : State := (l1Bar s cell (fun _ => true)).setL1 cell []

/-- The physical address of a place. -/
def physAddr : Phys → Nat
  | .hbm a => a
  | .remote f => f
  | .host _ b _ _ => b
  | .bad a => a

/-- A place moved to another address. -/
def physAt (p : Phys) (a : Nat) : Phys :=
  match p with
  | .hbm _ => .hbm a
  | .remote _ => .remote a
  | .host port _ u n => .host port a u n
  | .bad _ => .bad a

/-- The line that holds a place. -/
def physLine (p : Phys) : Phys := physAt p (lineAddr (physAddr p))

/-- L1 set of a place: address bits [16:7] (R134). -/
def l1Set (p : Phys) : Nat := nbits (physAddr p) 7 10

/-- The L1 line that holds a place. -/
def State.l1Find (s : State) (cell : Nat) (p : Phys) : Option L1Line :=
  (s.l1 cell).find? (fun l => l.target = physLine p)

/-- Invalidate the line that holds a place. -/
def l1Drop (s : State) (cell : Nat) (p : Phys) : State :=
  (l1Bar s cell (fun q => physLine q = physLine p)).setL1 cell ((s.l1 cell).filter (fun l => l.target ≠ physLine p))

/-- Oldest line of a list. -/
def l1Oldest (l : List L1Line) : Option L1Line :=
  l.foldl (fun best x => match best with | none => some x | some b => if x.age < b.age then some x else some b) none

/-- Fill a line (R134, R135): hint 1 as keep, hint 2 as least recently used. The victim is the least recently used line
not filled with keep; only in a set of keep lines the least recently used of them. -/
def l1Fill (s : State) (cell : Nat) (p : Phys) (d : Line) (poison : BitVec 2) (hint : Nat) : State :=
  let l := (s.l1 cell).filter (fun x => x.target ≠ physLine p)
  let new : L1Line := ⟨physLine p, d, poison, hint = 1, if hint = 2 then 0 else s.cmp.clock + 1⟩
  let same := l.filter (fun x => l1Set x.target = l1Set p)
  if same.length < 8 then s.setL1 cell (l ++ [new])
  else
    match (l1Oldest (same.filter (fun x => !x.keep))).or (l1Oldest same) with
    | some v => s.setL1 cell (l.erase v ++ [new])
    | none => s.setL1 cell (l ++ [new])

/-- A use of a line renews its age. -/
def l1Touch (s : State) (cell : Nat) (l : L1Line) : State :=
  s.setL1 cell ((s.l1 cell).map (fun x => if x.target = l.target then { x with age := s.cmp.clock + 1 } else x))

/-- A store that hits updates the line (R134). -/
def l1Store (s : State) (cell : Nat) (p : Phys) (be : BitVec 128) (d : Line) : State :=
  (l1Bar s cell (fun q => physLine q = physLine p)).setL1 cell ((s.l1 cell).map (fun x =>
    if x.target = physLine p then { x with data := mergeBytes x.data d be } else x))

/-- Poison of the two cell-store words of a line from its sector poison (R338). -/
def wordPoison (p : BitVec 4) : BitVec 2 :=
  BitVec.ofNat 2 (b2n (p.getLsbD 0 || p.getLsbD 1) + 2 * b2n (p.getLsbD 2 || p.getLsbD 3))

/-! ### Writes on behalf of a context (R126, R170, R293) -/

/-- Byte enables of `len` bytes at a line offset. -/
def rangeEnables (off len : Nat) : BitVec 128 := BitVec.ofNat 128 ((2 ^ len - 1) * 2 ^ off)

/-- Bytes placed at an offset of a line. -/
def lineBytes (off : Nat) (bs : List Byte) : Line := BitVec.ofNat 1024 (leNat bs * 2 ^ (8 * off))

/-- Write bytes that lie within one line to a place, for a context. -/
def physWrite (s : State) (m : Nat) (p : Phys) (bs : List Byte) : State :=
  let be := rangeEnables (physAddr p % 128) bs.length
  let d := lineBytes (physAddr p % 128) bs
  match p with
  | .hbm a => (engineWrite s (.command m) a 0 be d 0).1
  | .remote f => remoteAsk s (.command m) (writeMsg f (m / 64) 0 be d 0)
  | .host port b _ _ => s.emit (.hostWrite port b (bs.map some) false)
  | .bad a => addrError s 5 true a

/-- Add to a flag at a place, for a context. A place outside every HBM window is no flag (R144): an address error. -/
def physAdd (s : State) (m : Nat) (p : Phys) (v : Word) : State :=
  match p with
  | .hbm a => (engineOp s ⟨.command m, a, 0, .flagAdd v⟩).1
  | .remote f => remoteAsk s (.command m) (flagMsg f (m / 64) 1 0 v)
  | _ => addrError s 5 true (physAddr p % 2 ^ 43)

/-- The waiter of a post. -/
def postWaiter (m va : Nat) (acc : Acc) : Waiter := ⟨.post, m, va, acc, 0, 0⟩

/-- The status record of an operator queue (R180): status, fault id with status 1, address with status 1 to 4. -/
def tileError (s : State) (q status fid va : Nat) : State :=
  let s1 := s.setFld (rCmpOpqStat (q / 4) (q % 4)) fCmpOpqStatLastStatus status
  let s2 := if status = 1 then s1.setReg (rCmpOpqFid (q / 4) (q % 4)) (BitVec.ofNat 64 fid) else s1
  if status ≤ 4 then s2.setReg (rCmpOpqFva (q / 4) (q % 4)) (BitVec.ofNat 64 va) else s2

/-- The completion flag of a tile cannot be reached: the failure is recorded as status 1 (R170). -/
def tileFlagFail (s : State) (q fid va : Nat) : State :=
  raise (tileError s q 1 fid va) (rCmpOpqStat (q / 4) (q % 4)) fCmpOpqStatErrored

/-- Carry out the writes of a post in order; none remain, or the rest waits for a translation. A write whose translation
fails is dropped. -/
def postOps (s : State) (m : Nat) : List PostOp → State × List PostOp
  | [] => (s, [])
  | .l1 cells :: rest => postOps (foldS cells s l1Invalidate) m rest
  | .bytes va d :: rest =>
    match translate s (postWaiter m va .write) false with
    | (t, .ok p) => postOps (physWrite t m p d) m rest
    | (t, .pending) => (t, .bytes va d :: rest)
    | (t, .fault _) => postOps t m rest
  | .add va v :: rest =>
    match translate s (postWaiter m va .update) false with
    | (t, .ok p) => postOps (physAdd t m p v) m rest
    | (t, .pending) => (t, .add va v :: rest)
    | (t, .fault _) => postOps t m rest
  | .tile q va v :: rest =>
    match translate s (postWaiter m va .update) false with
    | (t, .ok p) => postOps (physAdd t m p v) m rest
    | (t, .pending) => (t, .tile q va v :: rest)
    | (t, .fault fid) => postOps (tileFlagFail t q fid va) m rest

/-- Start the writes of a post. -/
def post (s : State) (m : Nat) (ops : List PostOp) : State :=
  let (t, rest) := postOps s m ops
  if rest = [] then t else { t with cmp := { t.cmp with posts := t.cmp.posts ++ [⟨m, rest, true⟩] } }

/-- Go on with the posts of a context, once a translation it waited for has ended. -/
def resumePosts (s : State) (m : Nat) : State :=
  let mine := s.cmp.posts.filter (fun p => p.m = m)
  foldS mine { s with cmp := { s.cmp with posts := s.cmp.posts.filter (fun p => p.m ≠ m) } } (fun t p => post t m p.ops)

/-- The page that a post waited for cannot be reached: the write is dropped and the rest goes on. -/
def failPosts (s : State) (m va fid : Nat) : State :=
  let page : Post → Bool := fun p => match p.ops with
    | .bytes a _ :: _ => decide (a / 4096 = va / 4096)
    | .add a _ :: _ => decide (a / 4096 = va / 4096)
    | .tile _ a _ :: _ => decide (a / 4096 = va / 4096)
    | _ => false
  let note := fun (t : State) (p : Post) => match p.ops with
    | .tile q a _ :: _ => if p.m = m ∧ page p = true then tileFlagFail t q fid a else t
    | _ => t
  let s := foldS s.cmp.posts s note
  let drop := fun (p : Post) => if p.m = m ∧ page p = true then { p with ops := p.ops.drop 1 } else p
  resumePosts { s with cmp := { s.cmp with posts := s.cmp.posts.map drop } } m

/-! ### End of a task and of a thread (R126, R149) -/

/-- The 64 bytes of a fault record (R149). -/
def faultRecord (f : FaultInfo) (abnormal : Nat) : List Byte :=
  natBytes f.code 1 ++ natBytes 0 1 ++ natBytes (Nat.min abnormal 65535) 2 ++ natBytes f.idx 4 ++ natBytes f.pc 8
    ++ natBytes f.va 8 ++ natBytes f.fid 8 ++ natBytes f.row 1 ++ natBytes f.col 1 ++ natBytes f.bay 1
    ++ natBytes f.pipe 1 ++ natBytes f.word 4 ++ natBytes 0 24

/-- A fault record without a thread (R122). -/
def FaultInfo.none (code : Nat) : FaultInfo := ⟨code, 0, 0, 0, 0, 0, 0, 0, 0, 0⟩

/-- What a flag add gives: 1 for a good end, else 0x8000_0000_0000_0001. -/
def doneValue (ok : Bool) : Word := if ok then 1 else 0x8000000000000001

/-- The context's state code after a change: running while it has threads or tasks. -/
def Ctx.initial : Ctx := ⟨0, [], [], 0, 0, []⟩

/-- Context m. -/
def State.context (s : State) (m : Nat) : Ctx := smGetD s.cmp.ctx m Ctx.initial

/-- Store context m. -/
def State.setContext (s : State) (m : Nat) (c : Ctx) : State :=
  { s with cmp := { s.cmp with ctx := smPut s.cmp.ctx m c Ctx.initial } }

/-- The last thread of a task has ended: fault record, done flag, L1s (R126). A fault record is written for every task
whose descriptor names one; without a fault its code is 0 (DEDUCED, assumption log 30). -/
def taskEnd (s : State) (k : Nat) : State :=
  match smGet s.cmp.tasks k with
  | none => s
  | some r =>
    let m := 64 * r.part + r.ctx
    let s1 : State := { s with cmp := { s.cmp with tasks := smDel s.cmp.tasks k } }
    let s2 := trace s1 2 0xFF r.part r.ctx r.abnormal r.desc.doneFlag 0
    let info := r.fault.getD (FaultInfo.none 0)
    post s2 m
      ((if r.desc.faultRec ≠ 0 then [.bytes r.desc.faultRec (faultRecord info r.abnormal)] else [])
        ++ (if r.desc.doneFlag ≠ 0 then [.add r.desc.doneFlag (doneValue (r.abnormal = 0))] else [])
        ++ [.l1 r.cells])

/-- The accesses in flight of a thread are performed (R149): those that have not reached their slices do so now. -/
def drainThread (s : State) (t : Nat) : State :=
  let mine := s.cel.xbar.filter (fun h => h.who = .thread t && h.op.writes)
  let s1 : State := { s with cel := { s.cel with xbar := s.cel.xbar.filter (fun h => h.who ≠ .thread t) } }
  let s2 := foldS mine s1 (fun u h => sliceReq u h [])
  { s2 with cmp := { s2.cmp with replies := s2.cmp.replies.filter (fun r => r.slot ≠ t) } }

/-- Drop what waits for a thread: translations, flag waits. -/
def dropThreadWaits (s : State) (t : Nat) : State :=
  let s1 := dropWaiters s (fun w => w.who = .thread t)
  let keepW := fun (e : WaitEnt) => e.who ≠ .thread t
  let keepH := fun (h : Held) => h.who ≠ .thread t ∨ h.op.writes ∧ h.op.flag = false
  { s1 with cel := { s1.cel with slices := s1.cel.slices.map (fun e => (e.1, { e.2 with
    waits := e.2.waits.filter keepW
    waiting := e.2.waiting.filter keepH
    side := e.2.side.filter keepH
    victim := e.2.victim.filter keepH
    held := e.2.held.filter keepH })) } }

/-- What a fault of a thread records (R149). -/
def faultOf (x : Thread) (t code va fid word : Nat) : FaultInfo :=
  ⟨code, x.idx, x.pc, va, fid, cellOfSlot t / 24, cellOfSlot t % 24, bayOfSlot t, t % 128 / 8, word⟩

/-- A member of a task has ended: by EXIT, or abnormally with its fault. The first fault of the task is kept; with
abort_on_fault a faulting thread makes every other thread of the task end at its next issue slot. -/
def memberEnd (s : State) (x : Thread) (info : Option FaultInfo) : State :=
  match smGet s.cmp.tasks x.task with
  | none => s
  | some r =>
    let r1 := { r with
      live := r.live - 1
      abnormal := r.abnormal + b2n info.isSome
      fault := r.fault.or info }
    let s1 : State := { s with cmp := { s.cmp with tasks := smSet s.cmp.tasks x.task r1 } }
    let abort : Bool := match info with
      | some f => r.desc.abortOnFault && f.code ≤ 8
      | none => false
    let s2 : State := if abort then
        { s1 with cmp := { s1.cmp with thr := s1.cmp.thr.map (fun e =>
            (e.1, if e.2.task = x.task then { e.2 with ending := some 10 } else e.2)) } }
      else s1
    if r1.live = 0 then taskEnd s2 x.task else s2

/-- The thread in a slot ends: its accesses in flight are performed and the slot is free. -/
def threadEnd (s : State) (t : Nat) (info : Option FaultInfo) : State :=
  match s.thread t with
  | none => s
  | some x =>
    let s1 := dropThreadWaits (drainThread s t) t
    let s2 : State := { s1 with
      cmp := { s1.cmp with thr := smDel s1.cmp.thr t }
      dbg := { s1.dbg with halted := s1.dbg.halted.erase t } }
    let s3 := match info with
      | some f => if f.code ≤ 8 then trace s2 8 f.bay x.part x.ctx f.code f.va f.pc else s2
      | none => s2
    memberEnd s3 x info

/-- A thread ends with a code and no address (codes 9 and 10). -/
def threadKill (s : State) (t code : Nat) : State :=
  match s.thread t with
  | none => s
  | some x => threadEnd s t (some (faultOf x t code 0 0 0))

/-- A fault of the instruction at the thread's PC. -/
def threadFault (s : State) (t code va fid word : Nat) : State :=
  match s.thread t with
  | none => s
  | some x => threadEnd s t (some (faultOf x t code va fid word))

/-- Change a thread. -/
def updThread (s : State) (t : Nat) (f : Thread → Thread) : State :=
  match s.thread t with
  | none => s
  | some x => s.setThread t (f x)

/-- A thread completes an acquire: its cell's L1 is invalidated and the next instruction is due (R136, R138). -/
def acquireDone (s : State) (t : Nat) (f : Thread → Thread) : State :=
  updThread (l1Invalidate s (cellOfSlot t)) t (fun x => (f x).next)

/-! ### Barrier counters (R140 to R143, R402, R403) -/

/-- Key of a counter: scope 0 the bay's, scope 1 the stack's. -/
def barKey (bay scope ctr : Nat) : Nat := if scope = 0 then 16 * bay + ctr else 1024 + ctr

/-- A counter after a compute reset. -/
def Bar.initial : Bar := ⟨0, 0, false, false⟩

/-- A counter. -/
def State.bar (s : State) (k : Nat) : Bar := smGetD s.cmp.bars k Bar.initial

/-- Store a counter. -/
def State.setBar (s : State) (k : Nat) (b : Bar) : State :=
  { s with cmp := { s.cmp with bars := smPut s.cmp.bars k b Bar.initial } }

/-- A thread waits on the counter. -/
def State.barWaited (s : State) (k : Nat) : Bool :=
  s.cmp.thr.any (fun e => match e.2.st with
    | .waiting (.bar j _) => j = k
    | .waiting (.barHeld j _) => j = k
    | _ => false)

/-- The partition that owns a stack counter, and whether it is trellis-scoped. -/
def State.barOwner (s : State) (ctr : Nat) : Option Nat := s.findPart (fun r => r.counters.getLsbD ctr)

/-- The counter is trellis-scoped. -/
def State.barTrellis (s : State) (k : Nat) : Bool :=
  1024 ≤ k && (match (s.barOwner (k - 1024)).bind s.part with
    | some r => r.trellis.getLsbD (k - 1024)
    | none => false)

/-- Release a counter: count 0, phase inverted, every thread that waits on the old phase goes on. -/
def barFree (s : State) (k : Nat) : State :=
  let b := s.bar k
  let s1 := s.setBar k { b with count := 0, phase := !b.phase, awaiting := false }
  let p := if k < 1024 then s.partOfBay (k / 16) else s.barOwner (k - 1024)
  let s2 := trace s1 5 (if k < 1024 then k / 16 else 0xFF) (partByte p) 0xFF
    (if k < 1024 then k % 16 else k - 1024 + 256) 0 (b2n (!b.phase))
  let free := s2.cmp.thr.filter (fun e => match e.2.st with
    | .waiting (.bar j ph) => j = k && ph = b.phase
    | _ => false)
  foldS free s2 (fun t e => wakeBay (acquireDone t e.1 id) (bayOfSlot e.1) false)

/-- BAR_ARRIVE for a counter and phase, to a head. -/
def barArriveMsg (s : State) (c : Nat) (phase : Bool) (fab : Nat) : RMsg :=
  ctlMsg s 0x08 fab (BitVec.ofNat 128 (c + 256 * b2n phase)) []

/-- Release the listed members of a trellis barrier, this stack's own counter by `free`. -/
def barReleaseMembers (free : State → Nat → State) (s : State) (c : Nat) (phase : Bool) : State :=
  let members := ones (s.fld (rRalTbar c) fRalTbarMembers) 16
  let s1 := foldS (members.filter (fun k => k ≠ s.stackId)) s (fun t k =>
    (ralRoute t (ctlMsg t 0x09 (t.stackAddr k) (BitVec.ofNat 128 (c + 256 * b2n (!phase))) [])).1)
  if members.contains s.stackId ∧ (s1.bar (1024 + c)).awaiting then free s1 (1024 + c) else s1

/-- The estate master counts a trellis's completion (R403). -/
def barMaster (free : State → Nat → State) (s : State) (c : Nat) (phase : Bool) (trellis : Nat) : State :=
  let key := fun (e : Nat × Bool × List Nat) => e.1 = c ∧ e.2.1 = phase
  let old := match s.ral.estArr.find? (fun e => key e) with | some e => e.2.2 | none => []
  let all := if old.contains trellis then old else old ++ [trellis]
  let rest := s.ral.estArr.filter (fun e => !decide (key e))
  if Nat.max 1 (s.fld (rRalTbar c) fRalTbarEstateCount) ≤ all.length then
    let s1 : State := { s with ral := { s.ral with estArr := rest } }
    let s2 := foldS (all.filter (fun t => t ≠ s.trellisId)) s1 (fun u t =>
      (ralRoute u (ctlMsg u 0x09 (t * 2 ^ 47) (BitVec.ofNat 128 (c + 256 * b2n (!phase))) [])).1)
    barReleaseMembers free s2 c phase
  else { s with ral := { s.ral with estArr := rest ++ [(c, phase, all)] } }

/-- The head counts the arrival of a member (R402): an unlisted stack's arrival is discarded with a record of kind 7. -/
def barHead (free : State → Nat → State) (s : State) (c : Nat) (phase : Bool) (k : Nat) : State :=
  let v := s.reg (rRalTbar c)
  let members := fRalTbarMembers.get v
  if ¬ nbit members k then ralErr s 7 0xFF 0 0x08 0
  else
    let key := fun (e : Nat × Bool × BitVec 16) => e.1 = c ∧ e.2.1 = phase
    let old := match s.ral.arrivals.find? (fun e => key e) with | some e => e.2.2 | none => 0
    let all := old ||| BitVec.ofNat 16 (2 ^ k)
    let rest := s.ral.arrivals.filter (fun e => !decide (key e))
    if all.toNat &&& members = members then
      let s1 : State := { s with ral := { s.ral with arrivals := rest } }
      if fRalTbarMaster.get v = 1 then barMaster free s1 c phase s.trellisId
      else if fRalTbarEstate.get v = 1 then
        (ralRoute s1 (barArriveMsg s1 c phase (fRalTbarMasterTrellis.get v * 2 ^ 47))).1
      else barReleaseMembers free s1 c phase
    else { s with ral := { s.ral with arrivals := rest ++ [(c, phase, all)] } }

/-- A trellis-scoped counter reached its target: it awaits release, and the arrival goes to stack 0 (R143, R402). -/
def barToHead (free : State → Nat → State) (s : State) (k : Nat) : State :=
  let b := s.bar k
  let s1 := s.setBar k { b with awaiting := true }
  if s1.stackId = 0 then barHead free s1 (k - 1024) b.phase 0
  else (ralRoute s1 (barArriveMsg s1 (k - 1024) b.phase (s1.stackAddr 0))).1

/-- Count one arrival; `free` releases the counter (R141, R143). -/
def barCount (free : State → Nat → State) (s : State) (k : Nat) : State :=
  let b := s.bar k
  let s1 := s.setBar k { b with count := b.count + 1 }
  if b.count + 1 = b.target then (if s1.barTrellis k then barToHead free s1 k else free s1 k) else s1

/-- ARRIVE of a thread on a counter: d takes the phase, the arrival counts, and the next instruction is due. -/
def barArrive (free : State → Nat → State) (s : State) (t d k : Nat) : State :=
  let ph := (s.bar k).phase
  barCount free (updThread s t (fun x => (x.setReg d (BitVec.ofNat 64 (b2n ph))).next)) k

/-- Threads whose ARRIVE waits for the release of a counter, by slot: slot and destination. -/
def State.barHolders (s : State) (k : Nat) : List (Nat × Nat) :=
  s.cmp.thr.filterMap (fun e => match e.2.st with
    | .waiting (.barHeld j d) => if j = k then some (e.1, d) else none
    | _ => none)

/-- Release a counter, then count the arrivals that were held for the new phase (R143). The bound is the number of
times the counter can complete again at once. -/
def barRelease : Nat → State → Nat → State
  | 0, s, k => barFree s k
  | n + 1, s, k =>
    let hs := s.barHolders k
    foldS hs (barFree s k) (fun t h =>
      if (t.bar k).awaiting then t else barArrive (barRelease n) t h.1 h.2 k)

/-- The bound used: more than the threads of the stack that can be held. -/
def barFuel : Nat := 2

/-- Release as the commands use it. -/
def barReleaseAll (s : State) (k : Nat) : State := barRelease barFuel s k

end Sys2Proof.Machine
end

