-- ==== Sys2Proof/Machine/Operands.lean ====
section
/-! DEFINITION. Issue of a thread instruction: the fetch, the illegal encodings, the faults, the issue slots, and the
access to its operands in registers and memory (R75, R127 to R135, R148, R149). -/

namespace Sys2Proof.Machine

open Sys2Proof

/-- Issue slots of an instruction (R132). -/
def issueSlots : Instr → Nat
  | .mul _ _ _ _ => 2
  | .mulhs _ _ _ _ => 2
  | .mulhu _ _ _ _ => 2
  | .fmac _ fmt _ _ _ => if fmt = 0 then 2 else 1
  | .frcp _ _ _ _ => 2
  | .frsq _ _ _ _ => 2
  | .fexp2 _ _ _ _ => 2
  | .flog2 _ _ _ _ => 2
  | .divs _ _ _ _ => 16
  | .divu _ _ _ _ => 16
  | .rmds _ _ _ _ => 16
  | .rmdu _ _ _ _ => 16
  | _ => 1

/-- The word that a fault record reports. -/
def wordOfInstr (i : Instr) : Nat := ((isaWord i).getD 0).toNat

/-- Count the issue slots of an instruction of thread `t` (R128, R491). -/
def charge (s : State) (t n : Nat) : State :=
  match s.thread t with
  | none => s
  | some x => countEv (s.setThread t { x with issue := x.issue + n }) 1 (bayOfSlot t) x.part n

/-- The instruction completes: its thread changes and its slots are counted. -/
def retire (i : Instr) (s : State) (f : Thread → Thread) : State :=
  updThread (charge s (slotOf i) (issueSlots i)) (slotOf i) f

/-- The instruction writes a register and the next one is due. -/
def retireReg (i : Instr) (s : State) (d : Nat) (v : Word) : State := retire i s (fun x => (x.setReg d v).next)

/-- The instruction faults: its thread ends without any effect of it (R149). -/
def instrFault (i : Instr) (s : State) (code va fid : Nat) : State :=
  threadFault (charge s (slotOf i) 1) (slotOf i) code va fid (wordOfInstr i)

/-- The instruction waits; it issues again once the cause has ended. -/
def waitFor (i : Instr) (s : State) (w : Wait) : State := updThread s (slotOf i) (fun x => { x with st := .waiting w })

/-- The issue slot of thread `t` is used: the thread is ready, its bay runs, and nothing stops the stack (R75). -/
def State.issues (s : State) (t : Nat) : Bool :=
  match s.thread t with
  | none => false
  | some x => x.st = .ready && !x.stopping && s.live && s.bayRuns (bayOfSlot t)

/-- The fetch of the instruction at the PC (R133, R134): translation with execute permission, and the line in the L1. A
thread of a sealed partition fetches from its sealed range only. Answers false where the thread waits or has ended. -/
def fetch (s : State) (t : Nat) (x : Thread) : State × Bool :=
  match translate s ⟨.thread t, x.m, x.pc, .fetch, bayOfSlot t, 0⟩ true with
  | (u, .pending) => (updThread u t (fun y => { y with st := .waiting .xlat }), false)
  | (u, .fault fid) => (threadFault u t 3 x.pc fid 0, false)
  | (u, .ok p) =>
    match p with
    | .bad a => (threadFault (addrError u 1 false a) t 5 x.pc 0 0, false)
    | .hbm a =>
      if u.sealed x.part ∧ ¬ u.inSealed a then (threadFault u t 5 x.pc 0 0, false)
      else
        match u.l1Find (cellOfSlot t) p with
        | some l => (l1Touch u (cellOfSlot t) l, true)
        | none =>
          let (v, r) := engineRead u (.thread t) a 0
          if r.status ≠ 0 then (threadFault v t 5 x.pc 0 0, false)
          else (l1Fill v (cellOfSlot t) p r.data (wordPoison r.poison) 0, true)
    | _ => if u.sealed x.part then (threadFault u t 5 x.pc 0 0, false) else (u, true)

/-- The instruction that a command spells: itself, an illegal word, or none where a field exceeds its width. -/
inductive Spelled where
  | legal
  | illegal
  | nothing
  deriving DecidableEq, Repr

/-- What the command's word decodes to (R130). -/
def spelled (i : Instr) : Spelled :=
  match isaWord i with
  | none => .nothing
  | some w =>
    match isaDecode (slotOf i) (descOf i) w with
    | some j => if j = i then .legal else .nothing
    | none => .illegal

/-- Issue an instruction: a thread that has to end does so at this slot (R126, R153); otherwise the fetch, the check of
the encoding, then the instruction's own effect. -/
def issue (i : Instr) (s : State) (body : State → Thread → State) : State :=
  let t := slotOf i
  match s.thread t with
  | none => s
  | some x =>
    if ¬ s.issues t then s
    else
      match x.ending with
      | some code => threadKill s t code
      | none =>
        if spelled i = .nothing then s
        else
          match fetch s t x with
          | (u, false) => u
          | (u, true) =>
            if spelled i = .legal then body (updThread u t (fun y => { y with word := wordOfInstr i })) x
            else instrFault i u 1 0 0

/-- An instruction that computes a register from registers. -/
def alu (i : Instr) (d : Nat) (f : Thread → Word) (s : State) : State :=
  issue i s (fun u x => retireReg i u d (f x))

/-- An instruction that computes a register and arithmetic status. -/
def aluStatus (i : Instr) (d : Nat) (f : Thread → Word × Nat) (s : State) : State :=
  issue i s (fun u x => raiseArith (retireReg i u d (f x).1) (bayOfSlot (slotOf i)) (f x).2)

/-- A branch: to `target` when the condition holds. -/
def branch (i : Instr) (c : Thread → Bool) (target : Thread → Word) (s : State) : State :=
  issue i s (fun u x => retire i u (fun y => if c x then y.goto (target x).toNat else y.next))

/-- The PC as a word. -/
def Thread.pcw (x : Thread) : Word := BitVec.ofNat 64 x.pc

/-- The effective address of format M. -/
def Thread.ea (x : Thread) (a : Nat) (imm : BitVec 12) : Nat := (x.reg a + imm.signExtend 64).toNat

/-! ### Access to memory (R133 to R139) -/

/-- Translate an address of the instruction's thread and go on with its place; while translation is pending the thread
waits, and a failed translation is fault 3. -/
def withPlace (i : Instr) (s : State) (va : Nat) (acc : Acc) (k : State → Phys → State) : State :=
  match s.thread (slotOf i) with
  | none => s
  | some x =>
    match translate s ⟨.thread (slotOf i), x.m, va, acc, bayOfSlot (slotOf i), 0⟩ true with
    | (u, .ok p) => k u p
    | (u, .pending) => waitFor i u .xlat
    | (u, .fault fid) => instrFault i u 3 va fid

/-- Two accesses overlap. -/
def overlaps (p : Phys) (n : Nat) (q : Phys) (m : Nat) : Bool :=
  physAt p 0 = physAt q 0 && physAddr p < physAddr q + m && physAddr q < physAddr p + n

/-- Beats that a request moves through its bay port (R491 event 4): their number is timing and left open. -/
def portBeats (s : State) (t part : Nat) : State := countEv s.tick 4 (bayOfSlot t) part (Config.choose s.free)

/-- Send a thread's request to the slice of a local address. -/
def toSlice (s : State) (t part a hint : Nat) (op : SliceOp) : State :=
  let u := portBeats s t part
  { u with cel := { u.cel with xbar := u.cel.xbar ++ [⟨.thread t, a, hint, op⟩] } }

/-- Send a thread's read of a line of another stack; a valid replica serves it here (R260). -/
def toRemoteRead (s : State) (t part fab hint : Nat) : State :=
  match s.replicaOf fab with
  | some a => toSlice s t part a hint (.read hint)
  | none => remoteAsk (countRemote s part fab) (.thread t) (readMsg fab part hint)

/-- The value of a load from its line. -/
def loadValue (d : Line) (a size : Nat) (sg : Bool) : Word :=
  let v := leNat (sliceB (toBytes d 128) (a % 128) size)
  if sg then wordOf (sext v (8 * size)) else BitVec.ofNat 64 v

/-- The load's word of the cell store carries poison (R338). -/
def wordBad (poison : BitVec 2) (a : Nat) : Bool := poison.getLsbD (a % 128 / 64)

/-- A load whose address is translated. -/
def loadPlace (i : Instr) (s : State) (d size : Nat) (sg : Bool) (hint va : Nat) (p : Phys) : State :=
  let t := slotOf i
  match s.thread t with
  | none => s
  | some x =>
    match p with
    | .bad a => instrFault i (addrError s 1 false a) 5 va 0
    | _ =>
      if x.stores.any (fun e => overlaps p size e.target e.size) then waitFor i s (.stores 0)
      else
        match (if hint = 3 then none else s.l1Find (cellOfSlot t) p) with
        | some l =>
          let u := l1Touch s (cellOfSlot t) l
          if wordBad l.poison (physAddr p) then instrFault i u 4 va 0
          else retireReg i u d (loadValue l.data (physAddr p) size sg)
        | none =>
          let s1 := if hint = 3 then l1Drop s (cellOfSlot t) p else s
          let s2 := charge s1 t 1
          let s3 := updThread s2 t (fun y => { y with st := .waiting (.data d size sg hint va p s2.cmp.clock) })
          match p with
          | .hbm a => toSlice s3 t x.part a hint (.read hint)
          | .remote f => toRemoteRead s3 t x.part f hint
          | .host port b _ _ => s3.emit (.hostRead port (b / 128 * 128) 128)
          | .bad _ => s3

/-- A load of `size` bytes at `va`. -/
def load (i : Instr) (s : State) (d size : Nat) (sg : Bool) (hint va : Nat) : State :=
  if va % size ≠ 0 then instrFault i s 2 va 0
  else withPlace i s va .read (fun u p => loadPlace i u d size sg hint va p)

/-- The thread has issued a store, SACC or flag update that is not yet performed (R132). -/
def pushStore (s : State) (t : Nat) (p : Phys) (size : Nat) : State :=
  updThread s t (fun x => { x with stores := x.stores ++ [⟨p, size, s.cmp.clock⟩] })

/-- All four store entries of the thread are in use (R132). -/
def Thread.full (x : Thread) : Bool := 4 ≤ x.stores.length

/-- A write of the thread at a local address is allowed (R259, R422, R426). -/
def State.mayWrite (s : State) (t a : Nat) : Bool :=
  s.permits (.thread t) true a && s.poolAllows (.thread t) false (lineAddr a)

/-- A store whose address is translated. -/
def storePlace (i : Instr) (s : State) (size hint va : Nat) (v : Word) (p : Phys) : State :=
  let t := slotOf i
  match s.thread t with
  | none => s
  | some x =>
    let be := rangeEnables (physAddr p % 128) size
    let d := lineBytes (physAddr p % 128) (toBytes v size)
    if x.full then waitFor i s (.stores 0)
    else
      match p with
      | .bad a => instrFault i (addrError s 1 true a) 5 va 0
      | .hbm a =>
        if ¬ s.mayWrite t a then instrFault i (addrError s 1 true a) 5 va 0
        else
          toSlice (retire i (pushStore (l1Store s (cellOfSlot t) p be d) t p size) Thread.next) t x.part a hint
            (.write be d 0)
      | .remote f =>
        remoteAsk (retire i (pushStore (l1Store s (cellOfSlot t) p be d) t p size) Thread.next) (.thread t)
          (writeMsg f x.part hint be d 0)
      | .host port b _ _ =>
        (retire i (l1Store s (cellOfSlot t) p be d) Thread.next).emit
          (.hostWrite port b ((toBytes v size).map some) false)

/-- A store of the low `size` bytes of register `r` at `va`. -/
def store (i : Instr) (s : State) (r size hint va : Nat) : State :=
  if va % size ≠ 0 then instrFault i s 2 va 0
  else withPlace i s va .write (fun u p =>
    match u.thread (slotOf i) with
    | none => u
    | some x => storePlace i u size hint va (x.reg r) p)

/-- The target of an SACC or a flag operation (R133, R144, R148): an unbacked HBM address is an address error, a place
outside every HBM window is fault 6. `k` goes on with an HBM target. -/
def hbmTarget (i : Instr) (s : State) (va : Nat) (write : Bool) (p : Phys) (k : State → State) : State :=
  match p with
  | .host _ _ _ _ => instrFault i s 6 va 0
  | .bad a => if 2 ^ 38 ≤ a then instrFault i s 6 va 0 else instrFault i (addrError s 1 true a) 5 va 0
  | .remote _ => k s
  | .hbm a =>
    if write ∧ ¬ s.mayWrite (slotOf i) a then instrFault i (addrError s 1 true a) 5 va 0 else k s

/-- A release: every earlier access of the thread is performed first, else the instruction waits (R138). -/
def release (i : Instr) (s : State) (x : Thread) (k : State → State) : State :=
  if x.stores = [] then k s else waitFor i s (.stores 0)

end Sys2Proof.Machine
end

