-- ==== Sys2Proof/Machine/Alu.lean ====
section
/-! DEFINITION. Integer, immediate, compare and branch instructions of the cell instruction set (R131). -/

namespace Sys2Proof.Machine

open Sys2Proof

/-- ADD: a plus b, modulo 2^64. -/
def execAdd (t d a b : Nat) (s : State) : Host.Outcome State Fault Refusal :=
  .next (alu (.add t d a b) d (fun x => x.reg a + x.reg b) s)

/-- SUB: a minus b, modulo 2^64. -/
def execSub (t d a b : Nat) (s : State) : Host.Outcome State Fault Refusal :=
  .next (alu (.sub t d a b) d (fun x => x.reg a - x.reg b) s)

/-- AND. -/
def execAnd (t d a b : Nat) (s : State) : Host.Outcome State Fault Refusal :=
  .next (alu (.and t d a b) d (fun x => x.reg a &&& x.reg b) s)

/-- OR. -/
def execOr (t d a b : Nat) (s : State) : Host.Outcome State Fault Refusal :=
  .next (alu (.or t d a b) d (fun x => x.reg a ||| x.reg b) s)

/-- XOR. -/
def execXor (t d a b : Nat) (s : State) : Host.Outcome State Fault Refusal :=
  .next (alu (.xor t d a b) d (fun x => x.reg a ^^^ x.reg b) s)

/-- ANDN: a AND NOT b. -/
def execAndn (t d a b : Nat) (s : State) : Host.Outcome State Fault Refusal :=
  .next (alu (.andn t d a b) d (fun x => x.reg a &&& ~~~ x.reg b) s)

/-- SHL: by b mod 64. -/
def execShl (t d a b : Nat) (s : State) : Host.Outcome State Fault Refusal :=
  .next (alu (.shl t d a b) d (fun x => x.reg a <<< ((x.reg b).toNat % 64)) s)

/-- SHR: logical, by b mod 64. -/
def execShr (t d a b : Nat) (s : State) : Host.Outcome State Fault Refusal :=
  .next (alu (.shr t d a b) d (fun x => x.reg a >>> ((x.reg b).toNat % 64)) s)

/-- SAR: arithmetic, by b mod 64. -/
def execSar (t d a b : Nat) (s : State) : Host.Outcome State Fault Refusal :=
  .next (alu (.sar t d a b) d (fun x => (x.reg a).sshiftRight ((x.reg b).toNat % 64)) s)

/-- MIN: signed. -/
def execMin (t d a b : Nat) (s : State) : Host.Outcome State Fault Refusal :=
  .next (alu (.min t d a b) d (fun x => if (x.reg a).slt (x.reg b) then x.reg a else x.reg b) s)

/-- MAX: signed. -/
def execMax (t d a b : Nat) (s : State) : Host.Outcome State Fault Refusal :=
  .next (alu (.max t d a b) d (fun x => if (x.reg a).slt (x.reg b) then x.reg b else x.reg a) s)

/-- MINU: unsigned. -/
def execMinu (t d a b : Nat) (s : State) : Host.Outcome State Fault Refusal :=
  .next (alu (.minu t d a b) d (fun x => if (x.reg a).ult (x.reg b) then x.reg a else x.reg b) s)

/-- MAXU: unsigned. -/
def execMaxu (t d a b : Nat) (s : State) : Host.Outcome State Fault Refusal :=
  .next (alu (.maxu t d a b) d (fun x => if (x.reg a).ult (x.reg b) then x.reg b else x.reg a) s)

/-- MUL: low 64 bits. -/
def execMul (t d a b : Nat) (s : State) : Host.Outcome State Fault Refusal :=
  .next (alu (.mul t d a b) d (fun x => x.reg a * x.reg b) s)

/-- MULHS: high 64 bits of the signed product. -/
def execMulhs (t d a b : Nat) (s : State) : Host.Outcome State Fault Refusal :=
  .next (alu (.mulhs t d a b) d (fun x => wordOf ((x.reg a).toInt * (x.reg b).toInt / 2 ^ 64)) s)

/-- MULHU: high 64 bits of the unsigned product. -/
def execMulhu (t d a b : Nat) (s : State) : Host.Outcome State Fault Refusal :=
  .next (alu (.mulhu t d a b) d (fun x => BitVec.ofNat 64 ((x.reg a).toNat * (x.reg b).toNat / 2 ^ 64)) s)

/-- DIVS. -/
def execDivs (t d a b : Nat) (s : State) : Host.Outcome State Fault Refusal :=
  .next (alu (.divs t d a b) d (fun x => quotS (x.reg a) (x.reg b)) s)

/-- DIVU. -/
def execDivu (t d a b : Nat) (s : State) : Host.Outcome State Fault Refusal :=
  .next (alu (.divu t d a b) d (fun x => quotU (x.reg a) (x.reg b)) s)

/-- RMDS. -/
def execRmds (t d a b : Nat) (s : State) : Host.Outcome State Fault Refusal :=
  .next (alu (.rmds t d a b) d (fun x => remS (x.reg a) (x.reg b)) s)

/-- RMDU. -/
def execRmdu (t d a b : Nat) (s : State) : Host.Outcome State Fault Refusal :=
  .next (alu (.rmdu t d a b) d (fun x => remU (x.reg a) (x.reg b)) s)

/-- SEL: a if the old d is not zero, else b. -/
def execSel (t d a b : Nat) (s : State) : Host.Outcome State Fault Refusal :=
  .next (alu (.sel t d a b) d (fun x => if x.reg d ≠ 0 then x.reg a else x.reg b) s)

/-- CLZ. -/
def execClz (t d a : Nat) (s : State) : Host.Outcome State Fault Refusal :=
  .next (alu (.clz t d a) d (fun x => BitVec.ofNat 64 (clz64 (x.reg a))) s)

/-- CTZ. -/
def execCtz (t d a : Nat) (s : State) : Host.Outcome State Fault Refusal :=
  .next (alu (.ctz t d a) d (fun x => BitVec.ofNat 64 (ctz64 (x.reg a))) s)

/-- POPC. -/
def execPopc (t d a : Nat) (s : State) : Host.Outcome State Fault Refusal :=
  .next (alu (.popc t d a) d (fun x => BitVec.ofNat 64 (popc (x.reg a).toNat 64)) s)

/-- CMP: all ones or zero. -/
def execCmp (t cond d a b : Nat) (s : State) : Host.Outcome State Fault Refusal :=
  .next (alu (.cmp t cond d a b) d (fun x => maskOf (condHolds cond (x.reg a) (x.reg b))) s)

/-- ADDK. -/
def execAddk (t d a : Nat) (imm : BitVec 14) (s : State) : Host.Outcome State Fault Refusal :=
  .next (alu (.addk t d a imm) d (fun x => x.reg a + imm.signExtend 64) s)

/-- ANDK. -/
def execAndk (t d a : Nat) (imm : BitVec 14) (s : State) : Host.Outcome State Fault Refusal :=
  .next (alu (.andk t d a imm) d (fun x => x.reg a &&& imm.signExtend 64) s)

/-- ORK. -/
def execOrk (t d a : Nat) (imm : BitVec 14) (s : State) : Host.Outcome State Fault Refusal :=
  .next (alu (.ork t d a imm) d (fun x => x.reg a ||| imm.signExtend 64) s)

/-- XORK. -/
def execXork (t d a : Nat) (imm : BitVec 14) (s : State) : Host.Outcome State Fault Refusal :=
  .next (alu (.xork t d a imm) d (fun x => x.reg a ^^^ imm.signExtend 64) s)

/-- CMPK.lt: signed. -/
def execCmpkLt (t d a : Nat) (imm : BitVec 14) (s : State) : Host.Outcome State Fault Refusal :=
  .next (alu (.cmpkLt t d a imm) d (fun x => maskOf ((x.reg a).slt (imm.signExtend 64))) s)

/-- CMPK.ult: unsigned. -/
def execCmpkUlt (t d a : Nat) (imm : BitVec 14) (s : State) : Host.Outcome State Fault Refusal :=
  .next (alu (.cmpkUlt t d a imm) d (fun x => maskOf ((x.reg a).ult (imm.signExtend 64))) s)

/-- SHLK. -/
def execShlk (t d a : Nat) (imm : BitVec 6) (s : State) : Host.Outcome State Fault Refusal :=
  .next (alu (.shlk t d a imm) d (fun x => x.reg a <<< imm.toNat) s)

/-- SHRK. -/
def execShrk (t d a : Nat) (imm : BitVec 6) (s : State) : Host.Outcome State Fault Refusal :=
  .next (alu (.shrk t d a imm) d (fun x => x.reg a >>> imm.toNat) s)

/-- SARK. -/
def execSark (t d a : Nat) (imm : BitVec 6) (s : State) : Host.Outcome State Fault Refusal :=
  .next (alu (.sark t d a imm) d (fun x => (x.reg a).sshiftRight imm.toNat) s)

/-- SETI: imm20, sign-extended. -/
def execSeti (t d : Nat) (imm : BitVec 20) (s : State) : Host.Outcome State Fault Refusal :=
  .next (alu (.seti t d imm) d (fun _ => imm.signExtend 64) s)

/-- SHIN: d shifted left by 20 bits, imm20 inserted. -/
def execShin (t d : Nat) (imm : BitVec 20) (s : State) : Host.Outcome State Fault Refusal :=
  .next (alu (.shin t d imm) d (fun x => (x.reg d <<< 20) ||| imm.zeroExtend 64) s)

/-- PCA: PC plus 4 times imm20. -/
def execPca (t d : Nat) (imm : BitVec 20) (s : State) : Host.Outcome State Fault Refusal :=
  .next (alu (.pca t d imm) d (fun x => x.pcw + imm.signExtend 64 * 4) s)

/-- CBR.eq. -/
def execCbrEq (t a b : Nat) (imm : BitVec 14) (s : State) : Host.Outcome State Fault Refusal :=
  .next (branch (.cbrEq t a b imm) (fun x => condHolds 0 (x.reg a) (x.reg b)) (fun x => x.pcw + imm.signExtend 64 * 4) s)

/-- CBR.ne. -/
def execCbrNe (t a b : Nat) (imm : BitVec 14) (s : State) : Host.Outcome State Fault Refusal :=
  .next (branch (.cbrNe t a b imm) (fun x => condHolds 1 (x.reg a) (x.reg b)) (fun x => x.pcw + imm.signExtend 64 * 4) s)

/-- CBR.lt. -/
def execCbrLt (t a b : Nat) (imm : BitVec 14) (s : State) : Host.Outcome State Fault Refusal :=
  .next (branch (.cbrLt t a b imm) (fun x => condHolds 2 (x.reg a) (x.reg b)) (fun x => x.pcw + imm.signExtend 64 * 4) s)

/-- CBR.ge. -/
def execCbrGe (t a b : Nat) (imm : BitVec 14) (s : State) : Host.Outcome State Fault Refusal :=
  .next (branch (.cbrGe t a b imm) (fun x => condHolds 3 (x.reg a) (x.reg b)) (fun x => x.pcw + imm.signExtend 64 * 4) s)

/-- CBR.ult. -/
def execCbrUlt (t a b : Nat) (imm : BitVec 14) (s : State) : Host.Outcome State Fault Refusal :=
  .next (branch (.cbrUlt t a b imm) (fun x => condHolds 4 (x.reg a) (x.reg b)) (fun x => x.pcw + imm.signExtend 64 * 4) s)

/-- CBR.uge. -/
def execCbrUge (t a b : Nat) (imm : BitVec 14) (s : State) : Host.Outcome State Fault Refusal :=
  .next (branch (.cbrUge t a b imm) (fun x => condHolds 5 (x.reg a) (x.reg b)) (fun x => x.pcw + imm.signExtend 64 * 4) s)

/-- JMP. -/
def execJmp (t : Nat) (imm : BitVec 26) (s : State) : Host.Outcome State Fault Refusal :=
  .next (branch (.jmp t imm) (fun _ => true) (fun x => x.pcw + imm.signExtend 64 * 4) s)

/-- A jump to a register address: fault 2 when it is not 4-byte aligned; `link` writes g62 with the return address. -/
def jumpReg (i : Instr) (a : Nat) (imm : BitVec 14) (link : Bool) (s : State) : State :=
  issue i s (fun u x =>
    let target := (x.reg a + imm.signExtend 64).toNat
    if target % 4 ≠ 0 then instrFault i u 2 target 0
    else retire i u (fun y => (if link then y.setReg 62 (x.pcw + 4) else y).goto target))

/-- CALL: g62 gets the return address. -/
def execCall (t : Nat) (imm : BitVec 26) (s : State) : Host.Outcome State Fault Refusal :=
  .next (issue (.call t imm) s (fun u x => retire (.call t imm) u (fun y => (y.setReg 62 (x.pcw + 4)).goto (x.pcw + imm.signExtend 64 * 4).toNat)))

/-- JMPR. -/
def execJmpr (t a : Nat) (imm : BitVec 14) (s : State) : Host.Outcome State Fault Refusal :=
  .next (jumpReg (.jmpr t a imm) a imm false s)

/-- CALLR: a is read before g62 is written. -/
def execCallr (t a : Nat) (imm : BitVec 14) (s : State) : Host.Outcome State Fault Refusal :=
  .next (jumpReg (.callr t a imm) a imm true s)

/-- NOP. -/
def execNop (t : Nat) (s : State) : Host.Outcome State Fault Refusal :=
  .next (issue (.nop t) s (fun u _ => retire (.nop t) u Thread.next))

/-- ILLEGAL_INSTRUCTION: a word that decodes to no instruction raises fault 1 (R130). -/
def illegalX (t : Nat) (w : BitVec 32) (s : State) : State :=
  match s.thread t with
  | none => s
  | some x =>
    if ¬ s.issues t ∨ (isaDecode t ⟨[], false⟩ w).isSome then s
    else
      match x.ending with
      | some code => threadKill s t code
      | none =>
        match fetch s t x with
        | (u, false) => u
        | (u, true) => threadFault (charge u t 1) t 1 0 0 w.toNat

/-- ILLEGAL_INSTRUCTION. -/
def execIllegalInstruction (t : Nat) (w : BitVec 32) (s : State) : Host.Outcome State Fault Refusal :=
  .next (illegalX t w s)

/-- RDS: the system value that b selects (R128). Slots used so far do not count this instruction's own (DEDUCED,
assumption log 31). -/
def sysValue (s : State) (t : Nat) (x : Thread) (b : Nat) : Word :=
  let n := match smGet s.cmp.tasks x.task with | some r => r.desc.n | none => 0
  BitVec.ofNat 64
    (if b = 0 then x.idx
    else if b = 1 then n
    else if b = 2 then cellOfSlot t / 24 * 256 + cellOfSlot t % 24
    else if b = 3 then bayOfSlot t
    else if b = 4 then s.stackId
    else if b = 5 then s.trellisId
    else if b = 6 then x.part
    else if b = 7 then x.ctx
    else x.issue)

/-- RDS. -/
def execRds (t d b : Nat) (s : State) : Host.Outcome State Fault Refusal :=
  .next (issue (.rds t d b) s (fun u x => retireReg (.rds t d b) u d (sysValue u t x b)))

end Sys2Proof.Machine
end

