-- ==== Sys2Proof/Machine/OpMath.lean ====
section
/-! DEFINITION. The arithmetic of operators (R63 to R73, R96 to R111, R176, R177, R310): operand elements, the matrix
array's sums, the stage program of the vector lanes, and output rows. A `Calc` carries the status bits of
CMP_BAY_ARITH_n and the index of the next free value through a computation. -/

namespace Sys2Proof.Machine

open Sys2Proof

/-! ### Formats (R90) -/

/-- The code names a format. -/
def fmtKnown (f : Nat) : Bool := f ≤ 6 || (0x10 ≤ f && f ≤ 0x15) || (0x20 ≤ f && f ≤ 0x23)

/-- A microscaling format. -/
def isMx (f : Nat) : Bool := 0x10 ≤ f && f ≤ 0x15

/-- A codebook format. -/
def isCb (f : Nat) : Bool := 0x20 ≤ f && f ≤ 0x23

/-- Bits of an element. -/
def elemBits (f : Nat) : Nat :=
  if f = 0 ∨ f = 6 then 32
  else if f = 1 ∨ f = 2 then 16
  else if f = 0x12 ∨ f = 0x13 then 6
  else if f = 0x14 ∨ f = 0x20 ∨ f = 0x21 then 4
  else if f = 0x22 ∨ f = 0x23 then 3
  else 8

/-- Byte length of a row of k elements (R160). -/
def rowBytes (f k : Nat) : Nat :=
  if isCb f then k / 64 * (if f < 0x22 then 48 else 32) else cdiv (k * elemBits f) 8

/-- The floating-point format of the elements of a format, or of its codebook's entries. -/
def elemFmt (f : Nat) : FpFmt :=
  if f = 0 then fp32
  else if f = 1 then bf16
  else if f = 2 then fp16
  else if f = 3 ∨ f = 0x10 ∨ f = 0x20 ∨ f = 0x22 then e4m3
  else if f = 4 ∨ f = 0x11 ∨ f = 0x21 ∨ f = 0x23 then e5m2
  else if f = 0x12 then e3m2
  else if f = 0x13 then e2m3
  else e2m1

/-- An E8M0 scale (R97). -/
def e8m0 (x : Nat) : Fv := if x % 256 = 0xFF then .nan else .fin false 1 ((x % 256 : Nat) - 127)

/-- Element j of a packed row, given as the number its bytes spell (R95, R96, R99, R100). -/
def elemVal (f row j : Nat) : Fv :=
  if isCb f then
    let i := j % 64
    let start := 8 * (j / 64 * (if f < 0x22 then 48 else 32))
    let idx := if f < 0x22 then nbits row (start + 128 + 4 * i) 4 else nbits row (start + 64 + 3 * i) 3
    fpDec (elemFmt f) (nbits row (start + 8 * idx) 8)
  else if f = 5 then fvInt (sext (nbits row (8 * j) 8) 8) 0
  else if f = 0x15 then fvInt (sext (nbits row (8 * j) 8) 8) (-6)
  else fpDec (elemFmt f) (nbits row (elemBits f * j) (elemBits f))

/-- The bytes of a row on which element j depends. -/
def elemSpan (f row j : Nat) : List Nat :=
  if isCb f then
    let i := j % 64
    let start := j / 64 * (if f < 0x22 then 48 else 32)
    if f < 0x22 then [start + nbits row (8 * start + 128 + 4 * i) 4, start + 16 + i / 2]
    else [start + nbits row (8 * start + 64 + 3 * i) 3, start + 8 + 3 * i / 8, start + 8 + (3 * i + 2) / 8]
  else
    let lo := elemBits f * j
    (List.range ((lo + elemBits f - 1) / 8 + 1 - lo / 8)).map (fun i => lo / 8 + i)

/-- A row of an operand: element values, block scales where the format has them, and poison per element. -/
structure OpRow where
  v : List Fv
  sc : List Fv
  bad : List Bool
  deriving DecidableEq, Repr

/-- Decode a row of k elements: its bytes and scale bytes, each with its poison. -/
def decRow (f k : Nat) (bs sc : List (Byte × Bool)) : OpRow :=
  let row := leNat (bs.map Prod.fst)
  let p := bs.map Prod.snd
  let q := sc.map Prod.snd
  ⟨(List.range k).map (elemVal f row), sc.map (fun b => e8m0 b.1.toNat),
    (List.range k).map (fun j => (elemSpan f row j).any (fun i => p.getD i false) || q.getD (j / 32) false)⟩

/-- The row has poison. -/
def OpRow.poisoned (r : OpRow) : Bool := r.bad.any id

/-! ### Sums in a computation -/

/-- Status bits so far and the index of the next free value. -/
structure Calc where
  st : Nat
  k : Nat
  deriving DecidableEq, Repr

/-- Add status bits. -/
def Calc.or (c : Calc) (st : Nat) : Calc := { c with st := c.st ||| st }

/-- Pieces of n elements of a list. -/
def chunksOf {α : Type} (n : Nat) (l : List α) : List (List α) :=
  (List.range (cdiv l.length n)).map (fun i => (l.drop (n * i)).take n)

/-- An FP32 value, rounded once from an exact result of the operands listed. -/
def fp32Of (c : Calc) (ins : List Fv) (r : Fv) : Fv × Calc :=
  let (b, st) := fpResult fp32 ins r
  (fpDec fp32 b, c.or st)

/-- Sum in FP32, rounded once. -/
def add32 (c : Calc) (a b : Fv) : Fv × Calc := fp32Of c [a, b] (fvAdd a b)

/-- Product in FP32, rounded once. -/
def mul32 (c : Calc) (a b : Fv) : Fv × Calc := fp32Of c [a, b] (fvMul a b)

/-- Quotient of finite numbers with enough bits and a sticky bit for any rounding to 24 bits. -/
def fvDiv (a b : Fv) : Fv :=
  match a, b with
  | .nan, _ => .nan
  | _, .nan => .nan
  | .inf _, .inf _ => .nan
  | .inf x, .fin n _ _ => .inf (x != n)
  | .fin n _ _, .inf y => .fin (n != y) 0 0
  | .fin n1 m1 e1, .fin n2 m2 e2 =>
    if m2 = 0 then (if m1 = 0 then .nan else .inf (n1 != n2))
    else
      let q := m1 * 2 ^ 128 / m2
      .fin (n1 != n2) (2 * q + b2n (m1 * 2 ^ 128 % m2 ≠ 0)) (e1 - e2 - 129)

/-- Quotient in FP32, rounded once. -/
def div32 (c : Calc) (a b : Fv) : Fv × Calc := fp32Of c [a, b] (fvDiv a b)

/-- Sum of values in an order and pairing that is not fixed (R72, R110, R177): each step adds two of the terms that
remain, chosen freely. -/
def freeSum : Nat → Calc → List Fv → Fv × Calc
  | 0, c, l => (l.headD (.fin false 0 0), c)
  | n + 1, c, l =>
    match l with
    | [] => (.fin false 0 0, c)
    | [x] => (x, c)
    | _ =>
      let i := Config.choose c.k % l.length
      let l1 := l.eraseIdx i
      let j := Config.choose (c.k + 1) % l1.length
      let (r, c1) := add32 { c with k := c.k + 2 } (l.getD i .nan) (l1.getD j .nan)
      freeSum n c1 (r :: l1.eraseIdx j)

/-- The free sum of a list. -/
def sumFree (c : Calc) (l : List Fv) : Fv × Calc := freeSum l.length c l

/-! ### The matrix array (R63, R67, R107 to R109) -/

/-- The partial sum of a column over one K-step: each exact product is added with one rounding, in increasing k. -/
def colSum (c : Calc) (xs ys : List Fv) : Fv × Calc :=
  (xs.zip ys).foldl (fun a e => fp32Of a.2 [a.1, e.1, e.2] (fvAdd a.1 (fvMul e.1 e.2))) (.fin false 0 0, c)

/-- The exact sum of products, for integer operands. -/
def exactSum (xs ys : List Fv) : Fv := (xs.zip ys).foldl (fun a e => fvAdd a (fvMul e.1 e.2)) (.fin false 0 0)

/-- A partial sum times the block scales of its operands, rounded once (R97, R107). -/
def scaled (c : Calc) (p : Fv) (scs : List Fv) : Fv × Calc :=
  if scs = [] then (p, c) else fp32Of c (p :: scs) (scs.foldl fvMul p)

/-- The operands are 8-bit integers. -/
def intPair (fa fb : Nat) : Bool := (fa = 5 || fa = 0x15) && (fb = 5 || fb = 0x15)

/-- One 32-element step of a row against a column, scaled. -/
def stepSum (c : Calc) (ints : Bool) (xs ys : List Fv) (sx sy : List Fv) (i : Nat) : Fv × Calc :=
  let scs := (sx.drop i).take 1 ++ (sy.drop i).take 1
  if ints then scaled c (exactSum xs ys) scs
  else
    let (p, c1) := colSum c xs ys
    scaled c1 p scs

/-- The accumulator of a row of a against a row of b, in FP32. With MXFP4 on both sides a K-step holds two blocks, whose
scaled partial sums meet inside the array (R67). -/
def dotFp (c : Calc) (fa fb : Nat) (a b : OpRow) : Fv × Calc :=
  let xs := chunksOf 32 a.v
  let ys := chunksOf 32 b.v
  let parts := ((List.range xs.length).foldl (fun (acc : List Fv × Calc) i =>
    let (p, c1) := stepSum acc.2 (intPair fa fb) (xs.getD i []) (ys.getD i []) a.sc b.sc i
    (acc.1 ++ [p], c1)) ([], c))
  let steps := if fa = 0x14 ∧ fb = 0x14 then chunksOf 2 parts.1 else parts.1.map (fun p => [p])
  steps.foldl (fun acc ps =>
    let (p, c1) := match ps with
      | [p, q] => add32 acc.2 p q
      | p :: _ => (p, acc.2)
      | [] => (.fin false 0 0, acc.2)
    add32 c1 acc.1 p) (.fin false 0 0, parts.2)

/-- The integer of a value with exponent 0. -/
def fvInt0 : Fv → Int
  | .fin n m _ => fvSigned n m
  | _ => 0

/-- An INT32 accumulator after an addition: it saturates (R108). -/
def satAdd32 (c : Calc) (a b : Int) : Int × Calc :=
  if a + b < - 2 ^ 31 then (- 2 ^ 31, c.or stIntSat)
  else if 2 ^ 31 - 1 < a + b then (2 ^ 31 - 1, c.or stIntSat)
  else (a + b, c)

/-- The INT32 accumulator of INT8 operands. -/
def dotInt (c : Calc) (a b : OpRow) : Int × Calc :=
  ((chunksOf 32 a.v).zip (chunksOf 32 b.v)).foldl (fun acc e =>
    satAdd32 acc.2 acc.1 (fvInt0 (exactSum e.1 e.2))) (0, c)

/-! ### Stochastic rounding (R104) -/

/-- The rounding of an operator's BF16 results: stochastic or not, its seed, and the cells of its group. -/
structure Stoch where
  on : Bool
  seed : BitVec 32
  cells : List Nat
  deriving DecidableEq, Repr

/-- A random value of a cell's generator. Which cell of the group serves the element and how many values it has drawn
before is not fixed: both are free. -/
def stochDraw (x : Stoch) (k : Nat) : Nat :=
  let cell := x.cells.getD (Config.choose k % x.cells.length) 0
  (lfsrSteps (16 * Config.choose (k + 1)) (lfsrDraw (lfsrSeed x.seed cell))).toNat % 65536

/-- Convert to a floating-point format; to BF16 as the operator rounds. -/
def roundTo (x : Stoch) (c : Calc) (f : FpFmt) (sat : Bool) (v : Fv) : Nat × Calc :=
  if x.on ∧ f = bf16 then
    let (b, st) := stochBf16 (fpEnc fp32 false v).1 (stochDraw x c.k)
    (b, { (c.or st) with k := c.k + 2 })
  else
    let (b, st) := fpEnc f sat v
    let nan := if v.isNan = false ∧ (fpDec f b).isNan then stNanMade else 0
    (b, c.or (st ||| nan))

/-! ### The stage program (R70, R71, R310) -/

/-- An approximated operation on a value, rounded into a format. -/
def fvApprox (c : Calc) (f : FpFmt) (op : Nat) (x : Fv) : Fv × Calc :=
  let (b, st) := fpResult f [x] (fpDec fp32 (apxRun op x c.k))
  let ovf := match x with
    | .fin n m e => decide (op = 2 ∧ 128 ≤ fvRat (.fin n m e))
    | _ => false
  (fpDec f b, { (c.or (if ovf then st ||| stInfMade else st)) with k := c.k + 1 })

/-- The lane format of a stage word. -/
def stageFmt (w : Word) : FpFmt :=
  let f := nbits w.toNat 8 2
  if f = 1 then bf16 else if f = 2 then fp16 else fp32

/-- A value is not zero. -/
def Fv.nonzero : Fv → Bool
  | .fin _ m _ => m ≠ 0
  | _ => true

/-- One stage: the result that enters dst. -/
def stageOp (x : Stoch) (c : Calc) (w : Word) (d a b : Fv) : Fv × Calc :=
  let op := nbits w.toNat 0 8
  let f := stageFmt w
  let res := fun (ins : List Fv) (r : Fv) =>
    let (v, st) := fpResult f ins r
    ((fpDec f v, c.or st) : Fv × Calc)
  if op = 0x01 then res [a, b] (fvAdd a b)
  else if op = 0x02 then res [a, b] (fvAdd a b.negate)
  else if op = 0x03 then res [a, b] (fvMin a b)
  else if op = 0x04 then res [a, b] (fvMax a b)
  else if op = 0x05 then (if a.isNan || b.isNan || fvCmp a b ≠ -1 then .fin false 0 0 else .fin false 1 0, c)
  else if op = 0x06 then (if d.nonzero then res [a] a else res [b] b)
  else if op = 0x07 then
    let (v, c1) := roundTo x c f false a
    (fpDec f v, c1)
  else if op = 0x08 then res [a] (fvMul a (.fin false 1 (sext (nbits w.toNat 32 32) 32)))
  else if op = 0x09 then res [a, b] (fvMul a b)
  else if op = 0x0A then res [d, a, b] (fvAdd d (fvMul a b))
  else if op = 0x0B then fvApprox c f 0 a
  else if op = 0x0C then fvApprox c f 1 a
  else if op = 0x0D then fvApprox c f 2 a
  else if op = 0x0E then fvApprox c f 3 a
  else if op = 0x0F then fvApprox c f 4 a
  else if op = 0x10 then fvApprox c f 5 a
  else if op = 0x11 then fvApprox c f 6 a
  else fvApprox c f 7 a

/-- Run a program on an element and its second input: v0 after the last stage. Source b = 15 selects imm. -/
def runProg (x : Stoch) (c : Calc) (prog : List Word) (v0 v1 : Fv) : Fv × Calc :=
  let regs : List Fv := v0 :: v1 :: List.replicate 14 (.fin false 0 0)
  let r := prog.foldl (fun (acc : List Fv × Calc) w =>
    let b := nbits w.toNat 18 4
    let vb := if b = 15 then fpDec fp32 (nbits w.toNat 32 32) else acc.1.getD b .nan
    let dst := nbits w.toNat 10 4
    let (v, c1) := stageOp x acc.2 w (acc.1.getD dst .nan) (acc.1.getD (nbits w.toNat 14 4) .nan) vb
    (acc.1.set dst v, c1)) (regs, c)
  (r.1.headD .nan, r.2)

/-! ### Output rows (R96, R98, R102) -/

/-- Exponent of the largest normal value of an element format (R98). -/
def emaxOf (f : Nat) : Int := if f = 0x10 then 8 else if f = 0x11 then 15 else if f = 0x12 then 4 else if f = 0x15 then 0 else 2

/-- The larger magnitude of two values, none of them NaN. -/
def fvAbsMax (a b : Fv) : Fv :=
  let abs := fun (v : Fv) => match v with | .fin _ m e => Fv.fin false m e | .inf _ => .inf false | .nan => .nan
  if fvCmp (abs a) (abs b) = -1 then abs b else abs a

/-- The scale byte of a block (R98 steps 1 to 4). -/
def mxScale (f : Nat) (l : List Fv) : Nat :=
  if l.any Fv.isNan then 0xFF
  else
    match l.foldl fvAbsMax (.fin false 0 0) with
    | .fin _ m e =>
      if m = 0 then 0
      else (max 0 (min ((Nat.log2 m : Int) + e - emaxOf f + 127) 254)).toNat
    | _ => (max 0 (min (127 - emaxOf f + 127) 254)).toNat

/-- One element of a block with its scale (R98 step 5). -/
def mxElem (c : Calc) (f scale : Nat) (v : Fv) : Nat × Calc :=
  let is8 := decide (f = 0x10 ∨ f = 0x11)
  if scale = 0xFF then (0, c)
  else
    match v with
    | .inf n => (fpSign (elemFmt f) n + fpMaxFinite (elemFmt f), if is8 then c.or stFp8Sat else c)
    | _ =>
      let (b, st) := fpEnc (elemFmt f) true (fvMul v (.fin false 1 (127 - (scale : Int))))
      (b, if is8 then c.or st else c)

/-- Encode the values of a row: the element codes and the scale bytes. -/
def encVals (x : Stoch) (c : Calc) (f : Nat) (sat : Bool) (vs : List Fv) : List Nat × List Nat × Calc :=
  if isMx f then
    (chunksOf 32 vs).foldl (fun acc blk =>
      let s := mxScale f blk
      let (es, c1) := blk.foldl (fun (a : List Nat × Calc) v =>
        let (e, c2) := mxElem a.2 f s v
        (a.1 ++ [e], c2)) ([], acc.2.2)
      (acc.1 ++ es, acc.2.1 ++ [s], c1)) ([], [], c)
  else
    let (es, c1) := vs.foldl (fun (a : List Nat × Calc) v =>
      if f = 6 then
        let (i, st) := fvToInt 32 v
        (a.1 ++ [(BitVec.ofInt 32 i).toNat], a.2.or st)
      else
        let (e, c2) := roundTo x a.2 (elemFmt f) sat v
        (a.1 ++ [e], c2)) ([], c)
    (es, [], c1)

/-- Pack element codes of `w` bits. -/
def packElems (w : Nat) (es : List Nat) : List Byte :=
  natBytes (es.zipIdx.foldl (fun a e => a + e.1 % 2 ^ w * 2 ^ (w * e.2)) 0) (cdiv (w * es.length) 8)

/-! ### Attention and normalisation (R176, R177) -/

/-- log2 e in FP32. -/
def log2e : Fv := fpDec fp32 0x3FB8AA3B

/-- exp2((a − b) × log2 e). -/
def expDiff (c : Calc) (a b : Fv) : Fv × Calc :=
  let (d, c1) := add32 c a b.negate
  let (m, c2) := mul32 c1 d log2e
  fvApprox c2 fp32 2 m

/-- The running state of a query row: maximum, sum and output accumulators (R73). -/
structure AttnRow where
  mu : Fv
  sigma : Fv
  o : List Fv
  any : Bool
  deriving DecidableEq, Repr

/-- One key chunk of a query row: `keys` pairs the score of each unmasked key with its value row; `pf` is the format of
the probabilities. -/
def attnChunk (x : Stoch) (sat : Bool) (pf : FpFmt) (c : Calc) (r : AttnRow) (keys : List (Nat × Fv × OpRow)) :
    AttnRow × Calc :=
  if keys = [] then (r, c)
  else
    let mu := keys.foldl (fun m e => fvMax m e.2.1) r.mu
    let (f, c1) := expDiff c r.mu mu
    let (ps, c2) := keys.foldl (fun (a : List Fv × Calc) e =>
      let (p, d) := expDiff a.2 e.2.1 mu
      (a.1 ++ [p], d)) ([], c1)
    let (s0, c3) := mul32 c2 r.sigma f
    let (sg, c4) := sumFree c3 (s0 :: ps)
    let (pq, c5) := ps.foldl (fun (a : List Fv × Calc) p =>
      let (b, d) := roundTo x a.2 pf sat p
      (a.1 ++ [fpDec pf b], d)) ([], c4)
    let steps := (keys.map (fun e => e.1 / 32)).eraseDups
    let col := fun (acc : List Fv × Calc) (j : Nat) =>
      let (o1, d1) := mul32 acc.2 (r.o.getD j .nan) f
      let (o2, d2) := steps.foldl (fun (a : Fv × Calc) st =>
        let mine := (keys.zip pq).filter (fun e => e.1.1 / 32 = st)
        let (p, d) := colSum a.2 (mine.map Prod.snd) (mine.map (fun e => e.1.2.2.v.getD j .nan))
        add32 d a.1 p) (o1, d1)
      ((acc.1 ++ [o2], d2) : List Fv × Calc)
    let (o, c6) := (List.range r.o.length).foldl col ([], c5)
    (⟨mu, sg, o, true⟩, c6)

/-- The output row: each accumulator divided by the sum; zeros where every key was masked. -/
def attnOut (c : Calc) (r : AttnRow) : List Fv × Calc :=
  if ¬ r.any then (r.o.map (fun _ => .fin false 0 0), c)
  else r.o.foldl (fun (a : List Fv × Calc) v =>
    let (q, d) := div32 a.2 v r.sigma
    (a.1 ++ [q], d)) ([], c)

/-- Map a list through a computation. -/
def mapCalc {α : Type} (f : Calc → α → Fv × Calc) (c : Calc) (l : List α) : List Fv × Calc :=
  l.foldl (fun (a : List Fv × Calc) e =>
    let (v, d) := f a.2 e
    (a.1 ++ [v], d)) ([], c)

/-- The number of elements in FP32. -/
def countFv (k : Nat) : Fv := fpDec fp32 (fpEnc fp32 false (fvOfInt k)).1

/-- A normalised row: x, gain g, layer or RMS, epsilon. -/
def normRow (c : Calc) (layer : Bool) (eps : Fv) (xs gs : List Fv) : List Fv × Calc :=
  let kf := countFv xs.length
  let (mu, c1) := if layer then
      let (t, d) := sumFree c xs
      div32 d t kf
    else (.fin false 0 0, c)
  let (ds, c2) := if layer then mapCalc (fun d v => add32 d v mu.negate) c1 xs else (xs, c1)
  let (sq, c3) := mapCalc (fun d v => mul32 d v v) c2 ds
  let (s, c4) := sumFree c3 sq
  let (m, c5) := div32 c4 s kf
  let (e, c6) := add32 c5 m eps
  let (r, c7) := fvApprox c6 fp32 1 e
  mapCalc (fun d (v : Fv × Fv) =>
    let (y, d1) := mul32 d v.1 r
    mul32 d1 y v.2) c7 (ds.zip gs)

end Sys2Proof.Machine
end

