-- ==== Sys2Proof/Machine/Tiles.lean ====
section
/-! DEFINITION. Operators and tiles (R147, R156 to R178, R263 to R265): the check of a descriptor, cutting into pieces,
translation, placement, execution and completion. A queue is numbered 4 × bay + queue. -/

namespace Sys2Proof.Machine

open Sys2Proof

/-! ### The descriptor (R158 to R163) -/

/-- A field of a tile descriptor: `size` bytes at `off`. -/
def td (d : BitVec 512) (off size : Nat) : Nat := nbits d.toNat (8 * off) (8 * size)

/-- Rows of a and d. -/
def tdM (d : BitVec 512) : Nat := td d 2 2
/-- n. -/
def tdN (d : BitVec 512) : Nat := td d 4 2
/-- k. -/
def tdK (d : BitVec 512) : Nat := td d 6 2
/-- out_accum. -/
def tdAcc (d : BitVec 512) : Bool := nbit (td d 1 1) 0
/-- acc_op. -/
def tdAccOp (d : BitVec 512) : Nat := nbits (td d 1 1) 1 3
/-- done_flag. -/
def tdFlag (d : BitVec 512) : Nat := td d 56 8

/-- An operand: a 0, b 1, c 2, d 3. -/
structure Opnd where
  ix : Nat
  base : Nat
  stride : Nat
  rows : Nat
  cols : Nat
  fmt : Nat
  hint : Nat
  deriving DecidableEq, Repr

/-- Rows, elements per row, and whether an operand of a kind may be left out; none where it is never used (R159). -/
def opndShape (kind : Nat) (d : BitVec 512) (i : Nat) : Option (Nat × Nat × Bool) :=
  if kind = 1 then
    if i = 0 then some (tdM d, tdK d, false) else if i = 1 then some (tdN d, tdK d, false)
    else if i = 2 then some (1, tdN d, true) else some (tdM d, tdN d, false)
  else if kind = 2 then
    if i = 1 ∨ i = 2 then some (tdN d, tdK d, false) else some (tdM d, tdK d, false)
  else if kind = 3 then
    if i = 1 then none else if i = 2 then some (1, tdK d, true) else some (tdM d, tdK d, false)
  else
    if i = 2 then none else some (tdM d, tdK d, i = 1)

/-- An operand of the tile, if used (R159). -/
def opnd (kind : Nat) (d : BitVec 512) (i : Nat) : Option Opnd :=
  (opndShape kind d i).bind (fun s =>
    let base := td d (16 + 8 * i) 8
    if s.2.2 ∧ base = 0 then none
    else some ⟨i, base, td d (48 + 2 * i) 2, s.1, s.2.1, td d (8 + i) 1, nbits (td d 12 1) (2 * i) 2⟩)

/-- The used operands. -/
def opnds (kind : Nat) (d : BitVec 512) : List Opnd := (List.range 4).filterMap (opnd kind d)

/-- The matrix role accepts the pair: a streaming, b stationary (R64). -/
def pairOk (a b : Nat) : Bool :=
  let eight := fun (f : Nat) => [3, 4, 0x10, 0x11].contains f
  ((eight a || a = 0x12 || a = 0x13) && (eight b || b = 0x12 || b = 0x13 || isCb b))
    || ((a = 5 || a = 0x15) && (b = 5 || b = 0x15))
    || (a = 0x14 && (b = 0x14 || eight b || isCb b))
    || (a = 1 && b = 1) || (a = 2 && b = 2)

/-- The formats of the used operands are accepted in their slots (R162, R309). -/
def fmtsOk (o : Oper) (d : BitVec 512) : Bool :=
  let a := td d 8 1
  let b := td d 9 1
  let c := td d 10 1
  let e := td d 11 1
  let usesB := (opnd o.kind d 1).isSome
  let usesC := (opnd o.kind d 2).isSome
  let float := fun (f : Nat) => f ≤ 2
  let outs := [0, 1, 2, 3, 4, 0x10, 0x11, 0x14]
  (o.fmtA = 0xFF || a = o.fmtA) && (o.fmtB = 0xFF || !usesB || b = o.fmtB) &&
  (if o.kind = 1 then
    pairOk a b && (!usesC || c ≤ 1) && (outs.contains e || (e = 6 && a = 5 && b = 5))
  else if o.kind = 2 then
    pairOk a b && !(intPair a b) && !(isCb b) && [1, 2, 3, 4].contains c && e ≤ 2
  else float a && (!usesB || float b) && (!usesC || c ≤ 1) && outs.contains e)

/-- The dimensions are allowed (R161, R163). -/
def dimsOk (kind : Nat) (d : BitVec 512) : Bool :=
  let k := tdK d
  1 ≤ tdM d && 1 ≤ k &&
  (if kind ≤ 2 then decide (1 ≤ tdN d) else true) &&
  (if kind = 2 then k % 32 = 0 && k ≤ 256 else true) &&
  (opnds kind d).all (fun o => (!isMx o.fmt || o.cols % 32 = 0) && (!isCb o.fmt || o.cols % 64 = 0))

/-- Base and stride of an operand are allowed (R160). -/
def placeOk (d : BitVec 512) (o : Opnd) : Bool :=
  let wide := o.fmt = 0x22 ∨ o.fmt = 0x23 ∨ (o.ix = 3 ∧ tdAcc d)
  o.base % 16 = 0 && cdiv (rowBytes o.fmt o.cols) 16 ≤ o.stride &&
  (!decide wide || (o.base % 32 = 0 && o.stride % 2 = 0))

/-- fmt_d and acc_op form an allowed pair (R163). -/
def accOk (d : BitVec 512) : Bool :=
  if tdAcc d then [(0, 1), (0, 3), (1, 2), (1, 4), (6, 5)].contains (td d 11 1, tdAccOp d) else tdAccOp d = 0

/-- The operator's cell group holds a vector cell. -/
def State.hasVector (s : State) (o : Oper) : Bool :=
  match (ones o.bays.toNat 32).head? with
  | none => false
  | some b => (ones o.group.toNat 24).any (fun i => nbits s.bup.roles.toNat (2 * cellOf b i) 2 = 2)

/-- The operator of an id in a partition. -/
def State.operOf (s : State) (p op : Nat) : Option Oper := (s.opers p).find? (fun o => o.op = op)

/-- Refusal code of a descriptor in partition p, 0 when it is accepted (R164). -/
def State.tileCode (s : State) (p : Nat) (d : BitVec 512) : Nat :=
  match s.operOf p (td d 0 1) with
  | none => 2
  | some o =>
    let unused := (List.range 4).filter (fun i => (opnd o.kind d i).isNone)
    if td d 1 1 / 16 ≠ 0 ∨ (3 ≤ o.kind ∧ tdN d ≠ 0) ∨ (o.kind ≠ 2 ∧ td d 14 2 ≠ 0) ∨ nbits (td d 12 1) 6 2 = 3 ∨
        unused.any (fun i => td d (16 + 8 * i) 8 ≠ 0 || td d (48 + 2 * i) 2 ≠ 0 || td d (8 + i) 1 ≠ 0 ||
          nbits (td d 12 1) (2 * i) 2 ≠ 0) then 3
    else if ¬ fmtsOk o d then 4
    else if ¬ dimsOk o.kind d then 5
    else if ¬ (opnds o.kind d).all (placeOk d) then 6
    else if tdFlag d % 8 ≠ 0 then 7
    else if ¬ accOk d then 8
    else if o.kind = 1 ∧ ¬ s.hasVector o ∧ ((opnd 1 d 2).isSome ∨ isMx (td d 11 1)) then 9
    else 0

/-! ### Queues (R165, R166) -/

/-- The tiles of a queue, oldest first. -/
def State.opq (s : State) (q : Nat) : List Tile := smGetD s.cmp.opq q []

/-- Store a queue. -/
def State.setOpq (s : State) (q : Nat) (l : List Tile) : State :=
  { s with cmp := { s.cmp with opq := smPut s.cmp.opq q l [] } }

/-- The tile of a number in a queue. -/
def State.tile (s : State) (q id : Nat) : Option Tile := (s.opq q).find? (fun t => t.id = id)

/-- Change a tile. -/
def updTile (s : State) (q id : Nat) (f : Tile → Tile) : State :=
  s.setOpq q ((s.opq q).map (fun t => if t.id = id then f t else t))

/-- The descriptor that eight registers from `a` on hold (R147). -/
def Thread.desc (x : Thread) (a : Nat) : BitVec 512 :=
  BitVec.ofNat 512 ((List.range 8).foldl (fun v i => v + (x.reg (a + i)).toNat * 2 ^ (64 * i)) 0)

/-- OPCALL: a release, then the check; an accepted tile enters the queue. -/
def execOpcall (t d a q : Nat) (s : State) : Host.Outcome State Fault Refusal :=
  let i : Instr := .opcall t d a q
  .next (issue i s (fun u x => release i u x (fun u =>
    let k := 4 * bayOfSlot t + q
    let desc := x.desc a
    if ¬ u.enabled ∨ 64 ≤ (u.opq k).length then retireReg i u d 1
    else
      let code := u.tileCode x.part desc
      let r := rCmpOpqStat (bayOfSlot t) q
      if code ≠ 0 then
        raise (retireReg i (u.setFld r fCmpOpqStatRefuseCode code) d (BitVec.ofNat 64 code)) r fCmpOpqStatRefused
      else
        let v : State := u.setOpq k (u.opq k ++ [⟨u.cmp.nextTile, x.part, x.ctx, desc, false, [], []⟩])
        retireReg i ({ v with cmp := { v.cmp with nextTile := u.cmp.nextTile + 1 } }.addMod r fCmpOpqStatAccepted 1) d 0)))

/-! ### Pieces (R167, R168) -/

/-- A new piece. -/
def Piece.fresh (m0 m1 n0 n1 : Nat) (cuts : List Nat) : Piece := ⟨m0, m1, n0, n1, cuts, .unstarted, [], [], 0, 0⟩

/-- The chunks of a dimension by a grain. -/
def cutRange (total g : Nat) : List (Nat × Nat) :=
  if g = 0 then [(0, total)] else (List.range (cdiv total g)).map (fun i => (i * g, Nat.min total ((i + 1) * g)))

/-- The pieces of a tile before any is halved (R167). -/
def cutTile (o : Oper) (d : BitVec 512) : List Piece :=
  if o.kind = 1 then
    (cutRange (tdM d) (Nat.min o.grainM 4096)).flatMap (fun m =>
      (cutRange (tdN d) o.grainN).map (fun n => Piece.fresh m.1 m.2 n.1 n.2 []))
  else if o.kind = 2 then
    (cutRange (tdM d) (Nat.min o.grainM 256)).map (fun m =>
      Piece.fresh m.1 m.2 0 (tdN d) ((cutRange (tdN d) o.grainN).map Prod.snd))
  else (cutRange (tdM d) o.grainM).map (fun m => Piece.fresh m.1 m.2 0 0 [])

/-- The rows and elements of an operand that lie in a piece: first row, end row, first element, end element. -/
def opndPart (kind : Nat) (o : Opnd) (p : Piece) : Nat × Nat × Nat × Nat :=
  if kind = 1 then
    if o.ix = 0 then (p.m0, p.m1, 0, o.cols) else if o.ix = 1 then (p.n0, p.n1, 0, o.cols)
    else if o.ix = 2 then (0, 1, p.n0, p.n1) else (p.m0, p.m1, p.n0, p.n1)
  else if kind = 2 then
    if o.ix = 1 ∨ o.ix = 2 then (p.n0, p.n1, 0, o.cols) else (p.m0, p.m1, 0, o.cols)
  else if o.ix = 2 then (0, 1, 0, o.cols) else (p.m0, p.m1, 0, o.cols)

/-- Bytes of elements c0 to c1 of row r: address and length (R160). -/
def rowSpan (o : Opnd) (r c0 c1 : Nat) : Nat × Nat :=
  let lo := rowBytes o.fmt c0
  ((o.base + 16 * o.stride * r + lo) % 2 ^ 64, rowBytes o.fmt c1 - lo)

/-- Scale bytes of elements c0 to c1 of row r (R161); none for other formats. -/
def scaleSpan (o : Opnd) (r c0 c1 : Nat) : Nat × Nat :=
  if isMx o.fmt then
    ((o.base + 16 * o.stride * o.rows + r * (o.cols / 32) + c0 / 32) % 2 ^ 64, cdiv c1 32 - c0 / 32)
  else (0, 0)

/-- The byte ranges of rows r0 to r1 of an operand. -/
def rowsSpans (o : Opnd) (r0 r1 c0 c1 : Nat) : List (Nat × Nat) :=
  ((List.range (r1 - r0)).flatMap (fun i => [rowSpan o (r0 + i) c0 c1, scaleSpan o (r0 + i) c0 c1])).filter (fun x => x.2 ≠ 0)

/-- The byte ranges of an operand in a piece. -/
def opndSpans (kind : Nat) (o : Opnd) (p : Piece) : List (Nat × Nat) :=
  let (r0, r1, c0, c1) := opndPart kind o p
  rowsSpans o r0 r1 c0 c1

/-- Bytes of the page that maps an address: its mapped size, 4 KiB where it is not translated (R168). -/
def State.pageSize (s : State) (m b va : Nat) : Nat :=
  match (s.bayTlb b ++ s.xlt.l2).find? (fun e => e.covers m va) with
  | some e => 2 ^ (12 + 9 * e.size)
  | none => 4096

/-- The pages of a byte range, by page base, with the first address touched. -/
def pagesIn (s : State) (m b : Nat) : Nat → Nat → Nat → SMap Nat → SMap Nat
  | 0, _, _, acc => acc
  | n + 1, va, stop, acc =>
    if stop ≤ va then acc
    else
      let z := s.pageSize m b va
      let base := va / z * z
      pagesIn s m b n (base + z) stop (if (smGet acc base).isSome then acc else smSet acc base va)

/-- The distinct pages of byte ranges. -/
def footprint (s : State) (m b : Nat) (l : List (Nat × Nat)) : SMap Nat :=
  l.foldl (fun acc r => pagesIn s m b (r.2 / 4096 + 2) r.1 (r.1 + r.2) acc) []

/-- More than 64 pages. -/
def tooWide (s : State) (m b : Nat) (l : List (Nat × Nat)) : Bool := 64 < (footprint s m b l).length

/-- The first row of an operand that alone exceeds 64 pages: its first byte (R168). -/
def wideRow (s : State) (m b kind : Nat) (o : Opnd) : Option Nat :=
  if kind = 1 ∧ 2 ≤ o.ix then none
  else
    ((List.range o.rows).find? (fun r => tooWide s m b (rowsSpans o r (r + 1) 0 o.cols))).map (fun r =>
      (rowSpan o r 0 o.cols).1)

/-- The rows of the operand run along m (R168). -/
def alongM (kind : Nat) (o : Opnd) : Bool := o.ix = 0 || o.ix = 3 || (kind = 4 && o.ix = 1)

/-- Split the key chunks of an attention row group until b and c fit in each. -/
def splitCuts (s : State) (m b : Nat) (ops : List Opnd) : Nat → Nat → Nat → List Nat
  | 0, _, hi => [hi]
  | n + 1, lo, hi =>
    if lo + 1 < hi ∧ ops.any (fun o => tooWide s m b (rowsSpans o lo hi 0 o.cols)) then
      let mid := lo + (hi - lo + 1) / 2
      splitCuts s m b ops n lo mid ++ splitCuts s m b ops n mid hi
    else [hi]

/-- A piece that fits, the pieces split off it, or the first byte of an oversized row. -/
inductive Fit where
  | fits (p : Piece) (rest : List Piece)
  | wide (va : Nat)
  deriving DecidableEq, Repr

/-- Halve a piece until every operand fits in 64 pages. -/
def fitPiece (s : State) (m b kind : Nat) (ops : List Opnd) : Nat → Piece → List Piece → Fit
  | 0, p, rest => .fits p rest
  | n + 1, p, rest =>
    let wideM := ops.find? (fun o => alongM kind o && tooWide s m b (opndSpans kind o p))
    let wideN := if kind = 1 then ops.find? (fun o => !alongM kind o && tooWide s m b (opndSpans kind o p)) else none
    match wideM, wideN with
    | some o, _ =>
      if p.m1 ≤ p.m0 + 1 then .wide (rowSpan o p.m0 0 o.cols).1
      else
        let mid := p.m0 + (p.m1 - p.m0 + 1) / 2
        fitPiece s m b kind ops n { p with m1 := mid } ({ p with m0 := mid } :: rest)
    | none, some o =>
      if p.n1 ≤ p.n0 + 1 then .wide (rowSpan o p.n0 0 o.cols).1
      else
        let mid := p.n0 + (p.n1 - p.n0 + 1) / 2
        fitPiece s m b kind ops n { p with n1 := mid } ({ p with n0 := mid } :: rest)
    | none, none =>
      match (if kind = 3 then ops.find? (fun o => o.ix = 2 && tooWide s m b (opndSpans kind o p)) else none) with
      | some o => .wide o.base
      | none =>
        let kv := ops.filter (fun o => o.ix = 1 || o.ix = 2)
        .fits (if kind = 2 then
            { p with cuts := ((0 :: p.cuts).zip p.cuts).flatMap (fun c => splitCuts s m b kv 17 c.1 c.2) }
          else p) rest

/-! ### End of a piece and of a tile (R170 to R173) -/

/-- A line read with a last-use hint becomes dead when its tile has completed well (R173, R204); not in a sealed range. -/
def deadLine (s : State) (a : Nat) : State :=
  if s.inSealed a then s
  else
    match s.server a with
    | none => s
    | some n => ((applyOp s n ⟨.placement, a, 0, .kill⟩ []).map Prod.fst).getD s

/-- The status of a piece. -/
def Piece.status (p : Piece) : Option Nat := match p.ph with | .ended st => some st | _ => none

/-- A tile leaves its queue; with its flag add and what depends on its status (R170, R173). -/
def tileDone (s : State) (q : Nat) (t : Tile) (status : Nat) : State :=
  let m := 64 * t.part + t.ctx
  let s1 := s.setOpq q ((s.opq q).filter (fun x => x.id ≠ t.id))
  let r := rCmpOpqStat (q / 4) (q % 4)
  let s2 := if status = 0 then foldS t.lastUse.eraseDups s1 deadLine
    else raise (s1.setFld r fCmpOpqStatLastStatus status) r fCmpOpqStatErrored
  if tdFlag t.desc = 0 then s2 else post s2 m [.tile q (tdFlag t.desc) (doneValue (status = 0))]

/-- A tile whose pieces have all ended completes with the lowest nonzero status. -/
def tileCheck (s : State) (q id : Nat) : State :=
  match s.tile q id with
  | none => s
  | some t =>
    if t.cut ∧ t.pieces.all (fun p => p.status.isSome) then
      let bad := (t.pieces.filterMap Piece.status).filter (· ≠ 0)
      tileDone s q t (bad.foldl Nat.min (bad.headD 0))
    else s

/-- A piece ends with a status, a fault id and an address. -/
def endPiece (s : State) (q id idx status fid va : Nat) : State :=
  match s.tile q id with
  | none => s
  | some t =>
    let bay := match t.pieces[idx]? with
      | some p => (match p.ph with | .placed b _ => b | _ => q / 4)
      | none => q / 4
    let s1 := updPiece s (q / 4) (q % 4) id idx (fun p => { p with ph := .ended status, trans := [], far := [] })
    let s2 := dropWaiters s1 (fun w => w.who = .piece (q / 4) (q % 4) id idx)
    let s3 := if status = 0 then s2 else tileError s2 q status fid va
    tileCheck (trace s3 4 bay t.part t.ctx status (tdFlag t.desc) 0) q id

/-! ### Translation (R169) -/

/-- The requester of a piece. -/
def pieceWho (q id idx : Nat) : Requester := .piece (q / 4) (q % 4) id idx

/-- What an operand's access is. -/
def opndAcc (d : BitVec 512) (o : Opnd) : Acc := if o.ix ≠ 3 then .read else if tdAcc d then .update else .write

/-- Every page of a piece with its access and its operand (4 for the completion flag). -/
def piecePages (s : State) (b : Nat) (t : Tile) (o : Oper) (p : Piece) : List (Nat × Acc × Nat) :=
  let m := 64 * t.part + t.ctx
  (opnds o.kind t.desc).flatMap (fun x =>
    (footprint s m b (opndSpans o.kind x p)).map (fun e => (e.2, opndAcc t.desc x, x.ix)))
  ++ (if tdFlag t.desc = 0 then [] else [(tdFlag t.desc, .update, 4)])

/-- Result of translating the pages of a piece. -/
structure PageRun where
  s : State
  missing : List Nat
  trans : List TlbEnt
  places : List (Phys × Nat × Nat)
  fault : Option (Nat × Nat)
  deriving DecidableEq, Repr

/-- Translate pages in order; a fault ends the walk. -/
def xlatPages (w : Nat → Acc → Waiter) (r : PageRun) : List (Nat × Acc × Nat) → PageRun
  | [] => r
  | (va, acc, ix) :: rest =>
    match translate r.s (w va acc) true with
    | (u, .fault fid) => { r with s := u, fault := some (fid, va) }
    | (u, .pending) => xlatPages w { r with s := u, missing := r.missing ++ [va] } rest
    | (u, .ok p) =>
      let ent := (tlbFind (u.bayTlb (w va acc).bay) (w va acc).m va acc).toList
      xlatPages w { r with s := u, trans := r.trans ++ ent, places := r.places ++ [(p, ix, va)] } rest

/-- Status of a page of an operand by its place (R169 step 3), 0 where it is usable. -/
def State.placeStatus (s : State) (who : Requester) (acc : Bool) (p : Phys) (ix : Nat) : Nat :=
  match p with
  | .bad _ => 2
  | .hbm a => if s.permits who (ix = 3) a ∧ s.poolAllows who (ix ≠ 3) (lineAddr a) then 0 else 2
  | .remote _ => 0
  | .host _ _ _ _ => if ix = 3 ∧ acc then 3 else 0

/-- Step 1 of R169 and the classification of step 3. -/
def pieceXlate (s : State) (q id idx : Nat) : State :=
  match s.tile q id with
  | none => s
  | some t =>
    match t.pieces[idx]?, s.operOf t.part (td t.desc 0 1) with
    | some p, some o =>
      let who := pieceWho q id idx
      let m := 64 * t.part + t.ctx
      let w := fun va acc => (⟨.piece (q / 4) (q % 4) id idx, m, va, acc, q / 4, 0⟩ : Waiter)
      let r := xlatPages w ⟨s, [], [], [], none⟩ (piecePages s (q / 4) t o p)
      match r.fault with
      | some (fid, va) => endPiece r.s q id idx 1 fid va
      | none =>
        if r.missing ≠ [] then updPiece r.s (q / 4) (q % 4) id idx (fun p => { p with ph := .translating r.missing })
        else
          let st := fun (e : Phys × Nat × Nat) => if e.2.1 = 4 then 0 else r.s.placeStatus who (tdAcc t.desc) e.1 e.2.1
          let bad := r.places.filter (fun e => st e ≠ 0)
          match (bad.find? (fun e => st e = 2)).or bad.head? with
          | some e =>
            let s1 := if st e = 2 then addrError r.s 2 (e.2.1 = 3) (physAddr e.1 % 2 ^ 43) else r.s
            endPiece s1 q id idx (st e) 0 e.2.2
          | none =>
            updPiece r.s (q / 4) (q % 4) id idx (fun p => { p with ph := .translated, trans := r.trans })
    | _, _ => s

/-- A translation or page request of a piece has succeeded: once none is missing, step 1 runs again. -/
def pieceRetry (s : State) (b q id idx va : Nat) : State :=
  match (s.tile (4 * b + q) id).bind (fun t => t.pieces[idx]?) with
  | none => s
  | some p =>
    match p.ph with
    | .translating l =>
      let rest := l.filter (fun a => a / 4096 ≠ va / 4096)
      if rest = [] then pieceXlate s (4 * b + q) id idx
      else updPiece s b q id idx (fun p => { p with ph := .translating rest })
    | _ => s

/-! ### Dispatch (R166) -/

/-- Cut a tile that is not cut yet. A single row of more than 64 pages ends the tile with status 4 (R168). -/
def cutNow (s : State) (q : Nat) (t : Tile) (o : Oper) : State :=
  let m := 64 * t.part + t.ctx
  match (opnds o.kind t.desc).findSome? (wideRow s m (q / 4) o.kind) with
  | some va =>
    let s1 := tileError s q 4 0 va
    tileDone s1 q t 4
  | none => updTile s q t.id (fun x => { x with cut := true, pieces := cutTile o t.desc })

/-- Index of the first piece not yet started. -/
def Tile.nextPiece (t : Tile) : Option Nat := t.pieces.findIdx? (fun p => p.ph = .unstarted)

/-- The tile has pieces not yet started. -/
def Tile.startable (t : Tile) : Bool := !t.cut || t.nextPiece.isSome

/-- Start the next piece of a tile. -/
def startPiece (s : State) (q id : Nat) : State :=
  match s.tile q id with
  | none => s
  | some t0 =>
    match s.operOf t0.part (td t0.desc 0 1) with
    | none => s
    | some o =>
      let s1 := if t0.cut then s else cutNow s q t0 o
      match s1.tile q id with
      | none => s1
      | some t =>
        match t.nextPiece with
        | none => s1
        | some i =>
          match fitPiece s1 (64 * t.part + t.ctx) (q / 4) o.kind (opnds o.kind t.desc) 40 (t.pieces.getD i (Piece.fresh 0 0 0 0 [])) [] with
          | .wide va => endPiece s1 q id i 4 0 va
          | .fits p rest => pieceXlate (updTile s1 q id (fun x => { x with pieces := x.pieces.set i p ++ rest })) q id i

/-- The queue that a dispatcher serves next: the higher level first, in rotation within a level (R166). -/
def State.nextQueue (s : State) (b : Nat) : Option Nat :=
  let order := fun (l : Nat) => if smGetD s.cmp.qTurn (2 * b + l) 1 = 0 then [2 * l + 1, 2 * l] else [2 * l, 2 * l + 1]
  (order 0 ++ order 1).find? (fun q => (s.opq (4 * b + q)).any Tile.startable)

/-- PIECE_DISPATCH. -/
def dispatch (s : State) (b : Nat) : State :=
  match s.nextQueue b with
  | none => s
  | some q =>
    match (s.opq (4 * b + q)).find? Tile.startable with
    | none => s
    | some t =>
      startPiece { s with cmp := { s.cmp with qTurn := smPut s.cmp.qTurn (2 * b + q / 2) (q % 2) 1 } } (4 * b + q) t.id

/-- PIECE_DISPATCH. -/
def execPieceDispatch (bay : Nat) (s : State) : Host.Outcome State Fault Refusal :=
  .next (whenLive s (fun s => if decide (smGetD s.pwr.bayGate bay 0 = 0) then dispatch s bay else s))

/-! ### Placement (R263, R264) -/

/-- The place of an address of a piece by the translations that it holds. -/
def piecePlaceOf (s : State) (m : Nat) (p : Piece) (va : Nat) (acc : Acc) : Option Phys :=
  (s.canXlate m).bind (fun fp => (tlbFind p.trans m va acc).map (fun e => s.classify fp.1 e va))

/-- The line addresses of byte ranges, rising. -/
def linesIn (l : List (Nat × Nat)) : List Nat :=
  ((l.foldl (fun (acc : SMap Nat) r =>
    (List.range ((r.1 + r.2 - 1) / 128 + 1 - r.1 / 128)).foldl (fun a i => smSet a (r.1 / 128 + i) 0) acc) []).map
      (fun e => e.1 * 128))

/-- The local lines of an operand in a piece in address order, if it is a local operand. -/
def localLines (s : State) (m kind : Nat) (d : BitVec 512) (p : Piece) (o : Opnd) : Option (List Nat) :=
  let ls := (linesIn (opndSpans kind o p)).map (fun va => piecePlaceOf s m p va (opndAcc d o))
  let hs := ls.filterMap (fun x => match x with | some (.hbm a) => some (lineAddr a) | _ => none)
  if hs.length = ls.length ∧ hs ≠ [] then some ((hs.foldl (fun (acc : SMap Nat) a => smSet acc a 0) []).map Prod.fst) else none

/-- Distance class of a bay and a slice (R54). -/
def distClass (b n : Nat) : Nat :=
  let near := b % 4 = 0 ∨ b % 4 = 3
  let same := decide (b % 4 < 2) = decide (n < 96)
  if same then (if near then 0 else 1) else if near then 3 else 2

/-- Class table entry (R54). -/
def classW (c : Nat) : Nat := if c = 0 then 36 else if c = 1 then 42 else if c = 2 then 54 else 60

/-- The slice that serves a line, a retired one replaced by its substitute. -/
def State.sliceFor (s : State) (a : Nat) : Nat :=
  let n := sliceOf a
  if (s.slice n).state = 2 then (s.slice n).subst else n

/-- Pieces of the stack that satisfy a test on their tile and themselves. -/
def State.piecesWith (s : State) (f : Tile → Piece → Bool) : List Piece :=
  s.cmp.opq.flatMap (fun e => e.2.flatMap (fun t => t.pieces.filter (f t)))

/-- The piece is placed on a bay and not ended. -/
def Piece.onBay (p : Piece) (b : Nat) : Bool := match p.ph with | .placed c _ => c = b | _ => false

/-- The operator's cell group is complete in a bay. -/
def State.groupWhole (s : State) (o : Oper) (b : Nat) : Bool := (ones o.group.toNat 24).all (fun i => s.cellOn (cellOf b i))

/-- The bay is eligible for a piece of an operator (R263). -/
def State.eligible (s : State) (o : Oper) (b : Nat) : Bool :=
  o.bays.getLsbD b && s.bayOn b && s.groupWhole o b &&
  decide ((s.piecesWith (fun t p => t.part = o.part && td t.desc 0 1 = o.op && p.onBay b)).length < 4)

/-- The cost of a bay (R264): `locals` are the lines of the local operands. -/
def State.pieceCost (s : State) (p hint : Nat) (locals : List (List Nat)) (b : Nat) : Nat :=
  let dist := locals.foldl (fun acc l =>
    let n := l.length
    let sum := (List.range 16).foldl (fun a i => a + classW (distClass b (s.sliceFor (l.getD (i * n / 16) 0)))) 0
    acc + cdiv n 8 * sum) 0
  let q := (s.piecesWith (fun _ x => x.onBay b)).foldl (fun a x => a + x.kib) 0
  let cost := dist / 16 + s.plcFld (rPlcWorkCfg p) fPlcWorkCfgLambda * q
  if b = hint then cost * 7 / 8 else cost

/-- The bay of lowest cost; a tie goes to the first in order after the bay chosen last. -/
def State.chooseBay (s : State) (cost : Nat → Nat) (last : Nat) (bs : List Nat) : Option Nat :=
  let order := ((List.range 32).map (fun i => (last + 1 + i) % 32)).filter (fun b => bs.contains b)
  order.foldl (fun best b => match best with
    | none => some b
    | some x => if cost b < cost x then some b else some x) none

/-- The reads of a placed piece that leave the stack: other stacks' lines, and host memory (R169, R260). -/
def pieceAsk (s : State) (q id idx : Nat) (t : Tile) (o : Oper) (p : Piece) : State :=
  let m := 64 * t.part + t.ctx
  let who := pieceWho q id idx
  let vas := (opnds o.kind t.desc).flatMap (fun x =>
    if x.ix = 3 then [] else (linesIn (opndSpans o.kind x p)).map (fun va => (va, x.hint)))
  foldS vas s (fun u e =>
    match piecePlaceOf u m p e.1 .read with
    | some (.remote f) =>
      match u.replicaOf f with
      | some a =>
        let (v, r) := engineRead u who a 0
        answerRead v who f r.data r.poison r.status
      | none => remoteAsk (countRemote u t.part f) who (readMsg f t.part e.2)
    | some (.host port bus _ _) => u.emit (.hostRead port (bus / 128 * 128) 128)
    | _ => u)

/-- PIECE_PLACE. -/
def placePiece (s : State) (q id idx : Nat) : State :=
  match s.tile q id with
  | none => s
  | some t =>
    match t.pieces[idx]?, s.operOf t.part (td t.desc 0 1) with
    | some p, some o =>
      if p.ph ≠ .translated then s
      else if ¬ (ones o.bays.toNat 32).any s.bayOn then endPiece s q id idx 7 0 0
      else
        let m := 64 * t.part + t.ctx
        let locals := (opnds o.kind t.desc).filterMap (localLines s m o.kind t.desc p)
        let last := smGetD s.cmp.lastBay (q / 4) 31
        match s.chooseBay (s.pieceCost t.part (td t.desc 13 1) locals) last ((List.range 32).filter (s.eligible o)) with
        | none => s
        | some b =>
          let kib := locals.foldl (fun a l => a + cdiv l.length 8) 0
          let s1 := updPiece s (q / 4) (q % 4) id idx (fun x => { x with ph := .placed b false, kib := kib, far := [] })
          let s2 : State := { s1 with cmp := { s1.cmp with lastBay := smPut s1.cmp.lastBay (q / 4) b 31 } }
          let s3 := trace s2 3 b t.part t.ctx (td t.desc 0 1 + 256 * (q % 4)) (td t.desc 16 8)
            (tdM t.desc + 2 ^ 16 * tdN t.desc + 2 ^ 32 * tdK t.desc)
          pieceAsk (wakeBay s3 b (q % 4 < 2)) q id idx t o p
    | _, _ => s

/-- PIECE_PLACE. -/
def execPiecePlace (bay q tile idx : Nat) (s : State) : Host.Outcome State Fault Refusal :=
  .next (whenLive s (fun s => if q < 4 then placePiece s (4 * bay + q) tile idx else s))

/-! ### Execution (R169 step 4, R172, R178) -/

/-- What a piece needs to run: its numbers, its tile, its operator and the lines that came from host memory. -/
structure PieceCtx where
  q : Nat
  id : Nat
  idx : Nat
  t : Tile
  o : Oper
  p : Piece
  host : List HostLine
  deriving DecidableEq, Repr

/-- The context number of a piece. -/
def PieceCtx.m (c : PieceCtx) : Nat := 64 * c.t.part + c.t.ctx

/-- The requester of a piece. -/
def PieceCtx.who (c : PieceCtx) : Requester := pieceWho c.q c.id c.idx

/-- The operand lines of a piece have arrived: every translation is held, every line of another stack and of host memory
has come. -/
def State.piecePresent (s : State) (c : PieceCtx) : Bool :=
  (opnds c.o.kind c.t.desc).all (fun x => (linesIn (opndSpans c.o.kind x c.p)).all (fun va =>
    match piecePlaceOf s c.m c.p va (opndAcc c.t.desc x) with
    | none => false
    | some (.remote f) => x.ix = 3 || (smGet c.p.far (lineAddr f)).isSome
    | some (.host _ bus _ _) => x.ix = 3 || c.host.any (fun h => h.bus = bus / 128 * 128)
    | some _ => true))

/-- Read one line of an operand: line and poison. -/
def pieceLine (s : State) (c : PieceCtx) (hint va : Nat) : State × Line × BitVec 4 :=
  match piecePlaceOf s c.m c.p va .read with
  | some (.hbm a) =>
    let (u, r) := engineRead s c.who a (if hint = 3 then 0 else hint)
    let v := if hint = 3 then updTile u c.q c.id (fun t => { t with lastUse := t.lastUse ++ [lineAddr a] }) else u
    (v, r.data, if r.status = 0 then r.poison else 0xF)
  | some (.remote f) => let x := smGetD c.p.far (lineAddr f) (0, 0xF); (s, x.1, x.2)
  | some (.host _ bus _ _) =>
    match c.host.find? (fun h => h.bus = bus / 128 * 128) with
    | some h => (s, h.data, if h.ep then 0xF else 0)
    | none => (s, 0, 0xF)
  | _ => (s, 0, 0xF)

/-- Read bytes of an operand, each with its poison. -/
def pieceBytes (s : State) (c : PieceCtx) (hint va len : Nat) : State × List (Byte × Bool) :=
  if len = 0 then (s, [])
  else
    let (u, l) := (linesIn [(va, len)]).foldl (fun (acc : State × List (Byte × Bool)) a =>
      let (u, d, p) := pieceLine acc.1 c hint a
      (u, acc.2 ++ (toBytes d 128).zipIdx.map (fun e => (e.1, p.getLsbD (e.2 / 32))))) (s, [])
    (u, (l.drop (va % 128)).take len)

/-- Read rows of an operand. -/
def pieceRows (s : State) (c : PieceCtx) (o : Opnd) (r0 r1 c0 c1 : Nat) : State × List OpRow :=
  (List.range (r1 - r0)).foldl (fun (acc : State × List OpRow) i =>
    let (va, len) := rowSpan o (r0 + i) c0 c1
    let (sv, slen) := scaleSpan o (r0 + i) c0 c1
    let (u, bs) := pieceBytes acc.1 c o.hint va len
    let (v, sc) := pieceBytes u c o.hint sv slen
    (v, acc.2 ++ [decRow o.fmt (c1 - c0) bs sc])) (s, [])

/-- Read an operand of a piece; no rows where it is unused. -/
def pieceOpnd (s : State) (c : PieceCtx) (i : Nat) : State × List OpRow :=
  match opnd c.o.kind c.t.desc i with
  | none => (s, [])
  | some o =>
    let (r0, r1, c0, c1) := opndPart c.o.kind o c.p
    pieceRows s c o r0 r1 c0 c1

/-- Output values of a piece, row by row, each with its poison. -/
abbrev OutRows := List (List (Fv × Bool))

/-- How the operator rounds to BF16. -/
def PieceCtx.stoch (c : PieceCtx) (bay : Nat) : Stoch :=
  ⟨c.o.stoch, c.o.seed, (ones c.o.group.toNat 24).map (cellOf bay)⟩

/-- The output of a MATMUL (R63 to R67, R107 to R109, R310). c is added in FP32 before the program, whose second input it
also is. -/
def runMatmul (x : Stoch) (c : PieceCtx) (k : Calc) (a b cc : List OpRow) : OutRows × Calc :=
  let fa := td c.t.desc 8 1
  let fb := td c.t.desc 9 1
  let raw := td c.t.desc 11 1 = 6 ∧ c.o.prog = [] ∧ cc = []
  let bias := cc.headD ⟨[], [], []⟩
  let elem := fun (k : Calc) (ra rb : OpRow) (j : Nat) =>
    let (v, k1) := if fa = 5 ∧ fb = 5 then
        let (i, k1) := dotInt k ra rb
        if raw then (fvOfInt i, k1) else fp32Of k1 [] (fvOfInt i)
      else dotFp k fa fb ra rb
    let y := bias.v.getD j (.fin false 0 0)
    let (v1, k2) := if cc = [] then (v, k1) else add32 k1 v y
    runProg x k2 c.o.prog v1 y
  a.foldl (fun (acc : OutRows × Calc) ra =>
    let (row, k1) := b.zipIdx.foldl (fun (r : List (Fv × Bool) × Calc) e =>
      let (v, k1) := elem r.2 ra e.1 e.2
      (r.1 ++ [(v, ra.poisoned || e.1.poisoned || bias.bad.getD e.2 false)], k1)) ([], acc.2)
    (acc.1 ++ [row], k1)) ([], k)

/-- The output of a row group of ATTN (R176). Masked keys do not enter the sums. -/
def runAttn (x : Stoch) (c : PieceCtx) (k : Calc) (a b cc : List OpRow) : OutRows × Calc :=
  let fa := td c.t.desc 8 1
  let fb := td c.t.desc 9 1
  let fc := td c.t.desc 10 1
  let pf := if fc = 3 ∨ fc = 4 then e4m3 else elemFmt fc
  let aux := td c.t.desc 14 2
  let scale := fpDec fp32 c.o.scale.toNat
  let masked := fun (i j : Nat) => nbit aux 15 && decide (nbits aux 0 15 + i / Nat.max 1 c.o.h < j)
  let bad := (a ++ b ++ cc).any OpRow.poisoned
  a.zipIdx.foldl (fun (acc : OutRows × Calc) e =>
    let i := c.p.m0 + e.2
    let start : AttnRow := ⟨.inf true, .fin false 0 0, List.replicate (tdK c.t.desc) (.fin false 0 0), false⟩
    let (r, k1) := ((0 :: c.p.cuts).zip c.p.cuts).foldl (fun (st : AttnRow × Calc) cut =>
      let js := ((List.range (cut.2 - cut.1)).map (fun d => cut.1 + d)).filter (fun j => !masked i j)
      let (keys, k2) := js.foldl (fun (l : List (Nat × Fv × OpRow) × Calc) j =>
        let (dot, k3) := dotFp l.2 fa fb e.1 (b.getD j ⟨[], [], []⟩)
        let (sv, k4) := mul32 k3 dot scale
        (l.1 ++ [(j - cut.1, sv, cc.getD j ⟨[], [], []⟩)], k4)) ([], st.2)
      attnChunk x c.o.sat pf k2 st.1 keys) (start, acc.2)
    let (o, k5) := attnOut k1 r
    (acc.1 ++ [o.map (fun v => (v, bad))], k5)) ([], k)

/-- The output of NORM (R177) and of ELEM. -/
def runVector (x : Stoch) (c : PieceCtx) (k : Calc) (a b cc : List OpRow) : OutRows × Calc :=
  a.zipIdx.foldl (fun (acc : OutRows × Calc) e =>
    let n := e.1.v.length
    let gain := cc.headD ⟨List.replicate n (.fin false 1 0), [], []⟩
    let rb := b.getD e.2 ⟨[], [], []⟩
    let (vs, k1) := if c.o.kind = 3 then normRow acc.2 c.o.layer (fpDec fp32 c.o.scale.toNat) e.1.v gain.v else (e.1.v, acc.2)
    let (row, k2) := vs.zipIdx.foldl (fun (r : List (Fv × Bool) × Calc) y =>
      let (v, k3) := runProg x r.2 c.o.prog y.1 (rb.v.getD y.2 (.fin false 0 0))
      let bad := if c.o.kind = 3 then e.1.poisoned || gain.bad.getD y.2 false
        else e.1.bad.getD y.2 false || rb.bad.getD y.2 false
      (r.1 ++ [(v, bad)], k3)) ([], k1)
    (acc.1 ++ [row], k2)) ([], k)

/-- Poison per sector of bytes placed at a line offset. -/
def sectorPoison (off : Nat) (bad : List Bool) : BitVec 4 :=
  BitVec.ofNat 4 ((List.range 4).foldl (fun a i =>
    a + b2n ((bad.zipIdx).any (fun e => e.1 && (off + e.2) / 32 = i)) * 2 ^ i) 0)

/-- Write bytes within one line of d. -/
def pieceWriteLine (s : State) (c : PieceCtx) (hint va : Nat) (bs : List (Byte × Bool)) : State :=
  let off := va % 128
  let be := rangeEnables off bs.length
  let d := lineBytes off (bs.map Prod.fst)
  let p := sectorPoison off (bs.map Prod.snd)
  let fail := fun (u : State) => updPiece u (c.q / 4) (c.q % 4) c.id c.idx (fun x => { x with bad := 2 })
  match piecePlaceOf s c.m c.p va .write with
  | some (.hbm a) =>
    let (u, r) := engineWrite s c.who a hint be d p
    if r.status = 0 then u else fail u
  | some (.remote f) => remoteAsk s c.who (writeMsg f c.t.part hint be d p)
  | some (.host port bus _ _) => s.emit (.hostWrite port bus (bs.map (fun b => some b.1)) (p ≠ 0))
  | some (.bad a) => fail (addrError s 2 true a)
  | none => fail s

/-- Write bytes of d. -/
def pieceWrite (s : State) (c : PieceCtx) (hint va : Nat) (bs : List (Byte × Bool)) : State :=
  if bs = [] then s
  else
    foldS (linesIn [(va, bs.length)]) s (fun u a =>
      let lo := Nat.max a va
      pieceWriteLine u c hint lo ((bs.drop (lo - va)).take (a + 128 - lo)))

/-- One accumulate write of a sector of d (R178). -/
def pieceAccum (s : State) (c : PieceCtx) (hint va : Nat) (lanes : Nat) (bs : List (Byte × Bool)) : State :=
  let op := tdAccOp c.t.desc
  let mask := BitVec.ofNat 16 (2 ^ lanes - 1)
  let d : Sector := BitVec.ofNat 256 (leNat (bs.map Prod.fst))
  let bad := bs.any Prod.snd
  let fail := fun (u : State) => updPiece u (c.q / 4) (c.q % 4) c.id c.idx (fun x => { x with bad := 2 })
  match piecePlaceOf s c.m c.p va .update with
  | some (.hbm a) =>
    let (u, r) := engineOp s ⟨c.who, a, hint, .accum op mask d bad⟩
    if r.status = 0 then u else fail u
  | some (.remote f) => remoteAsk s c.who { accumMsg f c.t.part op mask d with poison := if bad then 1 else 0 }
  | _ => fail s

/-- Write one output row. Element poison covers the bytes of the element; in a microscaling block it covers the block,
whose scale depends on it. -/
def pieceOut (s : State) (c : PieceCtx) (o : Opnd) (row c0 : Nat) (es sc : List Nat) (bad : List Bool) : State :=
  let bits := elemBits o.fmt
  let blkBad := fun (j : Nat) => if isMx o.fmt then (bad.drop (j / 32 * 32)).take 32 |>.any id else bad.getD j false
  let bytes := (packElems bits es).zipIdx.map (fun e =>
    (e.1, (List.range (cdiv 8 bits)).any (fun i => blkBad (8 * e.2 / bits + i))))
  let va := (rowSpan o row c0 (c0 + es.length)).1
  if tdAcc c.t.desc then
    foldS (List.range (cdiv bytes.length 32)) s (fun u i =>
      let part := (bytes.drop (32 * i)).take 32
      pieceAccum u c o.hint (va + 32 * i) (part.length / (bits / 8)) part)
  else
    let s1 := pieceWrite s c o.hint va bytes
    pieceWrite s1 c o.hint (scaleSpan o row c0 (c0 + es.length)).1
      (sc.zipIdx.map (fun e => (BitVec.ofNat 8 e.1, blkBad (32 * e.2))))

/-- Run a piece on its bay: read the operands, compute, write d. -/
def runPiece (s : State) (c : PieceCtx) (bay : Nat) : State :=
  let (s1, a) := pieceOpnd s c 0
  let (s2, b) := pieceOpnd s1 c 1
  let (s3, cc) := pieceOpnd s2 c 2
  let x := c.stoch bay
  let k0 : Calc := ⟨0, s3.free⟩
  let (rows, k1) := if c.o.kind = 1 then runMatmul x c k0 a b cc
    else if c.o.kind = 2 then runAttn x c k0 a b cc
    else runVector x c k0 a b cc
  match opnd c.o.kind c.t.desc 3 with
  | none => s3
  | some o =>
    let (r0, _, c0, _) := opndPart c.o.kind o c.p
    let (s4, k2) := rows.zipIdx.foldl (fun (acc : State × Calc) r =>
      let (es, sc, k3) := encVals x acc.2 o.fmt c.o.sat (r.1.map Prod.fst)
      (pieceOut acc.1 c o (r0 + r.2) c0 es sc (r.1.map Prod.snd), k3)) (s3, k1)
    let bad := (a ++ b ++ cc).any OpRow.poisoned
    let s5 : State := { s4 with free := k2.k + 2 }
    let s6 := countEv s5 2 bay c.t.part (Config.choose k2.k)
    let s7 := countEv s6 3 bay c.t.part (Config.choose (k2.k + 1))
    updPiece (raiseArith s7 bay k2.st) (c.q / 4) (c.q % 4) c.id c.idx (fun p =>
      { p with ph := .placed bay true, bad := if p.bad ≠ 0 then p.bad else if bad then 6 else 0 })

/-- A request of the piece to another stack awaits its answer. -/
def State.pieceWaits (s : State) (q id idx : Nat) : Bool := s.ral.reqs.any (fun r => r.who = pieceWho q id idx)

/-- PIECE_END: a placed piece runs, once its operands are there, and ends when every write of it has been performed. -/
def finishPiece (s : State) (q id idx : Nat) (host : List HostLine) : State :=
  match s.tile q id with
  | none => s
  | some t =>
    match t.pieces[idx]?, s.operOf t.part (td t.desc 0 1) with
    | some p, some o =>
      match p.ph with
      | .placed bay ran =>
        if ¬ s.bayRuns bay then s
        else
          let c : PieceCtx := ⟨q, id, idx, t, o, p, host⟩
          let s1 := if ran then s else if s.piecePresent c then runPiece s c bay else s
          match (s1.tile q id).bind (fun t => t.pieces[idx]?) with
          | none => s1
          | some p1 =>
            if p1.ph = .placed bay true ∧ ¬ s1.pieceWaits q id idx then
              endPiece s1 q id idx p1.bad 0 (td t.desc 40 8)
            else s1
      | _ => s
    | _, _ => s

/-- PIECE_END. -/
def execPieceEnd (bay q tile idx : Nat) (host : List HostLine) (s : State) : Host.Outcome State Fault Refusal :=
  .next (whenLive s (fun s => if q < 4 then finishPiece s (4 * bay + q) tile idx host else s))

/-! ### Cells and bays lost (R174) -/

/-- Take back one piece that lost its bay: with out_accum it ends with status 5, else it is reissued from step 1; with no
hosting bay in service it ends with status 7. -/
def stopPiece (s : State) (q id idx : Nat) : State :=
  match s.tile q id with
  | none => s
  | some t =>
    if tdAcc t.desc then endPiece s q id idx 5 0 0
    else
      match s.operOf t.part (td t.desc 0 1) with
      | none => s
      | some o =>
        if (ones o.bays.toNat 32).any s.bayOn then
          updPiece s (q / 4) (q % 4) id idx (fun p => { p with ph := .unstarted, trans := [], far := [], kib := 0, bad := 0 })
        else endPiece s q id idx 7 0 0

/-- The pieces placed on a bay: queue, tile, index. -/
def State.piecesOn (s : State) (b : Nat) : List (Nat × Nat × Nat) :=
  s.cmp.opq.flatMap (fun e => e.2.flatMap (fun t =>
    t.pieces.zipIdx.filterMap (fun p => if p.1.onBay b then some (e.1, t.id, p.2) else none)))

/-- The pieces that use a cell of a bay, or every piece of the bay (`cell` none), stop. -/
def stopPieces (s : State) (b : Nat) (cell : Option Nat) : State :=
  foldS (s.piecesOn b) s (fun u e =>
    match (u.tile e.1 e.2.1).bind (fun t => u.operOf t.part (td t.desc 0 1)) with
    | none => u
    | some o =>
      match cell with
      | some i => if o.group.getLsbD (localOfCell i) then stopPiece u e.1 e.2.1 e.2.2 else u
      | none => stopPiece u e.1 e.2.1 e.2.2)

end Sys2Proof.Machine
end

