-- ==== Sys2Proof/Machine/BlendCheck.lean ====
section
/-! DEFINITION. The checks of a Blend image (R300 to R321), in the order of R320, each failure with its code and place.
Staging and loading are in Machine/BlendLoad.lean. -/

namespace Sys2Proof.Machine

open Sys2Proof

/-- A failed check: code, section index (0xFE table, 0xFF header), record index, image offset (R321). -/
structure BErr where
  code : Nat
  sec : Nat
  rec_ : Nat
  off : Nat
  deriving DecidableEq, Repr

/-- The result of a check. -/
abbrev Chk (α : Type) := Except BErr α

/-- Requirements in order: the first that does not hold is the error. -/
def reqs : List (Bool × BErr) → Chk Unit
  | [] => .ok ()
  | (ok, e) :: rest => if ok then reqs rest else .error e

/-- One requirement. -/
def must (ok : Bool) (e : BErr) : Bool × BErr := (ok, e)

/-- The canonical order of sections (R302). -/
def sectNames : List String := ["PART", "ROLE", "OPER", "CACH", "PLAC", "XLAT", "LINK", "SECU", "EXCL", "TEST", "SIGN"]

/-- The kind of a section by its four bytes: its place in the canonical order, 11 for none. -/
def sectKind (name : List Byte) : Nat := (sectNames.map ascii).findIdx (· = name)

/-- A section table entry: index, kind, place of the entry, offset, length and count. -/
structure SecEnt where
  ix : Nat
  kind : Nat
  entry : Nat
  off : Nat
  len : Nat
  cnt : Nat
  deriving DecidableEq, Repr

/-- A record: type, tag, length, offset in the image. -/
structure Rec where
  typ : Nat
  tag : Nat
  len : Nat
  off : Nat
  deriving DecidableEq, Repr

/-- Round up to a multiple of 16. -/
def up16 (n : Nat) : Nat := cdiv n 16 * 16

/-- The first nonzero byte of a range, if any. -/
def nonzeroAt (b : List Byte) (off len : Nat) : Option Nat :=
  ((List.range len).find? (fun i => b.getD (off + i) 0 ≠ 0)).map (· + off)

/-- Every byte of a range is zero. -/
def zeroB (b : List Byte) (off len : Nat) : Bool := (nonzeroAt b off len).isNone

/-! ### Header and table (R300 to R302) -/

/-- Steps 1 and 2: the header. -/
def headerChk (b : List Byte) (bad : Option Nat) (len variant : Nat) : Chk Unit :=
  let e := fun (code off : Nat) => (⟨code, 0xFF, 0, off⟩ : BErr)
  let tl := leAt b 8 4
  let v := leAt b 0x0E 1
  reqs [(64 ≤ len, e 0x05 8),
    ((match bad with | some o => 64 ≤ o | none => true), e 0x02 (bad.getD 0)),
    (b.take 4 = ascii "BLND", e 0x03 0), (leAt b 4 2 = 1, e 0x04 4), (leAt b 6 2 = 64, e 0x04 6),
    (tl % 16 = 0 && tl ≤ 2 ^ 24 && tl ≤ len, e 0x05 8),
    (nbit v variant, e 0x06 0x0E), (v / 8 = 0, e 0x07 0x0E), (zeroB b 0x0F 1, e 0x07 0x0F), (zeroB b 0x18 40, e 0x07 0x18)]

/-- The section table as the image holds it. -/
def tableOf (b : List Byte) : List SecEnt :=
  (List.range (leAt b 0x0C 2)).map (fun i =>
    let e := 0x40 + 16 * i
    ⟨i, sectKind (sliceB b e 4), e, leAt b (e + 4) 4, leAt b (e + 8) 4, leAt b (e + 12) 2⟩)

/-- Where entry i of the table has to start: after the previous section, rounded up (R302). -/
def expectOff (t : List SecEnt) (i : Nat) : Nat :=
  if i = 0 then 0x40 + 16 * t.length
  else match t[i - 1]? with | some p => up16 (p.off + p.len) | none => 0

/-- Step 3: the section table. `whole`: the padding too, which a stage does not read. -/
def tableChk (b : List Byte) (bad : Option Nat) (whole : Bool) : Chk (List SecEnt) :=
  let tl := leAt b 8 4
  let n := leAt b 0x0C 2
  let t := tableOf b
  let last := if whole then tl else 0x40 + 16 * n
  let sign := t.find? (fun s => s.kind = 10)
  let checks : List (Bool × BErr) :=
    [must (match bad with | some o => last ≤ o | none => true) ⟨0x02, 0xFE, 0, bad.getD 0⟩,
      must (4 ≤ n && n ≤ 11) ⟨0x08, 0xFF, 0, 0x0C⟩]
    ++ t.map (fun s => must (s.entry + 16 ≤ tl) ⟨0x0A, s.ix, 0, s.entry⟩)
    ++ t.map (fun s => must (s.kind < 11 && !((t.take s.ix).any (fun x => x.kind = s.kind))) ⟨0x09, s.ix, 0, s.entry⟩)
    ++ t.map (fun s => must ((t.take s.ix).all (fun x => x.kind < s.kind) && s.off = expectOff t s.ix && 4 ≤ s.len &&
        s.off + s.len ≤ tl) ⟨0x0A, s.ix, 0, s.entry⟩)
    ++ [must (match sign with | some s => tl = up16 (s.off + s.len) | none => true) ⟨0x05, 0xFF, 0, 0x08⟩]
    ++ [must ([0, 1, 7, 10].all (fun k => t.any (fun s => s.kind = k))) ⟨0x0B, 0xFE, 0, 0x40⟩]
    ++ (if whole then t.map (fun s =>
        let p := nonzeroAt b (s.off + s.len) (up16 (s.off + s.len) - (s.off + s.len))
        must p.isNone ⟨0x07, s.ix, 0, p.getD 0⟩) else [])
    ++ t.map (fun s => must (zeroB b (s.entry + 14) 2) ⟨0x07, s.ix, 0, s.entry + 14⟩)
  (reqs checks).map (fun _ => t)

/-! ### Framing (R303) -/

/-- Length of a record type in a section: 0 variable, none unknown. -/
def recLen (kind typ : Nat) : Option Nat :=
  let pick := fun (l : List Nat) => if typ = 0 then none else l[typ - 1]?
  match kind with
  | 0 => pick [64]
  | 1 => pick [196]
  | 2 => pick [0]
  | 3 => pick [16, 8, 24]
  | 4 => pick [32, 24]
  | 5 => pick [8, 16]
  | 6 => pick [8]
  | 7 => pick [36, 8]
  | 8 => pick [8, 8, 8, 8, 8, 8, 8, 8]
  | 9 => pick [24]
  | 10 => pick [7860]
  | _ => none

/-- The record type of which a section holds at most one. -/
def singleTyp (kind : Nat) : Option Nat :=
  if kind = 1 ∨ kind = 9 ∨ kind = 10 then some 1 else if kind = 3 then some 2 else if kind = 5 then some 1 else none

/-- The record's length is right for its type; an OPER record's length follows from its stages (R308). -/
def recLenOk (b : List Byte) (kind : Nat) (r : Rec) : Bool :=
  match recLen kind r.typ with
  | none => true
  | some 0 => 64 ≤ r.len && r.len = 64 + 8 * leAt b (r.off + 34) 2
  | some n => r.len = n

/-- Split a section into records. -/
def splitRecs (b : List Byte) (s : SecEnt) : Nat → Nat → List Rec → Chk (List Rec)
  | 0, _, acc => .ok acc
  | n + 1, p, acc =>
    let stop := s.off + s.len
    if stop ≤ p then .ok acc
    else
      let r : Rec := ⟨leAt b p 1, leAt b (p + 1) 1, leAt b (p + 2) 2, p⟩
      if stop < p + 4 ∨ r.len < 4 ∨ r.len % 4 ≠ 0 ∨ stop < p + r.len ∨ ¬ recLenOk b s.kind r then
        .error ⟨0x0C, s.ix, acc.length, p⟩
      else splitRecs b s n (p + r.len) (acc ++ [r])

/-- Step 4: the records of a section. -/
def recsOf (b : List Byte) (s : SecEnt) : Chk (List Rec) :=
  match splitRecs b s (s.len / 4 + 1) s.off [] with
  | .error e => .error e
  | .ok l =>
    let same := (l.zipIdx).filter (fun e => some e.1.typ = singleTyp s.kind)
    let second := same[1]?
    (reqs ([must (l.length = s.cnt) ⟨0x0C, s.ix, l.length, s.entry + 12⟩,
      must second.isNone ⟨0x0C, s.ix, (second.map Prod.snd).getD 0, (second.map (fun e => e.1.off)).getD 0⟩]
      ++ l.zipIdx.map (fun e => must (recLen s.kind e.1.typ).isSome ⟨0x0D, s.ix, e.2, e.1.off⟩))).map (fun _ => l)

/-! ### Section rules (step 7) -/

/-- What the rules have gathered so far. -/
structure BCfg where
  parts : SMap Part
  roles : BitVec 1536
  opers : List Oper
  cach : List (Nat × Bool × Nat)
  thrash : Option (Nat × Nat)
  pins : List (Nat × Nat × Nat)
  plac : List (Nat × List Byte)
  advice : List (Nat × Nat × Nat)
  priTimeout : Option Nat
  binds : List (Nat × Word)
  links : List (Nat × Nat × BitVec 8 × BitVec 2)
  secu : List (Nat × Bool × Nat)
  excl : List Word
  test : Option (Nat × Nat × Nat)
  deriving DecidableEq, Repr

/-- Nothing gathered. -/
def BCfg.empty : BCfg := ⟨[], 0, [], [], none, [], [], [], none, [], [], [], [], none⟩

/-- A record under check: image, section, record, index. -/
structure RecAt where
  b : List Byte
  s : SecEnt
  r : Rec
  k : Nat
  deriving DecidableEq, Repr

/-- A field of the record. -/
def RecAt.u (x : RecAt) (off size : Nat) : Nat := leAt x.b (x.r.off + off) size

/-- An error at a field of the record. -/
def RecAt.e (x : RecAt) (code off : Nat) : BErr := ⟨code, x.s.ix, x.k, x.r.off + off⟩

/-- Requirement on a field. -/
def RecAt.q (x : RecAt) (off code : Nat) (ok : Bool) : Bool × BErr := (ok, x.e code off)

/-- Reserved bytes are zero. -/
def RecAt.z (x : RecAt) (off size : Nat) : Bool × BErr := (zeroB x.b (x.r.off + off) size, x.e 0x07 off)

/-- Reserved bits of a byte are zero. -/
def RecAt.zb (x : RecAt) (off mask : Nat) : Bool × BErr := (x.u off 1 &&& mask = 0, x.e 0x07 off)

/-- The tag names a partition that PART defines (R306). -/
def RecAt.ptag (x : RecAt) (c : BCfg) : Bool × BErr := x.q 1 0x10 (x.r.tag < 16 && (smGet c.parts x.r.tag).isSome)

/-- Two ranges overlap. -/
def rangesMeet (a n b m : Nat) : Bool := n ≠ 0 && m ≠ 0 && a < b + m && b < a + n

/-- PART (R305, R306). -/
def partRule (top : Nat) (c : BCfg) (x : RecAt) : Chk BCfg :=
  let p : Part := ⟨BitVec.ofNat 32 (x.u 4 4), BitVec.ofNat 16 (x.u 8 2), x.u 10 2, x.u 12 2, nbit (x.u 14 1) 0,
    BitVec.ofNat 2 (x.u 15 1), BitVec.ofNat 32 (x.u 16 4), BitVec.ofNat 64 (x.u 24 8), BitVec.ofNat 64 (x.u 32 8),
    x.u 40 8, x.u 48 8⟩
  let all := c.parts.map Prod.snd
  (reqs [x.q 1 0x10 (x.r.tag < 16 && (smGet c.parts x.r.tag).isNone),
    x.q 4 0x11 (p.bays ≠ 0 && all.all (fun o => o.bays &&& p.bays = 0)),
    x.q 8 0x11 (all.all (fun o => o.ways &&& p.ways = 0)),
    x.q 10 0x13 (all.foldl (fun a o => a + o.rate) p.rate ≤ 1024),
    x.q 12 0x13 (p.depth ≤ 4095 && (p.rate = 0 || p.depth ≠ 0)),
    x.zb 14 0xFE, x.zb 15 0xFC,
    x.q 16 0x11 (all.all (fun o => o.vf &&& p.vf = 0)),
    x.z 20 4,
    x.q 24 0x11 (all.all (fun o => o.counters &&& p.counters = 0)),
    x.q 32 0x11 (p.trellis &&& ~~~ p.counters = 0),
    x.q 40 0x12 (p.base % 65536 = 0),
    x.q 40 0x11 (all.all (fun o => !rangesMeet o.base o.len p.base p.len)),
    x.q 48 0x12 (p.len % 65536 = 0 && p.base + p.len ≤ top),
    x.z 56 8]).map (fun _ => { c with parts := smSet c.parts x.r.tag p })

/-- Weight of a role (R78). -/
def roleWeight (r : Nat) : Nat := if r = 1 then 32 else if r = 2 then 20 else if r = 3 then 11 else 1

/-- ROLE (R307, R61, R78). -/
def roleRule (enabled : Bool) (c : BCfg) (x : RecAt) : Chk BCfg :=
  let v := leNat (sliceB x.b (x.r.off + 4) 192)
  let w := (List.range 768).foldl (fun a i => a + roleWeight (nbits v (2 * i) 2)) 0
  (reqs [x.q 0 0x14 (!enabled), x.q 1 0x07 (x.r.tag = 0), x.q 4 0x14 (w ≤ 20940)]).map
    (fun _ => { c with roles := BitVec.ofNat 1536 v })

/-- Two local cells of a bay are logically adjacent (R59). -/
def adjacent (i j : Nat) : Bool :=
  let near := fun (a b : Nat) => a = b + 1 || b = a + 1
  (i / 6 = j / 6 && near (i % 6) (j % 6)) || (i % 6 = j % 6 && near (i / 6) (j / 6))

/-- The group holds the cells of its kind and its vector cells touch matrix cells, in one bay (R157, R309). -/
def groupOk (roles : BitVec 1536) (group kind stages b : Nat) : Bool :=
  let role := fun (i : Nat) => nbits roles.toNat (2 * cellOf b i) 2
  let cells := ones group 24
  let mat := cells.filter (fun i => role i = 1)
  let vec := cells.filter (fun i => role i = 2)
  (if kind = 1 then 1 ≤ mat.length && (stages = 0 || 1 ≤ vec.length)
    else if kind = 2 then 2 ≤ mat.length && 1 ≤ vec.length else 1 ≤ vec.length)
  && (mat = [] || vec.all (fun v => mat.any (adjacent v)))

/-- The chain lists the matrix cells of the group once each, neighbours in turn (R309). -/
def chainOk (roles : BitVec 1536) (group : Nat) (chain : List Nat) (b : Nat) : Bool :=
  let mat := (ones group 24).filter (fun i => nbits roles.toNat (2 * cellOf b i) 2 = 1)
  chain.length = mat.length && mat.all chain.contains && (chain.zip (chain.drop 1)).all (fun e => adjacent e.1 e.2)

/-- The formats that the slot of an operator of a kind accepts by R162: the pair where both are named. -/
def fmtPairOk (kind a b : Nat) : Bool :=
  let all := (List.range 0x24)
  let ok := fun (x y : Nat) =>
    if kind = 1 then pairOk x y
    else if kind = 2 then pairOk x y && !intPair x y && !isCb y
    else x ≤ 2 && y ≤ 2
  (if a = 0xFF then all else [a]).any (fun x => (if b = 0xFF then all else [b]).any (fun y => ok x y))

/-- A stage word (R310). -/
def stageChk (x : RecAt) (j : Nat) : List (Bool × BErr) :=
  let o := 64 + 8 * j
  let w := x.u o 8
  let op := nbits w 0 8
  let imm := sext (nbits w 32 32) 32
  [x.q o 0x19 (1 ≤ op && op ≤ 0x12 && nbits w 8 2 ≠ 3), x.q (o + 2) 0x07 (nbits w 22 10 = 0),
    x.q (o + 4) 0x19 (op ≠ 8 || (-254 ≤ imm && imm ≤ 254))]

/-- OPER (R308 to R310). -/
def operRule (c : BCfg) (x : RecAt) : Chk BCfg :=
  let op := x.u 4 1
  let kind := x.u 5 1
  let gn := x.u 8 2
  let h := x.u 10 1
  let raw := (List.range 24).map (fun i => x.u (36 + i) 1)
  let g := raw.findIdx (· = 0xFF)
  let chain := raw.take g
  let scale := fpDec fp32 (x.u 12 4)
  let bays := x.u 20 4
  let group := x.u 24 3
  let split := [x.u 28 1, x.u 29 1, x.u 30 1]
  let stages := x.u 34 2
  let part := (smGet c.parts x.r.tag).elim 0 (fun p => p.bays.toNat)
  let hosts := ones bays 32
  let o : Oper := ⟨x.r.tag, op, kind, x.u 6 2, gn, h, nbit (x.u 11 1) 0, nbit (x.u 11 1) 1, nbit (x.u 11 1) 2,
    BitVec.ofNat 32 (x.u 12 4), BitVec.ofNat 32 (x.u 16 4), BitVec.ofNat 32 bays, BitVec.ofNat 24 group, split,
    x.u 32 1, x.u 33 1, chain, (List.range stages).map (fun j => BitVec.ofNat 64 (x.u (64 + 8 * j) 8))⟩
  (reqs ([x.ptag c,
    x.q 4 0x16 (op < 64 && !c.opers.any (fun y => y.part = x.r.tag && y.op = op)),
    x.q 5 0x16 (1 ≤ kind && kind ≤ 4),
    x.q 6 0x1A (x.u 6 2 ≠ 0),
    x.q 8 0x1A (if kind = 1 then gn ≠ 0 && (g = 0 || gn % (32 * g) = 0) else if kind = 2 then gn ≠ 0 else gn = 0),
    x.q 10 0x1A (if kind = 2 then 1 ≤ h && h ≤ 32 else h = 0),
    x.zb 11 0xF8,
    x.q 12 0x1A (if kind = 3 then !scale.isNan && (!scale.neg || !scale.nonzero) else kind = 2 || x.u 12 4 = 0),
    x.q 20 0x16 (bays &&& part = bays),
    x.q 24 0x17 (hosts.all (groupOk c.roles group kind stages)),
    x.zb 27 0xFF,
    x.q 28 0x18 (split.foldl (· + ·) 0 ≤ 16 && split.getD 2 0 ≤ 8 && (g ≠ 0 || split.all (· = 0))),
    x.z 31 1,
    x.q 32 0x24 (o.fmtA = 0xFF || fmtPairOk kind o.fmtA 0xFF),
    x.q 33 0x24 (o.fmtB = 0xFF || fmtPairOk kind o.fmtA o.fmtB),
    x.q 34 0x19 (stages ≤ 256 && (kind ≠ 2 || stages = 0)),
    x.q 36 0x17 (chain.all (· < 24) && (raw.drop g).all (· = 0xFF) && hosts.all (chainOk c.roles group chain)),
    x.z 60 4] ++ (List.range stages).flatMap (stageChk x))).map (fun _ => { c with opers := c.opers ++ [o] })

/-- The HBM data window (R50). -/
def hbmWindow : Nat := 2 ^ 38

/-- CACH (R311, R204, R217). -/
def cachRule (c : BCfg) (x : RecAt) : Chk BCfg :=
  if x.r.typ = 2 then
    (reqs [x.q 1 0x07 (x.r.tag = 0), x.zb 6 0xFE, x.z 7 1]).map (fun _ => { c with thrash := some (x.u 4 2, x.u 6 1 % 2) })
  else if x.r.typ = 1 then
    let ways := (smGet c.parts x.r.tag).elim 0 (fun p => popc p.ways.toNat 16)
    (reqs [x.q 0 0x10 (!c.cach.any (fun e => e.1 = x.r.tag)), x.ptag c, x.zb 4 0xFE, x.z 5 3,
      x.q 8 0x1B (x.u 8 4 ≤ 3 * ways / 4 * 32768), x.z 12 4]).map
      (fun _ => { c with cach := c.cach ++ [(x.r.tag, nbit (x.u 4 1) 0, x.u 8 4)] })
  else
    let base := x.u 8 8
    let len := x.u 16 8
    let inShare := match smGet c.parts x.r.tag with
      | some p => decide (p.base ≤ base ∧ base + len ≤ p.base + p.len)
      | none => false
    (reqs [x.q 0 0x1C (c.pins.length < 256), x.ptag c, x.z 4 4, x.q 8 0x1C (base % 128 = 0),
      x.q 16 0x1C (len % 128 = 0 && len ≠ 0 && base + len ≤ hbmWindow && inShare)]).map
      (fun _ => { c with pins := c.pins ++ [(x.r.tag, base, len)] })

/-- PLAC (R312). -/
def placRule (c : BCfg) (x : RecAt) : Chk BCfg :=
  if x.r.typ = 2 then
    let base := x.u 8 8
    let len := x.u 16 8
    (reqs [x.q 0 0x1C (c.advice.length < 1024), x.zb 1 0xF8, x.z 4 4, x.q 8 0x1C (base % 65536 = 0),
      x.q 16 0x1C (len % 65536 = 0 && len ≠ 0 && base + len ≤ hbmWindow)]).map
      (fun _ => { c with advice := (base / 65536, len / 65536, x.r.tag % 8) :: c.advice })
  else
    (reqs [x.q 0 0x10 (!c.plac.any (fun e => e.1 = x.r.tag)), x.ptag c,
      x.q 11 0x1D (1 ≤ x.u 11 1 && x.u 11 1 ≤ 7), x.zb 13 0xFE, x.q 16 0x1D (x.u 16 2 ≤ 4096), x.z 18 2,
      x.q 20 0x1D (x.u 20 4 < 2 ^ 22), x.z 24 8]).map
      (fun _ => { c with plac := c.plac ++ [(x.r.tag, sliceB x.b x.r.off 32)] })

/-- XLAT (R313). -/
def xlatRule (owner : Option Nat) (c : BCfg) (x : RecAt) : Chk BCfg :=
  if x.r.typ = 1 then
    (reqs [x.q 1 0x07 (x.r.tag = 0), x.z 6 2]).map (fun _ => { c with priTimeout := some (x.u 4 2) })
  else
    let ctx := x.u 4 1
    let fn := x.u 5 1
    let port := x.u 6 1 % 2
    let m := 64 * x.r.tag + ctx
    let mapped := match smGet c.parts x.r.tag with
      | none => false
      | some p => if fn = 0 then decide (some port = owner) || nbit p.pf.toNat port else nbit p.vf.toNat (16 * port + fn - 1)
    let w := fXltCtxBindPasid.put (fXltCtxBindValid.put (fXltCtxBindPriv.put (fXltCtxBindPort.put
      (fXltCtxBindFunction.put (fXltCtxBindBindState.put 0 1) fn) port) (x.u 6 1 / 2 % 2)) 1) (x.u 8 4)
    (reqs [x.ptag c, x.q 4 0x1E (ctx < 64 && !c.binds.any (fun e => e.1 = m)), x.q 5 0x1E (fn ≤ 16 && mapped),
      x.zb 6 0xFC, x.z 7 1, x.q 8 0x1E (x.u 8 4 < 2 ^ 20), x.z 12 4]).map (fun _ => { c with binds := c.binds ++ [(m, w)] })

/-- LINK (R314). -/
def linkRule (c : BCfg) (x : RecAt) : Chk BCfg :=
  let t := x.r.tag
  let role := x.u 4 1
  (reqs [x.q 1 0x1F (t < 8 && !c.links.any (fun e => e.1 = t)),
    x.q 4 0x1F (role = 0 || (role = 1 && t < 2) || (role = 2 && 2 ≤ t && t < 6) || (role = 3 && 6 ≤ t)),
    x.q 5 0x1F (role = 0 || x.u 5 1 ≠ 0), x.zb 6 0xFC, x.z 7 1]).map
    (fun _ => { c with links := c.links ++ [(t, role, BitVec.ofNat 8 (x.u 5 1), BitVec.ofNat 2 (x.u 6 1))] })

/-- SECU (R315); the key record is checked in step 5. -/
def secuRule (c : BCfg) (x : RecAt) : Chk BCfg :=
  if x.r.typ = 1 then (reqs [x.q 1 0x07 (x.r.tag = 0)]).map (fun _ => c)
  else
    (reqs [x.q 0 0x10 (!c.secu.any (fun e => e.1 = x.r.tag)), x.ptag c, x.zb 4 0xFE, x.z 5 1,
      x.q 6 0x20 (x.u 6 2 ≤ 1024)]).map
      (fun _ => { c with secu := c.secu ++ [(x.r.tag, nbit (x.u 4 1) 0, x.u 6 2)] })

/-- EXCL (R316): the tag and bytes 4 to 7 of each unit type. -/
def exclChks (x : RecAt) : List (Bool × BErr) :=
  let t := x.r.tag
  let w := x.u 4 2
  match x.r.typ with
  | 1 => [x.q 1 0x21 (t < 32), x.q 4 0x21 (x.u 4 1 ≤ 24), x.z 5 3]
  | 2 => [x.q 1 0x21 (t < 32), x.z 4 4]
  | 3 => [x.q 1 0x21 (t = 0), x.q 4 0x21 (w ≤ 191), x.z 6 2]
  | 4 => [x.q 1 0x21 (t = 0), x.q 4 0x21 (x.u 4 1 ≤ 191), x.z 5 3]
  | 5 => [x.q 1 0x21 (1 ≤ t && t ≤ 5), x.q 4 0x21 (w ≤ 32255 && !(t = 5 && 16896 ≤ w && w ≤ 29567)),
      x.q 6 0x21 (x.u 6 1 ≤ 33 || x.u 6 1 = 0xFF), x.z 7 1]
  | 6 => [x.q 1 0x21 (1 ≤ t && t ≤ 5), x.q 4 0x21 (w ≤ 1023), x.z 6 2]
  | 7 => [x.q 1 0x21 (t < 8), x.q 4 0x21 (x.u 4 1 ≤ 7), x.z 5 3]
  | _ => [x.q 1 0x21 (t < 8), x.z 4 4]

/-- EXCL: at most 4,096 records and no unit twice. -/
def exclRule (c : BCfg) (x : RecAt) : Chk BCfg :=
  let w := BitVec.ofNat 64 (x.u 0 8)
  (reqs ([x.q 0 0x21 (x.k < 4096)] ++ exclChks x ++ [x.q 0 0x21 (!c.excl.contains w)])).map
    (fun _ => { c with excl := c.excl ++ [w] })

/-- TEST (R317). -/
def testRule (top : Nat) (c : BCfg) (x : RecAt) : Chk BCfg :=
  let save := x.u 16 8
  (reqs [x.q 1 0x07 (x.r.tag = 0), x.zb 4 0xF8, x.z 5 3, x.q 8 0x23 (4000 ≤ x.u 8 4), x.z 12 4,
    x.q 16 0x23 (save % 2 ^ 21 = 0 && save + 2 ^ 21 ≤ top &&
      c.parts.all (fun e => !rangesMeet e.2.base e.2.len save (2 ^ 21)))]).map
    (fun _ => { c with test := some (x.u 4 1, x.u 8 4, save) })

/-- The rule of a section. -/
def sectRule (s : State) (kind : Nat) (c : BCfg) (x : RecAt) : Chk BCfg :=
  match kind with
  | 0 => partRule s.backedTop c x
  | 1 => roleRule (s.stepDone 10) c x
  | 2 => operRule c x
  | 3 => cachRule c x
  | 4 => placRule c x
  | 5 => xlatRule s.pci.owner c x
  | 6 => linkRule c x
  | 7 => secuRule c x
  | 8 => exclRule c x
  | 9 => testRule s.backedTop c x
  | _ => .ok c

/-- Step 7 on one section. -/
def sectChk (s : State) (b : List Byte) (c : BCfg) (e : SecEnt) : Chk BCfg :=
  match recsOf b e with
  | .error x => .error x
  | .ok l => l.zipIdx.foldlM (fun c r => sectRule s e.kind c ⟨b, e, r.1, r.2⟩) c

/-! ### The whole image -/

/-- Step 4 over every section. -/
def framesChk (b : List Byte) (t : List SecEnt) : Chk Unit :=
  t.foldlM (fun _ e => (recsOf b e).map (fun _ => ())) ()

/-- The records of a section of a kind; none where it is absent. -/
def recsIn (b : List Byte) (t : List SecEnt) (kind : Nat) : List Rec :=
  match t.find? (fun e => e.kind = kind) with
  | none => []
  | some e => match recsOf b e with | .ok l => l | .error _ => []

/-- Step 5: exactly one key record; its digest is the expected one where one is set. -/
def keyChk (s : State) (b : List Byte) (t : List SecEnt) : Chk (List Byte) :=
  let e := (t.find? (fun e => e.kind = 7)).getD ⟨0, 7, 0, 0, 0, 0⟩
  let keys := (recsIn b t 7).zipIdx.filter (fun r => r.1.typ = 1)
  let want := (List.range 4).foldl (fun a k => a + (s.reg (rBldKeydig k)).toNat * 2 ^ (64 * k)) 0
  match keys with
  | [(r, k)] =>
    let key := sliceB b (r.off + 4) 32
    if want = 0 ∨ (digest key).toNat = want then .ok key else .error ⟨0x0E, e.ix, k, r.off + 4⟩
  | _ :: (r, k) :: _ => .error ⟨0x20, e.ix, k, r.off⟩
  | [] => .error ⟨0x20, e.ix, 0, e.entry⟩

/-- Step 6: the signature. -/
def sigChk (b : List Byte) (t : List SecEnt) (ok : Bool) : Chk Unit :=
  match t.find? (fun e => e.kind = 10), recsIn b t 10 with
  | some e, r :: _ => reqs [(r.tag = 0, ⟨0x07, e.ix, 0, r.off + 1⟩), (ok, ⟨0x0F, e.ix, 0, r.off + 4⟩)]
  | _, _ => .ok ()

/-- The digest of a section's length bytes. -/
def sectDigest (b : List Byte) (e : SecEnt) : BitVec 256 := digest (sliceB b e.off e.len)

/-- Step 8: the EXCL section is the staged one (R298). -/
def exclChk (s : State) (b : List Byte) (t : List SecEnt) : Chk Unit :=
  let staged := (s.bup.staged.getD none)
  match t.find? (fun e => e.kind = 8) with
  | some e => reqs [(staged = some (sectDigest b e), ⟨0x22, e.ix, 0, e.entry⟩)]
  | none => reqs [(staged = none, ⟨0x22, 0xFE, 0, 0x40⟩)]

/-- Steps 1 to 8 of R320: the settings of the image, the key and the table. -/
def imageChk (s : State) (img : Image) (sigOk : Bool) : Chk (BCfg × List Byte × List SecEnt) := do
  let b := img.bytes
  headerChk b img.bad (s.fld rBldLen fBldLenLen) s.bup.variant
  let t ← tableChk b img.bad true
  framesChk b t
  let key ← keyChk s b t
  sigChk b t sigOk
  let c ← t.foldlM (fun c e => sectChk s b c e) BCfg.empty
  exclChk s b t
  return (c, key, t)

/-- The checks of a stage (R296): the header, the table and EXCL; the units and the digest of EXCL, if any. -/
def stageImg (s : State) (img : Image) : Chk (List Word × Option (BitVec 256)) := do
  let b := img.bytes
  headerChk b img.bad (s.fld rBldLen fBldLenLen) s.bup.variant
  let t ← tableChk b img.bad false
  match t.find? (fun e => e.kind = 8) with
  | none => return ([], none)
  | some e =>
    let _ ← reqs [((match img.bad with | some o => decide (o < e.off ∨ e.off + e.len ≤ o) | none => true),
      ⟨0x02, e.ix, 0, img.bad.getD 0⟩)]
    let c ← sectChk s b BCfg.empty e
    return (c.excl, some (sectDigest b e))

end Sys2Proof.Machine
end

