-- ==== Sys2Proof/Machine/BupCore.lean ====
section
/-! DEFINITION. The end of a bring-up step (R513) and the step registers. -/

namespace Sys2Proof.Machine

open Sys2Proof

/-- Write the status word of a step. -/
def stepStatus (s : State) (k outcome cause count : Nat) : State :=
  let w := fBupStatusCount.put (fBupStatusCause.put (fBupStatusOutcome.put 0 outcome) cause) (Nat.min count 4095)
  s.setReg (rBupStatus k) w

/-- A running step ends: cause 0 done, else an error (R513). -/
def stepEnd (s : State) (k cause : Nat) : State :=
  let s0 : State := { s with bup := { s.bup with step := none, bad := [], excluded := 0, count := 0, waitStage := false } }
  let s1 := s0.setFld rBupStep fBupStepBusy 0
  if cause ≠ 0 then
    let s2 := (stepStatus s1 k 4 cause s.bup.count).setFld rBupStep fBupStepResult 3
    let fatal := [3, 4, 5, 6, 7].contains k
    let s3 : State := { s2 with bup := { s2.bup with dead := s2.bup.dead || fatal, failed := s2.bup.failed || fatal } }
    raise s3 rBupEvent fBupEventStepError
  else
    let s2 := stepStatus s1 k (if s.bup.excluded ≠ 0 then 3 else 2) 0 s.bup.count
    let s3 := s2.setFld rBupDone (fBupDoneDone.bit (k - 1)) 1
    raise s3 rBupEvent fBupEventStepDone

end Sys2Proof.Machine
end

