-- ==== Sys2Proof/Machine/Hbm.lean ====
section
/-! DEFINITION. Commands of the HBM tier: the requests of a channel, refresh, recalibration, parity retries, failures and
regulators (R231 to R246). -/

namespace Sys2Proof.Machine

open Sys2Proof

/-- The HBM devices are served: on, not in self-refresh, not in a full freeze. -/
def State.hbmLive (s : State) : Bool := s.on && s.pwr.state ≤ 1 && s.freeze ≠ 2

/-- The pseudo-channel that stores a line holds its requests during a recalibration (R240), and those to a unit under
in-service test wait (R530). -/
def State.chanHeld (s : State) (a : Nat) : Bool :=
  (s.chan (s.placeOf a).1).recal.getLsbD (pcOf a) || s.blockUnderTest a

/-- The request is next for its block (R233): no earlier request to the block waits. -/
def State.nextFor (s : State) (q : ChanReq) : Bool :=
  match s.cel.hbmq.find? (fun x => blockAddr x.addr = blockAddr q.addr) with
  | none => true
  | some x => x = q

/-- Serve a request at its channel: the waiting one where it is recorded, in the order of its block. -/
def channelServe (s : State) (q : ChanReq) (errs : List SymErr) : State :=
  if ¬ s.live ∨ ¬ s.backed q.addr ∨ s.chanHeld q.addr then s
  else if s.cel.hbmq.contains q then
    if s.nextFor q then serveChan { s with cel := { s.cel with hbmq := s.cel.hbmq.erase q } } q errs else s
  else serveChan s q errs

/-- HBM_FILL: the line is read and, when a fill of it is outstanding, on its way to the slice (R231). -/
def hbmFillX (addr : Nat) (errs : List SymErr) (s : State) : State :=
  let a := lineAddr addr
  if ¬ s.live ∨ ¬ s.backed a ∨ s.chanHeld a ∨ s.cel.hbmq.any (fun x => blockAddr x.addr = blockAddr a) then s
  else
    let (s1, r) := readLine s a errs
    let wanted : Bool := match (s1.server a).bind (fun n => s1.findLine n a) with
      | some (_, _, l) => l.st = .filling
      | none => false
    if wanted ∧ ¬ s1.cel.fillq.any (fun f => f.addr = a) then
      { s1 with cel := { s1.cel with fillq := s1.cel.fillq ++ [⟨a, r.valid, r.data, r.poison⟩] } }
    else s1

def execHbmFill (addr : Nat) (errs : List SymErr) (s : State) : Host.Outcome State Fault Refusal :=
  .next (hbmFillX addr errs s)

/-- HBM_WRITE_BACK. -/
def execHbmWriteBack (addr : Nat) (data : Line) (poison : BitVec 4) (errs : List SymErr) (s : State) :
    Host.Outcome State Fault Refusal :=
  .next (channelServe s (.writeBack (lineAddr addr) data poison) errs)

/-- HBM_KILL. -/
def execHbmKill (addr : Nat) (errs : List SymErr) (s : State) : Host.Outcome State Fault Refusal :=
  .next (channelServe s (.kill (lineAddr addr)) errs)

/-- HBM_SIDECAR_UPDATE: the entry of the block is rewritten in the sidecar cache (R225, R228). -/
def execHbmSidecarUpdate (addr : Nat) (s : State) : Host.Outcome State Fault Refusal :=
  .next (channelServe s (.sidecar (lineAddr addr)) [])

/-- The waiting uncached request of a requester at an address with the operation given, or that request itself. -/
def uncachedOf (s : State) (r : SReq) (op : SliceOp) : ChanReq :=
  match s.cel.hbmq.find? (fun q => match q with
    | .uncached h => h.who = r.who && h.addr = r.addr && h.op.writes = op.writes && h.op.flag = op.flag
    | _ => false) with
  | some q => q
  | none => .uncached ⟨r.who, r.addr, r.hint, op⟩

/-- An uncached access that the seal rules turn away is an address error (R422). -/
def uncachedServe (s : State) (r : SReq) (op : SliceOp) (errs : List SymErr) : State :=
  if ¬ s.live then s
  else if ¬ s.backed r.addr ∨ ¬ s.permits r.who op.writes r.addr then
    answerFail (addrError s (whoCode r.who) op.writes r.addr) ⟨r.who, r.addr, r.hint, op⟩ 1
  else channelServe s (uncachedOf s r op) errs

/-- HBM_UNCACHED_READ: a read, or the read of a WAIT on a word that is not cached. -/
def hbmUncachedReadX (r : SReq) (errs : List SymErr) (s : State) : State :=
  match s.cel.hbmq.find? (fun q => match q with
    | .uncached h => h.who = r.who && h.addr = r.addr && (match h.op with | .flagWait _ _ => true | _ => false)
    | _ => false) with
  | some (.uncached h) => uncachedServe s r h.op errs
  | _ => uncachedServe s r (.read r.hint) errs

def execHbmUncachedRead (r : SReq) (errs : List SymErr) (s : State) : Host.Outcome State Fault Refusal :=
  .next (hbmUncachedReadX r errs s)

/-- The operation of an uncached write. -/
def uwriteOp : UWrite → SliceOp
  | .plain be d p => .write be d p
  | .accum op mask d p => .accum op mask d p
  | .flagSet v => .flagSet v
  | .flagAdd v => .flagAdd v

/-- HBM_UNCACHED_WRITE. -/
def execHbmUncachedWrite (r : SReq) (u : UWrite) (errs : List SymErr) (s : State) : Host.Outcome State Fault Refusal :=
  .next (uncachedServe s r (uwriteOp u) errs)

/-- HBM_REFRESH: a per-bank refresh of a channel in service. -/
def refreshX (ch : Nat) (s : State) : State :=
  if s.hbmLive ∧ ch < 192 ∧ s.chanSt ch = 0 then
    s.setChan ch { s.chan ch with refreshes := (s.chan ch).refreshes + 1 }
  else s

def execHbmRefresh (ch _pc _bank : Nat) (s : State) : Host.Outcome State Fault Refusal := .next (refreshX ch s)

/-- Temperature of a channel's device, °C. -/
def State.chanTemp (s : State) (ch : Nat) : Nat := s.fld (rHbmStkStat (ch / 32)) fHbmStkStatTemp

/-- HBM_RECALIBRATE (R240): a change of 8 °C since the last calibration, or 4,000 rounds. -/
def recalX (ch pc : Nat) (s : State) : State :=
  let c := s.chan ch
  let t := s.chanTemp ch
  let last := smGetD c.calTemp pc 0
  let far := 8 ≤ t - last ∨ 8 ≤ last - t
  if s.hbmLive ∧ ch < 192 ∧ s.chanSt ch = 0 ∧ (far ∨ 4000 ≤ smGetD c.calRounds pc 0) then
    s.setChan ch { c with recal := c.recal ||| BitVec.ofNat 2 (2 ^ (pc % 2)) }
  else s

def execHbmRecalibrate (ch pc : Nat) (s : State) : Host.Outcome State Fault Refusal := .next (recalX ch pc s)

/-- A pseudo-channel is calibrated at the device's temperature. -/
def calibrated (s : State) (ch pc : Nat) : State :=
  let c := s.chan ch
  s.setChan ch { c with
    recal := c.recal &&& ~~~ BitVec.ofNat 2 (2 ^ (pc % 2))
    calTemp := smSet c.calTemp (pc % 2) (s.chanTemp ch)
    calRounds := smSet c.calRounds (pc % 2) 0 }

/-- HBM_RECAL_DONE: the held requests resume, or the channel fails with cause 7 (R243). -/
def recalDoneX (ch pc : Nat) (ok : Bool) (s : State) : State :=
  if (s.chan ch).recal.getLsbD (pc % 2) then
    let s1 := calibrated s ch pc
    if ok then s1 else chanFail (raise s1 (rHbmStkEvent (ch / 32)) fHbmStkEventRecalFail) ch 7
  else s

def execHbmRecalDone (ch pc : Nat) (ok : Bool) (s : State) : Host.Outcome State Fault Refusal :=
  .next (recalDoneX ch pc ok s)

/-- HBM_PARITY_ERROR: the first attempt failed and a retry is scheduled (R241). -/
def parityX (ch : Nat) (s : State) : State :=
  if s.hbmLive ∧ ch < 192 ∧ s.chanSt ch = 0 ∧ (s.chan ch).attempt = 0 then
    s.setChan ch { s.chan ch with attempt := 1 }
  else s

def execHbmParityError (ch : Nat) (s : State) : Host.Outcome State Fault Refusal := .next (parityX ch s)

/-- HBM_PARITY_RETRY: one retry, the third after a recalibration; the failure of the fourth attempt fails the channel
with cause 5 (R241, R243). -/
def parityRetryX (ch : Nat) (ok : Bool) (s : State) : State :=
  let k := (s.chan ch).attempt
  if k = 0 then s
  else
    let s1 := s.addSat (rHbmChCnt ch) fHbmChCntRetry 1
    let s2 := if k = 3 then calibrated (calibrated s1 ch 0) ch 1 else s1
    if ok then s2.setChan ch { s2.chan ch with attempt := 0 }
    else if 3 ≤ k then chanFail (s2.setChan ch { s2.chan ch with attempt := 0 }) ch 5
    else s2.setChan ch { s2.chan ch with attempt := k + 1 }

def execHbmParityRetry (ch : Nat) (ok : Bool) (s : State) : Host.Outcome State Fault Refusal :=
  .next (parityRetryX ch ok s)

/-- HBM_UE_RATE_FAIL (R243). -/
def execHbmUeRateFail (ch : Nat) (s : State) : Host.Outcome State Fault Refusal :=
  .next (if 64 ≤ (s.chan ch).ueRound then chanFail s ch 6 else s)

/-- HBM_POWER_DOWN (R222): a pseudo-channel without a waiting request. -/
def powerDownX (ch pc : Nat) (s : State) : State :=
  if s.hbmLive ∧ ch < 192 ∧
      ¬ s.cel.hbmq.any (fun q => (s.placeOf q.addr).1 = ch && pcOf q.addr = pc % 2) then
    s.setChan ch { s.chan ch with pdown := (s.chan ch).pdown ||| BitVec.ofNat 2 (2 ^ (pc % 2)) }
  else s

def execHbmPowerDown (ch pc : Nat) (s : State) : Host.Outcome State Fault Refusal := .next (powerDownX ch pc s)

/-- HBM_REG_CTRL.apply (R237): the pending values of every partition become current, or are refused. -/
def regApply (s : State) : State :=
  let ps := List.range 16
  let rate := fun p => s.fld (rHbmReg p) fHbmRegRate
  let depth := fun p => s.fld (rHbmReg p) fHbmRegDepth
  if 1024 < ps.foldl (fun a p => a + rate p) 0 then s.setFld rHbmRegCtrl fHbmRegCtrlResult 2
  else if ps.any (fun p => depth p = 0 ∧ rate p ≠ 0) then s.setFld rHbmRegCtrl fHbmRegCtrlResult 3
  else
    let regs := ps.foldl (fun m p =>
      smPut m p (rate p, depth p, decide (s.fld (rHbmReg p) fHbmRegHard = 1)) (0, 0, false)) []
    ({ s with hbm := { s.hbm with regs := regs } } : State).setFld rHbmRegCtrl fHbmRegCtrlResult 1

/-- HBM_REG_APPLY. -/
def execHbmRegApply (f : Fn) (s : State) : Host.Outcome State Fault Refusal :=
  .next (whenReached s f rHbmRegCtrl regApply)

end Sys2Proof.Machine
end

