-- ==== Sys2Proof/Machine/Placement.lean ====
section
/-! DEFINITION. The placement engine (R247 to R262, R269): the end of a round, racking, replicas, the directory, and
queries. -/

namespace Sys2Proof.Machine

open Sys2Proof

/-! ### Replicas (R258 to R262) -/

/-- Kill the 512 lines of a pool slot. -/
def killRegion (s : State) (slot : Nat) : State :=
  foldS (List.range 512) s (fun u i => sliceReq u ⟨.placement, slot * 65536 + 128 * i, 0, .kill⟩ [])

/-- The reads under way in a local region reach their requesters. -/
def drainRegion (s : State) (slot : Nat) : State :=
  let mine := fun (h : Held) => h.addr / 65536 = slot
  let now := s.cel.xbar.filter (fun h => mine h)
  let s1 := foldS now { s with cel := { s.cel with xbar := s.cel.xbar.filter (fun h => !decide (mine h)) } }
    (fun u h => sliceReq u h [])
  foldS (List.range 512) s1 (fun u i => settle u (slot * 65536 + 128 * i))

/-- Drop the replicas that satisfy a test (R261, R262): reads already served from them return, and the lines of their
slots are killed. A copy in progress is abandoned with its reads. -/
def dropReplicas (s : State) (t : Replica → Bool) : State :=
  let gone := s.plc.replicas.filter t
  let s1 := foldS gone s (fun u r => if r.valid then drainRegion u r.slot else u)
  let copying := fun (q : RalReq) => q.who = .placement && q.msg.typ = 1 && gone.any (fun r => r.home = q.msg.addr / 65536)
  let s2 : State := { s1 with
    plc := { s1.plc with replicas := s1.plc.replicas.filter (fun r => !t r) }
    ral := { s1.ral with reqs := s1.ral.reqs.filter (fun q => !copying q) } }
  foldS gone s2 (fun u r => if r.granted then killRegion u r.slot else u)

/-- A sharer of a region has acknowledged or is cleared (R261, R262): once none is awaited, the entry is removed and the
requests held are applied. -/
def clearSharer (s : State) (region k : Nat) : State :=
  match s.sharersOf region with
  | none => s
  | some d =>
    let off := ~~~ (BitVec.ofNat 16 (2 ^ k))
    let d1 := { d with sharers := d.sharers &&& off, waiting := d.waiting &&& off }
    let busy := d.held ≠ []
    if (busy ∧ d1.waiting = 0) ∨ (¬ busy ∧ d1.sharers = 0) then
      let s1 : State := { s with plc := { s.plc with dir := s.plc.dir.filter (fun x => x.region ≠ region) } }
      foldS d.held s1 (fun u h => sliceReq u h [])
    else { s with plc := { s.plc with dir := s.plc.dir.map (fun x => if x.region = region then d1 else x) } }

/-- Clear the sharer bits of a peer in every entry (R262). -/
def clearPeer (s : State) (k : Nat) : State :=
  foldS (s.plc.dir.map DirEnt.region) s (fun u r =>
    match u.sharersOf r with
    | some d => if d.sharers.getLsbD k ∨ d.waiting.getLsbD k then clearSharer u r k else u
    | none => u)

/-- The pool of a partition: first slot and slots, none where it does not lie wholly inside the share (R259). -/
def State.poolSlots (s : State) (p : Nat) : List Nat :=
  let n := s.plcFld (rPlcWorkCfg p) fPlcWorkCfgPoolRegions
  let b := s.plcFld (rPlcPoolBase p) fPlcPoolBaseBase
  match s.part p with
  | none => []
  | some r => if r.base ≤ b * 65536 ∧ (b + n) * 65536 ≤ r.base + r.len then (List.range n).map (fun i => b + i) else []

/-- Heat of a local region. -/
def State.heatOf (s : State) (r : Nat) : Nat := match smGet s.plc.heat r with | some h => h.heat | none => 0

/-- The replica of a partition with the lowest heat. -/
def State.coldReplica (s : State) (p : Nat) : Option Replica :=
  (s.plc.replicas.filter (fun r => r.part = p && r.valid)).foldl (fun best r => match best with
    | none => some r
    | some b => if s.heatOf r.slot < s.heatOf b.slot then some r else some b) none

/-- Request a remote region into a slot (R260 step 2): the map entry is taken. -/
def replSend (s : State) (p region heat slot : Nat) : State :=
  let s1 : State := { s with plc := { s.plc with replicas := s.plc.replicas ++ [⟨p, region, slot, false, false, heat⟩] } }
  match remoteReq s1 .placement { replMsg 0x0A 0 (region * 65536) with part := p } with
  | (t, true) => t
  | (_, false) => s

/-- Consider one hot remote region of a partition. -/
def replConsider (s : State) (p region heat : Nat) : State :=
  let slots := s.poolSlots p
  let free := slots.find? (fun x => !s.plc.replicas.any (fun r => r.slot = x))
  if s.plc.replicas.any (fun r => r.home = region ∧ r.part = p) ∨ (smGet s.plc.refused region).isSome then s
  else
    match free with
    | some x => if s.plc.replicas.length < 16384 then replSend s p region heat x else s
    | none =>
      match s.coldReplica p with
      | some v =>
        if slots.contains v.slot ∧ 2 * s.heatOf v.slot ≤ heat then replSend (dropReplicas s (fun r => r = v)) p region heat v.slot
        else s
      | none => s

/-- The requests of a partition at the end of a round: only regions of this stack's own trellis, and none for a sealed
partition (R258). -/
def replRound (s : State) (p : Nat) : State :=
  if s.plcFld (rPlcWorkCfg p) fPlcWorkCfgReplEn = 0 ∨ s.sealed p ∨ ¬ (s.health = 2 ∨ s.health = 3) then s
  else
    let lim := s.plcFld (rPlcWorkCfg p) fPlcWorkCfgReplIn
    let hot := s.plc.rheat.filter (fun e => e.2.part = p ∧ lim ≤ e.2.heat ∧ e.1 / 2 ^ 31 = s.trellisId)
    foldS hot s (fun u e => replConsider u p e.1 e.2.heat)

/-! ### Heat and racking (R249, R253 to R257) -/

/-- Heat of an entry at the end of a round. -/
def heatStep (decay : Nat) (h : Heat) : Heat :=
  { h with heat := Nat.min 65535 (h.heat - h.heat / 2 ^ decay + h.n), n := 0 }

/-- The decay of a partition: 0 acts as 1. -/
def State.decayOf (s : State) (p : Nat) : Nat := Nat.max 1 (s.plcFld (rPlcRackCfg p) fPlcRackCfgDecay)

/-- Heat update of both tables; a refused region may be requested again once its heat has halved. -/
def heatRound (s : State) : State :=
  let step := fun (e : Nat × Heat) => (e.1, heatStep (s.decayOf e.2.part) e.2)
  let rheat := s.plc.rheat.map step
  { s with plc := { s.plc with
    heat := s.plc.heat.map step
    rheat := rheat
    refused := s.plc.refused.filter (fun e => match smGet rheat e.1 with
      | some h => e.2 < 2 * h.heat
      | none => false) } }

/-- Mark a region racked or not, with a request for each of its lines (R255). -/
def setRacked (s : State) (r : Nat) (on : Bool) : State :=
  match smGet s.plc.heat r with
  | none => s
  | some h => { s with plc := { s.plc with
      heat := smSet s.plc.heat r { h with racked := on }
      rackReqs := s.plc.rackReqs ++ (List.range 512).map (fun i => (r, i, on)) } }

/-- Racked regions of a partition, or of all. -/
def State.rackedSet (s : State) (p : Option Nat) : List Nat :=
  (s.plc.heat.filter (fun e => e.2.racked && (match p with | some q => e.2.part = q | none => true))).map Prod.fst

/-- cap_p (R253). -/
def State.rackCap (s : State) (p : Nat) : Nat :=
  Nat.min (s.plcFld (rPlcRackCfg p) fPlcRackCfgRackCap) (((s.part p).elim 0 (fun r => popc r.ways.toNat 16)) * 9216)

/-- Rack one candidate (R254 step 3). -/
def rackOne (s : State) (p r : Nat) : State :=
  let eff := fun (x : Nat) => s.effHeat x (s.heatOf x)
  let set := s.rackedSet (some p)
  if set.length < s.rackCap p then
    if (s.rackedSet none).length < 32768 then setRacked s r true else s
  else
    let coldest := set.foldl (fun best x => match best with
      | none => some x
      | some b => if eff x < eff b then some x else some b) none
    match coldest with
    | some v => if 2 * eff v ≤ eff r then setRacked (setRacked s v false) r true else s
    | none => s

/-- Rack decisions of a partition (R254). -/
def rackRound (s : State) (p : Nat) : State :=
  if (s.part p).isNone then s
  else
    let eff := fun (x : Nat) => s.effHeat x (s.heatOf x)
    let cold := (s.rackedSet (some p)).filter (fun x => eff x < s.plcFld (rPlcRackCfg p) fPlcRackCfgRackOut)
    let s1 := foldS cold s (fun u x => setRacked u x false)
    let cands := ((s1.plc.heat.filter (fun e =>
      e.2.part = p && !e.2.racked && decide (s.plcFld (rPlcRackCfg p) fPlcRackCfgRackIn ≤ eff e.1))).map Prod.fst).mergeSort
        (fun a b => eff b ≤ eff a)
    foldS (cands.take (s.plcFld (rPlcRackCfg p) fPlcRackCfgRackRate)) s1 (fun u x => rackOne u p x)

/-- Registers of placement whose new values take effect at the end of a round (R269). -/
def plcCfgRegs : List Nat := (List.range 16).flatMap (fun p => [rPlcRackCfg p, rPlcWorkCfg p, rPlcPoolBase p])

/-- Adopt the configuration written; replicas whose slot has left its pool go. -/
def adoptPlc (s : State) : State :=
  let s1 : State := { s with plc := { s.plc with
    cfg := foldS plcCfgRegs s.plc.cfg (fun c o => smPut c o (s.reg o) (regReset s.bup.variant o)) } }
  dropReplicas s1 (fun r => !(s1.poolSlots r.part).contains r.slot)

/-- What the placement engine does at the end of a round. -/
def placementRound (s : State) : State :=
  let s1 := foldS (List.range 16) (heatRound s) rackRound
  adoptPlc (foldS (List.range 16) s1 replRound)

/-- A compute reset clears the tables, advice, replica map and directory (R269). -/
def placementReset (s : State) : State :=
  { s with plc := { s.plc with
    heat := []
    rheat := []
    refused := []
    advice := []
    replicas := []
    dir := []
    rackReqs := [] } }

/-! ### Commands -/

/-- RACK_LINE: the next request of the engine for a line of a region. -/
def execRackLine (region line : Nat) (s : State) : Host.Outcome State Fault Refusal :=
  .next (whenLive s (fun s =>
    match s.plc.rackReqs.find? (fun e => e.1 = region ∧ e.2.1 = line) with
    | none => s
    | some e =>
      sliceReq { s with plc := { s.plc with rackReqs := s.plc.rackReqs.erase e } }
        ⟨.placement, region * 65536 + 128 * line, 0, .rack e.2.2⟩ []))

/-- PLC_QUERY: look up a region (PLC_QRY_CTRL, PLC_QRY_RES). -/
def plcLookup (s : State) (region : Nat) : State :=
  let h := smGet s.plc.heat region
  let adv := s.adviceOf region
  let res := fPlcQryResSharers.put (fPlcQryResReadMostly.put (fPlcQryResTier.put (fPlcQryResRacked.put
    (fPlcQryResTracked.put (fPlcQryResHeat.put 0 (s.heatOf region)) (b2n h.isSome)) (b2n (s.racked region))) (adv % 4))
    (adv / 4 % 2)) ((s.sharersOf region).elim 0 (fun d => d.sharers.toNat))
  ((s.setFld rPlcQryCtrl fPlcQryCtrlRegion region).setFld rPlcQryCtrl fPlcQryCtrlValid 1).setReg rPlcQryRes res

/-- PLC_QUERY. -/
def execPlcQuery (f : Fn) (region : Nat) (s : State) : Host.Outcome State Fault Refusal :=
  .next (whenReached s f rPlcQryCtrl (fun s => plcLookup s region))

/-- REPL_COPY_DONE: every line of a granted region has arrived and its replica becomes valid (R260 step 5). An
invalidation has removed the entry of a copy that it abandoned. -/
def execReplCopyDone (region : Nat) (s : State) : Host.Outcome State Fault Refusal :=
  .next (whenLive s (fun s =>
    if s.ral.reqs.any (fun r => r.who = .placement ∧ r.msg.typ = 1 ∧ r.msg.addr / 65536 = region) then s
    else { s with plc := { s.plc with replicas := s.plc.replicas.map (fun r =>
      if r.home = region ∧ r.granted then { r with valid := true } else r) } }))

end Sys2Proof.Machine
end

