-- ==== Sys2Proof/Machine/RalLink.lean ====
section
/-! DEFINITION. The link layer of a Raloth port: training, frames, acknowledgement and replay, loopbacks, sleep and key
establishment (R376 to R391). -/

namespace Sys2Proof.Machine

open Sys2Proof

/-! ### Askala queue (R409) -/

/-- The next operation to serve: Raloth work before SPDM work, each in order of arrival. A Blend's verification, served
before both, is part of BLEND_LOAD_DONE and never waits here. -/
def askNext (l : List AskOp) : Option AskOp := (l.find? (fun o => o.cls = 1)).or l.head?

/-- Start the next operation when the engine is idle. -/
def askStart (s : State) : State :=
  match s.sec.running with
  | some _ => s
  | none =>
    match askNext s.sec.queue with
    | none => s
    | some o => { s with sec := { s.sec with queue := s.sec.queue.erase o, running := some o } }

/-- Queue an operation. -/
def askPush (s : State) (o : AskOp) : State :=
  askStart { s with sec := { s.sec with queue := s.sec.queue ++ [o] } }

/-- Random bytes of the DRBG (R411): free values. -/
def draw (s : State) : State × BitVec 512 := (s.tick, Config.drbg s.free)

/-! ### Port state changes -/

/-- A lane leaves service with a state code: event, record, and the new-defect entry at bring-up only (R382). -/
def laneLost (s : State) (n l code : Nat) : State :=
  let s1 : State := { s with bup := { s.bup with laneSt := smSet s.bup.laneSt (8 * n + l) code } }
  raise (ralErr s1 1 n l 0 0) (rRalPortEvent n) fRalPortEventLaneLost

/-- Lanes of a mask leave service. -/
def lanesLost (s : State) (n : Nat) (bad : BitVec 8) (code : Nat) : State :=
  foldS ((List.range 8).filter (fun l => bad.getLsbD l && (s.port n).mask.getLsbD l && s.laneSt n l = 0)) s
    (fun t l => laneLost t n l code)

/-- Discard keys, counters, replay buffer and what training learned. -/
def portClear (p : RalPort) (state : Nat) : RalPort :=
  { RalPort.initial with
    state := state, mask := p.mask, txMaySleep := p.txMaySleep, rxMaySleep := p.rxMaySleep,
    off := p.off, tagFailsRound := p.tagFailsRound, rxq := p.rxq }

/-- Messages that have not yet been sent are routed anew (R406); messages of one link end with it. -/
def requeue (s : State) (ms : List RMsg) : State :=
  foldS (ms.filter (fun m => endToEnd m.typ)) s (fun t m => (ralRoute t m).1)

/-- Flood LINKDOWN to every reachable member (R406). -/
def floodLinkdown (s : State) (n : Nat) : State :=
  foldS ((List.range s.peerCount).filter (fun k => k ≠ s.stackId ∧ (s.peer k).reach)) s
    (fun t k => (ralRoute t (ctlMsg t 0x14 (t.stackAddr k) (BitVec.ofNat 128 (t.stackId + 256 * n)) [])).1)

/-- What follows when routes have changed: each peer that has become unreachable gets a record of kind 5, its sharer bits
are cleared (R262), and the requests to it are lost (R405). -/
def afterRoutes (old s : State) : State :=
  let gone := (List.range 16).filter (fun k => (old.peer k).reach && !(s.peer k).reach)
  foldS gone s (fun t k =>
    let t1 := clearPeer (ralErr t 5 0xFF k 0 0) k
    let lost := t1.ral.reqs.filter (fun r => r.msg.addr / 2 ^ 43 = t1.stackAddr k / 2 ^ 43)
    let t2 : State := { t1 with ral := { t1.ral with reqs := t1.ral.reqs.filter (fun r => !lost.contains r) } }
    foldS lost t2 (fun u r => loseReq u r.who r.msg r.port))

/-- Routes are recomputed; the generation increments when a record changes (R52). -/
def reroute (s : State) : State :=
  let t := routes s
  if t.ral.peers = s.ral.peers then s else afterRoutes s (incGen t)

/-- The link of port p of stack k is reported down (R406): routes are recomputed and the generation increments. -/
def linkDown (s : State) (k p : Nat) : State :=
  if s.ral.map = [] ∨ s.ral.downs.contains (k, p) then s
  else afterRoutes s (incGen (routes { s with ral := { s.ral with downs := s.ral.downs ++ [(k, p)] } }))

/-- Entry to FAILED (R382, R406): cause 1 RECOVER timeout, 2 no usable lane, 3 tag failures, 0 none of these. -/
def portFail (s : State) (n cause : Nat) : State :=
  let q := (s.port n).txq
  let s1 := s.setPort n (portClear (s.port n) 9)
  let s2 := ralErr (raise s1 (rRalPortEvent n) fRalPortEventFailed) 2 n 0 cause 0
  let s3 := (s2.setFld (rRalPortStat n) fRalPortStatPeerValid 0)
  let s4 : State := { s3 with bup := { s3.bup with kxPorts := s3.bup.kxPorts.erase n } }
  requeue (floodLinkdown (linkDown s4 s4.stackId n) n) q

/-- Move a port to DETECT: keys, counters and replay buffer discarded, training blocks sent. End-to-end messages not yet
sent stay queued. -/
def portDetect (s : State) (n : Nat) : State :=
  let p := s.port n
  (s.setPort n { portClear p 1 with txq := p.txq.filter (fun m => endToEnd m.typ) }).emit (.ralBlock n 1 (s.usable n))

/-- Entry to RECOVER (R382): keys and counters are kept. -/
def portRecover (s : State) (n : Nat) : State :=
  let s1 := s.updPort n (fun p => { p with state := 7, badInRow := 0, blocksIn := 0 })
  raise (s1.addSat (rRalPortCnt n) fRalPortCntRecovers 1) (rRalPortEvent n) fRalPortEventRecover

/-- Frames start: scramblers restart from their seeds (R371), runs begin anew. -/
def startFrames (p : RalPort) (state : Nat) : RalPort :=
  { p with
           state := state, txScr := (List.range 8).map scrSeed, rxScr := (List.range 8).map scrSeed
           txRun := List.replicate 8 (0, 0), rxRun := List.replicate 8 (0, 0), badInRow := 0 }

/-- Set the width of a port from the lanes usable at both ends; none sends it to FAILED (R369). -/
def setWidth (s : State) (n : Nat) (next : Nat) : State :=
  let w := widthOf (s.usable n &&& (s.port n).peerMask.toNat)
  if w = 0 then portFail s n 2 else s.updPort n (fun p => { p with width := w, state := next, blocksIn := 0 })

/-! ### Key establishment (R389 to R391) -/

/-- A fragment of a KEYX message: kind, offset in slots, total bytes. -/
def kxMsg (s : State) (kind off total : Nat) (d : List Byte) : RMsg :=
  ctlMsg s 0x16 0 (BitVec.ofNat 128 (kind + 2 ^ 16 * off + 2 ^ 32 * total))
    ((List.range (cdiv d.length 32)).map (fun i => BitVec.ofNat 256 (leAt d (32 * i) 32)))

/-- Send bytes in KEYX messages of up to 30 data slots. -/
def kxSend (s : State) (n kind : Nat) (d : List Byte) : State :=
  foldS (List.range (cdiv d.length 960)) s (fun t i =>
    ralSend t n (kxMsg t kind (30 * i) d.length ((d.drop (960 * i)).take 960)))

/-- Establishment fails with a cause of R407: mode and keys stay. -/
def kxFail (s : State) (n cause : Nat) : State :=
  let s1 := s.updPort n (fun p => { p with kx := Keyx.initial, newTx := none, newRx := none })
  let s2 := raise s1 (rRalPortEvent n) fRalPortEventKeyFail
  let s3 := ralErr s2 4 n 0 cause 0
  { s3 with bup := { s3.bup with kxPorts := s3.bup.kxPorts.erase n } }

/-- Send HELLO with a fresh nonce and wait for the peer's. With a failed random source the establishment fails with
cause 3 (R411). -/
def kxStart (s : State) (n : Nat) : State :=
  if s.sec.rngFail then kxFail s n 3
  else
    let (s1, r) := draw s
    let nonce := r.extractLsb' 0 256
    let s2 := s1.updPort n (fun p => { p with kx := { Keyx.initial with phase := 1, myNonce := nonce } })
    kxSend s2 n 0 (toBytes nonce 32 ++ toBytes s2.sec.pk 32)

/-- HELLO bytes of the two ends: initiator's, then responder's. -/
def kxHellos (s : State) (k : Keyx) : List Byte :=
  let mine := toBytes k.myNonce 32 ++ toBytes s.sec.pk 32
  let peer := toBytes k.peerNonce 32 ++ toBytes k.peerPk 32
  if k.initiator then mine ++ peer else peer ++ mine

/-- The transcript hash T (R389 step 5). -/
def kxT (s : State) (k : Keyx) : List Byte := sha256 (kxHellos s k ++ k.ek ++ k.ct)

/-- The shared secret is held: derive the keys and ask for this end's signature (R389 steps 5, 6, 8). -/
def kxSecret (s : State) (n : Nat) : State :=
  let k := (s.port n).kx
  let t := kxT s k
  let key := fun info => BitVec.ofNat 256 (leNat (hkdf t (toBytes k.secret 32) (ascii info) 32))
  let s1 := s.updPort n (fun p => { p with kx := { k with phase := 3, i2r := key "RALOTH-I2R", r2i := key "RALOTH-R2I" } })
  askPush s1 ⟨1, ⟨n, 0⟩, 1, t ++ [if k.initiator then 1 else 2]⟩

/-- Both signatures are exchanged: the new keys await the switch (R390). -/
def kxReady (s : State) (n : Nat) : State :=
  let k := (s.port n).kx
  if k.sigSent && k.sigOk then
    s.updPort n (fun p => { p with
      newTx := some (if k.initiator then k.i2r else k.r2i)
      newRx := some (if k.initiator then k.r2i else k.i2r)
      kx := { Keyx.initial with initiator := k.initiator } })
  else s

/-- HELLO received (R389 step 2). -/
def kxHello (s : State) (n : Nat) (nonce pk : BitVec 256) : State :=
  let p := s.port n
  if ¬ p.framing ∨ ¬ s.bup.step9 then s
  else
    let s0 := if p.kx.phase = 0 then kxStart s n else s
    let k := (s0.port n).kx
    if k.phase = 0 then s0
    else
      let mine := beNat (toBytes k.myNonce 32)
      let peer := beNat (toBytes nonce 32)
      if mine = peer then kxStart s0 n
      else
        let s1 := s0.updPort n (fun p => { p with kx := { k with
          peerNonce := nonce, peerPk := pk, initiator := mine < peer, phase := 2 } })
        if mine < peer then
          let (s2, r) := draw s1
          let ek := Config.mlkemKey r
          -- the random bytes of the key pair are kept as the private key's stand-in
          let s3 := s2.updPort n (fun p => { p with kx := { p.kx with ek := ek, ct := toBytes r 64 } })
          kxSend s3 n 1 ek
        else s1

/-- Encapsulation key received by the responder (R389 step 4). -/
def kxKey (s : State) (n : Nat) (ek : List Byte) : State :=
  let k := (s.port n).kx
  if k.phase = 2 ∧ ¬ k.initiator then
    let (s1, r) := draw s
    let ct := Config.mlkemCipher ek r
    let s2 := s1.updPort n (fun p => { p with kx := { k with ek := ek, ct := ct, secret := Config.mlkemSecret ek r } })
    kxSecret (kxSend s2 n 2 ct) n
  else s

/-- Ciphertext received by the initiator: decapsulation succeeds or fails with cause 4. -/
def kxCipher (s : State) (n : Nat) (ct : List Byte) (ok : Bool) : State :=
  let k := (s.port n).kx
  if k.phase = 2 ∧ k.initiator then
    if !ok then kxFail s n 4
    else
      let r : BitVec 512 := BitVec.ofNat 512 (leNat k.ct)
      kxSecret (s.updPort n (fun p => { p with kx := { k with ct := ct, secret := Config.mlkemDecaps r ct } })) n
  else s

/-- The expected digest of the peer's key, zero for no check. -/
def State.peerDig (s : State) (n : Nat) : Nat :=
  (List.range 4).foldl (fun a k => a + (s.reg (rRalPeerDig n k)).toNat * 2 ^ (64 * k)) 0

/-- The peer's signature (R389 step 7): `ok` is the verdict of FIPS 205. -/
def kxSign (s : State) (n : Nat) (ok : Bool) : State :=
  let k := (s.port n).kx
  if k.phase = 3 then
    if !ok then kxFail s n 1
    else if s.peerDig n ≠ 0 ∧ s.peerDig n ≠ (digest (toBytes k.peerPk 32)).toNat then kxFail s n 2
    else kxReady (s.updPort n (fun p => { p with kx := { k with sigOk := true } })) n
  else s

/-- This end's signature is made: send it. -/
def kxSigned (s : State) (n : Nat) (sig : List Byte) : State :=
  let k := (s.port n).kx
  if k.phase = 3 then
    kxReady (kxSend (s.updPort n (fun p => { p with kx := { k with sigSent := true } })) n 3 sig) n
  else s

/-- The epoch that is not in use (R390). -/
def nextEpoch (e : Nat) : Nat := if e = 1 then 2 else 1

/-- The transmitter switches to waiting new keys and enters or stays in SECURE (R390). -/
def keySwitch (s : State) (n : Nat) : State :=
  let p := s.port n
  match p.newTx with
  | none => s
  | some k =>
    let s1 := s.setPort n { p with
      txKey := k, newTx := none, txEpoch := nextEpoch p.txEpoch, txInit := p.kx.initiator, state := 6 }
    let s2 := raise s1 (rRalPortEvent n) fRalPortEventSecure
    { s2 with bup := { s2.bup with kxPorts := s2.bup.kxPorts.erase n } }

/-! ### Sending frames (R378, R379) -/

/-- Encode a frame's content on the lanes in use: symbols per lane, and the port with its line state advanced. -/
def lineSend (p : RalPort) (lanes : List Nat) (content : List Byte) : List (List Nat) × RalPort :=
  (lanes.zipIdx).foldl (fun (acc : List (List Nat) × RalPort) e =>
    let (l, i) := e
    let (sy, scr, run) := lineEncode (laneBytes content lanes.length i) (acc.2.txScr.getD l 0) (acc.2.txRun.getD l (0, 0))
    (acc.1 ++ [sy], { acc.2 with txScr := setNth acc.2.txScr l scr, txRun := setNth acc.2.txRun l run })) ([], p)

/-- Put a frame's content on the line. -/
def putFrame (s : State) (n : Nat) (content : List Byte) : State :=
  let (sy, p) := lineSend (s.port n) (s.lanesUsed n) content
  (s.setPort n p).emit (.ralFrame n sy)

/-- Order in which messages are taken: responses, higher priority, the rest (R379). -/
def sendRank (m : RMsg) : Nat := if isResponse m.typ then 0 else if m.prio then 1 else 2

/-- The messages of one rank in order, taken while slots and credits last: chosen, left, slots used, credits. -/
def takeRank (state rank : Nat) (q : List RMsg) (slots : Nat) (cr : List Nat) : List RMsg × List RMsg × Nat × List Nat :=
  q.foldl (fun acc m =>
    let (taken, left, used, cr) := acc
    let need := msgSlots m
    let credit := isResponse m.typ || need ≤ cr.getD (m.vc % 4) 0
    if sendRank m = rank ∧ used + need ≤ 32 ∧ credit ∧ (state = 6 ∨ plainType m.typ) ∧
        ¬ left.any (fun x => sendRank x = rank ∧ x.vc = m.vc) then
      (taken ++ [m], left, used + need,
        if isResponse m.typ then cr else setNth cr (m.vc % 4) (cr.getD (m.vc % 4) 0 - need))
    else (taken, left ++ [m], used, cr)) ([], [], slots, cr)

/-- Fill a frame from the queue: messages, queue left, credits left. -/
def fillFrame (state : Nat) (q : List RMsg) (cr : List Nat) : List RMsg × List RMsg × List Nat :=
  let (a, q1, u1, c1) := takeRank state 0 q 0 cr
  let (b, q2, u2, c2) := takeRank state 1 q1 u1 c1
  let (c, q3, _, c3) := takeRank state 2 q2 u2 c2
  (a ++ b ++ c, q3, c3)

/-- Send a counted frame with a body. -/
def sendCounted (s : State) (n : Nat) (ms : List RMsg) (sleep : Bool) : State :=
  let p := s.port n
  let ret := (List.range 4).map (fun v => Nat.min 63 (p.rxReturn.getD v 0))
  let hdr := frameHeader p.txCtr (p.rxCtr + 65535) p.txEpoch p.nak sleep (ms = []) ret
  let content := frameContent hdr (bodyOf ms) (if p.txEpoch = 0 then 0 else p.txKey)
    (frameNonce p.txEpoch p.txInit p.txCtr)
  let p1 := { p with
    txCtr := p.txCtr + 1
    replay := p.replay ++ [(p.txCtr, content)]
    owesAck := false
    rxReturn := (List.range 4).map (fun v => p.rxReturn.getD v 0 - ret.getD v 0) }
  putFrame (s.setPort n p1) n content

/-- The next frame of a transmitter: a replay, new messages, an ack_only or a filler frame (R378). -/
def frameSend (s : State) (n : Nat) : State :=
  let p := s.port n
  if ¬ p.framing ∨ p.txSleep ∨ p.waking then s
  else
    match p.replayFrom with
    | some k =>
      match p.replay.find? (fun e => k ≤ e.1) with
      | some e =>
        let more := p.replay.any (fun x => e.1 < x.1)
        putFrame (s.setPort n { p with replayFrom := if more then some (e.1 + 1) else none }) n e.2
      | none => putFrame (s.setPort n { p with replayFrom := none }) n fillerContent
    | none =>
      if 256 ≤ p.replay.length then
        (if p.owesAck then sendCounted s n [] false else putFrame s n fillerContent)
      else
        let s1 := keySwitch s n
        let p1 := s1.port n
        let (ms, q, cr) := fillFrame p1.state p1.txq p1.txCredits
        if ms ≠ [] then sendCounted (s1.setPort n { p1 with txq := q, txCredits := cr }) n ms false
        else if p1.owesAck ∨ p1.nak ∨ p1.rxReturn.any (· ≠ 0) then sendCounted s1 n [] false
        else putFrame s1 n fillerContent

/-- Start a replay from the oldest unacknowledged frame. -/
def startReplay (s : State) (n : Nat) : State :=
  let p := s.port n
  match p.replay with
  | [] => s
  | e :: _ => (s.setPort n { p with replayFrom := some e.1 }).addSat (rRalPortCnt n) fRalPortCntReplays 1

/-! ### Receiving frames (R377) -/

/-- Decode the lanes of a frame: content (none if a codeword is uncorrectable, or a lane does not carry its 1080/w bytes),
corrections per lane in use, port. -/
def lineReceive (p : RalPort) (lanes : List Nat) (sy : List (List Nat)) : Option (List Byte) × List Nat × RalPort :=
  let w := lanes.length
  let step := fun (acc : List (Nat × Option (List Byte × Nat)) × RalPort) (e : Nat × Nat) =>
    let (l, i) := e
    let (bs, bad, scr, run) := lineDecode (sy.getD i []) (acc.2.rxScr.getD l 0) (acc.2.rxRun.getD l (0, 0))
    let cws := ((List.range 8).filter (fun c => c % w = i)).zipIdx.map (fun x =>
      (x.1, if bad || decide (bs.length ≠ 1080 / w) then none else cwDecode (sliceB bs (135 * x.2) 135)))
    (acc.1 ++ cws, { acc.2 with rxScr := setNth acc.2.rxScr l scr, rxRun := setNth acc.2.rxRun l run })
  let (cws, p1) := lanes.zipIdx.foldl step ([], p)
  let get := fun c => (cws.lookup c).getD none
  let corr := (List.range w).map (fun i =>
    ((List.range 8).filter (fun c => c % w = i)).foldl (fun a c => a + ((get c).map Prod.snd).getD 0) 0)
  if w ≠ 0 ∧ (List.range 8).all (fun c => (get c).isSome) then
    (some (joinCws ((List.range 8).map (fun c => ((get c).map Prod.fst).getD []))), corr, p1)
  else (none, corr, p1)

/-- A discarded frame: nak; 8 in a row for an uncorrectable codeword send the port to RECOVER (R382). -/
def frameBad (s : State) (n : Nat) : State :=
  let s1 := s.updPort n (fun p => { p with nak := true, badInRow := p.badInRow + 1 })
  if 8 ≤ (s1.port n).badInRow then portRecover s1 n else s1

/-- A tag failure: event, count, nak; the fourth in a round sends the port to FAILED with a record of kind 3 (R391). -/
def tagFail (s : State) (n : Nat) : State :=
  let s1 := s.updPort n (fun p => { p with nak := true, badInRow := 0, tagFailsRound := p.tagFailsRound + 1 })
  let s2 := raise (s1.addSat (rRalPortCnt n) fRalPortCntTagFails 1) (rRalPortEvent n) fRalPortEventTagFail
  if 4 ≤ (s2.port n).tagFailsRound then portFail (ralErr s2 3 n 0 0 0) n 3 else s2

/-- Key and initiator role for a frame of a mode: the current epoch's, or the new epoch's where one waits. -/
def rxKeyOf (p : RalPort) (mode : Nat) : Option (BitVec 256 × Bool) :=
  if mode = p.rxEpoch then some (if mode = 0 then 0 else p.rxKey, p.rxInit)
  else if mode = nextEpoch p.rxEpoch then p.newRx.map (fun k => (k, p.kx.initiator))
  else none

/-- Slots of received messages are free again: credits to return, of requests only (R379). -/
def freeSlots (s : State) (n : Nat) (m : RMsg) : State :=
  if isResponse m.typ ∨ 8 ≤ n then s
  else s.updPort n (fun p => { p with rxReturn := setNth p.rxReturn (m.vc % 4) (p.rxReturn.getD (m.vc % 4) 0 + msgSlots m) })

/-- A received message is discarded with a record of kind 7 (R388, R393). -/
def discardMsg (s : State) (n : Nat) (m : RMsg) : State := ralErr (freeSlots s n m) 7 n 0 m.typ 0

/-- Accept a counted frame: its ack and credits act, its messages are delivered, the expected counter advances. A frame
in mode 0 brings only the types of R388; other messages are discarded. -/
def frameAccept (s : State) (n : Nat) (c body : List Byte) : State :=
  let p := s.port n
  let b := leAt c 4 1
  let mode := b % 4
  let ack := leAt c 2 2
  let cr := leAt c 5 3
  let ms := bodyMsgs 32 body
  let replay := match p.replay.find? (fun e => e.1 % 65536 = ack) with
    | some e => p.replay.filter (fun x => e.1 < x.1)
    | none => p.replay
  let switched := mode ≠ p.rxEpoch
  let p1 := { p with
    replay := replay
    txCredits := (List.range 4).map (fun v => p.txCredits.getD v 0 + cr / 2 ^ (6 * v) % 64)
    rxq := p.rxq ++ ms.filter (fun m => mode ≠ 0 || plainType m.typ)
    rxCtr := p.rxCtr + 1
    nak := false
    badInRow := 0
    owesAck := p.owesAck || !nbit b 4
    sleepSeen := nbit b 3
    rxKey := if switched then p.newRx.getD 0 else p.rxKey
    rxInit := if switched then p.kx.initiator else p.rxInit
    rxEpoch := mode
    newRx := if switched then none else p.newRx }
  let s1 := foldS (ms.filter (fun m => mode = 0 && !plainType m.typ)) (s.setPort n p1) (fun t m => discardMsg t n m)
  if nbit b 2 then startReplay s1 n else s1

/-- A frame received on the lanes in use (R377). -/
def frameReceive (s : State) (n : Nat) (sy : List (List Nat)) : State :=
  let p := s.port n
  if ¬ p.framing then s
  else
    let lanes := s.lanesUsed n
    let (content, corr, p1) := lineReceive p lanes sy
    let s1 := (s.setPort n p1).addMod (rRalPortCnt n) fRalPortCntFecCorr (corr.foldl (· + ·) 0)
    let s2 := foldS (lanes.zip corr) s1 (fun t e => t.addSat (rRalLane n e.1) fRalLaneErrors e.2)
    match content with
    | none => frameBad s2 n
    | some c =>
      let mode := leAt c 4 1 % 4
      if mode = 3 then s2.updPort n (fun p => { p with badInRow := 0 })
      else
        match rxKeyOf p1 mode with
        | none => tagFail s2 n
        | some (key, init) =>
          let hdr := c.take 8
          let ct := sliceB c 8 1024
          -- the counter's upper bits come from the counter expected; the sender is the other end
          let seq := leAt c 0 2
          let ctr := p1.rxCtr / 65536 * 65536 + seq
          let nonce := frameNonce mode (!init) ctr
          if gcmTag (keyBytes key) nonce hdr ct ≠ sliceB c 1032 16 then tagFail s2 n
          else if seq ≠ p1.rxCtr % 65536 then s2.updPort n (fun p => { p with nak := true, badInRow := 0 })
          else frameAccept s2 n c (gcmCrypt (keyBytes key) nonce ct)

/-! ### Training events (R380 to R386) -/

/-- Entry to PLAIN: event, identity on the link, key establishment once step 9's go has passed (R389, R396). -/
def enterPlain (s : State) (n : Nat) : State :=
  let s1 := s.updPort n (fun p => { startFrames p 5 with
    txCtr := 0, rxCtr := 0, replay := [], replayFrom := none, txCredits := [256, 256, 256, 256]
    txEpoch := 0, rxEpoch := 0 })
  let s2 := raise s1 (rRalPortEvent n) fRalPortEventUp
  let s3 := if s2.fld rRalEnum fRalEnumHasId = 1 then
      ralSend s2 n (ctlMsg s2 0x13 0 (BitVec.ofNat 128 (s2.stackId + 256 * n + 2 ^ 32 * s2.ral.enumTag)) [])
    else s2
  if s3.bup.step9 then kxStart s3 n else s3

/-- Mismatches of symbols 16 to 63 of a block in LOOPBACK. -/
def blockErrors (b want : List Nat) : Nat :=
  ((List.range 48).filter (fun i => b.getD (16 + i) 9 ≠ want.getD (16 + i) 9)).length

/-- A training block received on the lanes of the port, lane 0 first. -/
def blockReceive (s : State) (n : Nat) (bs : List (List Nat)) : State :=
  let p := s.port n
  let parsed := bs.zipIdx.map (fun e => trainParse e.2 e.1)
  let good := parsed.filterMap id
  let code := (good.head?.map Prod.fst).getD 0
  let mask := (good.head?.map Prod.snd).getD 0
  if p.state = 8 then
    foldS bs.zipIdx s (fun t e =>
      t.addSat (rRalLane n e.2) fRalLaneErrors (blockErrors e.1 (trainBlock e.2 (if p.loop = 3 then 6 else 1) (t.usable n))))
  else if good = [] then (if p.state = 1 then s.setPort n { p with blocksIn := 0 } else s)
  else if code = 6 ∧ (p.state = 1 ∨ p.state = 9) then
    if s.fld (rRalPortCtrl n) fRalPortCtrlAllowFar = 1 then s.setPort n { portClear p 8 with loop := 4 } else s
  else if p.state = 1 then
    let k := p.blocksIn + 1
    if 16 ≤ k then
      (s.setPort n { p with state := 2, blocksIn := 0, peerMask := BitVec.ofNat 8 mask }).emit (.ralBlock n 2 (s.usable n))
    else s.setPort n { p with blocksIn := k, peerMask := BitVec.ofNat 8 mask }
  else if p.state = 2 ∨ p.state = 3 then s.setPort n { p with peerMask := BitVec.ofNat 8 mask }
  else if (p.state = 4 ∨ p.state = 7) ∧ code = 4 then s.setPort n { p with blocksIn := p.blocksIn + 1 }
  else if code = 5 then s.setPort n { p with rxSleep := false, sleepSeen := false }
  else s

/-- A lane's word boundary is on the start of the marker after its slips (R383). -/
def State.locked (s : State) (n l : Nat) : Bool := (Config.laneSkew (8 * n + l) + (s.port n).slips.getD l 0) % 64 = 0

/-- RAL_LANE_n.lock of every usable lane as its slips leave it. -/
def setLocks (s : State) (n : Nat) : State :=
  foldS (ones (s.usable n) 8) s (fun t l => t.setFld (rRalLane n l) fRalLaneLock (b2n (t.locked n l)))

/-- EQUALISE ends: lanes that did not adapt are out, the port moves to ALIGN, with automatic word alignment off on a
manual port. -/
def equaliseEnd (s : State) (n : Nat) (bad : BitVec 8) : State :=
  if (s.port n).state = 2 then
    let s1 := lanesLost s n bad 2
    if s1.usable n = 0 then portFail s1 n 2
    else
      let s2 := (s1.updPort n (fun p => { p with state := 3 })).emit (.ralBlock n 3 (s1.usable n))
      if s2.fld (rRalPortCtrl n) fRalPortCtrlManual = 1 then setLocks s2 n else s2
  else s

/-- The port moves on to SYNC at the width that its lanes allow. -/
def toSync (s : State) (n : Nat) : State :=
  let s1 := setWidth s n 4
  if (s1.port n).state = 4 then s1.emit (.ralBlock n 4 (s1.usable n)) else s1

/-- ALIGN ends: width set; a manual port stays in ALIGN until proceed (R383). -/
def alignEnd (s : State) (n : Nat) (bad peer : BitVec 8) : State :=
  if (s.port n).state = 3 then
    let s1 := (lanesLost s n bad 2).updPort n (fun p => { p with peerMask := peer })
    if s1.fld (rRalPortCtrl n) fRalPortCtrlManual = 1 then setWidth s1 n 3
    else toSync (foldS (ones (s1.usable n) 8) s1 (fun t l => t.setFld (rRalLane n l) fRalLaneLock 1)) n
  else s

/-- RAL_PORT_CTRL_n.result: 1 accepted, 2 refused in this port state. -/
def portResult (s : State) (n r : Nat) : State := s.setFld (rRalPortCtrl n) fRalPortCtrlResult r

/-- RAL_PORT_CTRL_n.proceed (R383). -/
def proceedGo (s : State) (n : Nat) : State :=
  if (s.port n).state = 3 ∧ s.fld (rRalPortCtrl n) fRalPortCtrlManual = 1 then toSync (portResult s n 1) n
  else portResult s n 2

/-- RAL_PORT_CTRL_n.retrain: to DETECT; a port that is OFF for the run stays OFF (R368, R380). -/
def retrainGo (s : State) (n : Nat) : State :=
  if (s.port n).off then portResult s n 2
  else
    let s1 := foldS (List.range 8) (portResult s n 1) (fun t l => t.setFld (rRalLane n l) fRalLaneErrors 0)
    portDetect s1 n

/-- RAL_LANE_n.slip: one UI more, in ALIGN with manual set or in LOOPBACK (R383). -/
def slipGo (s : State) (n l : Nat) : State :=
  let p := s.port n
  if (p.state = 3 ∧ s.fld (rRalPortCtrl n) fRalPortCtrlManual = 1) ∨ p.state = 8 then
    let s1 := s.setPort n { p with slips := setNth p.slips l ((p.slips.getD l 0 + 1) % 64) }
    s1.setFld (rRalLane n l) fRalLaneLock (b2n (s1.locked n l))
  else s

/-- SYNC ends once 16 code-4 blocks have been received. -/
def syncEnd (s : State) (n : Nat) : State :=
  let p := s.port n
  if p.state = 4 ∧ 16 ≤ p.blocksIn then enterPlain s n else s

/-- A training state exceeds its limit: EQUALISE, ALIGN and SYNC send the port to FAILED; a manual ALIGN has none. -/
def trainTimeout (s : State) (n : Nat) : State :=
  let p := s.port n
  if p.state = 2 ∨ p.state = 4 ∨ (p.state = 3 ∧ s.fld (rRalPortCtrl n) fRalPortCtrlManual = 0) then portFail s n 0 else s

/-- RECOVER ends: lanes lost, width set anew, replay from the oldest unacknowledged frame. -/
def recoverEnd (s : State) (n : Nat) (bad peer : BitVec 8) : State :=
  if (s.port n).state = 7 then
    let s1 := (lanesLost s n bad 3).updPort n (fun p => { p with peerMask := peer })
    let back := if (s1.port n).txEpoch = 0 then 5 else 6
    let s2 := setWidth s1 n back
    if (s2.port n).framing then
      let s3 := s2.updPort n (fun p => startFrames p back)
      match (s3.port n).replay with
      | [] => s3
      | e :: _ => s3.updPort n (fun p => { p with replayFrom := some e.1 })
    else s2
  else s

/-- Loss of signal on a lane in use, not preceded by a sleep frame (R382). -/
def lossOfSignal (s : State) (n l : Nat) : State :=
  let p := s.port n
  if p.framing ∧ ¬ p.sleepSeen ∧ (s.lanesUsed n).contains l then portRecover s n else s

/-- A loopback go (R384): refused with result 2 unless OFF, DETECT or FAILED; loop 0 leaves LOOPBACK for DETECT. -/
def loopApply (s : State) (n mode : Nat) : State :=
  let p := s.port n
  let s0 := s.setFld (rRalPortCtrl n) fRalPortCtrlLoop mode
  let clear := fun (t : State) => foldS (List.range 8) t (fun t l => t.setFld (rRalLane n l) fRalLaneErrors 0)
  let ok := fun (t : State) => (clear t).setFld (rRalPortCtrl n) fRalPortCtrlResult 1
  if p.state = 8 ∧ mode = 0 then ok (portDetect s0 n)
  else if p.state = 0 ∨ p.state = 1 ∨ p.state = 9 then
    if mode = 0 then ok (if p.state = 0 then s0 else portDetect s0 n)
    else
      let s1 := ok (s0.setPort n { portClear p 8 with loop := mode })
      if mode = 3 then s1.emit (.ralBlock n 6 (s1.usable n)) else s1.emit (.ralIdle n)
  else s0.setFld (rRalPortCtrl n) fRalPortCtrlResult 2

/-- TX sleep (R385): permitted, idle, everything acknowledged, no ack owed. -/
def sleepTx (s : State) (n : Nat) : State :=
  let p := s.port n
  if p.framing ∧ p.txMaySleep ∧ ¬ p.txSleep ∧ p.txq = [] ∧ p.replay = [] ∧ ¬ p.owesAck then
    ((sendCounted s n [] true).updPort n (fun p => { p with txSleep := true })).emit (.ralIdle n)
  else s

/-- TX wake: a message to send, or an ack owed. -/
def wakeTx (s : State) (n : Nat) : State :=
  let p := s.port n
  if p.txSleep ∧ (p.txq ≠ [] ∨ p.owesAck) then
    (s.setPort n { p with txSleep := false, waking := true }).emit (.ralBlock n 5 (s.usable n))
  else s

/-- Key establishment on a port on request (R389, RAL_PORT_CTRL_n.rekey). -/
def rekeyPort (s : State) (n : Nat) : State :=
  let res := fun (t : State) r => t.setFld (rRalPortCtrl n) fRalPortCtrlResult r
  if ¬ (s.port n).framing then res s 2
  else if ¬ s.bup.step9 then res s 3
  else res (kxStart s n) 1

end Sys2Proof.Machine
end

