-- ==== Sys2Proof/Machine/Tasks.lean ====
section
/-! DEFINITION. Tasks and contexts: submission, start, suspension, resumption and abort (R119 to R126, R150 to R155, R266). -/

namespace Sys2Proof.Machine

open Sys2Proof

/-! ### Thread cells and slots (R120, R266) -/

/-- Thread cells in service of a bay, by local index. -/
def State.bayThreadCells (s : State) (b : Nat) : List Nat :=
  if s.bayOn b then (cellsOfBay b).filter (fun c => s.role c = 3) else []

/-- Bays of a partition. -/
def State.baysOf (s : State) (p : Nat) : List Nat := ones ((s.part p).elim 0 (fun r => r.bays.toNat)) 32

/-- Thread slots of a partition (R120). -/
def State.slotsOf (s : State) (p : Nat) : Nat := 128 * ((s.baysOf p).flatMap s.bayThreadCells).length

/-- Free slots of a cell, ascending. -/
def State.freeSlots (s : State) (cell : Nat) : List Nat :=
  ((List.range 128).map (fun k => 128 * cell + k)).filter (fun t => (s.thread t).isNone)

/-- Thread slots of a bay in use. -/
def State.slotsUsed (s : State) (b : Nat) : Nat := (s.cmp.thr.filter (fun e => bayOfSlot e.1 = b)).length

/-- Order in which the bays of a partition receive threads: the hinted bay if it holds a thread cell in service, then
fewest slots in use, ties by lower number (R266). -/
def State.bayOrder (s : State) (p hint : Nat) : List Nat :=
  let bs := (s.baysOf p).filter (fun b => s.bayThreadCells b ≠ [])
  let rest := (bs.filter (fun b => b ≠ hint)).mergeSort (fun a b => s.slotsUsed a ≤ s.slotsUsed b)
  if bs.contains hint then hint :: rest else rest

/-- The free slots of a partition in the order in which they are filled. -/
def State.slotOrder (s : State) (p hint : Nat) : List Nat :=
  (s.bayOrder p hint).flatMap (fun b => (s.bayThreadCells b).flatMap s.freeSlots)

/-! ### Submission (R123 to R125) -/

/-- What a read on behalf of a context gives. -/
inductive Got where
  | bytes (l : List Byte)
  | failed
  | pending
  deriving DecidableEq, Repr

/-- Read bytes of one line at a virtual address of context m: from this stack's HBM, else what the event carries. -/
def unitRead (s : State) (w : Waiter) (n : Nat) (alt : ReadData) : State × Got :=
  match translate s w false with
  | (u, .pending) => (u, .pending)
  | (u, .fault _) => (u, .failed)
  | (u, .ok p) =>
    match p with
    | .hbm a =>
      let (v, r) := engineRead u (.command w.m) a 0
      let bad := (List.range 4).any (fun i => a % 128 / 32 ≤ i && i ≤ (a % 128 + n - 1) / 32 && r.poison.getLsbD i)
      (v, if r.status ≠ 0 ∨ bad then .failed else .bytes (sliceB (toBytes r.data 128) (a % 128) n))
    | .bad a => (addrError u 5 false a, .failed)
    | _ => (u, if alt.failed then .failed else .bytes (sliceB alt.bytes 0 n))

/-- Start a read of a descriptor: its translation, and the request where it leads outside this stack. -/
def askRead (s : State) (w : Waiter) : State :=
  match translate s w false with
  | (u, .ok (.host port b _ _)) => u.emit (.hostRead port b 64)
  | (u, .ok (.remote f)) => remoteAsk u (.command w.m) (readMsg f (w.m / 64) 0)
  | (u, _) => u

/-- The fields of a task descriptor (R124). -/
def taskOf (d : List Byte) : TaskDesc :=
  ⟨nbit (leAt d 1 1) 0, leAt d 4 4, leAt d 8 8, BitVec.ofNat 64 (leAt d 16 8), leAt d 24 8, leAt d 32 4, leAt d 36 1,
    leAt d 40 8, leAt d 48 8⟩

/-- Refusal code of a descriptor as read, 0 when it is accepted (R125). -/
def State.taskCode (s : State) (m : Nat) (d : List Byte) : Nat :=
  let t := taskOf d
  if 64 ≤ (s.context m).queue.length then 1
  else if leAt d 0 1 ≠ 1 ∨ leAt d 1 1 / 2 ≠ 0 ∨ leAt d 2 2 ≠ 0 ∨ leAt d 37 3 ≠ 0 ∨ leAt d 56 8 ≠ 0 then 3
  else if t.n = 0 ∨ s.slotsOf (m / 64) < t.n then 4
  else if t.entry % 4 ≠ 0 ∨ t.doneFlag % 8 ≠ 0 ∨ t.faultRec % 64 ≠ 0 ∨ t.stackSize % 64 ≠ 0 then 5
  else 0

/-- Put a task into its context's queue. -/
def queueTask (s : State) (m : Nat) (d : List Byte) : State :=
  let c := s.context m
  s.setContext m { c with queue := c.queue ++ [taskOf d] }

/-- A doorbell is refused (CMP_TASK_STAT). -/
def refuseTask (s : State) (m code : Nat) : State :=
  raise (s.setFld (rCmpTaskStat m) fCmpTaskStatRefuseCode code) (rCmpTaskStat m)
    (if code = 1 then fCmpTaskStatOverflow else fCmpTaskStatRefused)

/-- The waiter of a descriptor read. -/
def taskWaiter (m : Nat) (desc : Word) : Waiter := ⟨.taskDesc desc, m, desc.toNat / 64 * 64, .read, 0, 0⟩

/-- A write of CMP_TASK_DB_m: the descriptor read starts; with 64 tasks queued, or before the queues accept work, it is
refused with code 1. -/
def taskDoor (s : State) (m : Nat) (desc : Word) : State :=
  if ¬ s.enabled ∨ 64 ≤ (s.context m).queue.length then refuseTask s m 1
  else
    let c := s.context m
    askRead (s.setContext m { c with reading := c.reading ++ [desc] }) (taskWaiter m desc)

/-- TASK_DOORBELL. -/
def execTaskDoorbell (f : Fn) (m : Nat) (desc : Word) (s : State) : Host.Outcome State Fault Refusal :=
  .next (whenReached s f (rCmpTaskDb m) (fun s => taskDoor (s.setFld (rCmpTaskDb m) fCmpTaskDbDesc (desc.toNat / 64)) m desc))

/-- A descriptor read of a doorbell has ended. -/
def taskRead (s : State) (m : Nat) (desc : Word) (g : Option (List Byte)) : State :=
  let c := s.context m
  let s1 := s.setContext m { c with reading := c.reading.erase desc }
  match g with
  | none => refuseTask s1 m 2
  | some d =>
    let code := s1.taskCode m d
    if code = 0 then (queueTask s1 m d).addMod (rCmpTaskStat m) fCmpTaskStatAccepted 1 else refuseTask s1 m code

/-- TASK_DESC_READ_DONE: the oldest descriptor read of the context ends, once its translation has. -/
def taskReadDone (m : Nat) (desc : ReadData) (s : State) : State :=
  whenLive s (fun s =>
    match (s.context m).reading with
    | [] => s
    | a :: _ =>
      match unitRead s (taskWaiter m a) 64 desc with
      | (u, .pending) => u
      | (u, .failed) => taskRead u m a none
      | (u, .bytes d) => taskRead u m a (some d))

/-- TASK_DESC_READ_DONE. -/
def execTaskDescReadDone (m : Nat) (desc : ReadData) (s : State) : Host.Outcome State Fault Refusal :=
  .next (taskReadDone m desc s)

/-- SPAWN: a release; d is 0 or a refusal code of R125. -/
def execSpawn (t d a : Nat) (desc : ReadData) (s : State) : Host.Outcome State Fault Refusal :=
  .next (issue (.spawn t d a desc) s (fun u x => release (.spawn t d a desc) u x (fun u =>
    let i : Instr := .spawn t d a desc
    let va := (x.reg a).toNat
    let ans := fun (v : State) (code : Nat) => retireReg i v d (BitVec.ofNat 64 code)
    if ¬ u.enabled ∨ 64 ≤ (u.context x.m).queue.length then ans u 1
    else if va % 64 ≠ 0 then ans u 2
    else
      match unitRead u ⟨.thread t, x.m, va, .read, bayOfSlot t, 0⟩ 64 desc with
      | (v, .pending) => waitFor i v .xlat
      | (v, .failed) => ans v 2
      | (v, .bytes b) =>
        let code := v.taskCode x.m b
        ans (if code = 0 then queueTask v x.m b else v) code)))

/-! ### Start (R119, R121, R126, R127) -/

/-- The registers of a new thread (R127). -/
def initialRegs (d : TaskDesc) (idx : Nat) : SMap Word :=
  let put := fun (m : SMap Word) (r v : Nat) => smPut m r (BitVec.ofNat 64 v) 0
  put (put (put (put [] 0 d.arg.toNat) 1 idx) 2 d.n) 61
    (if d.stackSize = 0 then 0 else d.stackBase + (idx + 1) * d.stackSize)

/-- Threads take their slots: the L1 of every cell on which they start is invalidated, gated bays wake (R136, R460), and
the task remembers its cells. -/
def occupy (s : State) (l : List (Nat × Thread)) : State :=
  let s1 := foldS l s (fun u e =>
    let v := u.setThread e.1 e.2
    match smGet v.cmp.tasks e.2.task with
    | none => v
    | some r =>
      let c := cellOfSlot e.1
      let r1 := { r with cells := if r.cells.contains c then r.cells else r.cells ++ [c] }
      { v with cmp := { v.cmp with tasks := smSet v.cmp.tasks e.2.task r1 } })
  let s2 := foldS (l.map (fun e => cellOfSlot e.1)).dedup s1 l1Invalidate
  foldS (l.map (fun e => bayOfSlot e.1)).dedup s2 (fun u b => wakeBay u b true)

/-- Start a task of context m in the slots given. -/
def startTask (s : State) (m : Nat) (d : TaskDesc) : State :=
  let k := s.cmp.nextTask
  let slots := (s.slotOrder (m / 64) d.bayHint).take d.n
  let s1 : State := { s with cmp := { s.cmp with
    nextTask := k + 1
    tasks := smSet s.cmp.tasks k ⟨m / 64, m % 64, d, d.n, 0, none, []⟩ } }
  let s2 := trace s1 1 0xFF (m / 64) (m % 64) d.n d.entry 0
  occupy s2 (slots.zipIdx.map (fun e =>
    (e.1, (⟨m / 64, m % 64, k, e.2, d.entry, initialRegs d e.2, 0, 0, .ready, [], none, false⟩ : Thread))))

/-- The contexts of a partition in rotation, after the one served last. -/
def State.rotation (s : State) (p : Nat) : List Nat :=
  (List.range 64).map (fun j => (smGetD s.cmp.rot p 63 + 1 + j) % 64)

/-- The oldest task of a context that can start now. -/
def State.startable (s : State) (m : Nat) : Option TaskDesc :=
  let c := s.context m
  if c.state ≠ 0 then none
  else
    match c.queue with
    | [] => none
    | d :: _ => if d.n ≤ (s.slotOrder (m / 64) 0xFF).length then some d else none

/-- TASK_START: the next context in rotation whose oldest task fits the free slots starts it (R121). -/
def taskStart (p : Nat) (s : State) : State :=
  whenLive s (fun s =>
    if ¬ s.enabled then s
    else
      match (s.rotation p).find? (fun c => (s.startable (64 * p + c)).isSome) with
      | none => s
      | some c =>
        let m := 64 * p + c
        match s.startable m with
        | none => s
        | some d =>
          let x := s.context m
          let s1 := s.setContext m { x with queue := x.queue.drop 1 }
          startTask { s1 with cmp := { s1.cmp with rot := smSet s1.cmp.rot p c } } m d)

/-- TASK_START. -/
def execTaskStart (p : Nat) (s : State) : Host.Outcome State Fault Refusal := .next (taskStart p s)

/-! ### Contexts (R151 to R154) -/

/-- State code of CMP_CTX_CTRL: 0 idle, 1 running, 2 suspended, 3 suspending. -/
def State.ctxState (s : State) (m : Nat) : Nat :=
  let c := s.context m
  if c.state ≠ 0 then c.state
  else if c.queue ≠ [] ∨ s.cmp.thr.any (fun e => e.2.m = m) then 1 else 0

/-- An operation of CMP_CTX_CTRL ends with a result. -/
def ctxResult (s : State) (r : Nat) : State :=
  (s.setFld rCmpCtxCtrl fCmpCtxCtrlBusy 0).setFld rCmpCtxCtrl fCmpCtxCtrlResult r

/-- Tasks that outnumber the partition's thread slots end without starting, and a resume under way is refused (R122). -/
def trimTasks (s : State) (p : Nat) : State :=
  let n := s.slotsOf p
  foldS ((List.range 64).map (fun c => 64 * p + c)) s (fun u m =>
    let c := u.context m
    let gone := c.queue.filter (fun d => n < d.n)
    let u1 := if gone = [] then u else u.setContext m { c with queue := c.queue.filter (fun d => d.n ≤ n) }
    let u2 := foldS gone u1 (fun v d =>
      post v m ((if d.faultRec ≠ 0 then [.bytes d.faultRec (faultRecord (FaultInfo.none 11) 0)] else [])
        ++ (if d.doneFlag ≠ 0 then [.add d.doneFlag (doneValue false)] else [])))
    let c2 := u2.context m
    if c2.op = 2 ∧ n < c2.saved.length then ctxResult (u2.setContext m { c2 with op := 0 }) 6 else u2)

/-- The save area lies in the partition's share, in a sealed partition in its sealed range, and holds what R152 asks. -/
def State.saveOk (s : State) (p addr : Nat) : Bool :=
  let size := 4096 + 576 * s.slotsOf p
  match s.part p with
  | none => false
  | some r =>
    r.base ≤ addr && addr + size ≤ r.base + r.len &&
    (if s.sealed p then
      match smGet s.sec.parts p with
      | some q => decide (q.base ≤ addr ∧ addr + size ≤ q.base + q.len)
      | none => false
    else true)

/-- Cancel what a thread waits for, its PC staying on the instruction: a translation, a flag WAIT, a BAR WAIT, or an
ARRIVE that is not yet counted (R152 step 4). Other waits end with their accesses. -/
def cancelWait (s : State) (t : Nat) : State :=
  match s.thread t with
  | none => s
  | some x =>
    let ready := fun (u : State) => updThread u t (fun y => { y with st := .ready })
    let noReq := fun (u : State) =>
      let mine := fun (r : RalReq) => r.who = .thread t ∧ r.msg.typ = 5 ∧ r.msg.op = 2
      let u1 := foldS (u.ral.reqs.filter (fun r => mine r)) u (fun v r =>
        (ralRoute v { r.msg with typ := 6, op := 0, arg := 0 }).1)
      { u1 with
        ral := { u1.ral with reqs := u1.ral.reqs.filter (fun r => ¬ mine r) }
        cel := { u1.cel with xbar := u1.cel.xbar.filter (fun h => h.who ≠ .thread t ∨ h.op.flag = false ∨ h.op.writes) }
        cmp := { u1.cmp with replies := u1.cmp.replies.filter (fun r => r.slot ≠ t) } }
    match x.st with
    | .waiting .xlat => ready (dropThreadWaits s t)
    | .waiting (.flagWait _ _ _ _ _ _) => ready (noReq (dropThreadWaits s t))
    | .waiting (.flagRetry _ _ _ _ _ _) => ready s
    | .waiting (.bar _ _) => ready s
    | .waiting (.barHeld _ _) => ready s
    | .halted => { ready s with dbg := { s.dbg with halted := s.dbg.halted.erase t } }
    | _ => s

/-- Slots of the threads of a context. -/
def State.slotsOfCtx (s : State) (m : Nat) : List Nat := (s.cmp.thr.filter (fun e => e.2.m = m)).map Prod.fst

/-- A write of CMP_CTX_CTRL with go: the selection is stored; go is ignored while busy; op 0 gives 5, a function that is not
permitted 3. -/
def ctxGo (s : State) (f : Fn) (p c op : Nat) (k : State → Nat → State) : State :=
  whenReached s f rCmpCtxCtrl (fun s =>
    let s1 := ((s.setFld rCmpCtxCtrl fCmpCtxCtrlPartition p).setFld rCmpCtxCtrl fCmpCtxCtrlContext c).setFld rCmpCtxCtrl
      fCmpCtxCtrlOp op
    if s.fld rCmpCtxCtrl fCmpCtxCtrlBusy = 1 then s1
    else
      if op = 0 then ctxResult s1 5
      else if ¬ s1.mapped p f then ctxResult s1 3
      else k (trace s1 14 0xFF p c op 0 0) (64 * p + c))

/-- The address in CMP_CTX_SAVE. -/
def State.saveReg (s : State) : Nat := 64 * s.fld rCmpCtxSave fCmpCtxSaveAddr

/-- Start suspending a context (R152 steps 1, 2 and 4). -/
def suspendGo (s : State) (f : Fn) (p c : Nat) : State :=
  ctxGo s f p c 1 (fun s m =>
    if s.ctxState m = 2 ∨ s.ctxState m = 3 then ctxResult s 2
    else if ¬ s.saveOk p s.saveReg then ctxResult s 4
    else
      let x := s.context m
      let s1 := (s.setContext m { x with state := 3, op := 1, saveAddr := s.saveReg }).setFld rCmpCtxCtrl fCmpCtxCtrlBusy 1
      foldS (s1.slotsOfCtx m) s1 (fun u t => updThread (cancelWait u t) t (fun y => { y with stopping := true })))

/-- CTX_SUSPEND. -/
def execCtxSuspend (f : Fn) (p c : Nat) (s : State) : Host.Outcome State Fault Refusal := .next (suspendGo s f p c)

/-- What the save area holds afterwards belongs to the stack (R152): its bytes are free values. -/
def saveArea (s : State) (m addr n : Nat) : State :=
  let who : Requester := if s.sealed (m / 64) then .imp (m / 64) else .command m
  foldS (List.range (cdiv (4096 + 576 * n) 128)) s (fun u k =>
    (engineWrite u.tick who (addr + 128 * k) 0 (BitVec.allOnes 128) (Config.garble u.free) 0).1)

/-- The suspension ends once no access of the context is in flight: thread state is saved and the slots are freed (R152
steps 3, 5 and 6). -/
def suspendDone (m : Nat) (s : State) : State :=
  whenLive s (fun s =>
    let x := s.context m
    let ts := s.cmp.thr.filter (fun e => e.2.m = m)
    let still := ts.any (fun e => (match e.2.st with | .waiting _ => true | _ => false) || e.2.stores ≠ [])
    if x.state ≠ 3 ∨ still then s
    else
      let saved := ts.map (fun e => { e.2 with st := .ready, stopping := false })
      let s1 := saveArea s m x.saveAddr ts.length
      let s2 : State := { s1 with cmp := { s1.cmp with thr := s1.cmp.thr.filter (fun e => e.2.m ≠ m) } }
      ctxResult (s2.setContext m { x with state := 2, op := 0, saved := saved }) 1)

/-- CTX_SUSPEND_DONE. -/
def execCtxSuspendDone (m : Nat) (s : State) : Host.Outcome State Fault Refusal := .next (suspendDone m s)

/-- Ask for the resumption of a context (R122, R152, R153). -/
def resumeGo (s : State) (f : Fn) (p c : Nat) : State :=
  ctxGo s f p c 2 (fun s m =>
    let x := s.context m
    if s.ctxState m = 0 then ctxResult s 7
    else if s.ctxState m ≠ 2 then ctxResult s 2
    else if ¬ s.saveOk p s.saveReg ∨ s.saveReg ≠ x.saveAddr then ctxResult s 4
    else if s.slotsOf p < x.saved.length then ctxResult s 6
    else (s.setContext m { x with op := 2 }).setFld rCmpCtxCtrl fCmpCtxCtrlBusy 1)

/-- CTX_RESUME. -/
def execCtxResume (f : Fn) (p c : Nat) (s : State) : Host.Outcome State Fault Refusal := .next (resumeGo s f p c)

/-- Every thread of the context is restored together once enough slots are free. -/
def resumeStart (m : Nat) (s : State) : State :=
  whenLive s (fun s =>
    let x := s.context m
    let slots := s.slotOrder (m / 64) 0xFF
    if x.op ≠ 2 ∨ slots.length < x.saved.length then s
    else
      let s1 := s.setContext m { x with state := 0, op := 0, saved := [], saveAddr := 0 }
      ctxResult (occupy s1 (slots.zip x.saved)) 1)

/-- CTX_RESUME_START. -/
def execCtxResumeStart (m : Nat) (s : State) : Host.Outcome State Fault Refusal := .next (resumeStart m s)

/-- End every thread of a context with code 10 and discard its queued tasks (R153). -/
def abortCtx (s : State) (m : Nat) : State :=
  let x := s.context m
  let s1 := s.setContext m { x with state := 0, op := 0, queue := [], saved := [], saveAddr := 0 }
  let s2 := foldS (s1.slotsOfCtx m) s1 (fun u t => threadKill u t 10)
  foldS x.saved s2 (fun u y => memberEnd u y (some ⟨10, y.idx, y.pc, 0, 0, 0, 0, 0, 0, 0⟩))

/-- Abort a context. An idle context is in the requested state already (DEDUCED, assumption log 33). -/
def abortGo (s : State) (f : Fn) (p c : Nat) : State :=
  ctxGo s f p c 3 (fun s m => if s.ctxState m = 0 then ctxResult s 2 else ctxResult (abortCtx s m) 1)

/-- CTX_ABORT. -/
def execCtxAbort (f : Fn) (p c : Nat) (s : State) : Host.Outcome State Fault Refusal := .next (abortGo s f p c)

/-- CTX_NO_OP. -/
def execCtxNoOp (f : Fn) (p c : Nat) (s : State) : Host.Outcome State Fault Refusal :=
  .next (ctxGo s f p c 0 (fun s _ => s))

end Sys2Proof.Machine
end

