-- ==== Sys2Proof/Machine/Xlat.lean ====
section
/-! DEFINITION. The translation unit (R270 to R294): bindings, completions, page requests, invalidations, and the commands
XLAT, COPY and ADVISE. -/

namespace Sys2Proof.Machine

open Sys2Proof

/-! ### Command queues (R290) -/

/-- A queue that holds nothing. -/
def CmdQ.initial : CmdQ := ⟨[], []⟩

/-- The command queue of context m. -/
def State.cmdq (s : State) (m : Nat) : CmdQ := smGetD s.xlt.cmds m CmdQ.initial

/-- Store a command queue. -/
def State.setCmdq (s : State) (m : Nat) (x : CmdQ) : State :=
  { s with xlt := { s.xlt with cmds := smPut s.xlt.cmds m x CmdQ.initial } }

/-- The command that runs in a context, if it has not ended. -/
def State.running (s : State) (m : Nat) : Option Cmd :=
  match (s.cmdq m).queue with
  | c :: _ => if c.ended = 0 then some c else none
  | [] => none

/-- Change the command that runs. -/
def updCmd (s : State) (m : Nat) (f : Cmd → Cmd) : State :=
  let x := s.cmdq m
  match x.queue with
  | c :: rest => s.setCmdq m { x with queue := f c :: rest }
  | [] => s

/-- Pages that are not usable are skipped: XLAT without fault_in, and ADVISE (R292). -/
def Cmd.skips (c : Cmd) : Bool := c.kind = 3 || (c.kind = 1 && c.flags % 2 = 0)

/-- Skip the page at which the command stands; ADVISE records it. -/
def skipPage (s : State) (m : Nat) : State :=
  match s.running m with
  | none => s
  | some c =>
    let s1 := updCmd s m (fun x => { x with pos := x.pos + 4096 })
    if c.kind = 3 then raise s1 (rXltCmdStat m) fXltCmdStatSkipped else s1

/-! ### What a waiter does when its translation ends (R281, R285) -/

/-- A waiter's translation has succeeded: it goes on. -/
def wake (s : State) (w : Waiter) : State :=
  match w.who with
  | .post => resumePosts s w.m
  | .thread slot => updThread s slot (fun x => match x.st with
      | .waiting .xlat => { x with st := .ready }
      | _ => x)
  | .piece b q tile idx => pieceRetry s b q tile idx w.va
  | .taskDesc d => askRead s (taskWaiter w.m d)
  | .cmdDesc _ => askRead s w
  | .cmd => s

/-- A refused submission of a command (R291). -/
def refuseCmd (s : State) (m code : Nat) : State :=
  raise (s.setFld (rXltCmdStat m) fXltCmdStatRefuseCode code) (rXltCmdStat m) fXltCmdStatRefused

/-- A waiter fails with a fault id. -/
def fail (s : State) (w : Waiter) (fid : Nat) : State :=
  match w.who with
  | .post => failPosts s w.m w.va fid
  | .thread slot =>
    match s.thread slot with
    | none => s
    | some x =>
      if x.st ≠ .waiting .xlat then s
      else if w.acc = .fetch then threadFault s slot 3 w.va fid 0
      else
        match isaDecode slot ⟨[], false⟩ (BitVec.ofNat 32 x.word) with
        | some (.spawn _ d _ _) => updThread s slot (fun y => (y.setReg d 2).next)
        | some (.cinv _ _ _) => updThread s slot Thread.next
        | _ => threadFault s slot 3 w.va fid x.word
  | .piece b q tile idx => endPiece s (4 * b + q) tile idx 1 fid w.va
  | .taskDesc d => taskRead s w.m d none
  | .cmdDesc d =>
    let x := s.cmdq w.m
    if x.reading.contains d then refuseCmd (s.setCmdq w.m { x with reading := x.reading.erase d }) w.m 2 else s
  | .cmd => updCmd s w.m (fun c => if c.ended = 0 then { c with ended := 2 } else c)

/-- Fail a list of waiters, each with its fault id. -/
def failAll (r : State × List (Waiter × Nat)) : State := foldS r.2 r.1 (fun t e => fail t e.1 e.2)

/-! ### Bindings (R270 to R272) -/

/-- CTX_BIND_WRITE. -/
def bindWrite (s : State) (m : Nat) (v : Word) : State :=
  let r := rXltCtxBind m
  let put := fun (t : State) (st : Nat) => t.setFld r fXltCtxBindBindState st
  if s.ctxState m = 1 ∨ s.ctxState m = 3 then put s 3
  else
    let valid := fXltCtxBindValid.get v = 1
    let fn : Fn := ⟨fXltCtxBindPort.get v, fXltCtxBindFunction.get v⟩
    if valid ∧ (16 < fn.vf ∨ ¬ s.mapped (m / 64) fn) then put s 2
    else
      let keep := fXltCtxBindPasid.mask ||| fXltCtxBindValid.mask ||| fXltCtxBindPriv.mask ||| fXltCtxBindPort.mask
        ||| fXltCtxBindFunction.mask
      let new := v &&& keep
      let s1 := if new = s.reg r &&& keep then s else tlbRemove s (fun e => 64 * e.part + e.ctx = m)
      put (s1.setReg r new) (b2n valid)

/-- CTX_BIND_WRITE. -/
def execCtxBindWrite (f : Fn) (m : Nat) (value : Word) (s : State) : Host.Outcome State Fault Refusal :=
  .next (whenReached s f (rXltCtxBind m) (fun s => bindWrite s m value))

/-- XLT_FLOG_BASE_p: the ring starts anew; its records go out with the writer's requester id (R285). -/
def flogBaseWrite (s : State) (f : Fn) (p : Nat) (v : Word) : State :=
  let s1 := s.setReg (rXltFlogBase p) (v &&& (fXltFlogBaseSize.mask ||| fXltFlogBaseEnable.mask ||| fXltFlogBaseAddr.mask))
  let s2 := ((s1.setFld (rXltFlogPtr p) fXltFlogPtrHead 0).setFld (rXltFlogPtr p) fXltFlogPtrTail 0).setFld (rXltFlogPtr p)
    fXltFlogPtrDropped 0
  { s2 with xlt := { s2.xlt with flogFn := smSet s2.xlt.flogFn p f } }

/-- FLOG_BASE_WRITE. -/
def execFlogBaseWrite (f : Fn) (p : Nat) (value : Word) (s : State) : Host.Outcome State Fault Refusal :=
  .next (whenReached s f (rXltFlogBase p) (fun s => flogBaseWrite s f p value))

/-! ### Translation completions (R279, R288) -/

/-- The requests in flight for a page. -/
def AtsReq.is (a : AtsReq) (f : Fn) (pasid va : Nat) : Bool := a.f = f && a.pasid = pasid && a.va = va / 4096 * 4096

/-- The access that the completion serves is usable for the waiter. -/
def cplUsable (c : AtsCpl) (w : Waiter) : Bool := (entryOf w.m w.va c).usable w.acc

/-- A waiter looks a translation up in its bay's TLB. -/
def WaitWho.inBay : WaitWho → Bool
  | .thread _ => true
  | .piece _ _ _ _ => true
  | _ => false

/-- Fill the TLBs for a waiter. -/
def fillFor (s : State) (w : Waiter) (c : AtsCpl) : State :=
  let e := entryOf w.m w.va c
  let s1 := fillL2 s e
  if w.who.inBay then fillBay s1 w.bay e else s1

/-- Waiters whose page is not usable: commands that skip such pages do so, the others go on to a page request. -/
def unusable (s : State) (f : Fn) (pasid page : Nat) (ws : List Waiter) : State :=
  let skip := fun (w : Waiter) => w.who = .cmd ∧ (match s.running w.m with | some c => c.skips | none => false) = true
  let s1 := foldS (ws.filter (fun w => skip w)) s (fun t w => skipPage t w.m)
  failAll (notUsable s1 f pasid page (ws.filter (fun w => !decide (skip w))))

/-- A completion of a request that no invalidation has overtaken. -/
def atsAnswer (s : State) (a : AtsReq) (c : AtsCpl) : State :=
  if c.status ≠ 0 then failAll (faultAll s a.waiters 1 a.pasid a.f.port 0xFF)
  else
    let good := a.waiters.filter (cplUsable c)
    let s1 := foldS good s (fun t w => fillFor t w c)
    let s2 := unusable s1 a.f a.pasid a.va (a.waiters.filter (fun w => !cplUsable c w))
    foldS good s2 wake

/-- A request in flight ends. -/
def atsEnd (s : State) (f : Fn) (pasid va : Nat) (k : State → AtsReq → State) : State :=
  match s.xlt.ats.find? (fun a => a.is f pasid va) with
  | none => s
  | some a => k { s with xlt := { s.xlt with ats := s.xlt.ats.filter (fun b => !b.is f pasid va) } } a

/-- A message of the host to the translation unit: a core freeze keeps it until thaw (R501), a full freeze has no link. -/
def hostMsg (s : State) (c : Instr) (g : State → State) : State :=
  if ¬ s.on ∨ s.freeze = 2 then s
  else if s.freeze = 1 then { s with dbg := { s.dbg with keptInv := s.dbg.keptInv ++ [c] } }
  else g s

/-- A translation completion: an answer that an invalidation has overtaken is discarded and the request sent again
(R288). -/
def atsDone (s : State) (f : Fn) (pasid va : Nat) (c : AtsCpl) : State :=
  atsEnd s f pasid va (fun t a =>
    if a.stale then foldS a.waiters t (fun u w => atsAsk u f pasid w) else atsAnswer t a c)

/-- ATS_COMPLETION. -/
def execAtsCompletion (f : Fn) (pasid va : Nat) (c : AtsCpl) (s : State) : Host.Outcome State Fault Refusal :=
  .next (hostMsg s (.atsCompletion f pasid va c) (fun s => atsDone s f pasid va c))

/-- ATS_COMPLETION_TIMEOUT. -/
def execAtsCompletionTimeout (f : Fn) (pasid va : Nat) (s : State) : Host.Outcome State Fault Refusal :=
  .next (if ¬ s.thawed then s
    else atsEnd s f pasid va (fun t a => failAll (faultAll t a.waiters 1 pasid f.port 0xFF)))

/-! ### Page requests (R281 to R284) -/

/-- The lowest group index not in use on a function. -/
def State.freeGroup (s : State) (f : Fn) : Nat :=
  let used := s.xlt.prs.filterMap (fun r => if r.f = f then r.group else none)
  ((List.range (used.length + 1)).find? (fun g => !used.contains g)).getD 0

/-- PAGE_REQUEST_SEND: the oldest request of the table on the function is sent once its allocation allows. The table holds
the first 1,024 requests; the others wait at its input (R282). -/
def pageSend (s : State) (f : Fn) : State :=
  let c := s.fn f
  if c.stopped ∨ c.alloc ≤ s.prSent f then s
  else
    match (s.xlt.prs.take 1024).findIdx? (fun r => r.f = f ∧ r.group = none ∧ ¬ r.timedOut) with
    | none => s
    | some i =>
      match s.xlt.prs[i]? with
      | none => s
      | some r =>
        let g := s.freeGroup f
        let s1 : State := { s with xlt := { s.xlt with prs := s.xlt.prs.set i { r with group := some g } } }
        let s2 := s1.emit (.pageReq f r.pasid r.va g (r.waiters.any (fun w => w.acc = .write ∨ w.acc = .update))
          (r.waiters.any (fun w => w.acc = .fetch)))
        let ctx := (r.waiters.head?.map (fun w => w.m % 64)).getD 0xFF
        trace (countEv s2 9 0xFF r.part 1) 6 0xFF r.part ctx g r.va r.pasid

/-- PAGE_REQUEST_SEND. -/
def execPageRequestSend (f : Fn) (s : State) : Host.Outcome State Fault Refusal := .next (whenLive s (fun s => pageSend s f))

/-- A response to a group: the request leaves the table; a response after the timeout is discarded. -/
def groupEnd (s : State) (f : Fn) (g code : Nat) (k : State → PageReq → State × Nat) : State :=
  match s.xlt.prs.find? (fun r => r.f = f ∧ r.group = some g) with
  | none => s
  | some r =>
    let s1 : State := { s with xlt := { s.xlt with prs := s.xlt.prs.filter (fun x => ¬ (x.f = f ∧ x.group = some g)) } }
    let (s2, fid) := if r.timedOut then (s1, 0) else k s1 r
    trace s2 7 0xFF r.part ((r.waiters.head?.map (fun w => w.m % 64)).getD 0xFF) code r.va fid

/-- A waiter returns to step 1 of R279. -/
def retryWaiter (s : State) (w : Waiter) : State :=
  match s.canXlate w.m with
  | none => failAll (faultPart s [w] 5 0 0xFF 0xFF)
  | some (f, pasid) =>
    match l2Hit s w w.who.inBay with
    | some (t, _) => wake t w
    | none => atsAsk s f pasid w

/-- Success: every waiter translates again, the Success counted for its page. -/
def prgOk (s : State) (f : Fn) (group : Nat) : State :=
  groupEnd s f group 0 (fun t r =>
    (foldS r.waiters t (fun u w => retryWaiter u { w with succ := Nat.max w.succ r.successes + 1 }), 0))

/-- PRG_SUCCESS. -/
def execPrgSuccess (f : Fn) (group : Nat) (s : State) : Host.Outcome State Fault Refusal :=
  .next (hostMsg s (.prgSuccess f group) (fun s => prgOk s f group))

/-- Fail the waiters of a page request; the first fault id. -/
def failGroup (s : State) (r : PageReq) (cause resp : Nat) : State × Nat :=
  let x := faultAll s r.waiters cause r.pasid r.f.port resp
  (failAll x, (x.2.head?.map Prod.snd).getD 0)

/-- Invalid Request: the waiters fail with cause 2. -/
def prgInvalid (s : State) (f : Fn) (group : Nat) : State := groupEnd s f group 1 (fun t r => failGroup t r 2 1)

/-- PRG_INVALID_REQUEST. -/
def execPrgInvalidRequest (f : Fn) (group : Nat) (s : State) : Host.Outcome State Fault Refusal :=
  .next (hostMsg s (.prgInvalidRequest f group) (fun s => prgInvalid s f group))

/-- Response Failure: the function's PRI stops and the waiters fail with cause 3. -/
def prgFailure (s : State) (f : Fn) (group : Nat) : State :=
  groupEnd s f group 15 (fun t r => failGroup (t.setFn f { t.fn f with stopped := true }) r 3 15)

/-- PRG_RESPONSE_FAILURE. -/
def execPrgResponseFailure (f : Fn) (group : Nat) (s : State) : Host.Outcome State Fault Refusal :=
  .next (hostMsg s (.prgResponseFailure f group) (fun s => prgFailure s f group))

/-- PRI_TIMEOUT: the waiters fail with cause 6; the request stays in the table without waiters until its response. -/
def execPriTimeout (f : Fn) (group : Nat) (s : State) : Host.Outcome State Fault Refusal :=
  .next (if s.fld rXltCfg fXltCfgPriTimeout = 0 ∨ ¬ s.thawed then s
    else
      match s.xlt.prs.findIdx? (fun r => r.f = f ∧ r.group = some group ∧ ¬ r.timedOut) with
      | none => s
      | some i =>
        match s.xlt.prs[i]? with
        | none => s
        | some r =>
          (failGroup { s with xlt := { s.xlt with prs := s.xlt.prs.set i { r with waiters := [], timedOut := true } } } r 6
            0xFF).1)

/-- PRI_RESET: PRI resumes and its group indices are cleared; requests that still have waiters are sent again. -/
def execPriReset (f : Fn) (s : State) : Host.Outcome State Fault Refusal :=
  .next (
    let t := s.setFn f { s.fn f with stopped := false }
    { t with xlt := { t.xlt with prs := (t.xlt.prs.filter (fun r => ¬ (r.f = f ∧ r.timedOut))).map (fun r =>
        if r.f = f then { r with group := none } else r) } })

/-! ### Invalidation (R286 to R288) -/

/-- Contexts bound to a function, and to a PASID where one is named. -/
def State.boundTo (s : State) (f : Fn) (pasid : Option Nat) : List Nat :=
  (List.range 1024).filter (fun m => match s.binding m with
    | some (g, q) => decide (g = f) && (match pasid with | some x => decide (q = x) | none => true)
    | none => false)

/-- The entry overlaps a range of addresses. -/
def TlbEnt.overlaps (e : TlbEnt) (base size : Nat) : Bool := e.va < base + size && base < e.va + e.span

/-- The pieces of contexts that hold translations of a range: queue, tile, index, and whether they are in step 4. -/
def State.piecesHolding (s : State) (ctxs : List Nat) (base size : Nat) : List (Nat × Nat × Nat × Bool) :=
  s.cmp.opq.flatMap (fun e => e.2.flatMap (fun t =>
    if ctxs.contains (64 * t.part + t.ctx) then
      t.pieces.zipIdx.filterMap (fun p =>
        match p.1.ph with
        | .placed _ _ => if p.1.trans.any (fun x => x.overlaps base size) then some (e.1, t.id, p.2, true) else none
        | .translated => if p.1.trans.any (fun x => x.overlaps base size) then some (e.1, t.id, p.2, false) else none
        | _ => none)
    else []))

/-- ATS_INVALIDATE: entries removed, L1s invalidated, requests in flight overtaken; the completion waits (R287). -/
def invalidate (s : State) (f : Fn) (pasid : Option Nat) (base size itag : Nat) : State :=
  let ctxs := s.boundTo f pasid
  let s1 := tlbRemove s (fun e => ctxs.contains (64 * e.part + e.ctx) && e.overlaps base size)
  let parts := (ctxs.map (· / 64)).eraseDups
  let cells := parts.flatMap (fun p => (s.baysOf p).flatMap s.bayThreadCells)
  let s2 := foldS cells s1 l1Invalidate
  let hit := fun (a : AtsReq) => a.f = f && (match pasid with | some x => decide (a.pasid = x) | none => true) &&
    decide (a.va < base + size ∧ base < a.va + 4096)
  let s3 : State := { s2 with xlt := { s2.xlt with
    ats := s2.xlt.ats.map (fun a => if hit a then { a with stale := true } else a) } }
  let held := s3.piecesHolding ctxs base size
  let s4 := foldS (held.filter (fun e => !e.2.2.2)) s3 (fun t e =>
    updPiece t (e.1 / 4) (e.1 % 4) e.2.1 e.2.2.1 (fun p => { p with ph := .unstarted, trans := [] }))
  let busy := (held.filter (fun e => e.2.2.2)).map (fun e => (e.1 / 4, e.1 % 4, e.2.1, e.2.2.1))
  { s4 with xlt := { s4.xlt with invs := s4.xlt.invs ++ [⟨f, itag, ctxs, s4.cmp.clock, busy⟩] } }

/-- ATS_INVALIDATE. -/
def execAtsInvalidate (f : Fn) (pasid : Option Nat) (base size itag : Nat) (s : State) : Host.Outcome State Fault Refusal :=
  .next (hostMsg s (.atsInvalidate f pasid base size itag) (fun s => invalidate s f pasid base size itag))

/-- A message kept during a core freeze is applied (R501). -/
def applyKept (s : State) : Instr → State
  | .atsCompletion f q va c => atsDone s f q va c
  | .prgSuccess f g => prgOk s f g
  | .prgInvalidRequest f g => prgInvalid s f g
  | .prgResponseFailure f g => prgFailure s f g
  | .atsInvalidate f q base size itag => invalidate s f q base size itag
  | _ => s

/-- An access of a thread that was issued before a stamp is still in flight. -/
def Thread.inFlight (x : Thread) (stamp : Nat) : Bool :=
  x.stores.any (fun e => e.seq ≤ stamp) ||
  (match x.st with
   | .waiting (.data _ _ _ _ _ _ q) => q ≤ stamp
   | .waiting (.flagReply _ _ _ q) => q ≤ stamp
   | _ => false)

/-- A piece in step 4 has not ended. -/
def State.pieceBusy (s : State) (e : Nat × Nat × Nat × Nat) : Bool :=
  match (s.tile (4 * e.1 + e.2.1) e.2.2.1).bind (fun t => t.pieces[e.2.2.2]?) with
  | some p => (match p.ph with | .placed _ _ => true | _ => false)
  | none => false

/-- INVALIDATE_COMPLETION: once every access that used a removed entry has been performed. -/
def execInvalidateCompletion (f : Fn) (itag : Nat) (s : State) : Host.Outcome State Fault Refusal :=
  .next (match s.xlt.invs.find? (fun i => i.f = f ∧ i.itag = itag) with
    | none => s
    | some i =>
      if s.cmp.thr.any (fun e => i.ctxs.contains e.2.m && e.2.inFlight i.stamp) ∨ i.pieces.any s.pieceBusy then s
      else ({ s with xlt := { s.xlt with invs := s.xlt.invs.erase i } }).emit (.invDone f itag))

/-! ### Commands (R290 to R293) -/

/-- The waiter of a command descriptor read. -/
def cmdWaiter (m : Nat) (desc : Word) : Waiter := ⟨.cmdDesc desc, m, desc.toNat / 64 * 64, .read, 0, 0⟩

/-- A write of XLT_CMD_DB_m. -/
def cmdDoor (s : State) (m : Nat) (desc : Word) : State :=
  let x := s.cmdq m
  if ¬ s.enabled ∨ 16 ≤ x.queue.length then refuseCmd s m 1
  else askRead (s.setCmdq m { x with reading := x.reading ++ [desc] }) (cmdWaiter m desc)

/-- CMD_DOORBELL. -/
def execCmdDoorbell (f : Fn) (m : Nat) (desc : Word) (s : State) : Host.Outcome State Fault Refusal :=
  .next (whenReached s f (rXltCmdDb m) (fun s => cmdDoor s m desc))

/-- The fields of a command descriptor. -/
def cmdOf (d : List Byte) : Cmd := ⟨leAt d 0 1, leAt d 1 1, leAt d 8 8, leAt d 16 8, leAt d 24 8, leAt d 32 8, 0, 0, none, none⟩

/-- Refusal code of a command descriptor, 0 when it is accepted (R291). -/
def State.cmdCode (s : State) (m : Nat) (d : List Byte) : Nat :=
  let c := cmdOf d
  let flagsBad := if c.kind = 1 then c.flags / 4 ≠ 0 else if c.kind = 2 then c.flags % 2 ≠ 0 ∨ c.flags / 8 ≠ 0 ∨ c.flags / 2 = 3
    else c.flags % 8 ≠ 0 ∨ c.flags / 64 ≠ 0
  if 16 ≤ (s.cmdq m).queue.length then 1
  else if c.kind = 0 ∨ 3 < c.kind ∨ flagsBad ∨ leAt d 2 6 ≠ 0 ∨ leAt d 40 24 ≠ 0 ∨ (c.kind ≠ 2 ∧ c.dst ≠ 0) then 3
  else
    let g := if c.kind = 2 then 128 else 4096
    if c.base % g ≠ 0 ∨ c.len % g ≠ 0 ∨ c.dst % g ≠ 0 ∨ c.len = 0 ∨ 2 ^ 40 < c.len ∨ c.doneFlag % 8 ≠ 0 then 4
    else if c.kind = 2 ∧ c.base < c.dst + c.len ∧ c.dst < c.base + c.len then 5
    else 0

/-- A command descriptor read has ended. -/
def cmdRead (s : State) (m : Nat) (desc : Word) (g : Option (List Byte)) : State :=
  let x := s.cmdq m
  let s1 := s.setCmdq m { x with reading := x.reading.erase desc }
  match g with
  | none => refuseCmd s1 m 2
  | some d =>
    let code := s1.cmdCode m d
    if code = 0 then
      let y := s1.cmdq m
      (s1.setCmdq m { y with queue := y.queue ++ [cmdOf d] }).addMod (rXltCmdStat m) fXltCmdStatAccepted 1
    else refuseCmd s1 m code

/-- CMD_DESC_READ_DONE: the oldest descriptor read of the context ends, once its translation has. -/
def execCmdDescReadDone (m : Nat) (desc : ReadData) (s : State) : Host.Outcome State Fault Refusal :=
  .next (whenLive s (fun s =>
    match (s.cmdq m).reading with
    | [] => s
    | a :: _ =>
      match unitRead s (cmdWaiter m a) 64 desc with
      | (u, .pending) => u
      | (u, .failed) => cmdRead u m a none
      | (u, .bytes d) => cmdRead u m a (some d)))

/-- A translation of the running command is pending. -/
def State.cmdWaits (s : State) (m : Nat) : Bool :=
  let mine := fun (w : Waiter) => decide (w.who = .cmd ∧ w.m = m)
  s.xlt.ats.any (fun a => a.waiters.any mine) || s.xlt.prs.any (fun r => r.waiters.any mine)

/-- One step of the running command of a kind, at the position it has reached. -/
def cmdStep (s : State) (m kind : Nat) (k : State → Cmd → State) : State :=
  whenLive s (fun s =>
    match s.running m with
    | none => s
    | some c => if c.kind ≠ kind ∨ c.len ≤ c.pos ∨ s.cmdWaits m then s else k s c)

/-- Translate an address for the running command; a fault ends it with status 1. -/
def cmdXlate (s : State) (m va : Nat) (acc : Acc) (k : State → Phys → State) : State :=
  match translate s ⟨.cmd, m, va % 2 ^ 64, acc, 0, 0⟩ false with
  | (u, .ok p) => k u p
  | (u, .pending) => u
  | (u, .fault _) => updCmd u m (fun c => { c with ended := 2 })

/-- XLAT: one page of the range into the second-level TLB. -/
def execXlat (m : Nat) (s : State) : Host.Outcome State Fault Refusal :=
  .next (cmdStep s m 1 (fun s c =>
    cmdXlate s m (c.base + c.pos) (if nbit c.flags 1 then .write else .read) (fun u _ =>
      updCmd u m (fun x => { x with pos := x.pos + 4096 }))))

/-- The source line of a COPY: its content and poison once it is there. -/
def copySource (s : State) (m : Nat) (c : Cmd) (p : Phys) (src : Line) (ep : Bool) : State × Option (Line × BitVec 4) :=
  match p with
  | .hbm a =>
    let (u, r) := engineRead s (.command m) a 0
    (u, some (r.data, if r.status = 0 then r.poison else 0xF))
  | .remote f =>
    match s.replicaOf f, c.got with
    | some a, none =>
      let (u, r) := engineRead s .placement a 0
      (u, some (r.data, if r.status = 0 then r.poison else 0xF))
    | _, some x => if c.asked = some (lineAddr f) then (s, some x) else (s, none)
    | none, none =>
      if c.asked = some (lineAddr f) then (s, none)
      else (remoteAsk (updCmd s m (fun x => { x with asked := some (lineAddr f) })) (.command m) (readMsg f (m / 64) 0), none)
  | .host port b _ _ => (s.emit (.hostRead port b 128), some (src, if ep then 0xF else 0))
  | .bad a => (addrError s 5 false a, some (0, 0xF))

/-- Write a destination line of a COPY as one full-line plain write. -/
def copyWrite (s : State) (m hint : Nat) (p : Phys) (d : Line) (poison : BitVec 4) : State :=
  match p with
  | .hbm a => (engineWrite s (.command m) a hint (BitVec.allOnes 128) d poison).1
  | .remote f => remoteAsk s (.command m) (writeMsg f (m / 64) hint (BitVec.allOnes 128) d poison)
  | .host port b _ _ => s.emit (.hostWrite port b ((toBytes d 128).map some) (poison ≠ 0))
  | .bad a => addrError s 5 true a

/-- COPY: one line of the range. -/
def execCopy (m : Nat) (src : Line) (ep : Bool) (s : State) : Host.Outcome State Fault Refusal :=
  .next (cmdStep s m 2 (fun s c =>
    cmdXlate s m (c.base + c.pos) .read (fun u p =>
      cmdXlate u m (c.dst + c.pos) .write (fun v q =>
        match copySource v m c p src ep with
        | (x, none) => x
        | (x, some (d, poison)) =>
          copyWrite (updCmd x m (fun y => { y with pos := y.pos + 128, asked := none, got := none })) m (nbits c.flags 1 2) q d
            poison))))

/-- ADVISE: one page of the range. -/
def execAdvise (m : Nat) (s : State) : Host.Outcome State Fault Refusal :=
  .next (cmdStep s m 3 (fun s c =>
    cmdXlate s m (c.base + c.pos) .read (fun u p =>
      match p with
      | .hbm a =>
        let v := updCmd u m (fun x => { x with pos := x.pos + 4096 })
        let rec_ := nbits c.flags 3 3
        if v.adviceOf (regionOf a) = rec_ then v
        else { v with plc := { v.plc with advice := (regionOf a, 1, rec_) :: v.plc.advice } }
      | _ => skipPage u m)))

/-- CMD_END: the running command ends once its range is done and its writes are performed, or with its first fault; its
completion flag takes an add (R293). -/
def execCmdEnd (m : Nat) (s : State) : Host.Outcome State Fault Refusal :=
  .next (whenLive s (fun s =>
    match (s.cmdq m).queue with
    | [] => s
    | c :: rest =>
      let bad := c.ended = 2
      if ¬ bad ∧ c.pos < c.len ∨ s.ral.reqs.any (fun r => r.who = .command m ∧ r.msg.typ = 3) then s
      else
        let s1 := s.setCmdq m { s.cmdq m with queue := rest }
        let s2 := if bad then raise s1 (rXltCmdStat m) fXltCmdStatErrored else s1
        if c.doneFlag = 0 then s2 else post s2 m [.add c.doneFlag (doneValue (!decide bad))]))

end Sys2Proof.Machine
end

