-- ==== Sys2Proof/Machine/Seal.lean ====
section
/-! DEFINITION. Sealing and partitions (chapter 14): SEAL, ROTATE, ERASE, DEBUGKEY, IMPORT and decant, and the operator's
registers for them. -/

namespace Sys2Proof.Machine

open Sys2Proof

/-! ### Shared steps of SEAL and ERASE (R425, R438) -/

/-- The security state of a partition as held, open and empty where nothing is held. -/
def SecPart.initial : SecPart := ⟨1, 0, 0, [], 0, 0, 0, 0, [], 0, 0, none, none, [], [], 0, none, 0, 0, none⟩

/-- The security state of a partition. -/
def State.secPart (s : State) (p : Nat) : SecPart := smGetD s.sec.parts p SecPart.initial

/-- Store the security state of a partition. -/
def State.setSecPart (s : State) (p : Nat) (q : SecPart) : State :=
  { s with sec := { s.sec with parts := smSet s.sec.parts p q } }

/-- Does SECU make the partition sealable, and its decant share (R315)? -/
def State.secuOf (s : State) (p : Nat) : Option (Bool × Nat) :=
  (s.bup.blend.bind (fun b => b.secu.find? (fun e => e.1 = p))).map Prod.snd

/-- Step 2 of R425: every context of the partition is aborted, and the queued tiles of its bays and the commands of its
contexts are discarded without a flag. An operation of CMP_CTX_CTRL under way for a context ends with result 2 (DESIGN
CHOICE, assumption log 40). -/
def abortPart (s : State) (p : Nat) (bays : List Nat) : State :=
  let s1 := foldS ((List.range 64).map (fun c => 64 * p + c)) s (fun u m =>
    let op := (u.context m).op
    let v := abortCtx u m
    if op ≠ 0 then ctxResult v 2 else v)
  let s2 := dropWaiters s1 (fun w => match w.who with
    | .piece b _ _ _ => bays.contains b
    | .cmd => w.m / 64 = p
    | .cmdDesc _ => w.m / 64 = p
    | _ => false)
  { s2 with
    cmp := { s2.cmp with opq := smKeep s2.cmp.opq (fun k => !bays.contains (k / 4)) }
    xlt := { s2.xlt with cmds := smKeep s2.xlt.cmds (fun m => m / 64 ≠ p) } }

/-- Cell-store words of bays lose their valid bits; the L1 lines they held go with them (DEDUCED, assumption log 41). -/
def clearStores (s : State) (bays : List Nat) : State :=
  let mine := fun (cell : Nat) => bays.contains (bayOfCell cell)
  { s with cmp := { s.cmp with
    cs := s.cmp.cs.map (fun e => if mine (e.1 / 16384) then (e.1, { e.2 with valid := false, poison := false }) else e)
    l1 := smKeep s.cmp.l1 (fun c => !mine c) } }

/-- Cellar lines of a share are dropped without write-back, with the data that a channel has delivered for a line of it. -/
def dropShare (s : State) (base len : Nat) : State :=
  let s1 := dropLines s base len
  { s1 with cel := { s1.cel with fillq := s1.cel.fillq.map (fun f =>
    if base ≤ f.addr ∧ f.addr < base + len then { f with valid := false, data := 0, poison := 0 } else f) } }

/-- Rewrite the sidecar entries of a share with valid = 0; the data halves stay as they are. -/
def clearBlocks (s : State) (base len : Nat) (mac : Nat → Block → BitVec 56) : State :=
  let mine := s.hbm.blocks.filter (fun e => base ≤ e.2.addr ∧ e.2.addr < base + len)
  foldS mine s (fun u e =>
    let b := e.2.clear
    u.putBlock b.addr { b with mac := mac b.addr b })

/-- Ask every sharer of the regions of a share to drop its replica (R258, R261). -/
def invalShare (s : State) (base len : Nat) : State :=
  let ds := s.plc.dir.filter (fun d => base ≤ d.region * 65536 ∧ d.region * 65536 < base + len ∧ d.waiting = 0)
  foldS ds s (fun u d =>
    let tag := u.ral.nextTag % 65536
    let d1 := { d with waiting := d.sharers, tag := tag }
    let u1 : State := { u with
      plc := { u.plc with dir := u.plc.dir.map (fun x => if x.region = d.region then d1 else x) }
      ral := { u.ral with nextTag := tag + 1 } }
    foldS (ones d.sharers.toNat 16) u1 (fun t k =>
      (ralRoute t { replMsg 0x0C tag (t.stackAddr k + d.region * 65536) with
        srcT := t.trellisId, srcS := t.stackId }).1))

/-- Steps 4 and 5 of R425 on the share of the PART record at SEAL: a cleared block has keygen 0 and the MAC that
generation 1 gives it. -/
def sealClear (s : State) (q : SecPart) : State :=
  match q.part with
  | none => s
  | some r =>
    let mac := fun (a : Nat) (b : Block) => match q.key 1 with | some k => sealMac q k a b 0 0 | none => 0
    clearBlocks (clearStores (dropShare s r.base r.len) (ones r.bays.toNat 32)) r.base r.len mac

/-- A fresh data key of a generation (R411, R414). -/
def newKey (s : State) (g : Nat) : State × DataKey :=
  let (s1, a) := draw s
  let (s2, b) := draw s1
  (s2, ⟨g, a, b.extractLsb' 0 256⟩)

/-! ### SPDM answers -/

/-- ERROR with its code. The codes are those of DSP0274 (PRESUMED, assumption log 42): 3 Busy, 5 Unspecified,
6 DecryptError, 7 UnsupportedRequest, 0x0A SessionLimitExceeded, 0x42 ResponseNotReady. -/
def spdmError (s : State) (f : Fn) (code : Nat) : State := s.emit (.spdm f 0x7F (natBytes code 1))

/-- The response of a Nornewin command (R418). -/
def vendorAnswer (s : State) (f : Fn) (cmd p result : Nat) (more : List Byte) : State :=
  s.emit (.spdm f 0x7E ([BitVec.ofNat 8 cmd, BitVec.ofNat 8 p, BitVec.ofNat 8 result] ++ more))

/-- A result that waits for RESPOND_IF_READY (R418). -/
def keepAnswer (s : State) (f : Fn) (cmd p result : Nat) : State :=
  { s with sec := { s.sec with ready := s.sec.ready ++ [(f, 0x7E, [BitVec.ofNat 8 cmd, BitVec.ofNat 8 p, BitVec.ofNat 8 result])] } }

/-- A request to the Askala engine through a mailbox: before the identity key exists, and in S3, it is answered Busy
(R417, R456). -/
def spdmReq (s : State) (f : Fn) (k : State → State) : State :=
  if ¬ (s.on ∧ s.freeze ≠ 2) then s
  else if ¬ s.sec.idReady ∨ s.pwr.state = 3 then spdmError s f 3
  else k s

/-- A request inside an established session of the function; outside one it is no request of R417. -/
def inSession (s : State) (f : Fn) (sess : Nat) (k : State → State) : State :=
  spdmReq s f (fun s =>
    if s.sec.sessions.any (fun x => x.id = sess ∧ x.f = f ∧ x.established) then k s else spdmError s f 7)

/-! ### SEAL (R418, R424, R425) -/

/-- Fields of a SEAL request that keep the table of R424. -/
def State.sealFields (s : State) (r : Part) (req : List Byte) : Bool :=
  let base := leAt req 8 8
  let len := leAt req 16 8
  let peers := (sliceB req 56 16).map BitVec.toNat
  req.length = 72 && leAt req 2 6 = 0 &&
  base % 2097152 = 0 && len % 2097152 = 0 && len ≠ 0 && r.base ≤ base && base + len ≤ r.base + r.len &&
  peers.all (fun x => x < 16 || x = 0xFF) && peers.getD s.stackId 0 = 0xFF

/-- The result of a SEAL request before it acts: 0 accepted, else 1 to 6 in that order. -/
def State.sealResult (s : State) (f : Fn) (p : Nat) (req : List Byte) : Nat :=
  match s.part p, s.secuOf p with
  | some r, some (true, _) =>
    if s.secState p ≠ 1 then 2
    else if ¬ s.sealFields r req then 3
    else if s.fld rDbgLevel fDbgLevelLevel = 3 ∨ s.dbg.d3Wait then 4
    else if s.sec.rngFail then 5
    else if ¬ s.mapped p f then 6
    else 0
  | _, _ => 1

/-- An accepted SEAL: the partition enters sealing, its work is aborted, its replicas go, its caches and sidecars are
cleared, and its keys are drawn (R425 steps 1 to 6). -/
def sealStart (s : State) (f : Fn) (p : Nat) (req : List Byte) : State :=
  let r := s.part p
  let s0 := s.setSecPart p { SecPart.initial with
    state := 2
    part := r
    snapKey := (s.bup.blend.map Blend.key).getD []
    snapOpers := s.opers p
    snapDecant := ((s.secuOf p).map Prod.snd).getD 0
    waitFn := some f }
  let bays := (r.map (fun x => ones x.bays.toNat 32)).getD []
  let s1 := abortPart s0 p bays
  let s2 := dropReplicas s1 (fun x => x.part = p)
  let s3 := match r with | some x => invalShare s2 x.base x.len | none => s2
  let w := fPlcWorkCfgPoolRegions.put (fPlcWorkCfgReplEn.put (s3.reg (rPlcWorkCfg p)) 0) 0
  let s4 := s3.setReg (rPlcWorkCfg p) w
  let cfg := fPlcWorkCfgPoolRegions.put (fPlcWorkCfgReplEn.put (s4.plcCfg (rPlcWorkCfg p)) 0) 0
  let s5 : State := { s4 with plc := { s4.plc with cfg := smSet s4.plc.cfg (rPlcWorkCfg p) cfg } }
  let (s6, k) := newKey s5 1
  let (s7, d) := draw s6
  let q : SecPart := { s7.secPart p with
    keys := [k]
    importKey := BitVec.ofNat 256 (leAt req 24 32)
    debugKey := d.extractLsb' 0 256
    base := leAt req 8 8
    len := leAt req 16 8
    peers := (sliceB req 56 16).map BitVec.toNat
    latchT := s7.trellisId
    latchS := s7.stackId }
  sealClear (s7.setSecPart p q) q

/-- SEAL. A Nornewin command in S1 to S3 or in transit has result 2 (R456). -/
def execSeal (f : Fn) (sess : Nat) (req : List Byte) (s : State) : Host.Outcome State Fault Refusal :=
  .next (inSession s f sess (fun s =>
    let p := leAt req 1 1
    let c := if s.asleep then 2 else s.sealResult f p req
    if c ≠ 0 then vendorAnswer s f 1 p c [] else spdmError (sealStart s f p req) f 0x42))

/-- The aborts of a SEAL have ended: no write of an ended task waits, and no sharer still has to acknowledge. -/
def State.sealReady (s : State) (p : Nat) : Bool :=
  let q := s.secPart p
  q.state = 2 && s.cmp.posts.all (fun x => x.m / 64 ≠ p) &&
  (match q.part with
   | some r => s.plc.dir.all (fun d => d.region * 65536 < r.base || r.base + r.len ≤ d.region * 65536)
   | none => true)

/-- Step 7 of R425. What other requesters have written to the share since the request is cleared again, so that the
sealed share starts empty (DEDUCED, assumption log 43). -/
def sealComplete (p : Nat) (s : State) : State :=
  if ¬ s.sealReady p then s
  else
    let q := s.secPart p
    let s1 := sealClear s q
    let s2 := s1.setSecPart p { q with state := 3, writeGen := 1, waitFn := none }
    let s3 := raise s2 (rSecPartEvent p) fSecPartEventSealed
    match q.waitFn with
    | some f => keepAnswer s3 f 1 p 0
    | none => s3

/-- SEAL_COMPLETE. -/
def execSealComplete (p : Nat) (s : State) : Host.Outcome State Fault Refusal :=
  .next (if s.on then sealComplete p s else s)

/-! ### ROTATE and decant (R434 to R436) -/

/-- The result of a ROTATE in the codes of R418. -/
def State.rotateResult (s : State) (p : Nat) : Nat :=
  if ¬ s.sealed p then 2 else if s.sec.rngFail then 5 else if (s.secPart p).oldGen ≠ 0 then 7 else 0

/-- An accepted ROTATE (R434). -/
def rotate (s : State) (p : Nat) : State :=
  let q := s.secPart p
  let n := q.writeGen % 3 + 1
  let (s1, k) := newKey s n
  s1.setSecPart p { q with
    keys := q.keys ++ [k]
    oldGen := q.writeGen
    writeGen := n
    decant := some ((q.part.map Part.base).getD 0) }

/-- A Nornewin command that names a partition: the function is judged last of the checks that precede result 7. -/
def partCommand (s : State) (f : Fn) (sess cmd p : Nat) (result : State → Nat) (k : State → State) : State :=
  inSession s f sess (fun s =>
    let c := if s.asleep then 2 else result s
    if c ≠ 0 ∧ c ≠ 7 then vendorAnswer s f cmd p c []
    else if ¬ s.mapped p f then vendorAnswer s f cmd p 6 []
    else if c = 7 then vendorAnswer s f cmd p 7 []
    else k s)

/-- ROTATE. -/
def execRotate (f : Fn) (sess p : Nat) (s : State) : Host.Outcome State Fault Refusal :=
  .next (partCommand s f sess 2 p (fun s => s.rotateResult p) (fun s => vendorAnswer (rotate s p) f 2 p 0 []))

/-- DEBUGKEY: the key is in bytes 4 to 35 of the answer (R418). -/
def execDebugkey (f : Fn) (sess p : Nat) (s : State) : Host.Outcome State Fault Refusal :=
  .next (partCommand s f sess 4 p (fun s => if s.sealed p then 0 else 2)
    (fun s => vendorAnswer s f 4 p 0 (0 :: toBytes (s.secPart p).debugKey 32)))

/-- Decant of one block (R436): rewritten under the write generation, a poisoned block or one whose MAC fails as zeros
with its poison bit. -/
def decantBlock (s : State) (p a : Nat) (errs : List SymErr) : State :=
  let q := s.secPart p
  let b := s.block a
  if ¬ b.valid ∨ b.keygen ≠ q.oldGen then s
  else if s.chanFailed a then lostWrite s a
  else
    let halves := (List.range 2).filter (fun h => !b.zero h)
    let s1 := countBursts (touchSidecar s a true) a (2 + 8 * halves.length)
    let (s2, d0, d1, bad) := if b.poison then (s1, (0 : Line), (0 : Line), true) else readBlock s1 a [0, 1] errs
    match q.key q.writeGen with
    | none => s2
    | some k =>
      let plain := fun (h : Nat) (d : Line) => if bad then (0 : Line) else s2.plainHalf a h b d
      let half := fun (h : Nat) (d : Line) => if b.zero h then b.half h else xtsHalf true q k a h (plain h d)
      let n : Block := { s2.block a with
        keygen := q.writeGen
        half0 := half 0 d0
        half1 := half 1 d1
        poison := bad }
      s2.putBlock a (s2.withMac a n)

/-- One step of the walk; at its end the old keys are erased (R436). -/
def decantStep (p : Nat) (errs : List SymErr) (s : State) : State :=
  let q := s.secPart p
  match q.decant, q.part with
  | some a, some r =>
    let s1 := decantBlock s p a errs
    if a + 256 < r.base + r.len then s1.setSecPart p { q with decant := some (a + 256) }
    else
      raise (s1.setSecPart p { q with
        decant := none
        keys := q.keys.filter (fun k => k.gen ≠ q.oldGen)
        oldGen := 0 }) (rSecPartEvent p) fSecPartEventDecantDone
  | _, _ => s

/-- DECANT_STEP: paused in a compute reset, in S1 to S3 and in a freeze. -/
def execDecantStep (p : Nat) (errs : List SymErr) (s : State) : Host.Outcome State Fault Refusal :=
  .next (whenLive s (fun s => if s.sealed p then decantStep p errs s else s))

/-! ### ERASE (R438) -/

/-- IMPORT of a partition ends with a result. -/
def importEnd (s : State) (p result : Nat) : State :=
  if (s.secPart p).imp = none then s
  else
    let s1 := s.setSecPart p { s.secPart p with imp := none }
    (s1.setFld (rSecImpCtrl p) fSecImpCtrlBusy 0).setFld (rSecImpCtrl p) fSecImpCtrlResult result

/-- Steps 1 to 6 of R438. -/
def eraseNow (s : State) (p : Nat) : State :=
  let q0 := s.secPart p
  let r := q0.part
  let bays := (r.map (fun x => ones x.bays.toNat 32)).getD []
  let s1 := importEnd s p 7
  let s2 := abortPart s1 p bays
  let s3 := match r with
    | some x => clearBlocks (clearStores (dropShare s2 x.base x.len) bays) x.base x.len (fun _ _ => 0)
    | none => s2
  let q : SecPart := { s3.secPart p with
    state := 4
    writeGen := 0
    oldGen := 0
    keys := []
    importKey := 0
    debugKey := 0
    decant := none
    waitFn := none }
  raise (s3.setSecPart p q) (rSecPartEvent p) fSecPartEventErased

/-- ERASE: it may take more than 1 ms, so its result goes to RESPOND_IF_READY. -/
def execErase (f : Fn) (sess p : Nat) (s : State) : Host.Outcome State Fault Refusal :=
  .next (partCommand s f sess 3 p (fun s => if s.sealed p then 0 else 2)
    (fun s => keepAnswer (spdmError (eraseNow s p) f 0x42) f 3 p 0))

/-- The storage that the background overwrite of step 7 has still to zero: a block with valid = 0 that holds data, or a
cell-store word of the partition's bays whose valid bit is clear. -/
def State.leftovers (s : State) (p : Nat) : List Nat × List Nat :=
  match (s.secPart p).part with
  | none => ([], [])
  | some r =>
    ((s.hbm.blocks.filter (fun e => r.base ≤ e.2.addr ∧ e.2.addr < r.base + r.len ∧ ¬ e.2.valid)).map Prod.fst,
      (s.cmp.cs.filter (fun e => r.bays.getLsbD (bayOfCell (e.1 / 16384)) && !e.2.valid)).map Prod.fst)

/-- One overwrite step; once nothing is left the partition enters open. -/
def overwriteStep (p : Nat) (s : State) : State :=
  if (s.secPart p).state ≠ 4 then s
  else
    let s1 : State := match s.leftovers p with
      | (b :: _, _) => { s with hbm := { s.hbm with blocks := smDel s.hbm.blocks b } }
      | ([], c :: _) => { s with cmp := { s.cmp with cs := smDel s.cmp.cs c } }
      | ([], []) => s
    if s1.leftovers p = ([], []) then { s1 with sec := { s1.sec with parts := smDel s1.sec.parts p } } else s1

/-- ERASE_OVERWRITE_STEP. -/
def execEraseOverwriteStep (p : Nat) (s : State) : Host.Outcome State Fault Refusal :=
  .next (whenLive s (overwriteStep p))

/-! ### The operator's register (R445) -/

/-- The result of SEC_PART_CTRL_p. -/
def partCtrlResult (s : State) (p r : Nat) : State := s.setFld (rSecPartCtrl p) fSecPartCtrlResult r

/-- A go of SEC_PART_CTRL_p served: ROTATE, ERASE, or no operation. A ROTATE refused for the random source gives wrong
state (DESIGN CHOICE, assumption log 44). -/
def partCtrlRun (s : State) (p op : Nat) : State :=
  if op = 1 then
    let c := s.rotateResult p
    if c = 0 then partCtrlResult (rotate s p) p 1
    else partCtrlResult s p (if c = 7 then 3 else 2)
  else if op = 2 then
    if s.sealed p then partCtrlResult (eraseNow s p) p 1 else partCtrlResult s p 2
  else partCtrlResult s p 5

/-- A write of go: kept while a compute reset is in progress; wrong state in S1 to S3 and in transit (R456). -/
def partCtrlGo (s : State) (f : Fn) (p op : Nat) : State :=
  let s0 := s.setFld (rSecPartCtrl p) fSecPartCtrlOp op
  if s.asleep then partCtrlResult s0 p 2
  else if s.bup.cresetRun then { s0 with sec := { s0.sec with deferred := s0.sec.deferred ++ [(p, op, f)] } }
  else partCtrlRun s0 p op

/-- PART_CTRL_ROTATE. -/
def execPartCtrlRotate (f : Fn) (p : Nat) (s : State) : Host.Outcome State Fault Refusal :=
  .next (whenReached s f (rSecPartCtrl p) (fun s => partCtrlGo s f p 1))

/-- PART_CTRL_ERASE. -/
def execPartCtrlErase (f : Fn) (p : Nat) (s : State) : Host.Outcome State Fault Refusal :=
  .next (whenReached s f (rSecPartCtrl p) (fun s => partCtrlGo s f p 2))

/-- PART_CTRL_BAD_OP: op 0 or 3. -/
def execPartCtrlBadOp (f : Fn) (p op : Nat) (s : State) : Host.Outcome State Fault Refusal :=
  .next (whenReached s f (rSecPartCtrl p) (fun s => if op = 0 ∨ op = 3 then partCtrlGo s f p op else s))

/-! ### IMPORT (R427) -/

/-- Bytes of a chunk with its tag. -/
def chunkLen : Nat := 65552

/-- Ask the host for the next chunk of an import, through the starting function's port. -/
def importAsk (s : State) (f : Fn) (p i : Nat) : State :=
  s.emit (.hostRead f.port (16 * s.fld (rSecImpSrc p) fSecImpSrcAddr + chunkLen * i) chunkLen)

/-- The destination and the length of an import in bytes. -/
def State.importRange (s : State) (p : Nat) : Nat × Nat :=
  (65536 * s.fld (rSecImpDst p) fSecImpDstDst, 65536 * s.fld (rSecImpLen p) fSecImpLenLen)

/-- A served go of SEC_IMP_CTRL_p. -/
def importRun (s : State) (f : Fn) (p : Nat) : State :=
  let r := rSecImpCtrl p
  let q := s.secPart p
  let (dst, len) := s.importRange p
  if q.imp.isSome then s
  else
    let s1 := s.setFld r fSecImpCtrlChunks 0
    if ¬ s.sealed p then s1.setFld r fSecImpCtrlResult 2
    else if len = 0 ∨ dst < q.base ∨ q.base + q.len < dst + len then s1.setFld r fSecImpCtrlResult 3
    else
      let s2 := (s1.setFld r fSecImpCtrlResult 0).setFld r fSecImpCtrlBusy 1
      importAsk (s2.setSecPart p { q with imp := some (f, 0), impDst := dst, impLen := len }) f p 0

/-- A go of SEC_IMP_CTRL_p: ignored while busy, kept while a compute reset is in progress. -/
def importGo (s : State) (f : Fn) (p : Nat) : State :=
  if s.bup.cresetRun then { s with sec := { s.sec with deferred := s.sec.deferred ++ [(p, 4, f)] } }
  else importRun s f p

/-- IMPORT. -/
def execImportGo (f : Fn) (p : Nat) (s : State) : Host.Outcome State Fault Refusal :=
  .next (whenReached s f (rSecImpCtrl p) (fun s => importGo s f p))

/-- The plaintext of a chunk at a destination offset, if its tag verifies. -/
def chunkPlain (key : BitVec 256) (off : Nat) (bytes : List Byte) : Option (List Byte) :=
  let k := toBytes key 32
  let iv := beBytes (off / 65536) 8 ++ natBytes 0 4
  let ct := bytes.take 65536
  if gcmTag k iv (natBytes off 8) ct = bytes.drop 65536 then some (gcmCrypt k iv ct) else none

/-- A chunk of the import has been read (R427). -/
def importChunk (p : Nat) (chunk : ReadData) (s : State) : State :=
  let q := s.secPart p
  match q.imp with
  | none => s
  | some (f, i) =>
    if chunk.failed ∨ chunk.bytes.length ≠ chunkLen then importEnd s p 5
    else
      let at_ := q.impDst + 65536 * i
      match chunkPlain q.importKey (at_ - q.base) chunk.bytes with
      | none => importEnd s p 4
      | some d =>
        let s1 := foldS (List.range 512) s (fun u j =>
          (engineWrite u (.imp p) (at_ + 128 * j) 0 (BitVec.allOnes 128) (lineBytes 0 (sliceB d (128 * j) 128)) 0).1)
        let s2 := s1.setFld (rSecImpCtrl p) fSecImpCtrlChunks (i + 1)
        if q.impLen ≤ 65536 * (i + 1) then importEnd s2 p 1
        else importAsk (s2.setSecPart p { s2.secPart p with imp := some (f, i + 1) }) f p (i + 1)

/-- IMPORT_CHUNK. -/
def execImportChunk (p : Nat) (chunk : ReadData) (s : State) : Host.Outcome State Fault Refusal :=
  .next (whenLive s (importChunk p chunk))

/-- SEC_DEFERRED_GO: the oldest go written during a compute reset starts once the reset has ended (R445). -/
def execSecDeferredGo (s : State) : Host.Outcome State Fault Refusal :=
  .next (match s.sec.deferred with
    | [] => s
    | (p, op, f) :: rest =>
      if s.bup.cresetRun then s
      else
        let s1 : State := { s with sec := { s.sec with deferred := rest } }
        if op = 4 then importRun s1 f p else partCtrlRun s1 p op)

/-- RNG_HEALTH_FAIL: rng_fail is set until power-off (R411). -/
def execRngHealthFail (s : State) : Host.Outcome State Fault Refusal :=
  .next (if s.on then { s with sec := { s.sec with rngFail := true } } else s)

end Sys2Proof.Machine
end

