-- ==== Sys2Proof/Machine/BlendLoad.lean ====
section
/-! DEFINITION. Staging and loading a Blend (R295 to R299, R304, R320): what a stage records, and what a load writes. -/

namespace Sys2Proof.Machine

open Sys2Proof

/-- BLD_ERR of a failed check (R321). -/
def bldError (s : State) (e : BErr) (stage : Bool) : State :=
  let w := fBldErrStage.put (fBldErrRecord.put (fBldErrOffset.put (fBldErrSection.put (fBldErrCode.put 0 e.code) e.sec)
    e.off) e.rec_) (b2n stage)
  raise (s.setReg rBldErr w) rBldCtrl fBldCtrlError

/-! ### Stage (R296) -/

/-- The go of step 3 has been given in this run. -/
def State.step3Started (s : State) : Bool :=
  s.fld (rBupStatus 3) fBupStatusOutcome ≠ 0 ||
  (match s.bup.step with | some (k, _) => decide (3 ≤ k) | none => false)

/-- A write of BLD_CTRL.stage. -/
def stageGo (s : State) (f : Fn) : State :=
  if s.fld rBldCtrl fBldCtrlBusy = 1 then s
  else if s.step3Started then raise (s.setFld rBldCtrl fBldCtrlResult 4) rBldCtrl fBldCtrlError
  else
    ((s.setFld rBldCtrl fBldCtrlResult 0).setFld rBldCtrl fBldCtrlBusy 1).emit
      (.hostRead f.port (16 * s.fld rBldSrc fBldSrcAddr) (s.fld rBldLen fBldLenLen))

/-- BLEND_STAGE. -/
def execBlendStage (f : Fn) (s : State) : Host.Outcome State Fault Refusal :=
  .next (whenReached s f rBldCtrl (fun s => stageGo s f))

/-- The stage ends (R296); a go of step 3 that waits for it begins. -/
def stageDone (img : Image) (s : State) : State :=
  if s.fld rBldCtrl fBldCtrlBusy = 0 then s
  else
    let s0 := s.setFld rBldCtrl fBldCtrlBusy 0
    let s1 : State := { s0 with bup := { s0.bup with waitStage := false } }
    match stageImg s img with
    | .error e => bldError (s1.setFld rBldCtrl fBldCtrlResult 3) e true
    | .ok (units, dig) =>
      let s2 : State := { s1 with bup := { s1.bup with staged := some dig, stagedUnits := units } }
      let s3 := (s2.setFld rBldCtrl fBldCtrlResult (if dig.isSome then 1 else 2)).setFld rBldCtrl fBldCtrlStaged 1
      raise s3 rBldCtrl fBldCtrlDone

/-- BLEND_STAGE_DONE. -/
def execBlendStageDone (img : Image) (s : State) : Host.Outcome State Fault Refusal :=
  .next (if s.on then stageDone img s else s)

/-! ### Apply (R304, R320 step 9) -/

/-- The settings that the stack keeps of a checked image. -/
def blendOf (img : Image) (c : BCfg) (key : List Byte) (t : List SecEnt) : Blend :=
  { parts := c.parts
    opers := c.opers
    cach := c.cach
    pins := c.pins
    links := c.links
    secu := c.secu
    key := key
    test := c.test
    headDig := digest (img.bytes.take (64 + 16 * t.length))
    keyDig := digest key
    buildId := BitVec.ofNat 64 (leAt img.bytes 16 8) }

/-- Digests of the sections in the order of R302, zero for an absent one. -/
def sectionDigests (img : Image) (t : List SecEnt) : List (BitVec 256) :=
  (List.range 11).map (fun k => match t.find? (fun e => e.kind = k) with | some e => sectDigest img.bytes e | none => 0)

/-- A sealed partition's records are the same in the new Blend (R441). -/
def sealKept (b : Blend) (p : Nat) (q : SecPart) : Bool :=
  smGet b.parts p = q.part &&
  (match b.secu.find? (fun e => e.1 = p) with | some (_, sl, d) => sl && d = q.snapDecant | none => false) &&
  b.key = q.snapKey && b.opers.filter (fun o => o.part = p) = q.snapOpers

/-- The sealed partitions that the new Blend changes are erased before its settings take effect. -/
def recheckSealed (s : State) (b : Blend) : State :=
  foldS (s.sec.parts.filter (fun e => e.2.state = 3 && !sealKept b e.1 e.2)) s (fun u e => eraseNow u e.1)

/-- Every register of a list of values. -/
def setRegs (s : State) (l : List (Nat × Word)) : State := foldS l s (fun u e => u.setReg e.1 e.2)

/-- HBM_REG_p of every partition, applied (R555); HBM_REG_CTRL.result is left as it is. -/
def applyRates (s : State) (c : BCfg) : State :=
  let v := fun (p : Nat) => match smGet c.parts p with
    | none => (0 : Word)
    | some r => fHbmRegHard.put (fHbmRegDepth.put (fHbmRegRate.put 0 r.rate) r.depth) (b2n r.hard)
  let old := s.reg rHbmRegCtrl
  (regApply (setRegs s ((List.range 16).map (fun p => (rHbmReg p, v p))))).setReg rHbmRegCtrl old

/-- PLAC values of one partition, or reset values; the locked fields of a sealed partition keep theirs (R433). -/
def applyPlac (s : State) (c : BCfg) (p : Nat) : State :=
  let d := fun (o : Nat) => regReset s.bup.variant o
  let (rack, work, pool) := match c.plac.find? (fun e => e.1 = p) with
    | none => (d (rPlcRackCfg p), d (rPlcWorkCfg p), (0 : Word))
    | some (_, b) =>
      (fPlcRackCfgRackIn.put (fPlcRackCfgRackOut.put (fPlcRackCfgRackCap.put (fPlcRackCfgRackRate.put
          (fPlcRackCfgDecay.put 0 (leAt b 11 1)) (leAt b 10 1)) (leAt b 8 2)) (leAt b 6 2)) (leAt b 4 2),
        fPlcWorkCfgLambda.put (fPlcWorkCfgReplEn.put (fPlcWorkCfgReplIn.put (fPlcWorkCfgPoolRegions.put 0 (leAt b 16 2))
          (leAt b 14 2)) (leAt b 13 1 % 2)) (leAt b 12 1),
        fPlcPoolBaseBase.put 0 (leAt b 20 4))
  if s.sealed p then
    setRegs s [(rPlcRackCfg p, rack), (rPlcWorkCfg p, fPlcWorkCfgLambda.put (s.reg (rPlcWorkCfg p)) (fPlcWorkCfgLambda.get work))]
  else setRegs s [(rPlcRackCfg p, rack), (rPlcWorkCfg p, work), (rPlcPoolBase p, pool)]

/-- A port that its LINK record turns off: shut down, and down for the run (R314, R368). -/
def linkOff (s : State) (n : Nat) : State :=
  let q := (s.port n).txq
  let s1 := s.setPort n { portClear (s.port n) 0 with off := true }
  if (s.port n).framing then requeue (floodLinkdown (linkDown s1 s1.stackId n) n) q else s1

/-- Role, lane mask and sleep permissions of a port (R304, R314, R368, R369). -/
def applyLink (s : State) (c : BCfg) (n : Nat) : State :=
  let (role, mask, sleep) := match c.links.find? (fun e => e.1 = n) with
    | some (_, r, m, sl) => (r, m, sl)
    | none => (1, BitVec.allOnes 8, 0)
  if role = 0 then linkOff s n
  else
    let s1 := s.updPort n (fun p => { p with mask := mask, txMaySleep := sleep.getLsbD 0, rxMaySleep := sleep.getLsbD 1 })
    let p := s1.port n
    let w := widthOf (s1.usable n &&& p.peerMask.toNat)
    if p.framing ∧ w < p.width then (if w = 0 then portFail s1 n 2 else portRecover s1 n) else s1

/-- Trace is turned off when the new PART ways overlap its ways (R492). -/
def traceOverlap (s : State) (c : BCfg) : State :=
  let ways := s.fld rDbgTraceCfg fDbgTraceCfgWays
  if s.fld rDbgTraceCfg fDbgTraceCfgEn = 1 ∧ c.parts.any (fun e => e.2.ways.toNat &&& ways ≠ 0) then
    raise (s.setFld rDbgTraceCfg fDbgTraceCfgEn 0) rDbgEvent fDbgEventTraceOff
  else s

/-- CEL_PIN_CTRL_n of every slice (R304, R311). -/
def applyThrash (s : State) (c : BCfg) : State :=
  let (t, a) := c.thrash.getD (1024, 0)
  let w := fCelPinCtrlThrashAll.put (fCelPinCtrlThrashThresh.put 0 t) a
  setRegs s ((List.range 192).map (fun n => (rCelPinCtrl n, w)))

/-- Every setting of a checked Blend is written, the digests are recorded, and loaded is set. -/
def applyBlend (s : State) (img : Image) (c : BCfg) (key : List Byte) (t : List SecEnt) : State :=
  let b := blendOf img c key t
  let s0 := recheckSealed s b
  let s1 : State := { s0 with
    bup := { s0.bup with
      blend := some b
      roles := c.roles
      loadedOnce := true
      tstRounds := 0
      digests := sectionDigests img t }
    cmp := { s0.cmp with cs := s0.cmp.cs.map (fun e => (e.1, { e.2 with valid := false, poison := false })) }
    plc := { s0.plc with advice := c.advice } }
  let s2 := applyThrash (applyRates s1 c) c
  let s3 := foldS (List.range 16) s2 (fun u p => applyPlac u c p)
  let s4 := s3.setFld rXltCfg fXltCfgPriTimeout (c.priTimeout.getD 5000)
  let s5 := foldS c.binds s4 (fun u e => bindWrite u e.1 e.2)
  let s6 := foldS (List.range 8) s5 (fun u n => applyLink u c n)
  let s7 := (traceOverlap s6 c).setReg rBldBuild b.buildId
  raise (s7.setFld rBldCtrl fBldCtrlLoaded 1) rBldCtrl fBldCtrlDone

/-- The load ends (R297, R320): the checks in order, then all of the Blend or nothing of it. -/
def loadDone (img : Image) (sigOk : Bool) (s : State) : State :=
  if !s.bup.loadRunning then s
  else
    let s0 : State := { s with bup := { s.bup with loadRunning := false } }
    match imageChk s img sigOk with
    | .error e =>
      let s1 : State := { s0 with bup := { s0.bup with blend := none } }
      stepEnd (bldError ((s1.setFld rBldCtrl fBldCtrlLoaded 0).setReg rBldBuild 0) e false) 8 1
    | .ok (c, key, t) => stepEnd (applyBlend s0 img c key t) 8 0

/-- BLEND_LOAD_DONE. -/
def execBlendLoadDone (img : Image) (sigOk : Bool) (s : State) : Host.Outcome State Fault Refusal :=
  .next (if s.on then loadDone img sigOk s else s)

end Sys2Proof.Machine
end

