-- ==== Sys2Proof/Machine/Cellar.lean ====
section
/-! DEFINITION. Commands of the cellar: requests at a slice, fills, range operations, pins, drains and racking (R181 to
R221). -/

namespace Sys2Proof.Machine

open Sys2Proof

/-- Take the oldest request in flight from a requester to a line, if one is recorded. -/
def takeXbar (s : State) (r : SReq) : State × Option Held :=
  match s.cel.xbar.find? (fun h => h.who = r.who ∧ h.addr = r.addr) with
  | none => (s, none)
  | some h => ({ s with cel := { s.cel with xbar := s.cel.xbar.erase h } }, some h)

/-- A request of the given operation arrives at its slice. -/
def arrive (s : State) (r : SReq) (op : SliceOp) (errs : List SymErr) : State :=
  whenLive s (fun s => sliceReq (takeXbar s r).1 ⟨r.who, r.addr, r.hint, op⟩ errs)

/-- SLICE_READ: a read, or the PREF that was sent for the line. -/
def sliceReadX (r : SReq) (errs : List SymErr) (s : State) : State :=
  match (takeXbar s r).2 with
  | some h => arrive s r (if h.op = .pref then .pref else .read r.hint) errs
  | none => arrive s r (.read r.hint) errs

def execSliceRead (r : SReq) (errs : List SymErr) (s : State) : Host.Outcome State Fault Refusal :=
  .next (sliceReadX r errs s)

/-- SLICE_WRITE: a write of all 128 bytes. -/
def execSliceWrite (r : SReq) (data : Line) (poison : BitVec 4) (errs : List SymErr) (s : State) :
    Host.Outcome State Fault Refusal :=
  .next (arrive s r (.write (BitVec.allOnes 128) data poison) errs)

/-- SLICE_PARTIAL_WRITE: a write with byte enables. -/
def execSlicePartialWrite (r : SReq) (be : BitVec 128) (data : Line) (poison : BitVec 4) (errs : List SymErr)
    (s : State) : Host.Outcome State Fault Refusal :=
  .next (arrive s r (.write be data poison) errs)

/-- SLICE_ACCUMULATE (R113, R215). -/
def execSliceAccumulate (r : SReq) (op : Nat) (mask : BitVec 16) (data : Sector) (poison : Bool) (errs : List SymErr)
    (s : State) : Host.Outcome State Fault Refusal :=
  .next (arrive s r (.accum op mask data poison) errs)

/-- SLICE_FLAG_SET (R144). -/
def execSliceFlagSet (r : SReq) (v : Word) (errs : List SymErr) (s : State) : Host.Outcome State Fault Refusal :=
  .next (arrive s r (.flagSet v) errs)

/-- SLICE_FLAG_ADD (R144). -/
def execSliceFlagAdd (r : SReq) (v : Word) (errs : List SymErr) (s : State) : Host.Outcome State Fault Refusal :=
  .next (arrive s r (.flagAdd v) errs)

/-- SLICE_FLAG_WAIT (R145). -/
def execSliceFlagWait (r : SReq) (cond : Nat) (v : Word) (errs : List SymErr) (s : State) :
    Host.Outcome State Fault Refusal :=
  .next (arrive s r (.flagWait cond v) errs)

/-- End a held WAIT with the word's value, which fails its condition (R146). A WAIT that has ended already is left
alone. -/
def flagCancel (s : State) (who : Requester) (addr : Nat) : State :=
  let a := lineAddr addr
  let n := (s.server a).getD (sliceOf a)
  let x := s.slice n
  match x.waits.find? (fun e => e.who = who ∧ e.addr = addr) with
  | some e => answerAck (s.setSlice n { x with waits := x.waits.erase e }) who true addr 7 (wordAt (s.peekLine a) (addr % 128))
  | none =>
    let waiting := fun (h : Held) => h.who = who ∧ h.addr = addr ∧ h.op.flag
    if (x.waiting ++ x.side ++ x.victim ++ x.held).any (fun h => waiting h) then
      let drop := fun (l : List Held) => l.filter (fun h => !decide (waiting h))
      answerAck (s.setSlice n { x with
        waiting := drop x.waiting
        side := drop x.side
        victim := drop x.victim
        held := drop x.held }) who true addr 7 (wordAt (s.peekLine a) (addr % 128))
    else s

/-- SLICE_FLAG_CANCEL. -/
def execSliceFlagCancel (r : SReq) (s : State) : Host.Outcome State Fault Refusal :=
  .next (whenLive s (fun s => flagCancel s r.who r.addr))

/-- FILL_ARRIVE: the fill that the channel delivered for a line is installed; without a frame it waits (R202). -/
def fillArriveX (addr : Nat) (s : State) : State :=
  match s.cel.fillq.find? (fun f => f.addr = lineAddr addr) with
  | none => s
  | some fd =>
    match s.server addr with
    | none => s
    | some n =>
      (installFill { s with cel := { s.cel with fillq := s.cel.fillq.erase fd } } n fd).getD s

def execFillArrive (addr : Nat) (s : State) : Host.Outcome State Fault Refusal := .next (whenLive s (fillArriveX addr))

/-- MERGE_ENTRY_EXPIRE (R213). -/
def execMergeEntryExpire (slice addr : Nat) (s : State) : Host.Outcome State Fault Refusal :=
  .next (whenLive s (fun s => mergeClear s slice addr))

/-- Serve the oldest request of a queue of a slice again; nothing changes when it still has to wait. -/
def resumeOne (s : State) (n : Nat) (q : Slice → List Held) (set : Slice → List Held → Slice) : State :=
  let x := s.slice n
  match q x with
  | [] => s
  | h :: rest =>
    let u := s.setSlice n (set x rest)
    let t := runLine u n h []
    if (u.slice n).side.length < (t.slice n).side.length ∨ (u.slice n).victim.length < (t.slice n).victim.length then s
    else t

/-- SIDE_QUEUE_RESUME (R212). -/
def execSideQueueResume (slice : Nat) (s : State) : Host.Outcome State Fault Refusal :=
  .next (whenLive s (fun s => resumeOne s slice Slice.side (fun x l => { x with side := l })))

/-- VICTIM_WAIT_RESUME (R202). -/
def execVictimWaitResume (slice : Nat) (s : State) : Host.Outcome State Fault Refusal :=
  .next (whenLive s (fun s => resumeOne s slice Slice.victim (fun x l => { x with victim := l })))

/-! ### Range operations (R216, R217) -/

/-- The slice operation that a range operation makes of each line. -/
def rangeOp (p op : Nat) : SliceOp :=
  if op = 1 then .pin p else if op = 2 then .unpin else if op = 3 then .clean else if op = 4 then .flush else .kill

/-- The range is accepted (R217); a kill may not touch a sealed range (R426). -/
def State.rangeOk (s : State) (p op base len : Nat) : Bool :=
  len ≠ 0 && base + len ≤ 2 ^ 38 &&
  (match s.part p with
   | some r => r.base ≤ base && base + len ≤ r.base + r.len
   | none => false) &&
  (op ≠ 5 ||
    (match smGet s.sec.parts p with
     | some q => q.state ≠ 3 || base + len ≤ q.base || q.base + q.len ≤ base
     | none => true))

/-- Run an operation on the lines of a range. -/
def rangeRun (s : State) (p op base len : Nat) : State :=
  foldS (List.range (len / 128)) s (fun t i =>
    sliceReq t ⟨.placement, base + 128 * i, 1, rangeOp p op⟩ [])

/-- A range go of partition p with an operation code. -/
def rangeGo (s : State) (p op : Nat) : State :=
  let r := rCelRangeCtrl p
  let s0 := s.setFld r fCelRangeCtrlOp op
  if s.fld r fCelRangeCtrlBusy = 1 then s0
  else if op = 0 ∨ 5 < op then s0.setFld r fCelRangeCtrlResult 2
  else
    let base := s.fld (rCelRangeBase p) fCelRangeBaseBase * 128
    let len := s.fld (rCelRangeLen p) fCelRangeLenLen * 128
    if ¬ s.rangeOk p op base len then s0.setFld r fCelRangeCtrlResult 4
    else
      let s1 := (s0.setFld r fCelRangeCtrlBusy 1).setFld r fCelRangeCtrlResult 0
      let s2 : State := { s1 with cel := { s1.cel with ranges := smSet s1.cel.ranges p ⟨op, base, len⟩ } }
      rangeRun s2 p op base len

/-- A range command through a function. -/
def rangeCmd (f : Fn) (p op : Nat) (s : State) : State := whenReached s f (rCelRangeCtrl p) (fun s => rangeGo s p op)

/-- RANGE_PIN. -/
def execRangePin (f : Fn) (p : Nat) (s : State) : Host.Outcome State Fault Refusal := .next (rangeCmd f p 1 s)
/-- RANGE_UNPIN. -/
def execRangeUnpin (f : Fn) (p : Nat) (s : State) : Host.Outcome State Fault Refusal := .next (rangeCmd f p 2 s)
/-- RANGE_CLEAN. -/
def execRangeClean (f : Fn) (p : Nat) (s : State) : Host.Outcome State Fault Refusal := .next (rangeCmd f p 3 s)
/-- RANGE_FLUSH. -/
def execRangeFlush (f : Fn) (p : Nat) (s : State) : Host.Outcome State Fault Refusal := .next (rangeCmd f p 4 s)
/-- RANGE_KILL. -/
def execRangeKill (f : Fn) (p : Nat) (s : State) : Host.Outcome State Fault Refusal := .next (rangeCmd f p 5 s)

/-- RANGE_BAD_OP: an op field outside 1 to 5. -/
def execRangeBadOp (f : Fn) (p op : Nat) (s : State) : Host.Outcome State Fault Refusal :=
  .next (if op % 8 = 0 ∨ 5 < op % 8 then rangeCmd f p (op % 8) s else s)

/-- Lines of an address range still wait at a slice or a channel. -/
def State.rangeWaits (s : State) (base len : Nat) : Bool :=
  let mine := fun (a : Nat) => base ≤ a && a < base + len
  s.cel.slices.any (fun e => (e.2.waiting ++ e.2.side ++ e.2.victim ++ e.2.held).any (fun h => h.op.manages && mine h.addr)) ||
  s.cel.hbmq.any (fun q => match q with
    | .writeBack a _ _ => mine a
    | .kill a => mine a
    | _ => false)

/-- RANGE_DONE. -/
def rangeDoneX (p : Nat) (s : State) : State :=
  match smGet s.cel.ranges p with
  | none => s
  | some r =>
    if s.rangeWaits r.base r.len then s
    else
      let s1 : State := { s with cel := { s.cel with ranges := smDel s.cel.ranges p } }
      (s1.setFld (rCelRangeCtrl p) fCelRangeCtrlBusy 0).setFld (rCelRangeCtrl p) fCelRangeCtrlResult 1

def execRangeDone (p : Nat) (s : State) : Host.Outcome State Fault Refusal := .next (whenLive s (rangeDoneX p))

/-- THRASH_DETECT (R206). -/
def thrashX (n set : Nat) (s : State) : State :=
  let x := s.slice n
  let lim := s.fld (rCelPinCtrl n) fCelPinCtrlThrashThresh
  if lim ≠ 0 ∧ lim ≤ smGetD x.misses set 0 ∧ ¬ x.thrashed.contains set then
    let s1 := s.setSlice n { x with thrashed := x.thrashed ++ [set] }
    let s2 := (s1.setFld (rCelThrash n) fCelThrashSet set).setFld (rCelThrash n) fCelThrashPartition (smGetD x.missPart set 0)
    raise s2 (rCelEvent n) fCelEventThrash
  else s

def execThrashDetect (slice set : Nat) (s : State) : Host.Outcome State Fault Refusal :=
  .next (whenLive s (thrashX slice set))

/-! ### Slice retirement (R218, R219) -/

/-- The slice that takes over from slice n: the first active slice of the HBM stack after it; n itself when none. -/
def State.nextSlice (s : State) (n : Nat) : Nat :=
  let st := n / 32
  (((List.range 31).map (fun i => 32 * st + (n + 1 + i) % 32)).find? (fun m => (s.slice m).state = 0)).getD n

/-- Step 1 of a retirement: the slice drains and holds new requests. -/
def drainStart (s : State) (n : Nat) : State :=
  let x := s.slice n
  if x.state ≠ 0 then s
  else
    let s1 := s.setSlice n { x with state := 1 }
    let s2 := raise s1 (rCelEvent n) fCelEventDrainStart
    let s3 := newDefect (incGen s2) (unitEntry 3 0 n)
    { s3 with bup := { s3.bup with retired := true, events := s3.bup.events + 1 } }

/-- Route every slice that slice n served to its substitute. -/
def moveServed (s : State) (n m : Nat) : State :=
  foldS (List.range 192) s (fun t k =>
    let x := t.slice k
    if x.subst = n ∧ (k = n ∨ x.state = 2) then t.setSlice k { x with subst := m } else t)

/-- Steps 2 to 5 of a retirement, once the slice has no fill or request in flight: DIRTY lines are written back, DEAD
lines killed, pins pass to the substitute, held requests are released to it. -/
def drainDone (s : State) (n : Nat) : State :=
  let x := s.slice n
  if x.state ≠ 1 ∨ x.waiting ≠ [] ∨ x.side ≠ [] ∨ x.victim ≠ [] ∨ x.fills ≠ [] then s
  else
    let mine := s.cel.frames.filter (fun e => e.1 / 524288 = n)
    let lines := mine.flatMap (fun e => e.2.lines.map (fun l => (addrOf e.2.ch e.2.grp l.line, l)))
    let s1 := foldS lines s (fun t e => match e.2.st with
      | .dirty => toChannel t (.writeBack e.1 e.2.data e.2.poison)
      | .dead => toChannel t (.kill e.1)
      | _ => t)
    let s2 : State := { s1 with cel := { s1.cel with frames := s1.cel.frames.filter (fun e => e.1 / 524288 ≠ n) } }
    let m := s2.nextSlice n
    let s3 := moveServed (s2.setSlice n { x with state := 2, held := [], merge := [], waits := [] }) n m
    let s4 := raise s3 (rCelEvent n) fCelEventDrainDone
    let s5 := incGen s4
    let s6 := foldS (lines.filter (fun e => e.2.pinned)) s5 (fun t e =>
      match t.partOfAddr e.1 with
      | some p => sliceReq t ⟨.placement, e.1, 0, .pin p⟩ []
      | none => t)
    let s7 := foldS x.waits s6 (fun t e => sliceReq t ⟨e.who, e.addr, 0, .flagWait e.cond e.v⟩ [])
    foldS x.held s7 (fun t h => sliceReq t h [])

/-- SLICE_DRAIN_DONE. -/
def execSliceDrainDone (slice : Nat) (s : State) : Host.Outcome State Fault Refusal :=
  .next (whenLive s (fun s => drainDone s slice))

end Sys2Proof.Machine
end

