-- ==== Sys2Proof/Machine/RalMsg.lean ====
section
/-! DEFINITION. What a stack does with the messages that reach it (R392 to R406): requests at their target, holds and
retries, responses at their requester, enumeration, the map, health, and the head's duties. -/

namespace Sys2Proof.Machine

open Sys2Proof

/-- The ports run: power is on and no full freeze silences them (R456, R501, R502). -/
def State.ralLive (s : State) : Bool := s.on && s.freeze ≠ 2

/-- The message is addressed to this stack. -/
def State.own (s : State) (m : RMsg) : Bool := m.addr / 2 ^ 47 % 1024 = s.trellisId && m.addr / 2 ^ 43 % 16 = s.stackId

/-- Byte i of the 16 bytes that the type defines. -/
def mbyte (m : RMsg) (i : Nat) : Nat := m.arg.toNat / 256 ^ i % 256

/-- Bytes 20 to 23 of a message: the enumeration tag. -/
def etag (m : RMsg) : Nat := m.arg.toNat / 2 ^ 32 % 2 ^ 32

/-- A message of type `code` is taken at a port: one that frames have brought is the oldest of its VC (R395); any other
is one that the command brings itself. A port in PLAIN discards what R388 does not list. -/
def ralTake (s : State) (n : Nat) (m : RMsg) (code : Nat) (g : State → State) : State :=
  let p := s.port n
  if ¬ s.ralLive ∨ m.typ ≠ code ∨ 8 ≤ n then s
  else if p.rxq.contains m then
    if p.rxq.find? (fun x => x.vc = m.vc) = some m then g (s.setPort n { p with rxq := p.rxq.erase m }) else s
  else if ¬ p.framing then s
  else if p.state = 5 ∧ ¬ plainType m.typ then discardMsg s n m
  else g s

/-- A status answer to a request: READ_RSP for a read, a refusal for a replica request, else ACK (R394). -/
def statusRsp (s : State) (m : RMsg) (st : Nat) : State :=
  if m.typ = 0x01 then respond s m 0x02 (BitVec.ofNat 128 st) 0 [0]
  else if m.typ = 0x0A then respond s m 0x0B 1 0 []
  else if m.typ = 0x09 then s
  else respond s m 0x07 (BitVec.ofNat 128 st) 0 []

/-- Send a message on towards its address; a request that has no route is answered lost (R394). -/
def forward (s : State) (n : Nat) (m : RMsg) : State :=
  let s1 := freeSlots s n m
  -- members hold different trellis ids while ESTATE spreads, so it goes by stack id alone
  let next := if m.typ = 0x19 then (let k := m.addr / 2 ^ 43 % 16; if (s1.peer k).reach then some (s1.peer k).port else none)
    else s1.routePort m.addr
  match next with
  | some q => ralSend s1 q m
  | none => if (1 ≤ m.typ ∧ m.typ ≤ 6) ∧ m.typ ≠ 2 then statusRsp s1 m 4 else s1

/-! ### Requests at their target -/

/-- The requester that a request names. -/
def ralWho (n : Nat) (m : RMsg) : Requester := .raloth n m.srcT m.srcS m.part m.tag (m.arg.toNat % 16)

/-- A request enters the crossbar towards its slice. -/
def toHome (s : State) (n : Nat) (m : RMsg) (op : SliceOp) : State :=
  { s with cel := { s.cel with xbar := s.cel.xbar ++ [⟨ralWho n m, m.addr % 2 ^ 43, m.hint, op⟩] } }

/-- The line of a WRITE: its sectors in the places that have any byte enabled. -/
def wrLine (m : RMsg) : Line :=
  let used := (List.range 4).filter (fun i => m.arg.extractLsb' (32 * i) 32 ≠ 0)
  used.zipIdx.foldl (fun d e => d ||| ((m.data.getD e.2 0).setWidth 1024 <<< (256 * e.1))) 0

/-- A FLAG's operation: none for a value that R393 does not define. -/
def flagOp (m : RMsg) : Option SliceOp :=
  let v : Word := BitVec.ofNat 64 m.arg.toNat
  if m.op = 0 then some (.flagSet v)
  else if m.op = 1 then some (.flagAdd v)
  else if m.op = 2 then some (.flagWait (mbyte m 8 % 4) v)
  else none

/-- The WAIT that a cancel names by source and tag (R393). -/
def isWaitOf (m : RMsg) (who : Requester) : Bool :=
  match who with
  | .raloth _ t k _ g _ => t = m.srcT && k = m.srcS && g = m.tag
  | _ => false

/-- Cancel a WAIT of another stack; the cancel itself is completed too (R146, R393). -/
def cancelRemote (s : State) (m : RMsg) : State :=
  let held := fun (l : List Held) => (l.filter (fun h => isWaitOf m h.who && h.op.flag)).map (fun h => (h.who, h.addr))
  let at_ := s.cel.slices.flatMap (fun e =>
    ((e.2.waits.filter (fun w => isWaitOf m w.who)).map (fun w => (w.who, w.addr)))
      ++ held (e.2.waiting ++ e.2.side ++ e.2.victim ++ e.2.held))
  let s1 := foldS at_ s (fun t e => flagCancel t e.1 e.2)
  let way := held s1.cel.xbar
  let s2 : State := { s1 with cel := { s1.cel with xbar := s1.cel.xbar.filter (fun h => !(isWaitOf m h.who && h.op.flag)) } }
  let s3 := foldS way s2 (fun t e => answerAck t e.1 true e.2 7 (wordAt (t.peekLine (lineAddr e.2)) (e.2 % 128)))
  respond s3 m 0x07 0 0 []

/-- The home stack grants a replica request or refuses it (R258, R259, R260 step 3). -/
def replAnswer (s : State) (m : RMsg) : State :=
  let a := m.addr % 2 ^ 43
  let r := regionOf a
  let old := s.sharersOf r
  let grant : Bool := decide (m.srcT = s.trellisId) && decide (m.srcS ≠ s.stackId) && s.backed a
    && decide (s.adviceOf r / 4 % 2 = 1)
    && (match old with | some d => d.held = [] | none => decide (s.plc.dir.length < 16384))
    && (match s.partOfAddr a with | some p => !(s.sealed p || s.secState p = 2) | none => true)
  if grant then
    let bit := BitVec.ofNat 16 (2 ^ m.srcS)
    let dir := match old with
      | some _ => s.plc.dir.map (fun d => if d.region = r then { d with sharers := d.sharers ||| bit } else d)
      | none => s.plc.dir ++ [⟨r, 0, bit, 0, []⟩]
    respond { s with plc := { s.plc with dir := dir } } m 0x0B 0 0 []
  else respond s m 0x0B 1 0 []

/-- A release message reaches its counter (R143, R403): from the own trellis for this stack's counter, from an estate
master for every listed member. -/
def releaseBar (s : State) (m : RMsg) : State :=
  let c := mbyte m 0
  let new : Bool := mbyte m 1 % 2 = 1
  if m.srcT ≠ s.trellisId then barReleaseMembers barReleaseAll s c (!new)
  else
    let b := s.bar (1024 + c)
    if b.awaiting ∧ b.phase ≠ new then barReleaseAll s (1024 + c) else s

/-- A request that is served: READ, WRITE, ACCUM and FLAG go to their slice. -/
def serveReq (s : State) (n : Nat) (m : RMsg) : State :=
  if m.typ = 0x01 then toHome s n m (.read m.hint)
  else if m.typ = 0x03 then toHome s n m (.write m.arg (wrLine m) m.poison)
  else if m.typ = 0x04 then
    toHome s n m (.accum m.op (BitVec.ofNat 16 m.arg.toNat) (m.data.getD 0 0) (m.poison ≠ 0))
  else if m.typ = 0x05 then
    match flagOp m with
    | some op => toHome s n m op
    | none => ralErr s 7 n 0 m.typ 0
  else if m.typ = 0x06 then cancelRemote s m
  else if m.typ = 0x0A then replAnswer s m
  else if m.typ = 0x09 then releaseBar s m
  else s

/-- The stack holds requests addressed to it: in a compute reset and under a core freeze (R404, R501). -/
def State.holds (s : State) : Bool := s.bup.holding || s.freeze = 1

/-- A request addressed to this stack: served, or turned away with retry-later while it sleeps (R456) and after the hold
window (R404), or answered hold and kept. -/
def request (s : State) (n : Nat) (m : RMsg) : State :=
  if s.asleep ∨ (s.holds ∧ s.bup.holdOver) then statusRsp (freeSlots s n m) m 3
  else if s.holds then
    let s1 : State := { s with ral := { s.ral with kept := s.ral.kept ++ [⟨n, m⟩] } }
    if m.typ = 0x0A ∨ m.typ = 0x09 then s1 else statusRsp s1 m 2
  else serveReq (freeSlots s n m) n m

/-- The hold ends: kept requests are served in order of arrival (R404, R501). -/
def serveKept (s : State) : State :=
  let ks := s.ral.kept
  let s1 : State := { s with
    ral := { s.ral with kept := [] }
    bup := { s.bup with holdOver := false } }
  foldS ks s1 (fun t k => serveReq (freeSlots t k.port k.msg) k.port k.msg)

/-- 50 ms into the hold: every request still kept is answered retry-later (R404). -/
def expireKept (s : State) : State :=
  let ks := s.ral.kept
  let s1 : State := { s with
    ral := { s.ral with kept := ks.filter (fun k => k.msg.typ = 0x09) }
    bup := { s.bup with holdOver := true } }
  foldS (ks.filter (fun k => k.msg.typ ≠ 0x09)) s1 (fun t k => statusRsp (freeSlots t k.port k.msg) k.msg 3)

/-- A message of an end-to-end type at a port: forwarded, or dealt with here. -/
def endMsg (s : State) (n : Nat) (m : RMsg) (code : Nat) (g : State → State) : State :=
  ralTake s n m code (fun s => if s.own m then g s else forward s n m)

/-! ### Responses at their requester -/

/-- The outstanding request that a response answers, by its tag. -/
def State.reqOf (s : State) (tag : Nat) : Option RalReq := s.ral.reqs.find? (fun r => r.tag = tag)

/-- A request is no longer outstanding. -/
def dropReq (s : State) (tag : Nat) : State :=
  { s with ral := { s.ral with reqs := s.ral.reqs.filter (fun r => r.tag ≠ tag) } }

/-- Change an outstanding request. -/
def updReq (s : State) (tag : Nat) (g : RalReq → RalReq) : State :=
  { s with ral := { s.ral with reqs := s.ral.reqs.map (fun r => if r.tag = tag then g r else r) } }

/-- The data slots of a READ_RSP as the line of a READ of mask `mask`. -/
def rspLine (m : RMsg) (mask : Nat) : Line :=
  (ones mask 4).zipIdx.foldl (fun d e => d ||| ((m.data.getD e.2 0).setWidth 1024 <<< (256 * e.1))) 0

/-- A response with a status (R394, R405): hold and retry-later are not final; lost ends the request as R405 says. -/
def response (s : State) (m : RMsg) : State :=
  match s.reqOf m.tag with
  | none => s
  | some r =>
    let st := mbyte m 0
    let wait : Bool := decide (r.msg.typ = 5 ∧ r.msg.op = 2)
    if decide (r.msg.typ = 1) ≠ decide (m.typ = 2) then s
    else if st = 2 then updReq s m.tag (fun r => { r with hold := true })
    else if st = 3 ∧ ¬ wait then updReq s m.tag (fun r => { r with hold := false, retry := true })
    else if st = 4 then loseReq (dropReq s m.tag) r.who r.msg r.port
    else
      finishRemote (dropReq s m.tag) r.who r.msg st (rspLine m (r.msg.arg.toNat % 16)) m.poison
        (BitVec.ofNat 64 (m.arg.toNat / 2 ^ 64))

/-- A replica request is answered (R260 steps 3 and 4). -/
def replAnswered (s : State) (m : RMsg) : State :=
  match s.reqOf m.tag with
  | none => s
  | some r =>
    if r.msg.typ ≠ 0x0A then s
    else
      let s1 := dropReq s m.tag
      let region := r.msg.addr / 65536
      match s1.plc.replicas.find? (fun x => x.home = region ∧ ¬ x.granted) with
      | none => s1
      | some x =>
        let others := s1.plc.replicas.filter (fun y => y ≠ x)
        if mbyte m 0 = 0 then
          foldS (List.range 512)
            { s1 with plc := { s1.plc with replicas := others ++ [{ x with granted := true }] } }
            (fun t i => remoteAsk t .placement (readMsg (region * 65536 + 128 * i) x.part 0))
        else { s1 with plc := { s1.plc with replicas := others, refused := smSet s1.plc.refused region x.heat } }

/-- The home stack invalidates a region (R261): the replica goes, and the acknowledgement follows at once. -/
def replDrop (s : State) (m : RMsg) : State :=
  let s1 := dropReplicas s (fun r => r.home = m.addr / 65536)
  respond s1 m 0x0D 0 0 []

/-- A sharer's acknowledgement (R261). -/
def invalAcked (s : State) (m : RMsg) : State :=
  match s.plc.dir.find? (fun d => d.tag = m.tag && nbit d.waiting.toNat m.srcS) with
  | none => s
  | some d => if m.srcT = s.trellisId then clearSharer s d.region m.srcS else s

/-- A request is sent again as a new request with a new tag (R405). -/
def reissue (s : State) (r : RalReq) : State := remoteAsk (dropReq s r.tag) r.who r.msg

/-! ### Enumeration and the map (R396 to R399) -/

/-- An ERR record of an enumeration that failed, and RAL_ENUM's result. -/
def enumResult (s : State) (res : Nat) : State :=
  let s1 := (s.setFld rRalEnum fRalEnumResult res).setFld rRalEnum fRalEnumBusy 0
  if res = 1 then s1 else ralErr s1 8 0xFF res 0 0

/-- Chord ports that carry frames. -/
def State.chords (s : State) : List Nat := [2, 3, 4, 5].filter (fun n => (s.port n).framing)

/-- LINKID on a port. -/
def sendLinkid (s : State) (n : Nat) : State :=
  ralSend s n (ctlMsg s 0x13 0 (BitVec.ofNat 128 (s.stackId + 256 * n + 2 ^ 32 * s.ral.enumTag)) [])

/-- The peer that a port's LINKID named under this stack's enumeration tag. -/
def State.linkPeer (s : State) (n : Nat) : Option Nat :=
  if s.fld (rRalPortStat n) fRalPortStatPeerValid = 1 ∧ smGetD s.ral.linkTag n 0 = s.ral.enumTag then
    some (s.fld (rRalPortStat n) fRalPortStatPeerStack)
  else none

/-- Take a stack id and an enumeration tag; a LINKID of another tag counts as none. -/
def takeId (s : State) (id tag : Nat) : State :=
  let s1 : State := { s with ral := { s.ral with enumTag := tag } }
  let s2 := (s1.setFld rRalEnum fRalEnumStackId id).setFld rRalEnum fRalEnumHasId 1
  foldS (List.range 8) s2 (fun t n =>
    if smGetD t.ral.linkTag n 0 = tag then t else t.setFld (rRalPortStat n) fRalPortStatPeerValid 0)

/-- Data of a MAP message: 80 bytes in three slots. -/
def mapData (b : List Nat) : List Sector :=
  (List.range 3).map (fun i => BitVec.ofNat 256 (leAt (b.map (BitVec.ofNat 8)) (32 * i) 32))

/-- The 80 bytes of a MAP message. -/
def mapBytes (m : RMsg) : List Nat := ((m.data.flatMap (fun d => toBytes d 32)).take 80).map BitVec.toNat

/-- A MAP message: kind 0 collect, 1 distribute; count; closed. -/
def mapMsg (s : State) (kind count : Nat) (closed : Bool) (b : List Nat) : RMsg :=
  ctlMsg s 0x12 0 (BitVec.ofNat 128 (kind + 256 * count + 65536 * b2n closed)) (mapData b)

/-- The byte of a link to a peer (R397). -/
def linkByte (s : State) (n : Nat) (peer : Option Nat) : Nat :=
  match peer with
  | some k => if (s.port n).framing then k % 16 + 16 * Nat.log2 (s.port n).width else 0xFF
  | none => 0xFF

/-- A MAP's bytes with this stack's own written (R397). -/
def writeMap (s : State) (count : Nat) (closed : Bool) (b : List Nat) : List Nat :=
  let k := s.stackId
  let next : Option Nat := if k + 1 < count then some (k + 1) else if closed then some 0 else none
  let b1 := (List.range 4).foldl (fun b c => setNth b (4 * k + c) (linkByte s (2 + c) (s.linkPeer (2 + c)))) b
  setNth b1 (64 + k) (linkByte s 1 next)

/-- Store the map, compute the routes and send one PING per peer, on its first hop; the tag names the peer. -/
def storeMap (s : State) (count : Nat) (closed : Bool) (b : List Nat) : State :=
  let s1 := (s.setFld rRalEnum fRalEnumCount count).setFld rRalEnum fRalEnumClosed (b2n closed)
  let s2 := reroute { s1 with ral := { s1.ral with map := b } }
  let peers := (List.range count).filter (fun k => k ≠ s2.stackId && (s2.peer k).reach)
  foldS peers { s2 with ral := { s2.ral with pings := peers } } (fun t k =>
    ralSend t (t.peer k).port { ctlMsg t 0x17 0 0 [] with tag := k })

/-- The last stack of an open chain, or any stack of a closed ring, passes a MAP on: out of port 1, or back on port 0. -/
def passMap (s : State) (m : RMsg) : State :=
  let count := mbyte m 1
  let closed : Bool := mbyte m 2 % 2 = 1
  ralSend s (if !closed && s.stackId + 1 = count then 0 else 1) m

/-- The head starts to distribute the map that has been collected (R396 step 6). -/
def mapCollected (s : State) (count : Nat) (closed : Bool) (b : List Nat) : State :=
  let s1 := storeMap s count closed b
  if count = 1 ∧ ¬ closed then enumResult s1 1 else ralSend s1 1 (mapMsg s1 1 count closed b)

/-- Every chord that carries frames has reported its peer. -/
def State.mapReady (s : State) : Bool := s.chords.all (fun n => (s.linkPeer n).isSome)

/-- This stack writes its bytes into the MAP that waits and sends it on. -/
def mapGo (s : State) : State :=
  match s.ral.pendingMap with
  | none => s
  | some m =>
    let count := mbyte m 1
    let closed : Bool := mbyte m 2 % 2 = 1
    let b := writeMap s count closed (mapBytes m)
    let s1 : State := { s with ral := { s.ral with pendingMap := none } }
    if s1.fld rRalEnum fRalEnumHead = 1 ∧ count = 1 ∧ ¬ closed then mapCollected s1 count closed b
    else passMap s1 { mapMsg s1 0 count closed b with srcT := m.srcT, srcS := m.srcS }

/-- A MAP arrives, or the head begins one; it goes on at once when every chord has reported (R396 step 5). -/
def mapArrive (s : State) (m : RMsg) : State :=
  let s1 : State := { s with ral := { s.ral with pendingMap := some m } }
  if s1.mapReady then mapGo s1 else s1

/-- The head knows count and closure: it begins to collect the map. -/
def headCollect (s : State) (count : Nat) (closed : Bool) : State :=
  let s1 := (s.setFld rRalEnum fRalEnumCount count).setFld rRalEnum fRalEnumClosed (b2n closed)
  mapArrive s1 (mapMsg s1 0 count closed (List.replicate 80 0xFF))

/-- RAL_ENUM.go (R396 step 1). -/
def enumGo (s : State) : State :=
  if s.fld rRalEnum fRalEnumHasId = 1 then s.setFld rRalEnum fRalEnumResult 5
  else
    let (s1, r) := draw s
    let s2 := takeId ((s1.setFld rRalEnum fRalEnumBusy 1).setFld rRalEnum fRalEnumResult 0) 0 (r.toNat % 2 ^ 32)
    let s3 := s2.setFld rRalEnum fRalEnumHead 1
    let s4 := foldS s3.chords s3 sendLinkid
    if (s4.port 1).framing then ralSend s4 1 (ctlMsg s4 0x10 0 (BitVec.ofNat 128 (1 + 2 ^ 32 * s4.ral.enumTag)) [])
    else headCollect s4 1 false

/-- ENUM_END with a count and a result. -/
def enumEndMsg (s : State) (count res : Nat) : RMsg := ctlMsg s 0x11 0 (BitVec.ofNat 128 (count + 256 * res)) []

/-- ENUM on a port (R396 steps 2 and 3). -/
def enumArrive (s : State) (n : Nat) (m : RMsg) : State :=
  let next := mbyte m 0
  if n = 1 then ralSend s 1 (enumEndMsg s next 4)
  else if n ≠ 0 then ralErr s 7 n 0 m.typ 0
  else if s.fld rRalEnum fRalEnumHasId = 1 then
    if s.fld rRalEnum fRalEnumHead = 1 ∧ etag m = s.ral.enumTag then
      if s.fld rRalEnum fRalEnumBusy = 1 then headCollect s next true else s
    else ralSend s 0 (enumEndMsg s next 3)
  else if 16 ≤ next then ralSend s 0 (enumEndMsg s 16 2)
  else
    let s1 := takeId s next (etag m)
    let s2 := foldS s1.chords s1 sendLinkid
    if (s2.port 1).framing then
      ralSend s2 1 (ctlMsg s2 0x10 0 (BitVec.ofNat 128 (next + 1 + 2 ^ 32 * etag m)) [])
    else ralSend s2 0 (enumEndMsg s2 (next + 1) 1)

/-- ENUM_END on port 1 (R396 step 4). -/
def enumEndArrive (s : State) (n : Nat) (m : RMsg) : State :=
  if n ≠ 1 then ralErr s 7 n 0 m.typ 0
  else if s.fld rRalEnum fRalEnumHead = 1 then
    if s.fld rRalEnum fRalEnumBusy = 0 then s
    else if mbyte m 1 = 1 then headCollect s (mbyte m 0) false
    else enumResult (s.setFld rRalEnum fRalEnumCount (mbyte m 0)) (mbyte m 1 % 8)
  else ralSend s 0 m

/-- MAP collect on a port. -/
def collectArrive (s : State) (n : Nat) (m : RMsg) : State :=
  let count := mbyte m 1
  let closed : Bool := mbyte m 2 % 2 = 1
  if 1 < n ∨ mbyte m 0 ≠ 0 then ralErr s 7 n 0 m.typ 0
  else if s.fld rRalEnum fRalEnumHead = 1 then
    if s.fld rRalEnum fRalEnumBusy = 1 then mapCollected s count closed (mapBytes m) else s
  else if n = 1 then ralSend s 0 m
  else mapArrive s m

/-- MAP distribute on a port. An adopted stack keeps the map that its neighbour sends; a stack that has one already
takes no other. -/
def distributeArrive (s : State) (n : Nat) (m : RMsg) : State :=
  let count := mbyte m 1
  let closed : Bool := mbyte m 2 % 2 = 1
  if 1 < n ∨ mbyte m 0 ≠ 1 then ralErr s 7 n 0 m.typ 0
  else if s.fld rRalEnum fRalEnumHead = 1 then
    if s.fld rRalEnum fRalEnumBusy = 1 then enumResult s 1 else s
  else if s.ral.adopting then
    storeMap { s with ral := { s.ral with adopting := false } } count closed (mapBytes m)
  else if n = 1 then ralSend s 0 m
  else if s.ral.map = [] ∧ s.fld rRalEnum fRalEnumHasId = 1 then passMap (storeMap s count closed (mapBytes m)) m
  else s

/-- LINKID on a port (R396, R399, R406): another tag than this stack's is ignored; a chord whose peer changes takes its
link down; the stack after this one on the ring, when it adopts its id, gets the stored map. -/
def linkidArrive (s : State) (n : Nat) (m : RMsg) : State :=
  if s.fld rRalEnum fRalEnumHasId = 1 ∧ etag m ≠ s.ral.enumTag then s
  else
    let off := rRalPortStat n
    let peer := mbyte m 0 % 16
    let port := mbyte m 1 % 8
    let was := s.fld off fRalPortStatPeerValid = 1
    let changed := was ∧ (s.fld off fRalPortStatPeerStack ≠ peer ∨ s.fld off fRalPortStatPeerPort ≠ port)
    let s1 := ((s.setFld off fRalPortStatPeerStack peer).setFld off fRalPortStatPeerPort port).setFld off fRalPortStatPeerValid 1
    let s2 : State := { s1 with ral := { s1.ral with linkTag := smSet s1.ral.linkTag n (etag m) } }
    let back : Bool := match s2.mapLink s2.stackId n with
      | some _ => false
      | none => (({ s2 with ral := { s2.ral with downs := [] } } : State).mapLink s2.stackId n).any (fun e => e.1 = peer)
    let s3 :=
      if changed ∧ 2 ≤ n ∧ n ≤ 5 then floodLinkdown (linkDown s2 s2.stackId n) n
      else if back then
        reroute { s2 with ral := { s2.ral with
          downs := s2.ral.downs.filter (fun e => e ≠ (s2.stackId, n) && e ≠ (peer, port)) } }
      else s2
    let s4 := if n = 1 ∧ s3.ral.map ≠ [] ∧ s3.fld rRalEnum fRalEnumHasId = 1 ∧ ¬ was then
        ralSend s3 1 (mapMsg s3 1 (s3.fld rRalEnum fRalEnumCount) (s3.fld rRalEnum fRalEnumClosed = 1) s3.ral.map)
      else s3
    if s4.ral.pendingMap.isSome ∧ s4.mapReady then mapGo s4 else s4

/-- RAL_ENUM.adopt (R399). -/
def adoptGo (s : State) : State :=
  let id := s.fld rRalEnum fRalEnumAdoptId
  let count := s.fld rRalEnum fRalEnumAdoptCount
  let ring := [0, 1].filter (fun n => (s.port n).framing)
  let want := fun (n : Nat) => if n = 0 then (id + count - 1) % count else (id + 1) % count
  let tags := ring.map (fun n => smGetD s.ral.linkTag n 0)
  let ok : Bool := decide (s.fld rRalEnum fRalEnumHasId = 0) && decide (id < count) && decide (count ≤ 16)
    && decide (ring ≠ [])
    && ring.all (fun n => decide (s.fld (rRalPortStat n) fRalPortStatPeerValid = 1)
      && decide (s.fld (rRalPortStat n) fRalPortStatPeerStack = want n))
    && tags.all (fun t => t = tags.headD 0)
  if ok then
    let s1 := takeId s id (tags.headD 0)
    let s2 := s1.setFld rRalEnum fRalEnumCount count
    let s3 : State := { s2 with ral := { s2.ral with adopting := true } }
    let links := (List.range 6).filter (fun n => (s3.port n).framing)
    (foldS links s3 sendLinkid).setFld rRalEnum fRalEnumResult 1
  else s.setFld rRalEnum fRalEnumResult 7

/-- RAL_ESTATE.set on the head, once per run: ESTATE to every member, and the head takes the trellis id (R400). -/
def estateGo (s : State) : State :=
  if s.fld rRalEnum fRalEnumHead = 1 ∧ s.fld rRalEstate fRalEstateSet = 0 then
    let id := s.fld rRalEstate fRalEstateTrellis
    let others := (List.range s.peerCount).filter (fun k => k ≠ s.stackId)
    let s1 := foldS others s (fun t k =>
      if (t.peer k).reach then ralSend t (t.peer k).port (ctlMsg t 0x19 (t.stackAddr k) (BitVec.ofNat 128 id) []) else t)
    s1.setFld rRalEstate fRalEstateSet 1
  else s

/-- ESTATE at a member: it takes the trellis id, once. -/
def estateTake (s : State) (m : RMsg) : State :=
  if s.fld rRalEstate fRalEstateSet = 1 then s
  else (s.setFld rRalEstate fRalEstateTrellis (m.arg.toNat % 1024)).setFld rRalEstate fRalEstateSet 1

/-! ### Health (R401, R402, R262) -/

/-- The 4-bit state of a member as this stack knows it. -/
def State.memberState (s : State) (k : Nat) : Nat :=
  if k = s.stackId then s.health else nbits s.ral.mStates.toNat (4 * k) 4

/-- A peer's state becomes known (R262): one that is not ready or degraded has its sharer bits cleared, and replicas
homed on it are dropped when it leaves those states. -/
def peerState (s : State) (k st : Nat) : State :=
  let old := nbits s.ral.mStates.toNat (4 * k) 4
  let m := s.ral.mStates.toNat - old * 2 ^ (4 * k) + st % 16 * 2 ^ (4 * k)
  let s1 : State := { s with ral := { s.ral with mStates := BitVec.ofNat 64 m } }
  if k = s.stackId ∨ st = 2 ∨ st = 3 then s1
  else
    let s2 := clearPeer s1 k
    if old = 2 ∨ old = 3 then
      dropReplicas s2 (fun r => r.home / 2 ^ 27 % 16 = k && r.home / 2 ^ 31 % 1024 = s2.trellisId)
    else s2

/-- The head discards a member's arrivals that have not been released (R402). -/
def dropArrivals (s : State) (k : Nat) : State :=
  let off := ~~~ (BitVec.ofNat 16 (2 ^ k))
  { s with ral := { s.ral with arrivals := s.ral.arrivals.map (fun e => (e.1, e.2.1, e.2.2 &&& off)) } }

/-- The member's health word as the head holds it; the head's own is its PLC_HEALTH. -/
def State.memberWord (s : State) (k : Nat) : Nat :=
  if k = s.stackId then s.stackHealth.toNat else (smGetD s.ral.mHealth k 0).toNat

/-- The trellis health word without its generation (R401). -/
def State.trellisWord (s : State) : Nat :=
  let ks := List.range s.peerCount
  let st := fun (k : Nat) => s.memberWord k % 16
  let good := ks.filter (fun k => st k = 2 || st k = 3)
  let mean := fun (lo : Nat) => (ks.foldl (fun a k => a + nbits (s.memberWord k) lo 8) 0) / s.peerCount
  let state := if good = [] then 6 else if ks.all (fun k => st k = 2) then 2 else 3
  let events := Nat.min 255 (ks.foldl (fun a k => a + nbits (s.memberWord k) 40 8) 0)
  state + 2 ^ 8 * good.length + 2 ^ 16 * s.peerCount + 2 ^ 24 * mean 24 + 2 ^ 32 * mean 32 + 2 ^ 40 * events

/-- The head computes the trellis health word and the members' states; gen increments when another field changes. -/
def headHealth (s : State) : State :=
  let w := s.trellisWord
  let old := (s.reg rRalTrellisHealth).toNat % 2 ^ 48
  let g := if w = old then s.ral.headGen else s.ral.headGen + 1
  let s1 : State := { s with ral := { s.ral with headGen := g } }
  let s2 := s1.setReg rRalTrellisHealth (BitVec.ofNat 64 (w + 2 ^ 48 * (g % 65536)))
  foldS (List.range s2.peerCount) s2 (fun t k => peerState t k (t.memberWord k % 16))

/-- What a round sends (R401): a member its word to stack 0; the head the trellis word and the states to every member. -/
def healthRound (s : State) : State :=
  if s.fld rRalEnum fRalEnumHasId = 0 ∨ s.ral.map = [] then s
  else if s.fld rRalEnum fRalEnumHead = 1 then
    let s1 := headHealth { s with ral := { s.ral with
      mRounds := (List.range 16).foldl (fun m k => smSet m k (smGetD m k 0 + 1)) s.ral.mRounds } }
    let arg := BitVec.ofNat 128 ((s1.reg rRalTrellisHealth).toNat + 2 ^ 64 * s1.ral.mStates.toNat)
    foldS ((List.range s1.peerCount).filter (fun k => k ≠ s1.stackId)) s1 (fun t k =>
      (ralRoute t (ctlMsg t 0x15 (t.stackAddr k) arg [])).1)
  else (ralRoute s (ctlMsg s 0x15 (s.stackAddr 0) (BitVec.ofNat 128 s.stackHealth.toNat) [])).1

/-- HEALTH arrives: at the head a member's word, at a member the trellis word and every member's state. -/
def healthArrive (s : State) (m : RMsg) : State :=
  if s.fld rRalEnum fRalEnumHead = 1 then
    let w : Word := BitVec.ofNat 64 m.arg.toNat
    let s1 : State := { s with ral := { s.ral with
      mHealth := smSet s.ral.mHealth m.srcS w
      mRounds := smSet s.ral.mRounds m.srcS 0 } }
    let s2 := if w.toNat % 16 = 4 then dropArrivals s1 m.srcS else s1
    peerState s2 m.srcS (w.toNat % 16)
  else
    let s1 := s.setReg rRalTrellisHealth (BitVec.ofNat 64 m.arg.toNat)
    foldS (List.range s1.peerCount) s1 (fun t k => if k = t.stackId then t else peerState t k (mbyte m (8 + k / 2) / 16 ^ (k % 2) % 16))

/-- A member silent for 4 rounds has state 0 (R401). -/
def memberLost (s : State) (k : Nat) : State :=
  if s.fld rRalEnum fRalEnumHead = 1 ∧ k ≠ s.stackId ∧ k < s.peerCount ∧ 4 ≤ smGetD s.ral.mRounds k 0 then
    headHealth { s with ral := { s.ral with mHealth := smSet s.ral.mHealth k 0 } }
  else s

/-- PONG of a peer: latency is half the round-trip time, rounded up (R398). -/
def pongArrive (s : State) (m : RMsg) (rtt : Nat) : State :=
  if s.ral.pings.contains m.tag then
    let p := { s.peer m.tag with latency := Nat.min (cdiv rtt 2) 65535 }
    let s1 : State := { s with ral := { s.ral with pings := s.ral.pings.erase m.tag } }
    if p = s.peer m.tag then s1 else incGen { s1 with ral := { s1.ral with peers := smSet s1.ral.peers m.tag p } }
  else s

/-- A release of this stack's own counter during a core freeze waits for thaw (R501). -/
def barFreeHeld (s : State) (k : Nat) : State :=
  if s.freeze = 1 then
    let m := { ctlMsg s 0x09 (s.stackAddr s.stackId) (BitVec.ofNat 128 (k - 1024 + 256 * b2n (!(s.bar k).phase))) [] with vc := 0 }
    { s with ral := { s.ral with kept := s.ral.kept ++ [⟨8, m⟩] } }
  else barReleaseAll s k

/-- BAR_ARRIVE at the head (R402, R403): a member's, or a trellis's at the estate master. -/
def arriveBar (s : State) (n : Nat) (m : RMsg) : State :=
  let c := mbyte m 0
  let ph : Bool := mbyte m 1 % 2 = 1
  if 64 ≤ c ∨ s.stackId ≠ 0 then ralErr s 7 n 0 m.typ 0
  else if m.srcT = s.trellisId then barHead barFreeHeld s c ph m.srcS
  else if s.fld (rRalTbar c) fRalTbarMaster = 1 then barMaster barFreeHeld s c ph m.srcT
  else ralErr s 7 n 0 m.typ 0

end Sys2Proof.Machine
end

