-- ==== Sys2Proof/Machine/Spdm.lean ====
section
/-! DEFINITION. The Askala engine's mailbox service: SPDM requests (R416, R417), the attestation report (R419, R420), IDE
keys and DOE (R363, R364), and the end of an engine operation (R409). -/

namespace Sys2Proof.Machine

open Sys2Proof

/-! ### The attestation report (R419, R420) -/

/-- Words of the voted vintage records laid end to end (R516). -/
def vintageWords : Nat := 384

/-- Place of word w of the record of layer L (R516). -/
def vintageAt (layer w : Nat) : Nat := if layer = 0 then w else 224 + 32 * (layer - 1) + w

/-- A voted vintage word. -/
def State.vintage (s : State) (i : Nat) : Word := smGetD s.bup.vintage i 0

/-- Block 1: identity. Bytes 54 and 55 hold the floor die's silicon revision (DEDUCED, assumption log 45). -/
def State.blockIdentity (s : State) : List Byte :=
  (List.range 6).flatMap (fun l => toBytes (s.vintage (vintageAt l 0)) 8)
    ++ natBytes s.stackId 1 ++ natBytes (b2n (s.fld rRalEnum fRalEnumHasId = 1)) 1 ++ natBytes s.trellisId 2
    ++ natBytes s.bup.variant 1 ++ natBytes (s.fld rBupGrade fBupGradeDegraded) 1
    ++ natBytes (nbits (s.vintage (vintageAt 0 1)).toNat 16 16) 2 ++ natBytes 0 8

/-- Block 2: identity public key and fuse-state digest. -/
def State.blockFuses (s : State) : List Byte :=
  toBytes s.sec.pk 32 ++ sha256 ((List.range vintageWords).flatMap (fun i => toBytes (s.vintage i) 8))

/-- Block 3: Blend identity. -/
def State.blockBlend (s : State) : List Byte :=
  match s.bup.blend with
  | none => natBytes 0 72
  | some b => toBytes b.buildId 8 ++ toBytes b.headDig 32 ++ toBytes b.keyDig 32

/-- Blocks 4 to 14: section digests. -/
def State.blockSection (s : State) (k : Nat) : List Byte :=
  toBytes (s.bup.digests.getD k 0) 32

/-- PCI_LINK_n.ide. -/
def State.ide (s : State) (port : Nat) : Nat := s.fld (rPciLink port) fPciLinkIde

/-- Block 15: debug state. -/
def State.blockDebug (s : State) : List Byte :=
  natBytes (s.fld rDbgLevel fDbgLevelLevel) 1
    ++ natBytes (s.fld rDbgLevel fDbgLevelD3Entered + 2 * s.fld rDbgLevel fDbgLevelBrkEn) 1
    ++ natBytes s.freeze 1 ++ natBytes 0 1 ++ natBytes s.sec.erasedByD3 4
    ++ natBytes (s.ide 0) 1 ++ natBytes (s.ide 1) 1 ++ natBytes 0 6

/-- A partition's record of block 16. -/
def State.layoutRec (s : State) (p : Nat) : List Byte :=
  match s.part p with
  | none => natBytes p 1 ++ natBytes (s.secState p) 1 ++ natBytes 0 30
  | some r =>
    let sealable := b2n (((s.secuOf p).map Prod.fst).getD false)
    natBytes p 1 ++ natBytes (s.secState p) 1 ++ natBytes (1 + 2 * sealable) 1 ++ natBytes 0 1 ++ toBytes r.bays 4
      ++ toBytes r.ways 2 ++ natBytes r.rate 2 ++ natBytes 0 4 ++ natBytes r.base 8 ++ natBytes r.len 8

/-- Blocks of the old generation that a partition still holds (R435). -/
def State.oldBlocks (s : State) (p : Nat) : Nat :=
  let q := s.secPart p
  match q.part with
  | none => 0
  | some r =>
    if q.oldGen = 0 then 0
    else (s.hbm.blocks.filter (fun e => e.2.valid && e.2.keygen = q.oldGen && r.base ≤ e.2.addr
      && e.2.addr < r.base + r.len)).length

/-- A partition's record of block 17. -/
def State.keyRec (s : State) (p : Nat) : List Byte :=
  let q := s.secPart p
  if q.state = 3 then
    natBytes p 1 ++ natBytes q.writeGen 1 ++ natBytes q.oldGen 1 ++ natBytes (b2n q.decant.isSome) 1
      ++ natBytes (s.oldBlocks p) 4 ++ natBytes q.base 8 ++ natBytes q.len 8 ++ sha256 (toBytes q.importKey 32)
      ++ q.peers.flatMap (fun x => natBytes x 1) ++ natBytes q.latchT 2 ++ natBytes q.latchS 1 ++ natBytes 0 21
  else natBytes p 1 ++ natBytes 0 95

/-- The block of an index 1 to 17. -/
def State.measurement (s : State) (i : Nat) : List Byte :=
  if i = 1 then s.blockIdentity
  else if i = 2 then s.blockFuses
  else if i = 3 then s.blockBlend
  else if i ≤ 14 then s.blockSection (i - 4)
  else if i = 15 then s.blockDebug
  else if i = 16 then (List.range 16).flatMap s.layoutRec
  else (List.range 16).flatMap s.keyRec

/-- A measurement block: index, measurement specification DMTF, size, value type 0x82, value (R419, DSP0274). -/
def State.measBlock (s : State) (i : Nat) : List Byte :=
  let v := s.measurement i
  natBytes i 1 ++ natBytes 1 1 ++ natBytes (v.length + 3) 2 ++ natBytes 0x82 1 ++ natBytes v.length 2 ++ v

/-- The report that an index names: one block, or every block for 0xFF. -/
def State.report (s : State) (index : Nat) : List Byte :=
  if index = 0xFF then ((List.range 17).map (· + 1)).flatMap s.measBlock else s.measBlock index

/-! ### SPDM requests -/

/-- Negotiated version 1.2 (R416). -/
def execGetVersion (f : Fn) (s : State) : Host.Outcome State Fault Refusal :=
  .next (spdmReq s f (fun s => s.emit (.spdm f 0x04 (natBytes 0x1200 2))))

/-- The capability flags of R416, at the bit places of DSP0274 (PRESUMED, assumption log 42): CHAL 2, MEAS with signature
4, MEAS_FRESH 5, ENCRYPT 6, MAC 7, KEY_EX 9, HBEAT 13, KEY_UPD 14, PUB_KEY_ID 16. -/
def spdmCaps : Nat := ([2, 4, 5, 6, 7, 9, 13, 14, 16].map (2 ^ ·)).sum

/-- GET_CAPABILITIES. -/
def execGetCapabilities (f : Fn) (s : State) : Host.Outcome State Fault Refusal :=
  .next (spdmReq s f (fun s => s.emit (.spdm f 0x61 (natBytes spdmCaps 4))))

/-- The fixed selection of R416 (bit places of DSP0274): measurement hash and base hash SHA-256, extended asymmetric
algorithm (registry 3, vendor, algorithm), secp384r1, AES-256-GCM, SPDM key schedule, DMTF measurements. -/
def spdmAlgorithms : List Byte :=
  natBytes 2 4 ++ natBytes 1 4 ++ natBytes 3 2 ++ natBytes 0x1D87 2 ++ natBytes 1 2 ++ natBytes 0x10 2 ++ natBytes 2 2
    ++ natBytes 1 2 ++ natBytes 1 1

/-- NEGOTIATE_ALGORITHMS. -/
def execNegotiateAlgorithms (f : Fn) (s : State) : Host.Outcome State Fault Refusal :=
  .next (spdmReq s f (fun s => s.emit (.spdm f 0x63 spdmAlgorithms)))

/-- CHALLENGE: SlotID 0xFF only; the engine signs the answer. -/
def execChallenge (f : Fn) (slotId : Nat) (nonce : BitVec 256) (s : State) : Host.Outcome State Fault Refusal :=
  .next (spdmReq s f (fun s => if slotId ≠ 0xFF then spdmError s f 7 else askPush s ⟨2, f, 1, toBytes nonce 32⟩))

/-- GET_MEASUREMENTS: an index of R419, signed or not. -/
def execGetMeasurements (f : Fn) (index : Nat) (sig : Bool) (nonce : BitVec 256) (s : State) :
    Host.Outcome State Fault Refusal :=
  .next (spdmReq s f (fun s =>
    if ¬ (index = 0xFF ∨ (1 ≤ index ∧ index ≤ 17)) then spdmError s f 7
    else if sig then askPush s ⟨2, f, 2, natBytes index 1 ++ toBytes nonce 32⟩
    else s.emit (.spdm f 0x60 (s.report index))))

/-- KEY_EXCHANGE: SlotID 0xFF, a sound random source, and room for a session. The error of a failed source is Unspecified
(DESIGN CHOICE, assumption log 46). -/
def execKeyExchange (f : Fn) (slotId : Nat) (exchange : List Byte) (s : State) : Host.Outcome State Fault Refusal :=
  .next (spdmReq s f (fun s =>
    if slotId ≠ 0xFF then spdmError s f 7
    else if s.sec.rngFail then spdmError s f 5
    else if 2 ≤ (s.sec.sessions.filter (fun x => x.f = f)).length ∨ 16 ≤ s.sec.sessions.length then spdmError s f 0x0A
    else
      let id := s.sec.nextSess
      let s1 : State := { s with sec := { s.sec with
        sessions := s.sec.sessions ++ [⟨id, f, false, false, 0⟩]
        nextSess := id % 65535 + 1 } }
      askPush s1 ⟨2, f, 3, natBytes id 2 ++ exchange⟩))

/-- FINISH: the session is established, or ended when the requester's verify data is wrong. -/
def execFinish (f : Fn) (sess : Nat) (ok : Bool) (s : State) : Host.Outcome State Fault Refusal :=
  .next (spdmReq s f (fun s =>
    if ¬ s.sec.sessions.any (fun x => x.id = sess ∧ x.f = f ∧ ¬ x.established ∧ x.keyed) then spdmError s f 7
    else if ok then
      let s1 : State := { s with sec := { s.sec with
        sessions := s.sec.sessions.map (fun x => if x.id = sess then { x with established := true } else x) } }
      s1.emit (.spdm f 0x65 [])
    else spdmError { s with sec := { s.sec with sessions := s.sec.sessions.filter (fun x => x.id ≠ sess) } } f 6))

/-- HEARTBEAT. -/
def execHeartbeat (f : Fn) (sess : Nat) (s : State) : Host.Outcome State Fault Refusal :=
  .next (inSession s f sess (fun s => s.emit (.spdm f 0x68 [])))

/-- The next session secret of the SPDM key schedule (DSP0274, PRESUMED, assumption log 42). -/
def nextSecret (k : BitVec 256) : BitVec 256 :=
  BitVec.ofNat 256 (leNat (hkdfExpand (toBytes k 32) (natBytes 32 2 ++ ascii "spdm1.2 traffic upd") 32))

/-- KEY_UPDATE. -/
def execKeyUpdate (f : Fn) (sess : Nat) (s : State) : Host.Outcome State Fault Refusal :=
  .next (inSession s f sess (fun s =>
    let s1 : State := { s with sec := { s.sec with
      sessions := s.sec.sessions.map (fun x => if x.id = sess then { x with key := nextSecret x.key } else x) } }
    s1.emit (.spdm f 0x69 [])))

/-- END_SESSION: the session's keys are erased. -/
def execEndSession (f : Fn) (sess : Nat) (s : State) : Host.Outcome State Fault Refusal :=
  .next (inSession s f sess (fun s =>
    let s1 : State := { s with sec := { s.sec with sessions := s.sec.sessions.filter (fun x => x.id ≠ sess) } }
    s1.emit (.spdm f 0x6C [])))

/-- RESPOND_IF_READY: delivers the oldest result kept for the function; not ready while its SEAL runs (R418). -/
def execRespondIfReady (f : Fn) (s : State) : Host.Outcome State Fault Refusal :=
  .next (spdmReq s f (fun s =>
    match s.sec.ready.find? (fun e => e.1 = f) with
    | some e => ({ s with sec := { s.sec with ready := s.sec.ready.erase e } } : State).emit (.spdm f e.2.1 e.2.2)
    | none => if s.sec.parts.any (fun e => e.2.waitFn = some f) then spdmError s f 0x42 else spdmError s f 7))

/-- SPDM_UNSUPPORTED: any other request. -/
def execSpdmUnsupported (f : Fn) (_code : Nat) (s : State) : Host.Outcome State Fault Refusal :=
  .next (spdmReq s f (fun s => spdmError s f 7))

/-! ### The end of an engine operation (R409) -/

/-- The identity key signs a message (R413); the index makes the signature of each message its own. -/
def identitySign (s : State) (m : List Byte) : State × List Byte := (s.tick, Config.slhSign s.sec.seed m s.free)

/-- What an operation does when it ends. -/
def askEnd (s : State) (o : AskOp) : State :=
  if o.cls = 1 then
    let (s1, sig) := identitySign s o.data
    kxSigned s1 o.f.port sig
  else
    let (s1, r) := draw s
    let mine := toBytes (r.extractLsb' 0 256) 32
    if o.code = 1 then
      let body := sha256 (toBytes s1.sec.pk 32) ++ mine
      let (s2, sig) := identitySign s1 (o.data ++ body)
      s2.emit (.spdm o.f 0x03 (body ++ sig))
    else if o.code = 2 then
      let body := s1.report (leAt o.data 0 1) ++ mine
      let (s2, sig) := identitySign s1 (o.data ++ body)
      s2.emit (.spdm o.f 0x60 (body ++ sig))
    else
      let id := leAt o.data 0 2
      let (s2, x) := draw s1
      let share := Config.ecdhPublic x
      let key := Config.ecdhShared x (o.data.drop 2)
      let s3 : State := { s2 with sec := { s2.sec with
        sessions := s2.sec.sessions.map (fun e => if e.id = id ∧ e.f = o.f then { e with keyed := true, key := key } else e) } }
      let body := natBytes id 2 ++ mine ++ share
      let (s4, sig) := identitySign s3 (o.data ++ body)
      s4.emit (.spdm o.f 0x64 (body ++ sig))

/-- ASKALA_OPERATION_DONE: the operation in progress delivers its result, and the next one starts. -/
def execAskalaOperationDone (s : State) : Host.Outcome State Fault Refusal :=
  .next (match s.sec.running with
    | none => s
    | some o => if s.on then askStart (askEnd { s with sec := { s.sec with running := none } } o) else s)

/-! ### IDE and DOE (R363, R364) -/

/-- IDE_KM through the physical function's mailbox in an established session: keys are installed or refreshed. A stream is
Secure once it has keys (DEDUCED, assumption log 47). -/
def execIdeKm (f : Fn) (sess : Nat) (key : BitVec 256) (s : State) : Host.Outcome State Fault Refusal :=
  .next (inSession s f sess (fun s =>
    if f.vf ≠ 0 then spdmError s f 7
    else
      let s1 : State := { s with pci := { s.pci with ideKey := setNth s.pci.ideKey f.port key } }
      (s1.setFld (rPciLink f.port) fPciLinkIde 2).emit (.spdm f 0x7E [])))

/-- IDE_INSECURE: the port's stream enters Insecure and stays so until keys are installed again. -/
def execIdeInsecure (port : Nat) (s : State) : Host.Outcome State Fault Refusal :=
  .next (if s.on ∧ port < 2 ∧ s.ide port ≠ 0 then
    raise (s.setFld (rPciLink port) fPciLinkIde 3) rPciEvent (fPciEventIdeInsecureN.bit port) else s)

/-- Objects of up to 64 KiB are accepted. -/
def doeMax : Nat := 65536

/-- DOE_OVERSIZE: the object is discarded and the mailbox's DOE Error bit set. -/
def execDoeOversize (f : Fn) (len : Nat) (s : State) : Host.Outcome State Fault Refusal :=
  .next (if s.on ∧ doeMax < len then
    { s with pci := { s.pci with doeErr := if s.pci.doeErr.contains f then s.pci.doeErr else s.pci.doeErr ++ [f] } } else s)

/-- DOE_DISCOVERY: index 0, 1 and 2 are DOE Discovery, CMA/SPDM and Secured CMA/SPDM of the PCI-SIG (vendor 1, data object
types 0 to 2: PRESUMED, assumption log 42); an index beyond them names no protocol. -/
def execDoeDiscovery (f : Fn) (index : Nat) (s : State) : Host.Outcome State Fault Refusal :=
  .next (if ¬ s.on then s
    else if index < 3 then s.emit (.doe f 1 index (if index < 2 then index + 1 else 0))
    else s.emit (.doe f 0xFFFF 0 0))

end Sys2Proof.Machine
end

