-- ==== Sys2Proof/Machine/Pcie.lean ====
section
/-! DEFINITION. Power, reset and control pins (R541 to R546), the PCIe ports (R348 to R354), BAR2 (R359, R360) and the I3C
sideband (R365, R366). -/

namespace Sys2Proof.Machine

open Sys2Proof

/-! ### Power and reset (R2, R541 to R545) -/

/-- Every state lost; the pins that the board drives, THERMTRIP_N where it stays, and the model's own fields are kept. -/
def cold (s : State) (p : PciSt) : State := { State.reset with pci := p, out := s.out, free := s.free, pending := s.pending }

/-- The input pins as they stand; link training starts on a port whose PERSTn_N is high. -/
def pins (s : State) : PciSt :=
  { pwrgood := s.pci.pwrgood
    resetLow := s.pci.resetLow
    supplyFault := s.pci.supplyFault
    perstLow := s.pci.perstLow
    freezeLow := s.pci.freezeLow }

/-- The always-on domain starts. -/
def powerStart (s : State) (p : PciSt) : State := cold s { p with training := ~~~ p.perstLow }

/-- POWER_UP. -/
def execPowerUp (s : State) : Host.Outcome State Fault Refusal :=
  .next (if s.pci.pwrgood then s else powerStart s { pins s with pwrgood := true })

/-- POWER_OFF: no state is kept. -/
def execPowerOff (s : State) : Host.Outcome State Fault Refusal :=
  .next (cold s { pins s with pwrgood := false, supplyFault := false })

/-- SYS_RESET: low keeps no state; the release acts as PWRGOOD assertion (R545). -/
def execSysReset (low : Bool) (s : State) : Host.Outcome State Fault Refusal :=
  .next (if low then cold s { pins s with resetLow := true }
    else if s.pci.resetLow then powerStart s { pins s with resetLow := false }
    else s)

/-- SUPPLY_FAULT: as a deasserted PWRGOOD until PWRGOOD is cycled; THERMTRIP_N keeps its state, and while it is asserted
the thermal model goes on until the restart conditions hold (R543). -/
def execSupplyFault (s : State) : Host.Outcome State Fault Refusal :=
  .next (if s.pci.pwrgood ∧ ¬ s.pci.resetLow then
    let t := cold s { pins s with supplyFault := true, thermtrip := s.pci.thermtrip }
    if s.pci.thermtrip then { t with pwr := keepThermal s.pwr } else t
  else s)

/-! ### The owner port and the links (R350, R351) -/

/-- Elect the owner from the ports that have come up, port 0 first. -/
def elect (s : State) : State :=
  if s.pci.owner.isSome then s
  else if s.pci.wasUp.getLsbD 0 then { s with pci := { s.pci with owner := some 0 } }
  else if s.pci.wasUp.getLsbD 1 then { s with pci := { s.pci with owner := some 1 } }
  else s

/-- OWNER_ELECT: 100 ms after PWRGOOD. -/
def execOwnerElect (s : State) : Host.Outcome State Fault Refusal :=
  .next (if s.pci.pwrgood ∧ ¬ s.pci.resetLow ∧ ¬ s.pci.supplyFault ∧ ¬ s.pci.deadline then
    elect { s with pci := { s.pci with deadline := true } } else s)

/-- The bit of a port in a mask. -/
def portBit (n : Nat) : BitVec 2 := BitVec.ofNat 2 (2 ^ n)

/-- PCIE_LINK_UP. -/
def execPcieLinkUp (port speed width : Nat) (flit : Bool) (s : State) : Host.Outcome State Fault Refusal :=
  .next (
    if s.on ∧ s.freeze ≠ 2 ∧ port < 2 ∧ ¬ s.pci.perstLow.getLsbD port ∧ 1 ≤ speed ∧ speed ≤ 6 ∧ [1, 2, 4, 8].contains width then
      let w := fPciLinkFlit.put (fPciLinkWidth.put (fPciLinkSpeed.put (s.reg (rPciLink port)) speed) width) (b2n flit)
      let s1 := s.setReg (rPciLink port) w
      let s2 : State := { s1 with pci := { s1.pci with
        up := s1.pci.up ||| portBit port
        wasUp := s1.pci.wasUp ||| portBit port
        training := s1.pci.training &&& ~~~ portBit port } }
      if s2.pci.deadline then elect s2 else s2
    else s)

/-- A port's controller is reset with its functions' configuration state and MSI-X tables, and nothing else (R351). -/
def portReset (s : State) (port : Nat) : State :=
  let was := s.pci.up.getLsbD port
  let s1 : State := { s with
    fns := smKeep s.fns (fun k => k / 32 ≠ port)
    pci := { s.pci with
      up := s.pci.up &&& ~~~ portBit port
      ideKey := setNth s.pci.ideKey port 0
      doeErr := s.pci.doeErr.filter (fun f => f.port ≠ port)
      training := s.pci.training ||| portBit port } }
  let s2 := s1.setReg (rPciLink port) 0
  if was then raise s2 rPciEvent (fPciEventLinkDownN.bit port) else s2

/-- PCIE_LINK_DOWN. -/
def execPcieLinkDown (port : Nat) (s : State) : Host.Outcome State Fault Refusal :=
  .next (if s.on ∧ port < 2 ∧ s.pci.up.getLsbD port then portReset s port else s)

/-- PCIE_PORT_RESET: a hot reset, or PERSTn_N asserted; a port held in PERST does not train. -/
def execPciePortReset (port : Nat) (perst : Bool) (s : State) : Host.Outcome State Fault Refusal :=
  .next (
    if 2 ≤ port then s
    else
      let s1 := if s.on then portReset s port else s
      if perst then
        { s1 with pci := { s1.pci with
          perstLow := s1.pci.perstLow ||| portBit port
          training := s1.pci.training &&& ~~~ portBit port } }
      else s1)

/-- PERST_RELEASE: link training starts (R541). -/
def execPerstRelease (port : Nat) (s : State) : Host.Outcome State Fault Refusal :=
  .next (if 2 ≤ port ∨ ¬ s.pci.perstLow.getLsbD port then s
    else { s with pci := { s.pci with
      perstLow := s.pci.perstLow &&& ~~~ portBit port
      training := if s.on then s.pci.training ||| portBit port else s.pci.training } })

/-! ### Function Level Reset (R354, R417) -/

/-- Contexts bound to a function. -/
def State.contextsOf (s : State) (f : Fn) : List Nat :=
  (List.range 1024).filter (fun m => decide ((s.binding m).map Prod.fst = some f))

/-- The sessions of a function end and its engine work is dropped (R417). -/
def endSessions (s : State) (f : Fn) : State :=
  { s with sec := { s.sec with
    sessions := s.sec.sessions.filter (fun x => x.f ≠ f)
    queue := s.sec.queue.filter (fun o => o.cls = 1 || o.f ≠ f)
    ready := s.sec.ready.filter (fun e => e.1 ≠ f) } }

/-- A Function Level Reset: contexts aborted and unbound, TLB entries removed, configuration space and MSI-X table reset;
outstanding page requests stay without waiters (R289). -/
def functionReset (s : State) (f : Fn) : State :=
  let ms := s.contextsOf f
  let s1 := foldS ms s (fun u m => abortCtx u m)
  let s2 := foldS ms s1 (fun u m =>
    (u.setFld (rXltCtxBind m) fXltCtxBindValid 0).setFld (rXltCtxBind m) fXltCtxBindBindState 0)
  let s3 := tlbRemove s2 (fun e => ms.contains (64 * e.part + e.ctx))
  let s4 : State := { s3 with
    fns := smDel s3.fns (fnKey f)
    xlt := { s3.xlt with prs := s3.xlt.prs.map (fun r => if r.f = f then { r with waiters := [] } else r) }
    pci := { s3.pci with doeErr := s3.pci.doeErr.filter (fun g => g ≠ f) } }
  let s5 := if f.vf = 0 then s4.setFld (rPciLink f.port) fPciLinkNumVfs 0 else s4
  raise (endSessions s5 f) rPciEvent fPciEventFlr

/-- FLR. -/
def execFlr (f : Fn) (s : State) : Host.Outcome State Fault Refusal :=
  .next (if s.on ∧ s.freeze ≠ 2 ∧ f.port < 2 ∧ f.vf ≤ 16 then functionReset s f else s)

/-! ### BAR0 and BAR2 (R356, R359, R360) -/

/-- The access is a 32-bit or 64-bit access aligned to its size. -/
def bar0Ok (off size : Nat) : Bool := (size = 4 && off % 4 = 0) || (size = 8 && off % 8 = 0)

/-- BAR0_BAD_ACCESS: a read completes with Unsupported Request, a write is discarded. -/
def execBar0BadAccess (f : Fn) (isRead : Bool) (off size : Nat) (s : State) : Host.Outcome State Fault Refusal :=
  .next (if s.on ∧ ¬ bar0Ok off size ∧ isRead then s.emit (.unsupported f 0) else s)

/-- The pieces of a byte range within lines of 128 bytes: offset from the start and length. -/
def lineParts (off : Nat) : Nat → Nat → List (Nat × Nat)
  | 0, _ => []
  | fuel + 1, len =>
    if len = 0 then []
    else
      let n := Nat.min len (128 - off % 128)
      (off, n) :: lineParts (off + n) fuel (len - n)

/-- How a function's BAR2 answers: 3 Unsupported Request, 2 Completer Abort, 0 served. A function that reaches nothing is
judged first (DEDUCED, assumption log 48). -/
def State.bar2Status (s : State) (f : Fn) : Nat :=
  if s.pci.owner.isSome ∧ ¬ s.mappedAny f then 3
  else if ¬ s.stepDone 10 ∨ s.bup.holding ∨ s.asleep ∨ ¬ s.thawed then 2
  else 0

/-- Where a byte of a function's BAR2 lies (R275, R359): a virtual function reaches the shares of its partitions only. -/
def State.bar2Place (s : State) (f : Fn) (off : Nat) : Phys :=
  if f.vf = 0 then s.fabric (s.bar2Fabric (s.fn f).bar2Log2 off)
  else
    let mine := (List.range 16).any (fun p => s.mapped p f &&
      (match s.part p with | some r => decide (r.base ≤ off ∧ off < r.base + r.len) | none => false))
    if mine then .hbm off else .bad off

/-- BAR2_READ: each part within a line goes to its slice, or to another stack. -/
def bar2Read (f : Fn) (off len tag : Nat) (s : State) : State :=
  if ¬ s.on ∨ s.freeze = 2 then s
  else
    let st := s.bar2Status f
    if st ≠ 0 then s.emit (.bar2Cpl f tag st off [])
    else
      foldS (lineParts off (len + 1) len) s (fun u e =>
        let who : Requester := .bar2 f tag e.2
        match u.bar2Place f e.1 with
        | .hbm a => { u with cel := { u.cel with xbar := u.cel.xbar ++ [⟨who, a, 0, .read 0⟩] } }
        | .remote fab => remoteAsk u who (readMsg fab 0xFF 0)
        | .host _ _ _ _ => u
        | .bad a => answerRead (addrError u 3 false a) who a 0 0xF 1)

/-- BAR2_READ. -/
def execBar2Read (f : Fn) (off len tag : Nat) (s : State) : Host.Outcome State Fault Refusal := .next (bar2Read f off len tag s)

/-- Byte enables and data of a part of a write. -/
def partWrite (off : Nat) (bs : List (Option Byte)) : BitVec 128 × Line :=
  let be := bs.zipIdx.foldl (fun v e => if e.1.isSome then v + 2 ^ (off % 128 + e.2) else v) 0
  (BitVec.ofNat 128 be, lineBytes (off % 128) (bs.map (fun b => b.getD 0)))

/-- Sectors that byte enables touch. -/
def touched (be : BitVec 128) : BitVec 4 :=
  BitVec.ofNat 4 ((List.range 4).foldl (fun v i => if be &&& sectorEnables i ≠ 0 then v + 2 ^ i else v) 0)

/-- BAR2_WRITE: each part is a plain write with its byte enables. A write of this stack's own window reaches its slice at
once, so that it precedes every later BAR0 write of the port (R357). -/
def bar2Write (f : Fn) (off : Nat) (bytes : List (Option Byte)) (ep : Bool) (s : State) : State :=
  if ¬ s.on ∨ s.bar2Status f ≠ 0 then s
  else
    foldS (lineParts off (bytes.length + 1) bytes.length) s (fun u e =>
      let (be, d) := partWrite e.1 ((bytes.drop (e.1 - off)).take e.2)
      let poison : BitVec 4 := if ep then touched be else 0
      let who : Requester := .bar2 f 0 0
      if be = 0 then u
      else
        match u.bar2Place f e.1 with
        | .hbm a => sliceReq u ⟨who, a, 0, .write be d poison⟩ []
        | .remote fab => remoteAsk u who (writeMsg fab 0xFF 0 be d poison)
        | .host _ _ _ _ => u
        | .bad a => addrError u 3 true a)

/-- BAR2_WRITE. -/
def execBar2Write (f : Fn) (off : Nat) (bytes : List (Option Byte)) (ep : Bool) (s : State) :
    Host.Outcome State Fault Refusal := .next (bar2Write f off bytes ep s)

/-- BAR2_ATOMIC. -/
def execBar2Atomic (f : Fn) (tag : Nat) (s : State) : Host.Outcome State Fault Refusal :=
  .next (if s.on then s.emit (.unsupported f tag) else s)

/-! ### I3C (R365, R366) -/

/-- The target answers in every power state and freeze scope, and after thermal shutdown. -/
def State.i3cOn (s : State) : Bool := s.pci.pwrgood && !s.pci.resetLow && !s.pci.supplyFault

/-- A directed transfer reaches the target once it has its dynamic address. -/
def i3cDirect (s : State) (k : State → State) : State := if s.i3cOn ∧ s.pci.i3cAddr.isSome then k s else s

/-- I3C_ENTDAA: a target that has an address keeps it. -/
def execI3cEntdaa (addr : BitVec 7) (s : State) : Host.Outcome State Fault Refusal :=
  .next (if s.i3cOn ∧ s.pci.i3cAddr = none then { s with pci := { s.pci with i3cAddr := some addr } } else s)

/-- I3C_RSTDAA. -/
def execI3cRstdaa (s : State) : Host.Outcome State Fault Refusal :=
  .next (if s.i3cOn then { s with pci := { s.pci with i3cAddr := none } } else s)

/-- I3C_GETPID: manufacturer ID, 0 in bit 32, and the serial's low half. -/
def execI3cGetpid (s : State) : Host.Outcome State Fault Refusal :=
  .next (i3cDirect s (fun s => s.emit (.i3c [Config.mipiId.toNat * 2 ^ 33 + (s.vintage 0).toNat % 2 ^ 32])))

/-- I3C_GETBCR. -/
def execI3cGetbcr (s : State) : Host.Outcome State Fault Refusal := .next (i3cDirect s (fun s => s.emit (.i3c [0])))

/-- I3C_GETDCR. -/
def execI3cGetdcr (s : State) : Host.Outcome State Fault Refusal := .next (i3cDirect s (fun s => s.emit (.i3c [0])))

/-- I3C_GETSTATUS: the status word is not stated: a free value. -/
def execI3cGetstatus (s : State) : Host.Outcome State Fault Refusal :=
  .next (i3cDirect s (fun s => s.tick.emit (.i3c [Config.choose s.free % 65536])))

/-- I3C_PRIVATE_WRITE: the first byte is the read index. -/
def execI3cPrivateWrite (bytes : List Byte) (s : State) : Host.Outcome State Fault Refusal :=
  .next (i3cDirect s (fun s =>
    match bytes with
    | [] => s
    | b :: _ => { s with pci := { s.pci with i3cIdx := b.toNat } }))

/-- The telemetry word at an index; an index that names no word gives a free value (DESIGN CHOICE, assumption log 49). -/
def State.i3cWord (s : State) (idx : Nat) : Nat :=
  if idx % 4 ≠ 0 ∨ 0x3C < idx then Config.choose s.free % 2 ^ 32
  else if idx = 0 then 0x33383743
  else if 0x20 ≤ idx ∨ ¬ s.stepDone 1 then 0
  else smGetD s.pci.i3cWords idx 0

/-- Words of a private read from the read index, which advances by 4 and wraps from 0x3C to 0. -/
def i3cRead : Nat → State → List Nat → State × List Nat
  | 0, s, acc => (s, acc)
  | k + 1, s, acc =>
    let i := s.pci.i3cIdx
    let s1 : State := { s.tick with pci := { s.pci with i3cIdx := if i = 0x3C then 0 else (i + 4) % 256 } }
    i3cRead k s1 (acc ++ [s.i3cWord i])

/-- I3C_PRIVATE_READ. -/
def execI3cPrivateRead (words : Nat) (s : State) : Host.Outcome State Fault Refusal :=
  .next (i3cDirect s (fun s => let (t, l) := i3cRead words s []; t.emit (.i3c l)))

end Sys2Proof.Machine
end

