-- ==== Sys2Proof/Machine/Power.lean ====
section
/-! DEFINITION. Power states, idle bays, wakes and the power limit (R446 to R469). -/

namespace Sys2Proof.Machine

open Sys2Proof

/-! ### Duty (R39, R83, R467, R479) -/

/-- The duty cap of R467, which does not act during steps 3, 5 and 6 (R518). -/
def State.pcap (s : State) : Nat :=
  match s.bup.step with
  | some (k, _) => if [3, 5, 6].contains k then 1024 else s.fld rPwrDuty fPwrDutyPcap
  | none => s.fld rPwrDuty fPwrDutyPcap

/-- CMP_BAY_DUTY_n.duty: the smallest of pcap, the power-tile cap and the thermal cap. -/
def State.duty (s : State) (b : Nat) : Nat :=
  Nat.min s.pcap (Nat.min (s.bayCap b) (smGetD s.pwr.thermalCap b 1024))

/-- Run a step and trace each bay whose duty has changed (R495, kind 11). -/
def withDuty (s : State) (g : State → State) : State :=
  let t := g s
  foldS ((List.range 32).filter (fun b => t.duty b ≠ s.duty b)) t (fun u b =>
    trace u 11 b (partByte (u.partOfBay b)) 0xFF (u.duty b) 0 0)

/-! ### Idle bays (R450, R451) -/

/-- A piece is placed on the bay. -/
def State.pieceOn (s : State) (b : Nat) : Bool :=
  s.cmp.opq.any (fun e => e.2.any (fun t => t.pieces.any (fun p => match p.ph with | .placed c _ => c = b | _ => false)))

/-- The bay is idle: no thread has an issue slot to use and no piece is placed. -/
def State.bayIdle (s : State) (b : Nat) : Bool :=
  !s.pieceOn b && !(s.cmp.thr.any (fun e =>
    bayOfCell (e.1 / 128) = b && (e.2.st = .ready || e.2.ending.isSome || e.2.stopping)))

/-- BAY_CLOCK_GATE: a bay idle for clk_idle. -/
def execBayClockGate (bay : Nat) (s : State) : Host.Outcome State Fault Refusal :=
  .next (
    if s.live ∧ bay < 32 ∧ smGetD s.pwr.bayGate bay 0 = 0 ∧ s.bayIdle bay then
      { s with pwr := { s.pwr with bayGate := smSet s.pwr.bayGate bay 1 } }
    else s)

/-- A bay's cell stores lose their contents, and with them the L1 lines; its TLB is emptied (R451, R330). -/
def bayLose (s : State) (b : Nat) : State :=
  let mine := fun (cell : Nat) => bayOfCell cell = b
  { s with
    cmp := { s.cmp with
      cs := smKeep s.cmp.cs (fun k => !decide (mine (k / 16384)))
      l1 := smKeep s.cmp.l1 (fun c => !decide (mine c)) }
    xlt := { s.xlt with bay := smDel s.xlt.bay b } }

/-- BAY_POWER_GATE: a clock-gated bay idle for a further pwr_idle, with no thread and no tile. -/
def execBayPowerGate (bay : Nat) (s : State) : Host.Outcome State Fault Refusal :=
  .next (
    if s.live ∧ bay < 32 ∧ smGetD s.pwr.bayGate bay 0 = 1 ∧ s.fld rPwrIdleCfg fPwrIdleCfgPwrIdle ≠ 0 ∧ s.bayIdle bay ∧
        ¬ s.cmp.thr.any (fun e => bayOfCell (e.1 / 128) = bay) ∧
        (List.range 4).all (fun q => (smGetD s.cmp.opq (4 * bay + q) []).isEmpty) then
      let t := bayLose s bay
      { t with pwr := { t.pwr with bayGate := smSet t.pwr.bayGate bay 2 } }
    else s)

/-! ### Wake admission (R460 to R464) -/

/-- Charged step of a wake in half amperes (R460). A Borsum wake is charged the power-up step of its unit: a slice
column (unit 1,000 + n) or a bay. -/
def wakeStep (kind unit : Nat) : Nat :=
  if kind = 0 then 64
  else if kind = 1 then 2
  else if kind = 2 then 1
  else if kind = 3 then 6
  else if kind = 4 then 8
  else if kind = 5 then 16
  else if 1000 ≤ unit then 2
  else 8

/-- The wake is a ladder rung. -/
def isRung (kind : Nat) : Bool := kind = 1 || kind = 4 || kind = 6

/-- Higher priority first, then older first (R461). -/
def wakeLe (a b : Wake) : Bool := if a.high = b.high then a.age ≤ b.age else a.high

/-- The wakes admitted in one cycle: `win` half amperes are charged in the window, `ladder` tells whether a rung may
still be admitted. -/
def admitList (lim : Nat) : List Wake → Nat → Bool → List Wake
  | [], _, _ => []
  | w :: ws, win, ladder =>
    if lim < win + wakeStep w.kind w.unit then []
    else if isRung w.kind ∧ ¬ ladder then admitList lim ws win ladder
    else w :: admitList lim ws (win + wakeStep w.kind w.unit) (ladder && !isRung w.kind)

/-- An admitted wake takes effect: a clock starts, a port sends wake blocks, or a rail begins to rise. -/
def admitted (s : State) (w : Wake) : State :=
  let wait := s.pwr.aon - w.since
  let s1 := s.addMod rPwrWakeStat fPwrWakeStatAdmitted 1
  let s2 := s1.setFld rPwrWakeStat fPwrWakeStatMaxWait
    (Nat.min (Nat.max (s1.fld rPwrWakeStat fPwrWakeStatMaxWait) wait) 65535)
  let s3 := countEv s2 10 0xFF 0xFF 1
  if isRung w.kind then { s3 with pwr := { s3.pwr with rails := s3.pwr.rails ++ [w] } }
  else if w.kind = 3 then wakeTx s3 w.unit
  else if w.kind = 5 then { s3 with pwr := { s3.pwr with bayGate := smDel s3.pwr.bayGate w.unit } }
  else s3

/-- One CLK_AON cycle (R461, R462): the cycle count advances, and wakes are admitted within the slew limit, one rung in
any 16 cycles. -/
def wakeCycle (s : State) : State :=
  let lim := 2 * Nat.max 40 (s.fld rPwrSlewCfg fPwrSlewCfgLimit)
  let win := (s.pwr.recent.take 3).foldl (· + ·) 0
  let free := fun (w : Wake) => !(wakeClass w.kind = 4 && s.bayUnderTest w.unit)
  let now := admitList lim ((s.pwr.wakes.filter free).mergeSort wakeLe) win s.pwr.rung.isNone
  let used := now.foldl (fun a w => a + wakeStep w.kind w.unit) 0
  let rung : Option Nat := if now.any (fun w => isRung w.kind) then some 1
    else match s.pwr.rung with
      | some k => if k + 1 < 16 then some (k + 1) else none
      | none => none
  let s1 : State := { s with pwr := { s.pwr with
    wakes := s.pwr.wakes.filter (fun w => !now.contains w)
    recent := (used :: s.pwr.recent).take 3
    rung := rung } }
  let s2 := foldS now s1 admitted
  { s2 with pwr := { s2.pwr with aon := s2.pwr.aon + 1 } }

/-- WAKE_ADMIT. CLK_AON runs in every state while the rails are up. -/
def execWakeAdmit (s : State) : Host.Outcome State Fault Refusal :=
  .next (if s.pci.pwrgood ∧ ¬ s.pci.resetLow ∧ ¬ s.pci.supplyFault then wakeCycle s else s)

/-- The clock start that follows a power-up, or none: a unit under test needs none. -/
def clockStart (kind : Nat) : Option Nat := if kind = 1 then some 2 else if kind = 4 then some 5 else none

/-- A rail is up: the unit's clock start is queued with the power-up's age and priority (R460). -/
def railUp (s : State) (kind unit : Nat) : State :=
  match s.pwr.rails.find? (fun w => w.kind = kind ∧ w.unit = unit) with
  | none => s
  | some w =>
    let s1 : State := { s with pwr := { s.pwr with rails := s.pwr.rails.erase w } }
    match clockStart kind with
    | none => s1
    | some k => { s1 with pwr := { s1.pwr with wakes := s1.pwr.wakes ++ [{ w with kind := k, since := s1.pwr.aon }] } }

/-- WAKE_RAIL_UP. -/
def execWakeRailUp (kind unit : Nat) (s : State) : Host.Outcome State Fault Refusal :=
  .next (if s.on then railUp s kind unit else s)

/-- A start of the floor fabric or of a slice column is pending. -/
def State.starting (s : State) : Bool := (s.pwr.wakes ++ s.pwr.rails).any (fun w => w.kind ≤ 2)

/-! ### Power states (R452 to R459) -/

/-- The blockers of an entry (R453), in order of PWR_BLOCK's bits. -/
def State.blockers (s : State) : List Bool :=
  let ctx := s.cmp.ctx.map Prod.snd
  [ ctx.any (fun c => c.state = 1 || c.state = 3) || !s.cmp.thr.isEmpty,
    s.cmp.opq.any (fun e => !e.2.isEmpty) || ctx.any (fun c => !c.queue.isEmpty || !c.reading.isEmpty)
      || s.xlt.cmds.any (fun e => !e.2.queue.isEmpty || !e.2.reading.isEmpty),
    s.cel.slices.any (fun e => !e.2.waits.isEmpty),
    s.cmp.bars.any (fun e => e.2.awaiting),
    !s.cel.ranges.isEmpty || s.dbg.scrub.isSome || s.sec.parts.any (fun e => e.2.imp.isSome)
      || s.bup.loadRunning || s.fld rBldCtrl fBldCtrlBusy = 1 || s.bup.step.isSome ]

/-- A slice holds a pinned frame (R454). -/
def State.anyPinned (s : State) : Bool := s.cel.frames.any (fun e => e.2.pinned)

/-- A request ends with a result; 3 to 7 set refused. -/
def pwrResult (s : State) (r : Nat) : State :=
  let s1 := s.setFld rPwrStateCtrl fPwrStateCtrlResult r
  if 3 ≤ r then raise s1 rPwrEvent fPwrEventRefused else s1

/-- A request is refused by its blockers, latched in PWR_BLOCK. -/
def pwrBlocked (s : State) (bs : List Bool) (r : Nat) : State :=
  pwrResult (s.setReg rPwrBlock (BitVec.ofNat 64 (bs.zipIdx.foldl (fun a e => a + b2n e.1 * 2 ^ e.2) 0))) r

/-- A transition begins: transit and busy. -/
def transitStart (s : State) (target : Nat) : State :=
  let s1 := (s.setFld rPwrStateCtrl fPwrStateCtrlTransit 1).setFld rPwrStateCtrl fPwrStateCtrlBusy 1
  { s1 with pwr := { s1.pwr with target := some target } }

/-- Every translation goes: the TLBs, requests in flight and page requests outstanding (R455 step 2). -/
def dropTranslations (s : State) : State :=
  { s with xlt := { s.xlt with bay := [], l2 := [], ats := [], prs := [] } }

/-- Requests held at slices and on their way to them are served (before the cellar loses its power). -/
def drainSlices (s : State) : State :=
  let held := s.cel.slices.flatMap (fun e => e.2.waiting ++ e.2.side ++ e.2.victim ++ e.2.held) ++ s.cel.xbar
  let s1 : State := { s with cel := { s.cel with
    xbar := []
    slices := s.cel.slices.map (fun e => (e.1, { e.2 with waiting := [], side := [], victim := [], held := [] })) } }
  let s2 := foldS held s1 (fun t h =>
    if h.op.manages ∨ h.op = .pref then t
    else
      let (u, x) := engineOp t h
      reply u h x)
  serveWhere s2 (fun _ => true)

/-- Every DIRTY line is written back, each DEAD line killed, and the lines are gone (R455 step 3). -/
def flushLines (s : State) : State :=
  let s1 := foldS s.cel.frames s (fun t e => foldS e.2.lines t (fun u l =>
    let a := addrOf e.2.ch e.2.grp l.line
    match l.st with
    | .dirty => writeBack u a l.data l.poison []
    | .dead => killLine u a []
    | _ => u))
  { s1 with cel := { s1.cel with
    frames := []
    fillq := []
    slices := s1.cel.slices.map (fun e => (e.1, { e.2 with fills := [], merge := [], misses := [], missPart := [] })) } }

/-- Entry to a sleep state, steps 1 to 3 of R455. -/
def sleepStart (s : State) (target : Nat) : State :=
  let s1 := dropTranslations (dropReplicas (transitStart s target) (fun _ => true))
  let s2 := if 2 ≤ target then drainSlices s1 else s1
  if target = 3 then
    let s3 := flushLines s2
    { s3 with plc := { s3.plc with heat := [], rheat := [], refused := [], rackReqs := [] } }
  else s2

/-- Steps 4 to 6 of R455: sidecar caches, self-refresh, gating, and the new state. -/
def sleepReached (s : State) (target : Nat) : State :=
  let s1 : State := if 2 ≤ target then { s with hbm := { s.hbm with
      selfRefresh := true
      chans := s.hbm.chans.map (fun e => (e.1, { e.2 with
        scache := if target = 3 then [] else e.2.scache.map (fun p => (p.1, false)) })) } } else s
  let s2 := if 2 ≤ target then foldS (List.range 32) s1 bayLose else s1
  let gate := fun (b : Nat) => if 2 ≤ target then 2 else Nat.max 1 (smGetD s2.pwr.bayGate b 0)
  let s3 := trace s2 10 0xFF 0xFF 0xFF target 0 0
  { s3 with pwr := { s3.pwr with
    state := target
    bayGate := (List.range 32).map (fun b => (b, gate b))
    wakes := s3.pwr.wakes.filter (fun w => w.kind = 3)
    rails := [] } }

/-- An exit begins (R457 steps 1 to 4): HBM leaves self-refresh calibrated, and the wakes of the floor fabric and of
every slice column are queued. -/
def exitStart (s : State) : State :=
  let deep := 2 ≤ s.pwr.state
  let s1 := transitStart s 0
  let s2 := if s1.hbm.selfRefresh then
      foldS ((List.range 192).filter (fun c => s1.chanSt c = 0))
        { s1 with hbm := { s1.hbm with selfRefresh := false } } (fun t c => calibrated (calibrated t c 0) c 1)
    else s1
  foldS (List.range 192) (queueWake s2 0 0 true) (fun t n => queueWake t (if deep then 1 else 2) n true)

/-- The transition ends: state, transit, result 1 and state_done (R455 step 6, R457 step 5). -/
def transitEnd (s : State) : State :=
  match s.pwr.target with
  | none => s
  | some t =>
    if t = 0 ∧ s.starting then s
    else
      let s1 : State := if t = 0 then trace { s with pwr := { s.pwr with state := 0 } } 10 0xFF 0xFF 0xFF 0 0 0 else sleepReached s t
      let s2 : State := { s1 with pwr := { s1.pwr with target := none } }
      let s3 := ((s2.setFld rPwrStateCtrl fPwrStateCtrlTransit 0).setFld rPwrStateCtrl fPwrStateCtrlBusy 0)
      raise ((s3.setFld rPwrStateCtrl fPwrStateCtrlState t).setFld rPwrStateCtrl fPwrStateCtrlResult 1)
        rPwrEvent fPwrEventStateDone

/-- PWR_STATE_CTRL.go for a target (R453, R454, R459, R509). -/
def pwrGo (s : State) (target : Nat) : State :=
  let s0 := s.setFld rPwrStateCtrl fPwrStateCtrlTarget target
  if s.fld rPwrStateCtrl fPwrStateCtrlBusy = 1 then s0
  else
    if 3 < target then pwrResult s0 3
    else if target = s.pwr.state then pwrResult s0 2
    else if s.pwr.state ≠ 0 ∧ target ≠ 0 then pwrResult s0 3
    else if ¬ s.thawed then pwrResult s0 6
    else if target = 0 then exitStart (s0.setFld rPwrStateCtrl fPwrStateCtrlResult 0)
    else if ¬ s.stepDone 10 then pwrResult s0 7
    else
      let bs := s.blockers ++ [decide (target = 3) && s.anyPinned]
      if s.blockers.any id then pwrBlocked s0 bs 4
      else if target = 3 ∧ s.anyPinned then pwrBlocked s0 bs 5
      else sleepStart (s0.setFld rPwrStateCtrl fPwrStateCtrlResult 0) target

/-- PWR_STATE_CTRL.go as a register operation. -/
def pwrAt (s : State) (f : Fn) (target : Nat) : State := whenReached s f rPwrStateCtrl (fun s => pwrGo s target)

/-- PWR_ENTER_S1. -/
def execPwrEnterS1 (f : Fn) (s : State) : Host.Outcome State Fault Refusal := .next (pwrAt s f 1)

/-- PWR_ENTER_S2. -/
def execPwrEnterS2 (f : Fn) (s : State) : Host.Outcome State Fault Refusal := .next (pwrAt s f 2)

/-- PWR_ENTER_S3. -/
def execPwrEnterS3 (f : Fn) (s : State) : Host.Outcome State Fault Refusal := .next (pwrAt s f 3)

/-- PWR_EXIT_S0. -/
def execPwrExitS0 (f : Fn) (s : State) : Host.Outcome State Fault Refusal := .next (pwrAt s f 0)

/-- PWR_TARGET_INVALID: a target of 4 to 7, or another sleep state from a sleep state. -/
def execPwrTargetInvalid (f : Fn) (target : Nat) (s : State) : Host.Outcome State Fault Refusal :=
  .next (if target < 8 ∧ (3 < target ∨ (s.pwr.state ≠ 0 ∧ target ≠ 0 ∧ target ≠ s.pwr.state)) then pwrAt s f target else s)

/-- PWR_ALREADY_IN_TARGET. -/
def execPwrAlreadyInTarget (f : Fn) (s : State) : Host.Outcome State Fault Refusal := .next (pwrAt s f s.pwr.state)

/-- PWR_TRANSITION_DONE. -/
def execPwrTransitionDone (s : State) : Host.Outcome State Fault Refusal := .next (if s.on then transitEnd s else s)

/-! ### Power limit (R465 to R468) -/

/-- The duty cap from a round's package power in mW (R467). -/
def capNext (pcap gain p lim : Nat) : Nat :=
  -- floor of gain × (P − P_lim) × 1,024 / (16 × P_lim), with P in mW and the limit in W
  let d : Int := ((gain : Int) * ((p : Int) - 1000 * lim) * 1024) / (16 * 1000 * (lim : Int))
  (max 64 (min 1024 ((pcap : Int) - d))).toNat

/-- The power controller at the end of a round. -/
def powerRound (s : State) : State :=
  let p := s.fld (rPwrTel 0) fPwrTelValue
  let lim := Nat.max 1 (s.fld rPwrLimit fPwrLimitLimit)
  let old := s.fld rPwrDuty fPwrDutyPcap
  let new := capNext old (s.fld rPwrLimit fPwrLimitGain) p lim
  let s1 := s.setFld rPwrDuty fPwrDutyPcap new
  let s2 := if old = 1024 ∧ new < 1024 then raise s1 rPwrEvent fPwrEventLimitHit else s1
  { s2 with pwr := { s2.pwr with
    overRounds := if new = 64 ∧ 1000 * lim < p then s2.pwr.overRounds + 1 else 0
    halved := s2.pwr.halved && !decide (10 * p ≤ 9 * 1000 * lim) } }

/-- PWR_FLOOR_HIT: pcap at 64 with excess power for 4 rounds (R468). -/
def execPwrFloorHit (s : State) : Host.Outcome State Fault Refusal :=
  .next (
    if s.on ∧ 4 ≤ s.pwr.overRounds ∧ ¬ s.pwr.halved then
      raise { s with pwr := { s.pwr with halved := true } } rPwrEvent fPwrEventFloorHit
    else s)

end Sys2Proof.Machine
end

