-- ==== Sys2Proof/Machine/Thermal.lean ====
section
/-! DEFINITION. The thermal model, throttling, compensation and shutdown (R470 to R487). Temperatures of the model are
exact; registers hold 1/16 °C. -/

namespace Sys2Proof.Machine

open Sys2Proof

/-! ### The model (R470 to R473) -/

/-- Layer of a node. -/
def nodeLayer (n : Nat) : Nat := n / 64

/-- Nodes that the sum of R472 joins: side by side in a layer, or one above the other. -/
def nodesJoin (a b : Nat) : Bool :=
  let (la, xa, ya) := (a / 64, a % 8, a % 64 / 8)
  let (lb, xb, yb) := (b / 64, b % 8, b % 64 / 8)
  (la = lb && ((ya = yb && (xa + 1 = xb || xb + 1 = xa)) || (xa = xb && (ya + 1 = yb || yb + 1 = ya))))
    || ((la + 1 = lb || lb + 1 = la) && a % 64 = b % 64)

/-- Raw temperature of a node in °C. -/
def State.nodeRaw (s : State) (n : Nat) : Rat := smGetD s.pwr.temps n 0

/-- Calibration offset of a layer. -/
def State.layerOff (s : State) (l : Nat) : Rat := smGetD s.pwr.offs l 0

/-- Estimate of a node (R475). -/
def State.nodeEst (s : State) (n : Nat) : Rat := s.nodeRaw n + s.layerOff (nodeLayer n)

/-- T_sink in °C. -/
def State.sinkTemp (s : State) : Rat := (sext (s.fld rThmCfg fThmCfgSink) 16 : Int) / 16

/-- One sub-step of a node (R472): the record's reciprocal capacitance is for 31.25 µs. -/
def nodeStep (s : State) (n : Nat) : Rat :=
  let t := s.nodeRaw n
  let p : Rat := ((smGetD s.pwr.power n 0 : Nat) : Rat) / 1000
  let flow := s.pwr.pkg.gNbr.foldl (fun (a : Rat) e =>
    let (i, j, g) := e
    if nodesJoin i j then
      (if i = n then a + g * (s.nodeRaw j - t) else if j = n then a + g * (s.nodeRaw i - t) else a)
    else a) 0
  let sink := if nodeLayer n = 0 ∨ nodeLayer n = 5 then smGetD s.pwr.pkg.gSink n 0 * (s.sinkTemp - t) else 0
  t + smGetD s.pwr.pkg.invC n 0 * (p + flow + sink)

/-- The thermal model's engine runs (R473, R484): from step 1 while the always-on domain has its supply. -/
def State.modelRuns (s : State) : Bool := s.pci.pwrgood && !s.pci.resetLow && s.pwr.modelOn

/-- THERMAL_SUBSTEP: every node advances; a failed parity check enters sensors-only operation (R477). -/
def execThermalSubstep (parityOk : Bool) (s : State) : Host.Outcome State Fault Refusal :=
  .next (
    if s.modelRuns ∧ s.pwr.substep < 8 then
      let s1 : State := { s with pwr := { s.pwr with
        temps := (List.range 384).map (fun n => (n, nodeStep s n))
        substep := s.pwr.substep + 1 } }
      if parityOk then s1
      else raise { s1 with pwr := { s1.pwr with sensorsOnly := true } } rThmEvent fThmEventModelFail
    else s)

/-! ### Sensors and estimates (R474 to R477) -/

/-- The node in whose tile a diode lies (R474). -/
def diodeNode (m : Nat) : Nat := 64 * (m / 16) + 8 * (2 * (m % 16 / 4) + 1) + (2 * (m % 4) + 1)

/-- A register's 16 bits for a temperature in °C: 1/16 °C, two's complement. -/
def temp16 (t : Rat) : Nat :=
  let f := (16 * t).floor
  let v := if (f : Rat) = 16 * t then f else if Config.roundUp t then f + 1 else f
  (BitVec.ofInt 16 v).toNat

/-- The temperature that a register's 16 bits show, in °C. -/
def tempOf (v : Nat) : Rat := (sext v 16 : Int) / 16

/-- A reading that marks its diode failed: open, or outside −40 °C to 150 °C. -/
def badReading (r : Option Int) : Bool := match r with | none => true | some v => v < -640 || 2400 < v

/-- Latest reading of a diode in °C. -/
def State.diodeTemp (s : State) (m : Nat) : Rat := tempOf (s.fld (rThmDiode m) fThmDiodeReading)

/-- Working diodes of a layer. -/
def State.goodDiodes (s : State) (l : Nat) : List Nat :=
  ((List.range 16).map (fun d => 16 * l + d)).filter (fun m => !s.pwr.diodeBad.contains m)

/-- Every diode is read; one out of range or open is marked failed for the rest of the power-up. -/
def readDiodes (s : State) (ds : List (Option Int)) : State :=
  foldS (List.range 96) s (fun t m =>
    let r := ds.getD m none
    let t1 := match r with
      | some v => t.setFld (rThmDiode m) fThmDiodeReading (BitVec.ofInt 16 v).toNat
      | none => t
    if t.pwr.diodeBad.contains m then t1.setFld (rThmDiode m) fThmDiodeFailed 1
    else if badReading r then
      raise ({ t1 with pwr := { t1.pwr with diodeBad := t1.pwr.diodeBad ++ [m] } }.setFld (rThmDiode m) fThmDiodeFailed 1)
        rThmEvent fThmEventDiodeFail
    else t1)

/-- Mean of a list of temperatures. -/
def meanOf (l : List Rat) : Rat := l.foldl (· + ·) 0 / (l.length : Nat)

/-- o_L at the end of a round (R475). -/
def offNext (s : State) (l : Nat) : Rat :=
  let o := s.layerOff l
  let d := match s.goodDiodes l with
    | [] => Config.noDiode
    | ms => meanOf (ms.map (fun m => s.diodeTemp m - s.nodeRaw (diodeNode m)))
  max (-8) (min 8 (o + (d - o) / 16))

/-- Highest working diode reading of a layer. -/
def State.layerHot (s : State) (l : Nat) : Option Rat :=
  (s.goodDiodes l).foldl (fun a m => match a with
    | none => some (s.diodeTemp m)
    | some x => some (max x (s.diodeTemp m))) none

/-- The diode of a node's tile, if it has a working one. -/
def State.nodeDiode (s : State) (n : Nat) : Option Nat :=
  (s.goodDiodes (nodeLayer n)).find? (fun m => diodeNode m = n)

/-- Governing temperature of a node (R476, R477). -/
def State.governing (s : State) (n : Nat) : Rat :=
  if s.pwr.sensorsOnly then (s.layerHot (nodeLayer n)).getD Config.noDiode
  else
    match s.nodeDiode n with
    | some m => max (s.nodeEst n) (s.diodeTemp m)
    | none => s.nodeEst n

/-- A divergence: a diode and its estimate differ by more than the threshold, or an offset is at a clamp (R476). -/
def State.diverges (s : State) : Bool :=
  let lim : Rat := (Nat.max 1 (s.fld rThmCfg fThmCfgDivThresh) : Nat)
  (List.range 6).any (fun l =>
    s.layerOff l = 8 || s.layerOff l = -8 ||
      (s.goodDiodes l).any (fun m =>
        let d := s.diodeTemp m - s.nodeEst (diodeNode m)
        lim < d || lim < -d))

/-! ### Throttling (R478 to R480) -/

/-- THM_LIMIT index of a layer. -/
def limitIdx (l : Nat) : Nat := if l = 0 then 0 else if l = 5 then 2 else 1

/-- Throttle limit of a layer in °C. -/
def State.thermLimit (s : State) (l : Nat) : Rat := tempOf (s.fld (rThmLimit (limitIdx l)) fThmLimitLimit)

/-- Trip point of a layer in °C. -/
def State.tripPoint (s : State) (l : Nat) : Rat := tempOf (s.fld (rThmLimit (limitIdx l)) fThmLimitTrip)

/-- Cap of a node at a governing temperature (R479). -/
def nodeCap (gain : Nat) (t lim : Rat) : Nat :=
  if t ≤ lim then 1024
  else (max 64 (min 1024 (1024 - ((gain : Rat) * (16 * (t - lim)) / 4).floor))).toNat

/-- Caps follow the governing temperatures: registers, bays and slice-layers. -/
def applyCaps (s : State) : State :=
  let gain := s.fld rThmCfg fThmCfgGain
  let ns := List.range 384
  let gov := fun (n : Nat) => s.governing n
  let cap := fun (n : Nat) => nodeCap gain (gov n) (s.thermLimit (nodeLayer n))
  let fell := ns.any (fun n => s.fld (rThmNode n) fThmNodeNcap = 1024 && cap n < 1024)
  let s1 := foldS ns s (fun t n => t.setReg (rThmNode n)
    (fThmNodeNcap.put (fThmNodeGoverning.put (fThmNodeEstimate.put 0 (temp16 (s.nodeEst n))) (temp16 (gov n))) (cap n)))
  let hot := ns.foldl (fun b n => if gov b < gov n then n else b) 0
  let hbm := (List.range 6).foldl (fun a d => Nat.max a (s.fld (rHbmStkStat d) fHbmStkStatTemp)) 0
  let stat := fThmStatHbmMax.put (fThmStatThrottling.put (fThmStatSensorsOnly.put (fThmStatNode.put
    (fThmStatHottest.put 0 (temp16 (gov hot))) hot) (b2n s.pwr.sensorsOnly)) (b2n (ns.any (fun n => cap n < 1024)))) (16 * hbm)
  let s2 := s1.setReg rThmStat stat
  let s3 := if fell then raise s2 rThmEvent fThmEventThrottle else s2
  withDuty s3 (fun t => { t with pwr := { t.pwr with
    thermalCap := (List.range 32).map (fun b =>
      (b, (t.bayTiles b).foldl (fun m tile =>
        (List.range 6).foldl (fun m l => Nat.min m (cap (64 * l + tile))) m) 1024))
    layerCap := ((List.range 256).map (fun i => (64 + i, cap (64 + i)))) } })

/-- The trims follow the floor estimates (R481). -/
def retrim (s : State) : State :=
  let at_ := fun (i : Nat) =>
    if s.pwr.sensorsOnly then (s.layerHot 0).getD Config.noDiode else s.nodeEst (Config.trimNode i % 64)
  { s with pwr := { s.pwr with trims := (List.range 3).map at_ } }

/-! ### Shutdown (R482 to R486) -/

/-- Both triggers as a solve ends: working diodes at their trip points, and nodes at theirs for three rounds. -/
def findTrip (s : State) : State :=
  let ns := List.range 384
  let run := ns.map (fun n => (n, if s.tripPoint (nodeLayer n) ≤ s.nodeEst n then smGetD s.pwr.tripRun n 0 + 1 else 0))
  let dio := (List.range 6).flatMap (fun l => (s.goodDiodes l).filter (fun m => s.tripPoint l ≤ s.diodeTemp m))
  let mod := if s.pwr.sensorsOnly then none else (run.find? (fun e => 3 ≤ e.2)).map Prod.fst
  let td := fun (m : Nat) => s.diodeTemp m
  let q := fun (t : Rat) => sext (temp16 t) 16
  let trig : Option (Nat × Nat × Nat × Int) := match dio.head?, mod with
    | none, none => none
    | some m, none => some (1, 0, m, q (td m))
    | none, some n => some (2, n, 0, q (s.nodeEst n))
    | some m, some n => some (3, n, m, max (q (td m)) (q (s.nodeEst n)))
  { s with pwr := { s.pwr with tripRun := run, trig := trig } }

/-- THERMAL_SOLVE_END: the round's readings, offsets, events, caps, trims and triggers. -/
def solveEnd (s : State) (ds : List (Option Int)) : State :=
  let s1 := readDiodes s ds
  let s2 : State := { s1 with pwr := { s1.pwr with
    offs := (List.range 6).map (fun l => (l, offNext s1 l))
    substep := 9 } }
  let s3 := if s2.diverges then raise s2 rThmEvent fThmEventDivergence else s2
  alertAssert (findTrip (retrim (applyCaps s3)))

/-- THERMAL_SOLVE_END. -/
def execThermalSolveEnd (diodes : List (Option Int)) (s : State) : Host.Outcome State Fault Refusal :=
  .next (if s.modelRuns ∧ s.pwr.substep = 8 then solveEnd s diodes else s)

/-- Registers that a shutdown keeps: the ERR block's and THM_TRIP (R484). -/
def keptRegs (s : State) : SMap Word := smKeep s.regs (fun o => decide (blockOf o = .err) || decide (o = rThmTrip))

/-- What R484 keeps, in the state after a trigger. -/
def tripState (s : State) : State :=
  let p : PciSt := { pins s with owner := s.pci.owner, deadline := s.pci.deadline, wasUp := s.pci.wasUp
                                 i3cAddr := s.pci.i3cAddr, thermtrip := true, alert := true }
  let t := cold s p
  { t with
    regs := keptRegs s
    dbg := { t.dbg with errq := s.dbg.errq, errSeq := s.dbg.errSeq }
    pwr := { keepThermal s.pwr with shutdown := true, tripRounds := 0 } }

/-- A shutdown (R483): THM_TRIP is written and everything but R484's list is lost. -/
def tripNow (s : State) (g : Nat × Nat × Nat × Int) : State :=
  let (cause, node, diode, temp) := g
  let n := Nat.min 255 (s.fld rThmTrip fThmTripTrips + 1)
  let v := fThmTripTrips.put (fThmTripTemp.put (fThmTripDiode.put (fThmTripNode.put (fThmTripCause.put 0 cause) node) diode)
    (BitVec.ofInt 16 temp).toNat) n
  (tripState s).setReg rThmTrip v

/-- THERMAL_SHUTDOWN: a trigger found at the last solve. -/
def execThermalShutdown (s : State) : Host.Outcome State Fault Refusal :=
  .next (
    match s.pwr.trig with
    | some g => if s.modelRuns ∧ ¬ s.pwr.shutdown ∧ ¬ s.pci.supplyFault then tripNow s g else s
    | none => s)

/-- The restart conditions (R485): 4,000 rounds, and every estimate and working diode below 70 °C. -/
def State.coolDown (s : State) : Bool :=
  s.pwr.shutdown && decide (4000 ≤ s.pwr.tripRounds) && (List.range 384).all (fun n => s.nodeEst n < 70)
    && (List.range 6).all (fun l => (s.goodDiodes l).all (fun m => s.diodeTemp m < 70))

/-- A restart: THERMTRIP_N is released and the stack awaits bring-up, its THM registers but THM_TRIP at their reset
values and the owner port unchanged. -/
def restart (s : State) : State :=
  let s1 : State := { s with
    regs := keptRegs s
    pci := { s.pci with thermtrip := false, training := ~~~ s.pci.perstLow }
    pwr := { s.pwr with shutdown := false, sensorsOnly := false, tripRounds := 0 } }
  s1

/-- THERMAL_RESTART. During a supply fault only THERMTRIP_N is released (R543). -/
def execThermalRestart (s : State) : Host.Outcome State Fault Refusal :=
  .next (
    if s.modelRuns ∧ s.coolDown then
      (if s.pci.supplyFault then { s with pci := { s.pci with thermtrip := false }, pwr := { s.pwr with shutdown := false } }
       else restart s)
    else s)

/-- What the round gives the model: node powers, zero in the upper layers while fast clocks are stopped (R471, R473), and
eight sub-steps to make. -/
def thermalRound (s : State) (mw : List (Nat × Nat)) : State :=
  let stopped := s.pwr.shutdown || s.pwr.state ≠ 0 || s.freeze ≠ 0 || s.pci.supplyFault
  { s with pwr := { s.pwr with
    power := (List.range 384).map (fun n =>
      (n, if stopped && 64 ≤ n then 0 else ((mw.find? (fun e => e.1 = n)).map Prod.snd).getD 0))
    substep := 0
    tripRounds := if s.pwr.shutdown then s.pwr.tripRounds + 1 else 0 } }

/-- The model starts at step 1 (R473): every node at the mean of its layer's working diodes, offsets zero. -/
def modelStart (s : State) (pkg : ThermPkg) (ds : List (Option Int)) : State :=
  let s1 := readDiodes s ds
  let mean := fun (l : Nat) => match s1.goodDiodes l with | [] => Config.noDiode | ms => meanOf (ms.map s1.diodeTemp)
  { s1 with pwr := { s1.pwr with
    pkg := pkg
    temps := (List.range 384).map (fun n => (n, mean (nodeLayer n)))
    offs := []
    tripRun := []
    modelOn := true
    substep := 9 } }

end Sys2Proof.Machine
end

