-- ==== Sys2Proof/Machine/Units.lean ====
section
/-! DEFINITION. Units that leave service: vertical bundles and their spares (R26 to R36), power-via bundles (R37 to R39),
cells and bays (R81 to R86), slices retired at bring-up (R521), and the commands that report them. -/

namespace Sys2Proof.Machine

open Sys2Proof

/-! ### Cells and bays (R85, R46, CMP_BAY_CELLS_n) -/

/-- A cell takes a state: it keeps the first one other than 0 of the run. -/
def setCell (s : State) (i v : Nat) : State :=
  if s.cellOn i then { s with bup := { s.bup with cells := smSet s.bup.cells i v } } else s

/-- The threads of a cell end with code 9 (R150), and what its cell store held is lost (R77). -/
def cellEnd (s : State) (i : Nat) : State :=
  let s1 := foldS ((s.cmp.thr.filter (fun e => e.1 / 128 = i)).map Prod.fst) s (fun u t => threadKill u t 9)
  { s1 with cmp := { s1.cmp with
    cs := smKeep s1.cmp.cs (fun k => k / 16384 ≠ i)
    l1 := smKeep s1.cmp.l1 (fun c => c ≠ i) } }

/-- A vertical or retirement event that concerns a bay, counted in both health words (R45). -/
def bayCount (s : State) (b : Nat) : State :=
  let s1 := countEvent s
  { s1 with bup := { s1.bup with bayEv := smSet s1.bup.bayEv b (smGetD s1.bup.bayEv b 0 + 1) } }

/-- A unit is retired in this run (R45, R522): nothing before the run's first step 10. -/
def unitRetired (s : State) (entry : Word) : State :=
  if s.bup.enabledOnce then newDefect { s with bup := { s.bup with retired := true } } entry else s

/-- Queued tasks and resumes that the partition of a bay can no longer place are refused (R122). -/
def trimBay (s : State) (b : Nat) : State := match s.partOfBay b with | some p => trimTasks s p | none => s

/-- A bay is disabled: its cells leave service, its threads and pieces end, and it reports failed (R32, R46, R150, R174).
Before the run's first step 10 it is excluded at bring-up. -/
def disableBay (s : State) (b : Nat) : State :=
  if ¬ s.bayOn b then s
  else
    let live := s.bup.enabledOnce
    let cells := (cellsOfBay b).filter s.cellOn
    let s1 : State := { s with bup := { s.bup with bayOff := smSet s.bup.bayOff b (if live then 1 else 2) } }
    let s2 := foldS cells s1 (fun u i => setCell (cellEnd u i) i (if live then 2 else 1))
    let s3 := trimBay (stopPieces s2 b none) b
    let s4 := incGen (raise s3 (rCmpBayEvent b) fCmpBayEventBayDisabled)
    let s5 := unitRetired (if live then bayCount s4 b else s4) (unitEntry 2 b 0)
    checkFailed s5

/-- Retirement of a cell in service (R85); the bay follows when no cell is left. -/
def retireCell (s : State) (i : Nat) : State :=
  if ¬ s.cellOn i then s
  else
    let b := bayOfCell i
    let entry := unitEntry 1 (i / 24) (s.siteOf i)
    let s1 := setCell (cellEnd s i) i 2
    let s2 := trimBay (stopPieces s1 b (some i)) b
    let s3 := raise (incGen (bayCount s2 b)) (rCmpBayEvent b) fCmpBayEventCellRetired
    let s4 := unitRetired s3 entry
    if s4.bayActive b = 0 then disableBay s4 b else s4

/-- Retirement of a slice: drained in service (R218), at once with nothing to drain at bring-up (R521). -/
def retireSlice (s : State) (n : Nat) : State :=
  let x := s.slice n
  if x.state ≠ 0 then s
  else if s.bup.enabledOnce then drainStart s n
  else
    let s1 := s.setSlice n { x with state := 2 }
    moveServed s1 n (s1.nextSlice n)

/-! ### Bundles (R26, R27, R30 to R32) -/

/-- The unit that a bundle serves: 1 bay or 2 slice, and its index (R26). -/
def bundleUnit (b : Nat) : Nat × Nat :=
  if b < 16896 then (1, b / 528)
  else if b < 29568 then (2, (b - 16896) / 66)
  else if (b - 29568) / 2 < 768 then (1, (b - 29568) / 2 / 24)
  else (2, ((b - 29568) / 2 - 768) / 3)

/-- The bundle exists: at V5 the slice columns and the control pairs of slices are not connected (R27). -/
def bundleReal (iface b : Nat) : Bool :=
  decide (1 ≤ iface ∧ iface ≤ 5 ∧ b < 32256) && !(iface = 5 && (bundleUnit b).1 = 2)

/-- Direction (0 down, 1 up) and half (0 A, 1 B) of a bay-port bundle. -/
def bundleHalf (b : Nat) : Nat × Nat := (b % 528 / 264, b % 264 / 132)

/-- A failed bundle of any interface satisfies a test: bay ports and control pairs cross every interface. -/
def State.failedWhere (s : State) (t : Nat → Bool) : Bool := s.bup.failedB.any (fun k => t (k % 32768))

/-- What the failure of a bundle does to its unit (R32), with the unit_state code of the record (R35). -/
def bundleOutcome (s : State) (b : Nat) : State × Nat :=
  let (t, u) := bundleUnit b
  if 29568 ≤ b then
    if s.failedWhere (fun c => c = (if b % 2 = 0 then b + 1 else b - 1)) then
      (if t = 1 then disableBay s u else retireSlice s u, 2)
    else (s, 0)
  else if t = 2 then (retireSlice s u, 2)
  else
    let (d, h) := bundleHalf b
    if ¬ s.bayOn u ∨ s.failedWhere (fun c => c < 16896 ∧ c / 528 = u ∧ bundleHalf c = (d, 1 - h)) then (disableBay s u, 2)
    else
      let old := smGetD s.bup.half u 0
      if nbit old d then (s, 1)
      else
        let s1 : State := { s with bup := { s.bup with half := smSet s.bup.half u (old + 2 ^ d) } }
        (incGen (raise s1 (rCmpBayEvent u) fCmpBayEventPortHalf), 1)

/-- A vertical event record (R35) of a bundle, counted as an event (R45). -/
def verticalPost (s : State) (kind iface b st : Nat) : State :=
  let (t, u) := bundleUnit b
  let w := kind + 2 ^ 8 * iface + 2 ^ 16 * b + 2 ^ 32 * t + 2 ^ 40 * st + 2 ^ 48 * u
  let s1 := if t = 1 then bayCount s u else countEvent s
  postErr s1 1 (if st = 0 then 0 else 2) (if t = 1 then partByte (s.partOfBay u) else 0xFF) w

/-- Bumps of a bundle are lost (R30, R31): a spare takes their place, or the bundle fails and its unit with it. -/
def loseBumps (s : State) (iface b : Nat) (bumps : List Nat) : State :=
  let key := 32768 * iface + b
  let old := smGetD s.bup.bumps key []
  let fresh := (bumps.filter (fun m => m < 34 ∧ ¬ old.contains m)).eraseDups
  if ¬ bundleReal iface b ∨ fresh = [] then s
  else
    let s1 : State := { s with bup := { s.bup with bumps := smSet s.bup.bumps key (old ++ fresh) } }
    if s.bup.failedB.contains key then s1
    else if (old ++ fresh).length ≤ 2 then verticalPost s1 1 iface b 0
    else
      let (s2, st) := bundleOutcome { s1 with bup := { s1.bup with failedB := s1.bup.failedB ++ [key] } } b
      verticalPost s2 2 iface b st

/-- The EXCL entry of one bump (R316, R522). -/
def bumpEntry (iface b m : Nat) : Word := unitEntry 5 iface (b + 65536 * m)

/-- Bumps found lost in service: each joins the new-defect list (R522). -/
def bumpsInService (s : State) (iface b : Nat) (bumps : List Nat) : State :=
  let old := smGetD s.bup.bumps (32768 * iface + b) []
  let fresh := bumps.filter (fun m => m < 34 ∧ ¬ old.contains m)
  loseBumps (foldS fresh s (fun u m => newDefect u (bumpEntry iface b m))) iface b bumps

/-- VERTICAL_CRC_MISMATCH: a recovery of the bundle begins (R31, R34); no bump named means that the replay alone mends
it. -/
def execVerticalCrcMismatch (iface bundle : Nat) (bumps : List Nat) (s : State) : Host.Outcome State Fault Refusal :=
  .next (whenLive s (fun s =>
    if ¬ bundleReal iface bundle ∨ ¬ s.stepDone 2 then s
    else
      let r := s.bup.recover
      let e := (iface, bundle)
      let s1 : State := { s with bup := { s.bup with recover := if r.contains e then r else r ++ [e] } }
      withDuty s1 (fun t => bumpsInService t iface bundle bumps)))

/-- VERTICAL_REPLAY_END. -/
def execVerticalReplayEnd (iface bundle : Nat) (s : State) : Host.Outcome State Fault Refusal :=
  .next { s with bup := { s.bup with recover := s.bup.recover.filter (fun e => e ≠ (iface, bundle)) } }

/-! ### Power vias (R37 to R39) -/

/-- The slices whose slice-layers a cellar tile holds: three to a tile, in the half of their HBM stack (R43, R470). -/
def tileSlices (tile : Nat) : List Nat :=
  let (ty, tx) := (tile / 8, tile % 8)
  let base := if tx < 4 then 3 * (4 * ty + tx) else 96 + 3 * (4 * ty + tx - 4)
  [base, base + 1, base + 2]

/-- Each bay whose power-tile cap has fallen below full duty has duty_capped set. -/
def capEvents (s t : State) : State :=
  foldS ((List.range 32).filter (fun b => s.bayCap b = 1024 && t.bayCap b < 1024)) t
    (fun u b => raise u (rCmpBayEvent b) fCmpBayEventDutyCapped)

/-- A power-via bundle is open (R39): the tile's limit falls, and at eight its bays or slices leave service. -/
def openVia (s : State) (iface idx : Nat) : State :=
  let key := 1024 * iface + idx
  if iface = 0 ∨ 5 < iface ∨ 1024 ≤ idx ∨ s.bup.vias.contains key then s
  else
    let tile := idx / 16
    let s1 := capEvents s { s with bup := { s.bup with vias := s.bup.vias ++ [key] } }
    let f := s1.openVias iface tile
    let s2 :=
      if f ≠ 8 then s1
      else if iface = 5 then
        foldS ((List.range 32).filter (fun b => s1.bayOn b && (s1.bayTiles b).contains tile)) s1 disableBay
      else foldS (tileSlices tile) s1 retireSlice
    let s3 := if s.bup.enabledOnce then newDefect s2 (unitEntry 6 iface idx) else s2
    let w := 3 + 2 ^ 8 * iface + 2 ^ 16 * idx + 2 ^ 32 * 3 + 2 ^ 40 * (if 8 ≤ f then 2 else 3) + 2 ^ 48 * tile
    postErr (countEvent s3) 1 2 0xFF w

/-- POWER_VIA_OPEN. -/
def execPowerViaOpen (iface idx : Nat) (s : State) : Host.Outcome State Fault Refusal :=
  .next (if s.on ∧ s.stepDone 2 then withDuty s (fun t => openVia t iface idx) else s)

/-! ### Cells retired in service (R84 to R86, R89) -/

/-- CELL_LINK_PARITY_ERROR: the third error of a link within a round retires the cell. -/
def execCellLinkParityError (row col link : Nat) (s : State) : Host.Outcome State Fault Refusal :=
  .next (whenLive s (fun s =>
    let i := 24 * row + col
    if 32 ≤ row ∨ 24 ≤ col ∨ ¬ s.cellOn i then s
    else
      let key := 8 * i + link % 8
      let n := smGetD s.bup.parity key 0 + 1
      let s1 : State := { s with bup := { s.bup with parity := smSet s.bup.parity key n } }
      if n = 3 then withDuty s1 (fun t => retireCell t i) else s1))

/-- CMP_BAY_RETIRE_n with go (R86, R89): the first of results 4, 3, 2 and 1 that applies. -/
def cellRetireGo (s : State) (bay cell : Nat) : State :=
  let r := rCmpBayRetire bay
  let s0 := s.setFld r fCmpBayRetireCell cell
  let i := cellOf bay cell
  if ¬ s.stepDone 10 then s0.setFld r fCmpBayRetireResult 4
  else if 24 ≤ cell then s0.setFld r fCmpBayRetireResult 3
  else if ¬ s.cellOn i then s0.setFld r fCmpBayRetireResult 2
  else (withDuty s0 (fun t => retireCell t i)).setFld r fCmpBayRetireResult 1

/-- CELL_RETIRE_REQUEST: a hardware retirement of the same cell in the same cycle comes first (R86). -/
def execCellRetireRequest (f : Fn) (bay cell : Nat) (hw : Bool) (s : State) : Host.Outcome State Fault Refusal :=
  .next (
    if 32 ≤ bay then s
    else
      let s1 := if hw ∧ cell < 24 then whenLive s (fun s => withDuty s (fun t => retireCell t (cellOf bay cell))) else s
      whenReached s1 f (rCmpBayRetire bay) (fun s => cellRetireGo s bay (cell % 32)))

end Sys2Proof.Machine
end

