-- ==== Sys2Proof/Machine/Bringup.lean ====
section
/-! DEFINITION. The bring-up steps (R511 to R525): their gos, their test regions, and what each has done when it ends. -/

namespace Sys2Proof.Machine

open Sys2Proof

/-! ### Gos (R512) -/

/-- The result of a go for step k: 4 no step, 5 done already, 2 refused, 1 accepted. -/
def State.stepResult (s : State) (k : Nat) : Nat :=
  if k = 0 ∨ 10 < k then 4
  else if s.stepDone k then 5
  else if s.bup.step.isSome ∨ s.bup.cresetRun ∨ s.bup.dead ∨ ¬ (List.range (k - 1)).all (fun j => s.stepDone (j + 1)) then 2
  else 1

/-- A write of BUP_STEP with go: step and quick are stored, and an accepted step starts. -/
def stepGo (s : State) (k quick : Nat) (start : State → State) : State :=
  let s0 := (s.setFld rBupStep fBupStepStep k).setFld rBupStep fBupStepQuick quick
  let r := s0.stepResult k
  let s1 := s0.setFld rBupStep fBupStepResult r
  if r ≠ 1 then s1
  else
    let s2 : State := { s1 with bup := { s1.bup with step := some (k, decide (quick = 1)), bad := [], excluded := 0, count := 0 } }
    start (stepStatus (s2.setFld rBupStep fBupStepBusy 1) k 1 0 0)

/-- The quick bit as it stands, for the steps that ignore it. -/
def State.quickBit (s : State) : Nat := s.fld rBupStep fBupStepQuick

/-! ### Step 1 (R515 to R517, R412) -/

/-- Bitwise majority of three copies. -/
def vote (c : Word × Word × Word) : Word := (c.1 &&& c.2.1) ||| (c.1 &&& c.2.2) ||| (c.2.1 &&& c.2.2)

/-- The copies that disagree with the majority. -/
def voteMask (c : Word × Word × Word) : Nat :=
  b2n (c.1 ≠ vote c) + 2 * b2n (c.2.1 ≠ vote c) + 4 * b2n (c.2.2 ≠ vote c)

/-- Step 1 begins: the vote, its shadows and records, and the thermal model. -/
def vintageStart (copies : List (Word × Word × Word)) (pkg : ThermPkg) (diodes : List (Option Int)) (s : State) : State :=
  let at_ := fun (i : Nat) => copies.getD i (0, 0, 0)
  let odd := (List.range vintageWords).filter (fun i => voteMask (at_ i) ≠ 0)
  let s1 : State := { s with bup := { s.bup with
    vintage := ((List.range vintageWords).map (fun i => (i, vote (at_ i)))).filter (fun e => e.2 ≠ 0)
    count := odd.length } }
  let s2 := foldS odd s1 (fun u i => countCe (postErr u 7 0 0xFF (0x0200 + i + 2 ^ 16 * voteMask (at_ i))) 3 1)
  modelStart s2 pkg diodes

/-- Die type that a layer has to hold. -/
def layerType (l : Nat) : Nat := if l = 0 then 0 else if l = 5 then 2 else 1

/-- The error of step 1: 1 record format, 2 die type or layer, 0 none. -/
def State.vintageCause (s : State) : Nat :=
  let ls := List.range 6
  if ls.any (fun l => s.vintage (vintageAt l 3) ≠ 1) then 1
  else if ls.any (fun l =>
      let w := (s.vintage (vintageAt l 1)).toNat
      nbits w 0 8 ≠ layerType l || nbits w 8 8 ≠ l) then 2
  else 0

/-- SK.seed, SK.prf and PK.seed of the identity key (R412), byte 0 first. -/
def identitySeed (serial : Word) : BitVec 384 :=
  BitVec.ofNat 384 (leNat (hkdf (ascii "CV87-IDENTITY") (toBytes Config.fusedSeed 32) (toBytes serial 8) 48))

/-- Step 1 ends: the variant and the identity key. A grade code of 3 names no variant and counts as the most limited. -/
def vintageEnd (s : State) : State :=
  let c := s.vintageCause
  if c ≠ 0 then stepEnd s 1 c
  else
    let v := (List.range 6).foldl (fun m l => Nat.max m (Nat.min 2 (nbits (s.vintage (vintageAt l 2)).toNat 0 2))) 0
    let sd := identitySeed (s.vintage 0)
    let s1 : State := { s with
      bup := { s.bup with variant := v }
      sec := { s.sec with
        seed := sd
        pk := Config.slhRoot sd ++ sd.extractLsb' 256 128
        idReady := true } }
    stepEnd (s1.setFld rBupGrade fBupGradeVariant v) 1 0

/-! ### Step 2 -/

/-- Step 2 begins: the floor fabric and the slice columns are powered through wake admission. -/
def powerStart2 (s : State) : State :=
  foldS (List.range 192) (queueWake s 0 0 true) (fun t n => queueWake t 1 n true)

/-! ### Named units and findings (R316, R520, R522) -/

/-- What an entry names: type, tag, bytes 4 to 7. -/
def unitKey (w : Word) : Nat × Nat × Nat := (nbits w.toNat 0 8, nbits w.toNat 8 8, nbits w.toNat 32 32)

/-- The voted bad-unit entries of every die. -/
def State.fused (s : State) : List Word :=
  ((List.range 6).flatMap (fun l => (List.range 24).map (fun i => s.vintage (vintageAt l (8 + i))))).filter
    (fun w => nbits w.toNat 0 8 ≠ 0)

/-- Units that a fuse entry or the staged EXCL section names: not tested, never enabled. -/
def State.namedUnits (s : State) : List Word := s.fused ++ s.bup.stagedUnits

/-- Named units of a type. -/
def State.named (s : State) (t : Nat) : List (Nat × Nat × Nat) := (s.namedUnits.map unitKey).filter (fun k => k.1 = t)

/-- The units of a list of findings of a type that nothing names, each once. -/
def State.fresh (s : State) (t : Nat) : List (Nat × Nat × Nat) :=
  ((s.bup.bad.map unitKey).filter (fun k => k.1 = t && !(s.named t).contains k)).eraseDups

/-- The bumps that an entry of type 5 names: interface, bundle, bump. -/
def bumpsOf (k : Nat × Nat × Nat) : List (Nat × Nat × Nat) :=
  let b := nbits k.2.2 0 16
  let m := nbits k.2.2 16 8
  (if m = 0xFF then List.range 34 else [m]).map (fun x => (k.2.1, b, x))

/-- The entry of a unit in the new-defect list. -/
def keyEntry (k : Nat × Nat × Nat) : Word := unitEntry k.1 k.2.1 k.2.2

/-- Every finding that is fresh joins the new-defect list, in the order of the findings; a bundle bump by bump. -/
def listDefects (s : State) (types : List Nat) : State :=
  foldS (s.bup.bad.map unitKey) s (fun u k =>
    if ¬ types.contains k.1 ∨ (u.named k.1).contains k then u
    else if k.1 = 5 then
      foldS (bumpsOf k) u (fun v e =>
        if ((v.named 5).flatMap bumpsOf).contains e ∨ ¬ bundleReal e.1 e.2.1 ∨ 34 ≤ e.2.2 then v
        else newDefect v (bumpEntry e.1 e.2.1 e.2.2))
    else newDefect u (keyEntry k))

/-! ### Test regions (R518) -/

/-- The regions of a step: 0 vertical per interface, 1 cellar per die, 2 HBM pattern per device, 3 retention hold, 4 cells per
bay-row. -/
def regionsOf (k : Nat) (quick : Bool) : List (Nat × Nat) :=
  if k = 3 then (List.range 5).map (fun i => (0, i))
  else if k = 5 then
    (List.range 4).map (fun i => (1, i)) ++ (List.range 6).map (fun i => (2, i)) ++ (if quick then [] else [(3, 0)])
  else if k = 6 then (List.range 8).map (fun i => (4, i))
  else []

/-- Budget of a test's region in W. -/
def regionBudget (test : Nat) : Nat :=
  if test = 0 then 25 else if test = 1 then 60 else if test = 2 then 45 else if test = 3 then 20 else 56

/-- The findings of a step that tests, and its regions. -/
def testStart (bad : List Word) (s : State) : State :=
  match s.bup.step with
  | none => s
  | some (k, q) => { s with bup := { s.bup with bad := bad, regWait := regionsOf k q, regRun := [] } }

/-- Package power leaves room for the region, or no other region runs. -/
def State.regionFits (s : State) (test : Nat) : Bool :=
  s.bup.regRun = [] ||
    (s.reg (rPwrTel 0)).toNat + 1000 * regionBudget test ≤ 1000 * s.fld rPwrLimit fPwrLimitLimit

/-- A region starts; the bays of a cell region are powered through wake admission. -/
def regionStart (s : State) (test region : Nat) : State :=
  let e := (test, region)
  if ¬ s.bup.regWait.contains e ∨ s.bup.waitStage ∨ ¬ s.regionFits test then s
  else
    let s1 : State := { s with bup := { s.bup with regWait := s.bup.regWait.erase e, regRun := s.bup.regRun ++ [e] } }
    if test = 4 then foldS (List.range 4) s1 (fun t i => queueWake t 6 (4 * region + i) false) else s1

/-- BORSUM_REGION_START. -/
def execBorsumRegionStart (test region : Nat) (s : State) : Host.Outcome State Fault Refusal :=
  .next (whenLive s (fun s => regionStart s test region))

/-- A power-up of a unit of the region is still under way. -/
def State.regionPowering (s : State) (test region : Nat) : Bool :=
  test = 4 && (s.pwr.wakes ++ s.pwr.rails).any (fun w => w.kind = 6 && w.unit / 4 = region)

/-- TEST_REGION_END: the region's budget is free again. -/
def execTestRegionEnd (test region : Nat) (s : State) : Host.Outcome State Fault Refusal :=
  .next (whenLive s (fun s =>
    if s.regionPowering test region then s
    else { s with bup := { s.bup with regRun := s.bup.regRun.erase (test, region) } }))

/-! ### Step 3 (R30, R32, R39) -/

/-- Lost bumps per bundle, those that exist. -/
def bundleMap (l : List (Nat × Nat × Nat)) : SMap (List Nat) :=
  l.foldl (fun m e =>
    if bundleReal e.1 e.2.1 ∧ e.2.2 < 34 then
      let k := 32768 * e.1 + e.2.1
      smSet m k (smGetD m k [] ++ [e.2.2])
    else m) []

/-- Step 3 ends: bundles steered or failed, tiles limited. -/
def verticalEnd (s : State) : State :=
  let named := (s.named 5).flatMap bumpsOf
  let found := (((s.fresh 5).flatMap bumpsOf).filter (fun e =>
    !named.contains e && bundleReal e.1 e.2.1 && decide (e.2.2 < 34))).eraseDups
  let vias := s.fresh 6
  let s1 := listDefects s [5, 6]
  let s2 := withDuty s1 (fun t =>
    let u := foldS (bundleMap (named ++ found)) t (fun u e => loseBumps u (e.1 / 32768) (e.1 % 32768) e.2)
    foldS (s.named 6 ++ vias) u (fun u k => openVia u k.2.1 k.2.2))
  let s3 : State := { s2 with bup := { s2.bup with
    count := found.length + vias.length
    excluded := named.length + found.length + (s.named 6).length + vias.length } }
  stepEnd s3 3 (if s3.baysOn = 0 ∨ s3.slicesOn = 0 then 1 else 0)

/-! ### Step 4 (R239, R380, R521) -/

/-- Step 4 begins: the PHYs train; lanes named or failing leave service, ports named are OFF, and the others move to
DETECT. -/
def trainingStart (bad : List Word) (s : State) : State :=
  let s0 : State := { s with bup := { s.bup with bad := bad } }
  let s1 := foldS (List.range 6) s0 (fun t d => t.setFld (rHbmStkStat d) fHbmStkStatTrain 1)
  let lane := fun (k : Nat × Nat × Nat) => 8 * (k.2.1 % 8) + k.2.2 % 8
  let s2 := foldS (s1.named 7) s1 (fun t k => { t with bup := { t.bup with laneSt := smSet t.bup.laneSt (lane k) 1 } })
  let s3 := foldS (s1.fresh 7) s2 (fun t k => laneLost t (k.2.1 % 8) (k.2.2 % 8) 2)
  let off := (s1.named 8).map (fun k => k.2.1)
  foldS (List.range 8) s3 (fun t n =>
    if off.contains n then t.updPort n (fun p => { p with off := true })
    else if (t.port n).off then t
    else portDetect t n)

/-- A channel is mapped out at bring-up with a cause. -/
def mapOut (s : State) (c cause : Nat) : State :=
  if s.chanSt c ≠ 0 then s
  else (s.setFld (rHbmChStat c) fHbmChStatState 1).setFld (rHbmChStat c) fHbmChStatCause cause

/-- Step 4 ends: the channels named or failing are mapped out, the others calibrated. -/
def trainingEnd (s : State) : State :=
  let fusedCh := (s.fused.map unitKey).filter (fun k => k.1 = 4)
  let bad := ((s.fresh 4).map (fun k => k.2.2 % 256)).filter (fun c => c < 192)
  let s1 := foldS ((s.named 4).filter (fun k => k.2.2 % 256 < 192)) s (fun t k => mapOut t (k.2.2 % 256) (if fusedCh.contains k then 1 else 4))
  let tested := fun (d : Nat) => ((List.range 32).map (fun i => 32 * d + i)).filter (fun c => s1.chanSt c = 0)
  let failed := fun (d : Nat) => tested d ≠ [] && (tested d).all bad.contains
  let s2 := foldS bad s1 (fun t c => mapOut t c 2)
  let s3 := foldS ((List.range 192).filter (fun c => s2.chanSt c = 0)) s2 (fun t c => calibrated (calibrated t c 0) c 1)
  let s4 := foldS (List.range 6) s3 (fun t d => t.setFld (rHbmStkStat d) fHbmStkStatTrain (if failed d then 3 else 2))
  let s5 := listDefects s4 [4, 7]
  let s6 : State := { s5 with bup := { s5.bup with
    count := bad.length + (s.fresh 7).length
    excluded := s5.chansOut.length + s5.bup.laneSt.length + (s.named 8).length } }
  stepEnd s6 4 (if (List.range 6).all failed then 1 else 0)

/-! ### Step 5 (R229, R230, R242) -/

/-- Step 5 ends: slices retired, channels mapped out, capacity set and every sidecar entry written. -/
def memoryEnd (quick : Bool) (s : State) : State :=
  let slices := ((s.fresh 3).map (fun k => k.2.2 % 65536)).filter (fun n => n < 192 ∧ (s.slice n).state = 0)
  let chans := ((s.fresh 4).map (fun k => k.2.2 % 256)).filter (fun c => c < 192 ∧ s.chanSt c = 0)
  let s1 := listDefects { s with bup := { s.bup with bad := s.bup.bad.filter (fun w =>
    let k := unitKey w
    (k.1 = 3 && slices.contains (k.2.2 % 65536)) || (k.1 = 4 && chans.contains (k.2.2 % 256))) } } [3, 4]
  let s2 := foldS (((s.named 3).map (fun k => k.2.2 % 65536)).filter (fun n => n < 192) ++ slices) s1 retireSlice
  let s3 := foldS chans s2 (fun t c => mapOut t c 3)
  let f := s3.chansOut.length
  let s4 := (s3.setFld rHbmCap fHbmCapBackedTop (lPrime f * 98304)).setFld rHbmCap fHbmCapChanOut f
  let s5 := foldS (List.range 6) s4 (fun t d =>
    t.setFld (rHbmStkStat d) fHbmStkStatChanOut (((List.range 32).filter (fun i => t.chanSt (32 * d + i) ≠ 0)).length))
  let s6 : State := { s5 with
    hbm := { s5.hbm with blocks := [] }
    bup := { s5.bup with
      count := slices.length + chans.length
      excluded := f + (192 - s5.slicesOn) } }
  stepEnd (s6.setFld rBupDone fBupDoneQuick5 (b2n quick)) 5 (if s6.slicesOn = 0 ∨ s6.chansOn = 0 then 1 else 0)

/-! ### Step 6 (R80, R81, R528) -/

/-- Bad sites per row. -/
def siteMap (l : List (Nat × Nat × Nat)) : SMap (List Nat) :=
  l.foldl (fun m k =>
    let site := k.2.2 % 256
    if k.2.1 < 32 ∧ site < 25 ∧ ¬ (smGetD m k.2.1 []).contains site then smSet m k.2.1 (smGetD m k.2.1 [] ++ [site]) else m) []

/-- A row with one bad site skips it; with more it is removed. -/
def repairRow (s : State) (e : Nat × List Nat) : State :=
  let (r, sites) := e
  match sites with
  | [] => s
  | [x] => if x = 24 then s else { s with bup := { s.bup with skip := smSet s.bup.skip r x } }
  | _ =>
    let s1 : State := { s with bup := { s.bup with removed := s.bup.removed ++ [r] } }
    foldS (List.range 24) s1 (fun t c => setCell t (24 * r + c) 3)

/-- The first step 6 of a run: bays and sites named or found bad leave service. -/
def cellsTested (s : State) : State :=
  let found := s.fresh 1
  let s1 := listDefects s [1]
  let s2 := foldS (s.named 2) s1 (fun t k => disableBay t (k.2.1 % 32))
  let s3 := foldS (siteMap (s.named 1 ++ found)) s2 repairRow
  let s4 := foldS ((List.range 32).filter (fun b => s3.bayActive b = 0)) s3 disableBay
  let s5 := capEvents s s4
  { s5 with bup := { s5.bup with cellsDone := true, count := found.length } }

/-- Step 6 ends. After a compute reset the run's skip sites and cell states stand again (R528). -/
def cellsEnd (quick : Bool) (s : State) : State :=
  let s1 := if s.bup.cellsDone then s else withDuty s cellsTested
  let out := s1.bup.skip ≠ [] ∨ s1.bup.removed ≠ [] ∨ s1.bup.cells.any (fun e => e.2 = 1)
  let s2 : State := { s1 with bup := { s1.bup with excluded := b2n out } }
  stepEnd (s2.setFld rBupDone fBupDoneQuick6 (b2n quick)) 6 (if s2.baysOn = 0 then 1 else 0)

/-! ### Step 7 (R523) -/

/-- Step 7 ends: BUP_GRADE and the new-defect list are complete. -/
def gradeEnd (s : State) : State :=
  let w := fBupGradeBays.put (fBupGradeChannels.put (fBupGradeSlices.put (fBupGradeCells.put (fBupGradeValid.put
    (fBupGradeDegraded.put (fBupGradeVariant.put 0 s.bup.variant) (b2n s.belowFloor)) 1) s.cellsOn) s.slicesOn) s.chansOn) s.baysOn
  let s1 := s.setReg rBupGrade w
  let out := s.cellsOn < 768 ∨ s.slicesOn < 192 ∨ s.chansOn < 192 ∨ s.bup.laneSt ≠ [] ∨ (s.named 8) ≠ []
  let s2 : State := { s1 with bup := { s1.bup with count := s1.bup.nd.length, excluded := b2n out } }
  stepEnd s2 7 (if s2.baysOn = 0 ∨ s2.chansOn = 0 then 1 else 0)

/-! ### Steps 8 to 10 (R297, R524, R525) -/

/-- Step 8 begins: the image is read. -/
def loadStart (f : Fn) (s : State) : State :=
  ({ s with bup := { s.bup with loadRunning := true } } : State).emit
    (.hostRead f.port (16 * s.fld rBldSrc fBldSrcAddr) (s.fld rBldLen fBldLenLen))

/-- Step 9 begins: key establishment on every port in PLAIN. -/
def securityStart (s : State) : State :=
  let ps := (List.range 8).filter (fun n => (s.port n).state = 5)
  foldS ps { s with bup := { s.bup with step9 := true, kxPorts := ps } } kxStart

/-- Step 9 ends: the ports SECURE are counted. -/
def securityEnd (s : State) : State :=
  let n := ((List.range 8).filter (fun n => (s.port n).state = 6)).length
  stepEnd { s with bup := { s.bup with count := n } } 9 (if s.sec.rngFail then 1 else 0)

/-- The pin ranges of the Blend: partition, base, length. -/
def State.pins (s : State) : List (Nat × Nat × Nat) := (s.bup.blend.map Blend.pins).getD []

/-- Step 10 begins: the pin ranges are applied (R203). -/
def enableStart (s : State) : State := foldS s.pins s (fun t e => rangeRun t e.1 1 e.2.1 e.2.2)

/-- Step 10 ends: health, generation, queues and BAR2; requests kept are served (R404, R527). -/
def enableEnd (s : State) : State :=
  let s1 : State := { s with bup := { s.bup with enabledOnce := true, holding := false } }
  let s2 := stepEnd (s1.setFld rBupCreset fBupCresetHolding 0) 10 0
  let s3 := incGen s2
  if s3.holds then s3 else serveKept s3

/-! ### The end of a step (R513) -/

/-- What the step waits for has come: wakes, regions, establishments, pins. -/
def State.stepReady (s : State) (k cause : Nat) : Bool :=
  if k = 2 then cause = 1 || cause = 2 || !s.starting
  else if k = 3 ∨ k = 5 ∨ k = 6 then s.bup.regWait = [] && s.bup.regRun = [] && !s.bup.waitStage
  else if k = 8 then false
  else if k = 9 then s.bup.kxPorts = [] || s.sec.rngFail
  else if k = 10 then s.pins.all (fun e => !s.rangeWaits e.2.1 e.2.2)
  else true

/-- The running step ends. Its physical cause counts for step 2; step 8 ends with its load. -/
def stepFinish (cause : Nat) (s : State) : State :=
  match s.bup.step with
  | none => s
  | some (k, quick) =>
    if ¬ s.stepReady k cause ∨ (3 ≤ k ∧ ¬ s.live) then s
    else if k = 1 then vintageEnd s
    else if k = 2 then stepEnd s 2 (if cause = 1 ∨ cause = 2 then cause else 0)
    else if k = 3 then verticalEnd s
    else if k = 4 then trainingEnd s
    else if k = 5 then memoryEnd quick s
    else if k = 6 then cellsEnd quick s
    else if k = 7 then gradeEnd s
    else if k = 9 then securityEnd s
    else enableEnd s

/-- BUP_STEP_END. -/
def execBupStepEnd (cause : Nat) (s : State) : Host.Outcome State Fault Refusal :=
  .next (if s.on then stepFinish cause s else s)

/-! ### The rows of the gos -/

/-- BUP_VINTAGE. -/
def execBupVintage (f : Fn) (copies : List (Word × Word × Word)) (pkg : ThermPkg) (diodes : List (Option Int)) (s : State) :
    Host.Outcome State Fault Refusal :=
  .next (whenReached s f rBupStep (fun s => stepGo s 1 s.quickBit (vintageStart copies pkg diodes)))

/-- BUP_CLOCKS_POWER. -/
def execBupClocksPower (f : Fn) (s : State) : Host.Outcome State Fault Refusal :=
  .next (whenReached s f rBupStep (fun s => stepGo s 2 s.quickBit powerStart2))

/-- Step 3 begins, or waits for the stage that runs (R296). -/
def verticalStart (bad : List Word) (s : State) : State :=
  let s1 := testStart bad s
  { s1 with bup := { s1.bup with waitStage := decide (s.fld rBldCtrl fBldCtrlBusy = 1) } }

/-- BUP_VERTICAL. -/
def execBupVertical (f : Fn) (bad : List Word) (s : State) : Host.Outcome State Fault Refusal :=
  .next (whenReached s f rBupStep (fun s => stepGo s 3 s.quickBit (verticalStart bad)))

/-- BUP_TRAINING. -/
def execBupTraining (f : Fn) (bad : List Word) (s : State) : Host.Outcome State Fault Refusal :=
  .next (whenReached s f rBupStep (fun s => stepGo s 4 s.quickBit (trainingStart bad)))

/-- BUP_MEMORY_TEST. -/
def execBupMemoryTest (f : Fn) (quick : Bool) (bad : List Word) (s : State) : Host.Outcome State Fault Refusal :=
  .next (whenReached s f rBupStep (fun s => stepGo s 5 (b2n quick) (testStart bad)))

/-- Step 6 begins; after a compute reset nothing is tested (R528). -/
def cellsStart (bad : List Word) (s : State) : State := if s.bup.cellsDone then s else testStart bad s

/-- BUP_CELLS. -/
def execBupCells (f : Fn) (quick : Bool) (bad : List Word) (s : State) : Host.Outcome State Fault Refusal :=
  .next (whenReached s f rBupStep (fun s => stepGo s 6 (b2n quick) (cellsStart bad)))

/-- BUP_RECONCILIATION. -/
def execBupReconciliation (f : Fn) (s : State) : Host.Outcome State Fault Refusal :=
  .next (whenReached s f rBupStep (fun s => stepGo s 7 s.quickBit id))

/-- BUP_BLEND_LOAD. -/
def execBupBlendLoad (f : Fn) (s : State) : Host.Outcome State Fault Refusal :=
  .next (whenReached s f rBupStep (fun s => stepGo s 8 s.quickBit (loadStart f)))

/-- BUP_SECURITY. -/
def execBupSecurity (f : Fn) (s : State) : Host.Outcome State Fault Refusal :=
  .next (whenReached s f rBupStep (fun s => stepGo s 9 s.quickBit securityStart))

/-- BUP_ENABLE. -/
def execBupEnable (f : Fn) (s : State) : Host.Outcome State Fault Refusal :=
  .next (whenReached s f rBupStep (fun s => stepGo s 10 s.quickBit enableStart))

/-- BUP_STEP_INVALID: a go that is refused. -/
def execBupStepInvalid (f : Fn) (step : Nat) (quick : Bool) (s : State) : Host.Outcome State Fault Refusal :=
  .next (whenReached s f rBupStep (fun s =>
    if s.stepResult (step % 16) = 1 then s else stepGo s (step % 16) (b2n quick) id))

end Sys2Proof.Machine
end

