-- ==== Sys2Proof/Machine/Raloth.lean ====
section
/-! DEFINITION. Commands of the Raloth ports: the link layer, key establishment, messages, enumeration and the timers of
requests (R368 to R408). -/

namespace Sys2Proof.Machine

open Sys2Proof

/-- An event of a port's link, which happens while the ports run. -/
def onPort (s : State) (n : Nat) (g : State → State) : State := if s.ralLive ∧ n < 8 then g s else s

/-- A register operation on a port. -/
def atPort (s : State) (f : Fn) (n off : Nat) (g : State → State) : State :=
  if n < 8 then whenReached s f off g else s

/-! ### Frames (R370 to R379) -/

/-- RALOTH_FRAME_RECEIVE. -/
def execRalothFrameReceive (port : Nat) (lanes : List (List Nat)) (s : State) : Host.Outcome State Fault Refusal :=
  .next (onPort s port (fun s => frameReceive s port lanes))

/-- RALOTH_FRAME_SEND. -/
def execRalothFrameSend (port : Nat) (s : State) : Host.Outcome State Fault Refusal :=
  .next (onPort s port (fun s => frameSend s port))

/-- RALOTH_REPLAY_TIMEOUT: the oldest unacknowledged frame has waited 2 µs. -/
def execRalothReplayTimeout (port : Nat) (s : State) : Host.Outcome State Fault Refusal :=
  .next (onPort s port (fun s => if (s.port port).framing then startReplay s port else s))

/-! ### Training (R380 to R383) -/

/-- TRAINING_BLOCK_RECEIVE. -/
def execTrainingBlockReceive (port : Nat) (blocks : List (List Nat)) (s : State) : Host.Outcome State Fault Refusal :=
  .next (onPort s port (fun s => blockReceive s port blocks))

/-- EQUALISE_DONE. -/
def execEqualiseDone (port : Nat) (badLanes : BitVec 8) (s : State) : Host.Outcome State Fault Refusal :=
  .next (onPort s port (fun s => equaliseEnd s port badLanes))

/-- ALIGN_DONE. -/
def execAlignDone (port : Nat) (badLanes peerMask : BitVec 8) (s : State) : Host.Outcome State Fault Refusal :=
  .next (onPort s port (fun s => alignEnd s port badLanes peerMask))

/-- SYNC_DONE. -/
def execSyncDone (port : Nat) (s : State) : Host.Outcome State Fault Refusal :=
  .next (onPort s port (fun s => syncEnd s port))

/-- TRAINING_TIMEOUT. -/
def execTrainingTimeout (port : Nat) (s : State) : Host.Outcome State Fault Refusal :=
  .next (onPort s port (fun s => trainTimeout s port))

/-- FAILED_RETRY: 100 ms in FAILED. -/
def execFailedRetry (port : Nat) (s : State) : Host.Outcome State Fault Refusal :=
  .next (onPort s port (fun s => if (s.port port).state = 9 then portDetect s port else s))

/-- LANE_LOSS_OF_SIGNAL. -/
def execLaneLossOfSignal (port lane : Nat) (s : State) : Host.Outcome State Fault Refusal :=
  .next (onPort s port (fun s => lossOfSignal s port lane))

/-- DESKEW_LOSS. -/
def execDeskewLoss (port : Nat) (s : State) : Host.Outcome State Fault Refusal :=
  .next (onPort s port (fun s => if (s.port port).framing then portRecover s port else s))

/-- RECOVER_DONE. -/
def execRecoverDone (port : Nat) (badLanes peerMask : BitVec 8) (s : State) : Host.Outcome State Fault Refusal :=
  .next (onPort s port (fun s => recoverEnd s port badLanes peerMask))

/-- RECOVER_TIMEOUT. -/
def execRecoverTimeout (port : Nat) (s : State) : Host.Outcome State Fault Refusal :=
  .next (onPort s port (fun s => if (s.port port).state = 7 then portFail s port 1 else s))

/-- RETRAIN. -/
def execRetrain (f : Fn) (port : Nat) (s : State) : Host.Outcome State Fault Refusal :=
  .next (atPort s f port (rRalPortCtrl port) (fun s => retrainGo s port))

/-- LANE_SLIP. -/
def execLaneSlip (f : Fn) (port lane : Nat) (s : State) : Host.Outcome State Fault Refusal :=
  .next (if lane < 8 then atPort s f port (rRalLane port lane) (fun s => slipGo s port lane) else s)

/-- PROCEED. -/
def execProceed (f : Fn) (port : Nat) (s : State) : Host.Outcome State Fault Refusal :=
  .next (atPort s f port (rRalPortCtrl port) (fun s => proceedGo s port))

/-- LOOP_GO: `mode` is written to RAL_PORT_CTRL_n.loop with the go. -/
def execLoopGo (f : Fn) (port mode : Nat) (s : State) : Host.Outcome State Fault Refusal :=
  .next (if mode < 4 then atPort s f port (rRalPortCtrl port) (fun s => loopApply s port mode) else s)

/-- FAR_LOOPBACK_EXIT: 1 µs of electrical idle at a far-end peer. -/
def execFarLoopbackExit (port : Nat) (s : State) : Host.Outcome State Fault Refusal :=
  .next (onPort s port (fun s =>
    if (s.port port).state = 8 ∧ (s.port port).loop = 4 then portDetect s port else s))

/-! ### Sleep (R385, R386) -/

/-- TX_SLEEP. -/
def execTxSleep (port : Nat) (s : State) : Host.Outcome State Fault Refusal :=
  .next (onPort s port (fun s => sleepTx s port))

/-- RX_SLEEP: 100 ns of electrical idle after a frame with sleep set. -/
def execRxSleep (port : Nat) (s : State) : Host.Outcome State Fault Refusal :=
  .next (onPort s port (fun s =>
    let p := s.port port
    if p.framing ∧ p.rxMaySleep ∧ p.sleepSeen then s.setPort port { p with rxSleep := true } else s))

/-- RX_SIGNAL_DETECT. -/
def execRxSignalDetect (port : Nat) (s : State) : Host.Outcome State Fault Refusal :=
  .next (onPort s port (fun s =>
    let p := s.port port
    if p.rxSleep then s.setPort port { p with rxSleep := false, sleepSeen := false } else s))

/-- TX_WAKE: a message to send or an ack owed queues a port wake of high priority (R460); its admission starts the wake
blocks. -/
def execTxWake (port : Nat) (s : State) : Host.Outcome State Fault Refusal :=
  .next (onPort s port (fun s =>
    if (s.port port).txSleep ∧ ((s.port port).txq ≠ [] ∨ (s.port port).owesAck) then queueWake s 3 port true else s))

/-- TX_WAKE_DONE: 2 µs of wake blocks have passed. -/
def execTxWakeDone (port : Nat) (s : State) : Host.Outcome State Fault Refusal :=
  .next (onPort s port (fun s => s.updPort port (fun p => { p with waking := false })))

/-! ### Key establishment (R389 to R391) -/

/-- REKEY. -/
def execRekey (f : Fn) (port : Nat) (s : State) : Host.Outcome State Fault Refusal :=
  .next (atPort s f port (rRalPortCtrl port) (fun s => rekeyPort s port))

/-- A KEYX message whose fragments have all arrived: they leave the buffer. -/
def takeKx (s : State) (n kind : Nat) : State :=
  let mine := fun (m : RMsg) => m.typ = 0x16 && mbyte m 0 = kind
  let ms := (s.port n).rxq.filter mine
  foldS ms (s.updPort n (fun p => { p with rxq := p.rxq.filter (fun m => !mine m) })) (fun t m => freeSlots t n m)

/-- KEYX_HELLO. -/
def execKeyxHello (port : Nat) (nonce pk : BitVec 256) (s : State) : Host.Outcome State Fault Refusal :=
  .next (onPort s port (fun s => kxHello (takeKx s port 0) port nonce pk))

/-- KEYX_KEY. -/
def execKeyxKey (port : Nat) (ek : List Byte) (s : State) : Host.Outcome State Fault Refusal :=
  .next (onPort s port (fun s => kxKey (takeKx s port 1) port ek))

/-- KEYX_CIPHERTEXT. -/
def execKeyxCiphertext (port : Nat) (ct : List Byte) (ok : Bool) (s : State) : Host.Outcome State Fault Refusal :=
  .next (onPort s port (fun s => kxCipher (takeKx s port 2) port ct ok))

/-- KEYX_SIGNATURE: the bytes of the signature count only through the verdict. -/
def execKeyxSignature (port : Nat) (_sig : List Byte) (ok : Bool) (s : State) : Host.Outcome State Fault Refusal :=
  .next (onPort s port (fun s => kxSign (takeKx s port 3) port ok))

/-- KEYX_TIMEOUT: 250 ms since this port's HELLO. -/
def execKeyxTimeout (port : Nat) (s : State) : Host.Outcome State Fault Refusal :=
  .next (onPort s port (fun s => if (s.port port).kx.phase ≠ 0 then kxFail s port 3 else s))

/-! ### Requests and responses (R392 to R395, R404, R405) -/

/-- READ. -/
def execRead (port : Nat) (m : RMsg) (s : State) : Host.Outcome State Fault Refusal :=
  .next (endMsg s port m 0x01 (fun s => request s port m))

/-- READ_RSP. -/
def execReadRsp (port : Nat) (m : RMsg) (s : State) : Host.Outcome State Fault Refusal :=
  .next (endMsg s port m 0x02 (fun s => response s m))

/-- WRITE. -/
def execWrite (port : Nat) (m : RMsg) (s : State) : Host.Outcome State Fault Refusal :=
  .next (endMsg s port m 0x03 (fun s => request s port m))

/-- ACCUM. -/
def execAccum (port : Nat) (m : RMsg) (s : State) : Host.Outcome State Fault Refusal :=
  .next (endMsg s port m 0x04 (fun s => request s port m))

/-- FLAG. -/
def execFlag (port : Nat) (m : RMsg) (s : State) : Host.Outcome State Fault Refusal :=
  .next (endMsg s port m 0x05 (fun s => request s port m))

/-- CANCEL. -/
def execCancel (port : Nat) (m : RMsg) (s : State) : Host.Outcome State Fault Refusal :=
  .next (endMsg s port m 0x06 (fun s => request s port m))

/-- ACK. -/
def execAck (port : Nat) (m : RMsg) (s : State) : Host.Outcome State Fault Refusal :=
  .next (endMsg s port m 0x07 (fun s => response s m))

/-- BAR_ARRIVE. -/
def execBarArrive (port : Nat) (m : RMsg) (s : State) : Host.Outcome State Fault Refusal :=
  .next (endMsg s port m 0x08 (fun s => arriveBar (freeSlots s port m) port m))

/-- BAR_RELEASE. -/
def execBarRelease (port : Nat) (m : RMsg) (s : State) : Host.Outcome State Fault Refusal :=
  .next (endMsg s port m 0x09 (fun s => request s port m))

/-- REPL_REQ. -/
def execReplReq (port : Nat) (m : RMsg) (s : State) : Host.Outcome State Fault Refusal :=
  .next (endMsg s port m 0x0A (fun s => request s port m))

/-- REPL_RSP. -/
def execReplRsp (port : Nat) (m : RMsg) (s : State) : Host.Outcome State Fault Refusal :=
  .next (endMsg s port m 0x0B (fun s => replAnswered s m))

/-- REPL_INVAL: acknowledged at once in every power state, freeze and reset (R261, R262, R456). -/
def execReplInval (port : Nat) (m : RMsg) (s : State) : Host.Outcome State Fault Refusal :=
  .next (endMsg s port m 0x0C (fun s => replDrop (freeSlots s port m) m))

/-- INVAL_ACK. -/
def execInvalAck (port : Nat) (m : RMsg) (s : State) : Host.Outcome State Fault Refusal :=
  .next (endMsg s port m 0x0D (fun s => invalAcked s m))

/-- RESERVED_MESSAGE: a type that R393 does not list. -/
def execReservedMessage (port : Nat) (m : RMsg) (s : State) : Host.Outcome State Fault Refusal :=
  .next (
    if m.typ ≤ 0x0D ∨ (0x10 ≤ m.typ ∧ m.typ ≤ 0x19) then s
    else ralTake s port m m.typ (fun s => discardMsg s port m))

/-- REQUEST_LOST: no response within 10 ms, or no final one within 60 ms of a hold; never a FLAG WAIT. The requester's
timers stop in a core freeze (R501). -/
def execRequestLost (tag : Nat) (s : State) : Host.Outcome State Fault Refusal :=
  .next (
    if s.on ∧ s.thawed then
      match s.reqOf tag with
      | some r => if (r.msg.typ = 5 ∧ r.msg.op = 2) ∨ r.retry then s else loseReq (dropReq s tag) r.who r.msg r.port
      | none => s
    else s)

/-- REQUEST_REISSUE: 1 ms after a retry-later. -/
def execRequestReissue (tag : Nat) (s : State) : Host.Outcome State Fault Refusal :=
  .next (
    if s.on ∧ s.thawed then
      match s.reqOf tag with
      | some r => if r.retry then reissue s r else s
      | none => s
    else s)

/-- HOLD_WINDOW_EXPIRE. -/
def execHoldWindowExpire (s : State) : Host.Outcome State Fault Refusal :=
  .next (if s.ralLive ∧ s.holds ∧ ¬ s.bup.holdOver then expireKept s else s)

/-! ### Enumeration, map and estate (R396 to R400) -/

/-- ENUM_START. -/
def execEnumStart (f : Fn) (s : State) : Host.Outcome State Fault Refusal := .next (whenReached s f rRalEnum enumGo)

/-- ENUM. -/
def execEnum (port : Nat) (m : RMsg) (s : State) : Host.Outcome State Fault Refusal :=
  .next (ralTake s port m 0x10 (fun s => enumArrive (freeSlots s port m) port m))

/-- ENUM_END. -/
def execEnumEnd (port : Nat) (m : RMsg) (s : State) : Host.Outcome State Fault Refusal :=
  .next (ralTake s port m 0x11 (fun s => enumEndArrive (freeSlots s port m) port m))

/-- MAP_COLLECT: a MAP message of kind 0. -/
def execMapCollect (port : Nat) (m : RMsg) (s : State) : Host.Outcome State Fault Refusal :=
  .next (if mbyte m 0 = 0 then ralTake s port m 0x12 (fun s => collectArrive (freeSlots s port m) port m) else s)

/-- MAP_DISTRIBUTE: a MAP message of kind 1. -/
def execMapDistribute (port : Nat) (m : RMsg) (s : State) : Host.Outcome State Fault Refusal :=
  .next (if mbyte m 0 = 1 then ralTake s port m 0x12 (fun s => distributeArrive (freeSlots s port m) port m) else s)

/-- MAP_WAIT_TIMEOUT: 10 µs after a MAP arrived. -/
def execMapWaitTimeout (s : State) : Host.Outcome State Fault Refusal := .next (if s.ralLive then mapGo s else s)

/-- ENUM_TIMEOUT: 20 ms after go. -/
def execEnumTimeout (s : State) : Host.Outcome State Fault Refusal :=
  .next (if s.ralLive ∧ s.fld rRalEnum fRalEnumBusy = 1 then
    enumResult { s with ral := { s.ral with pendingMap := none } } 6 else s)

/-- ADOPT. -/
def execAdopt (f : Fn) (s : State) : Host.Outcome State Fault Refusal := .next (whenReached s f rRalEnum adoptGo)

/-- LINKID. -/
def execLinkid (port : Nat) (m : RMsg) (s : State) : Host.Outcome State Fault Refusal :=
  .next (ralTake s port m 0x13 (fun s => linkidArrive (freeSlots s port m) port m))

/-- LINKDOWN. -/
def execLinkdown (port : Nat) (m : RMsg) (s : State) : Host.Outcome State Fault Refusal :=
  .next (endMsg s port m 0x14 (fun s => linkDown (freeSlots s port m) (mbyte m 0 % 16) (mbyte m 1 % 8)))

/-- ESTATE: each member takes the trellis id; a member is named by its stack id alone. -/
def execEstate (port : Nat) (m : RMsg) (s : State) : Host.Outcome State Fault Refusal :=
  .next (ralTake s port m 0x19 (fun s =>
    if m.addr / 2 ^ 43 % 16 = s.stackId then estateTake (freeSlots s port m) m else forward s port m))

/-- ESTATE_SET. -/
def execEstateSet (f : Fn) (s : State) : Host.Outcome State Fault Refusal := .next (whenReached s f rRalEstate estateGo)

/-! ### Health and latency (R398, R401) -/

/-- HEALTH. -/
def execHealth (port : Nat) (m : RMsg) (s : State) : Host.Outcome State Fault Refusal :=
  .next (endMsg s port m 0x15 (fun s => healthArrive (freeSlots s port m) m))

/-- MEMBER_HEALTH_LOST. -/
def execMemberHealthLost (stack : Nat) (s : State) : Host.Outcome State Fault Refusal :=
  .next (if s.ralLive then memberLost s stack else s)

/-- PING: answered with a PONG on the same link. -/
def execPing (port : Nat) (m : RMsg) (s : State) : Host.Outcome State Fault Refusal :=
  .next (ralTake s port m 0x17 (fun s =>
    let t := freeSlots s port m
    ralSend t port { ctlMsg t 0x18 0 0 [] with tag := m.tag }))

/-- PONG. -/
def execPong (port : Nat) (m : RMsg) (rttNs : Nat) (s : State) : Host.Outcome State Fault Refusal :=
  .next (ralTake s port m 0x18 (fun s => pongArrive s m rttNs))

end Sys2Proof.Machine
end

