-- ==== Sys2Proof/Machine/Debug.lean ====
section
/-! DEFINITION. Debug levels, counters, trace, breakpoints, freeze and read-out (chapter 17). -/

namespace Sys2Proof.Machine

open Sys2Proof

/-! ### Levels (R488 to R490) -/

/-- The debug level in force. -/
def State.level (s : State) : Nat := s.fld rDbgLevel fDbgLevelLevel

/-- A change of level ends with a result. -/
def levelResult (s : State) (r : Nat) : State := s.setFld rDbgLevel fDbgLevelResult r

/-- A request for D3: every sealed partition is erased, and the level waits for the erasures to end (R490). -/
def enterD3 (s : State) : State :=
  let ps := (List.range 16).filter s.sealed
  let s1 := foldS ps s eraseNow
  let s2 := (levelResult s1 0).setFld rDbgLevel fDbgLevelBusy 1
  { s2 with
    sec := { s2.sec with erasedByD3 := s2.sec.erasedByD3 + ps.length }
    dbg := { s2.dbg with d3Wait := true } }

/-- DBG_LEVEL.go for a target. -/
def levelGo (s : State) (target : Nat) : State :=
  let s0 := s.setFld rDbgLevel fDbgLevelTarget target
  if s.fld rDbgLevel fDbgLevelBusy = 1 then s0
  else
    if s.level = 3 ∧ target ≠ 3 then levelResult s0 3
    else if target = s.level then levelResult s0 2
    else if target < 2 ∧ ¬ s.thawed then levelResult s0 4
    else if target = 3 then enterD3 s0
    else levelResult (s0.setFld rDbgLevel fDbgLevelLevel target) 1

/-- DBG_LEVEL_CHANGE: a target below D3. -/
def execDbgLevelChange (f : Fn) (target : Nat) (s : State) : Host.Outcome State Fault Refusal :=
  .next (if target < 3 then whenReached s f rDbgLevel (fun s => levelGo s target) else s)

/-- DBG_ENTER_D3. -/
def execDbgEnterD3 (f : Fn) (s : State) : Host.Outcome State Fault Refusal :=
  .next (whenReached s f rDbgLevel (fun s => levelGo s 3))

/-- D3 takes effect once no partition is sealing, sealed or erasing; one whose SEAL has ended meanwhile is erased first. -/
def d3Effect (s : State) : State :=
  if ¬ s.dbg.d3Wait then s
  else if (List.range 16).any s.sealed then enterD3 s
  else if (List.range 16).any (fun p => 2 ≤ s.secState p) then s
  else
    let w := fDbgLevelD3Entered.put (fDbgLevelLevel.put (fDbgLevelResult.put (fDbgLevelBusy.put (s.reg rDbgLevel) 0) 1) 3) 1
    let s1 := s.setReg rDbgLevel w
    { s1 with dbg := { s1.dbg with d3Wait := false } }

/-- D3_EFFECT. -/
def execD3Effect (s : State) : Host.Outcome State Fault Refusal := .next (if s.on then d3Effect s else s)

/-! ### Counters and trace (R491 to R495) -/

/-- Write the selection fields of a counter: its count clears. -/
def cntSelect (s : State) (k : Nat) (v : Word) : State :=
  let r := rDbgCnt k
  let w := [fDbgCntEvent, fDbgCntBay, fDbgCntBayAll, fDbgCntPartition, fDbgCntPartEn].foldl (fun x g => g.put x (g.get v))
    (s.reg r)
  s.setReg r (fDbgCntCount.put w 0)

/-- DBG_CNT_SELECT. -/
def execDbgCntSelect (f : Fn) (k : Nat) (value : Word) (s : State) : Host.Outcome State Fault Refusal :=
  .next (if k < 16 then whenReached s f (rDbgCnt k) (fun s => cntSelect s k value) else s)

/-- The result of an enable of trace (R492): 1 enabled, 4 level below D1, 3 no way, 2 ways of a partition. -/
def State.traceResult (s : State) (ways : Nat) : Nat :=
  if s.level < 1 then 4
  else if ways = 0 then 3
  else if (List.range 16).any (fun p => match s.part p with
    | some r => decide (r.ways.toNat &&& ways ≠ 0)
    | none => false) then 2
  else 1

/-- A write of DBG_TRACE_CFG: the ways are kept while trace is enabled; an enable fixes the slices and clears the ring's
position and flags, or is refused. -/
def traceWrite (s : State) (v : Word) : State :=
  let old := s.reg rDbgTraceCfg
  let on := fDbgTraceCfgEn.get old = 1
  let ways := if on then fDbgTraceCfgWays.get old else fDbgTraceCfgWays.get v
  let w := [fDbgTraceCfgStop, fDbgTraceCfgEvents, fDbgTraceCfgPart, fDbgTraceCfgPartEn].foldl (fun x g => g.put x (g.get v))
    (fDbgTraceCfgWays.put old ways)
  let s1 := s.setReg rDbgTraceCfg (fDbgTraceCfgEn.put w 0)
  if fDbgTraceCfgEn.get v = 0 then s1
  else if on then s.setReg rDbgTraceCfg w
  else
    let c := s.traceResult ways
    if c ≠ 1 then s1.setFld rDbgTraceStat fDbgTraceStatResult c
    else
      let act := (List.range 192).filter (fun n => (s.slice n).state = 0)
      let s2 := s1.setFld rDbgTraceCfg fDbgTraceCfgEn 1
      let s3 := s2.setReg rDbgTraceStat (fDbgTraceStatSlices.put (fDbgTraceStatResult.put 0 1) act.length)
      { s3 with dbg := { s3.dbg with trSlices := act, trBuf := [] } }

/-- TRACE_ENABLE. -/
def execTraceEnable (f : Fn) (value : Word) (s : State) : Host.Outcome State Fault Refusal :=
  .next (if fDbgTraceCfgEn.get value = 1 then whenReached s f rDbgTraceCfg (fun s => traceWrite s value) else s)

/-- A write of DBG_TRACE_MARK. -/
def traceMark (s : State) (v : Nat) : State := trace s 15 0xFF 0xFF 0xFF v 0 0

/-- TRACE_MARK. -/
def execTraceMark (f : Fn) (value : BitVec 32) (s : State) : Host.Outcome State Fault Refusal :=
  .next (whenReached s f rDbgTraceMark (fun s => traceMark s value.toNat))

/-! ### Freeze (R499 to R504) -/

/-- A request has to wait: a power-state transit, a compute reset, or a thaw under way (DESIGN CHOICE, assumption log
50). -/
def State.freezeWaits (s : State) : Bool := s.pwr.target.isSome || s.bup.cresetRun || s.dbg.thawing

/-- A freeze of a scope is accepted; a wider scope than the one in force starts an entry. -/
def freezeAccept (s : State) (scope : Nat) : State :=
  if s.dbg.frozen < scope then
    { s with
      dbg := { s.dbg with frozen := scope, entering := true }
      bup := { s.bup with holdOver := false } }
  else s

/-- DBG_FREEZE ends a write with a result. -/
def freezeResult (s : State) (r : Nat) : State := s.setFld rDbgFreeze fDbgFreezeResult r

/-- A request waits: pending is set while a held request stands. -/
def freezePending (s : State) : State :=
  s.setFld rDbgFreeze fDbgFreezePending (b2n (decide (s.dbg.heldReg ≠ 0 ∨ s.dbg.heldPin ≠ 0)))

/-- A register freeze with DBG_FREEZE.scope and drive, by DBG_FREEZE.req or a breakpoint. -/
def freezeReg (s : State) : State :=
  let scope := s.fld rDbgFreeze fDbgFreezeScope
  if scope = 0 ∨ scope = 3 then s
  else if s.level < 2 then freezeResult s 2
  else if ¬ s.stepDone 10 then freezeResult s 3
  else if scope < s.dbg.frozen then freezeResult s 4
  else if s.freezeWaits then
    freezePending { s with dbg := { s.dbg with heldReg := Nat.max s.dbg.heldReg scope } }
  else
    let s1 := freezeAccept (freezeResult s 1) scope
    { s1 with dbg := { s1.dbg with
      regFreeze := Nat.max s1.dbg.regFreeze scope
      driving := s1.dbg.driving || s.fld rDbgFreeze fDbgFreezeDrive = 1 } }

/-- FREEZE_N has been sampled low (R499). -/
def freezePin (s : State) : State :=
  let scope := s.fld rDbgFreeze fDbgFreezePinScope
  if scope = 0 ∨ scope = 3 ∨ s.level < 2 ∨ ¬ s.stepDone 10 then raise s rDbgEvent fDbgEventPinIgnored
  else if s.freezeWaits then
    freezePending { s with dbg := { s.dbg with heldPin := Nat.max s.dbg.heldPin scope } }
  else
    let s1 := freezeAccept s scope
    { s1 with dbg := { s1.dbg with pinFreeze := Nat.max s1.dbg.pinFreeze scope } }

/-- FREEZE_PIN. -/
def execFreezePin (s : State) : Host.Outcome State Fault Refusal :=
  .next (
    let s1 : State := { s with pci := { s.pci with freezeLow := true } }
    if s.on then freezePin s1 else s1)

/-- FREEZE_REQUEST: DBG_FREEZE.req with its scope and drive. -/
def execFreezeRequest (f : Fn) (scope : Nat) (drive : Bool) (s : State) : Host.Outcome State Fault Refusal :=
  .next (whenReached s f rDbgFreeze (fun s =>
    freezeReg ((s.setFld rDbgFreeze fDbgFreezeScope scope).setFld rDbgFreeze fDbgFreezeDrive (b2n drive))))

/-- FREEZE_HELD_START: the held requests start once nothing makes them wait. A pin that has gone high has withdrawn its
request. -/
def execFreezeHeldStart (s : State) : Host.Outcome State Fault Refusal :=
  .next (
    if ¬ s.on ∨ s.freezeWaits ∨ (s.dbg.heldReg = 0 ∧ s.dbg.heldPin = 0) then s
    else
      let s0 : State := { s with dbg := { s.dbg with heldReg := 0, heldPin := 0 } }
      let s1 := freezePending s0
      let s2 := if s.dbg.heldReg = 0 then s1 else freezeReg (s1.setFld rDbgFreeze fDbgFreezeScope s.dbg.heldReg)
      if s.dbg.heldPin = 0 then s2 else freezePin s2)

/-- The entry completes (R500): the replicas go (R262), FROZEN is driven and seq counts the entry; a full freeze takes
HBM into self-refresh and the PCIe links down (R502). -/
def freezeEntry (s : State) : State :=
  let full := s.dbg.frozen = 2
  let s1 := dropReplicas s (fun _ => true)
  let s2 := if full then portReset (portReset { s1 with hbm := { s1.hbm with selfRefresh := true } } 0) 1 else s1
  let s3 : State := { s2 with
    dbg := { s2.dbg with entering := false }
    pci := { s2.pci with frozenPin := true, training := if full then 0 else s2.pci.training } }
  let s4 := (s3.setFld rDbgFreeze fDbgFreezeState s.dbg.frozen).addMod rDbgFreeze fDbgFreezeSeq 1
  raise s4 rDbgEvent fDbgEventFrozen

/-- FREEZE_ENTRY_DONE. -/
def execFreezeEntryDone (s : State) : Host.Outcome State Fault Refusal :=
  .next (if s.on ∧ s.dbg.entering then freezeEntry s else s)

/-- The thaw begins (R503): outside sleep the clocks of the floor fabric, the slice columns and the bays that were not
gated start through admission. -/
def thawStart (s : State) : State :=
  if s.dbg.frozen = 0 ∨ s.dbg.thawing then s
  else
    let s1 : State := { s with dbg := { s.dbg with thawing := true, regFreeze := 0, pinFreeze := 0 } }
    if s.pwr.state ≠ 0 then s1
    else
      let s2 := foldS ((List.range 192).filter (fun n => (s.slice n).state ≠ 2)) (queueWake s1 0 0 true)
        (fun t n => queueWake t 2 n true)
      foldS ((List.range 32).filter s.bayRuns) s2 (fun t b => queueWake t 5 b false)

/-- DBG_FREEZE.thaw: the register freeze and the drive end. With FREEZE_N still low result 5 is set, and the freeze lasts
until the pin has been sampled high. -/
def thawGo (s : State) : State :=
  let low := s.pci.freezeLow || s.dbg.driving
  let s1 : State := { s with
    dbg := { s.dbg with regFreeze := 0, driving := false, heldReg := 0 }
    pci := { s.pci with freezeLow := low } }
  let s2 := freezePending s1
  if low then freezeResult s2 5 else thawStart (freezeResult s2 1)

/-- THAW. -/
def execThaw (f : Fn) (s : State) : Host.Outcome State Fault Refusal := .next (whenReached s f rDbgFreeze thawGo)

/-- FREEZE_PIN_RELEASE. A stack that drives the pin itself does not see it high. -/
def execFreezePinRelease (s : State) : Host.Outcome State Fault Refusal :=
  .next (
    if s.dbg.driving then s
    else
      let s1 : State := { s with
        pci := { s.pci with freezeLow := false }
        dbg := { s.dbg with pinFreeze := 0, heldPin := 0 } }
      if ¬ s.on then s1
      else
        let s2 := freezePending s1
        if s.dbg.regFreeze = 0 then thawStart s2 else s2)

/-- A clock start of the thaw is pending. -/
def State.thawPending (s : State) : Bool :=
  s.pwr.state = 0 && (s.pwr.wakes ++ s.pwr.rails).any (fun w =>
    decide (w.kind ≤ 2) || (decide (w.kind = 5) && decide (smGetD s.pwr.bayGate w.unit 0 = 0)))

/-- The thaw completes (R502, R503): a full thaw takes HBM out of self-refresh with recalibration and trains every link
again; what was kept is served. -/
def thawEnd (s : State) : State :=
  let full := s.dbg.frozen = 2
  let s1 : State := { s with
    dbg := { s.dbg with frozen := 0, thawing := false }
    pci := { s.pci with frozenPin := false } }
  let s2 := if full ∧ s.pwr.state ≤ 1 then
      foldS ((List.range 192).filter (fun c => s1.chanSt c = 0))
        { s1 with hbm := { s1.hbm with selfRefresh := false } } (fun t c => calibrated (calibrated t c 0) c 1)
    else s1
  let s3 := if full then
      let t := foldS ((List.range 8).filter (fun n => !(s2.port n).off && decide ((s2.port n).state ≠ 0))) s2 portDetect
      { t with pci := { t.pci with training := ~~~ t.pci.perstLow } }
    else s2
  let s4 := s3.setFld rDbgFreeze fDbgFreezeState 0
  let kept := s4.dbg.keptInv
  let s5 := foldS kept { s4 with dbg := { s4.dbg with keptInv := [] } } applyKept
  raise (serveKept s5) rDbgEvent fDbgEventThawed

/-- THAW_DONE. -/
def execThawDone (s : State) : Host.Outcome State Fault Refusal :=
  .next (if s.on ∧ s.dbg.thawing ∧ ¬ s.dbg.entering ∧ ¬ s.thawPending then thawEnd s else s)

/-! ### Breakpoints (R498) -/

/-- BRK may halt a thread of a partition. -/
def State.brkAllowed (s : State) (p : Nat) : Bool :=
  decide (2 ≤ s.level) && decide (s.fld rDbgLevel fDbgLevelBrkEn = 1) && !s.sealed p

/-- The thread halts at its BRK, to go on at the next instruction. -/
def brkHalt (s : State) (t : Nat) (x : Thread) : State :=
  let b := bayOfSlot t
  let cell := localOfCell (cellOfSlot t)
  let pipe := t % 128 / 8
  let thr := t % 8
  let s1 := updThread (charge s t 1) t (fun y => { y.next with st := .halted })
  let s2 : State := { s1 with dbg := { s1.dbg with halted := s1.dbg.halted ++ [t] } }
  let w := b + 2 ^ 5 * cell + 2 ^ 10 * pipe + 2 ^ 14 * thr + 2 ^ 17 * x.part + 2 ^ 21 * x.ctx
  let s3 := (s2.setReg rDbgBrk (BitVec.ofNat 64 w)).setReg rDbgBrkPc (BitVec.ofNat 64 x.pc)
  let s4 := raise (trace s3 9 b x.part x.ctx (pipe + 2 ^ 4 * thr + 2 ^ 7 * cell) 0 x.pc) rDbgEvent fDbgEventBrk
  if s4.fld rDbgLevel fDbgLevelBrkFreeze = 1 then freezeReg s4 else s4

/-- BRK. -/
def execBrk (t : Nat) (s : State) : Host.Outcome State Fault Refusal :=
  .next (issue (.brk t) s (fun u x => if u.brkAllowed x.part then brkHalt u t x else instrFault (.brk t) u 8 0 0))

/-- DBG_BRK.resume: every halted thread goes on after its BRK. -/
def brkResume (s : State) : State :=
  let s1 := foldS s.dbg.halted s (fun u t => updThread u t (fun x => { x with st := .ready }))
  { s1 with dbg := { s1.dbg with halted := [] } }

/-- BRK_RESUME. -/
def execBrkResume (f : Fn) (s : State) : Host.Outcome State Fault Refusal := .next (whenReached s f rDbgBrk brkResume)

/-! ### Read-out (R505 to R507) -/

/-- The address names a unit of the space. Bits that R505 does not name have to be zero (DEDUCED, assumption log 51). -/
def roValid (space a : Nat) : Bool :=
  if space = 1 then decide (nbits a 15 5 < 24 ∧ a / 2 ^ 25 = 0 ∧ nbits a 9 1 = 0)
  else if space = 2 then decide (nbits a 15 5 < 24 ∧ nbits a 0 4 < 9 ∧ a / 2 ^ 25 = 0 ∧ nbits a 4 4 = 0)
  else if space = 3 then decide (nbits a 26 8 < 192 ∧ a / 2 ^ 34 = 0 ∧ nbits a 0 6 = 0)
  else if space = 4 then decide (nbits a 26 8 < 192 ∧ a / 2 ^ 34 = 0 ∧ nbits a 0 7 = 0)
  else false

/-- Frame key of a space-3 address: die and row give set and way (R183). -/
def roFrame (a : Nat) : Nat :=
  let row := nbits a 7 17
  frameKey (nbits a 26 8) (row / 4) (4 * nbits a 24 2 + row % 4)

/-- Slice, set and way of a space-4 address. -/
def roTag (a : Nat) : Nat := frameKey (nbits a 26 8) (nbits a 11 15) (nbits a 7 4)

/-- The cell of a space-1 or space-2 address. -/
def roCell (a : Nat) : Nat := cellOf (nbits a 20 5) (nbits a 15 5)

/-- The cellar frame of a space-3 or space-4 address. -/
def roKey (space a : Nat) : Nat := if space = 3 then roFrame a else roTag a

/-- A frame of the trace ways: ways of DBG_TRACE_CFG that no partition holds. -/
def State.traceWay (s : State) (way : Nat) : Bool :=
  nbit (s.fld rDbgTraceCfg fDbgTraceCfgWays) way && (s.findPart (fun r => nbit r.ways.toNat way)).isNone

/-- The read-out is permitted (R506, R509). -/
def State.roPermitted (s : State) (space a : Nat) : Bool :=
  if s.thawed then decide (space = 3 ∧ 1 ≤ s.level ∧ s.pwr.state = 0 ∧ s.pwr.target = none) && s.traceWay (roFrame a % 16)
  else decide (2 ≤ s.level)

/-- The unit is powered down. -/
def State.roDown (s : State) (space a : Nat) : Bool :=
  decide (2 ≤ s.pwr.state) || (decide (space ≤ 2) && decide (smGetD s.pwr.bayGate (nbits a 20 5) 0 = 2))

/-- The unit is out of service. -/
def State.roOut (s : State) (space a : Nat) : Bool :=
  if space ≤ 2 then !s.bayOn (nbits a 20 5) || !s.cellOn (roCell a) else decide ((s.slice (nbits a 26 8)).state = 2)

/-- The sealed partition that a unit belongs to (R507). -/
def State.roSealed (s : State) (space a : Nat) : Option Nat :=
  let p := if space ≤ 2 then s.partOfBay (nbits a 20 5) else s.findPart (fun r => nbit r.ways.toNat (roKey space a % 16))
  p.filter s.sealed

/-- A cell-store word: zeros when its valid bit is clear. The lines of an L1 lie in words that no rule names, so a thread
cell's word is a free value. -/
def State.roWord (s : State) (a : Nat) : BitVec 512 :=
  if s.role (roCell a) = 1 then (Config.garble s.free).extractLsb' 0 512
  else
    match smGet s.cmp.cs (16384 * roCell a + 512 * nbits a 10 5 + nbits a 0 9) with
    | some w => if w.valid then w.data else 0
    | none => 0

/-- Thread state: registers, or PC, issue count and identity; of a slot not in use only bit [0] of byte 16 is stated. -/
def State.roThread (s : State) (a : Nat) : BitVec 512 :=
  let t := 128 * roCell a + 8 * nbits a 11 4 + nbits a 8 3
  let u := nbits a 0 4
  match s.thread t with
  | none =>
    let g := (Config.garble s.free).extractLsb' 0 512
    if u = 8 then putByte g 16 (g.extractLsb' 128 8 &&& 0xFE) else g
  | some x =>
    if u < 8 then BitVec.ofNat 512 (leNat ((List.range 8).flatMap (fun i => toBytes (x.reg (8 * u + i)) 8)))
    else BitVec.ofNat 512 (leNat (natBytes x.pc 8 ++ natBytes x.issue 8 ++ natBytes 1 1 ++ natBytes x.part 1 ++ natBytes x.ctx 1
      ++ natBytes 0 1 ++ natBytes x.idx 4))

/-- The bytes of a row that the stored lines of a frame occupy, as a mask. -/
def Frame.used (f : Frame) : BitVec 1024 :=
  f.lines.foldl (fun v l => v ||| BitVec.ofNat 1024 ((2 ^ (8 * l.cls) - 1) * 2 ^ (256 * l.quarter))) 0

/-- A cellar row as stored; bytes that hold no line and no trace record are free values. -/
def State.roRow (s : State) (key : Nat) : BitVec 1024 :=
  let g := Config.garble s.free
  match smGet s.cel.frames key with
  | some f => f.row ||| (g &&& ~~~ f.used)
  | none => (smGet s.dbg.trace key).getD g

/-- State code of a line in a tag entry. -/
def LineSt.code : LineSt → Nat
  | .absent => 0
  | .filling => 1
  | .clean => 2
  | .dirty => 3
  | .zero => 4
  | .dead => 5

/-- Size class code of a tag entry, from the stored bytes. -/
def classCode (cls : Nat) : Nat := if cls = 128 then 3 else cls / 32

/-- A tag entry; the coding of its age is not stated: a free value, as are tag and age of an entry without lines. -/
def State.roTagEntry (s : State) (key : Nat) : BitVec 512 :=
  let g := Config.choose s.free
  match smGet s.cel.frames key with
  | none => BitVec.ofNat 512 (g % 2 ^ 48)
  | some f =>
    let ent := fun (l : LineEnt) =>
      [l.line + 4, classCode l.cls + 16 * l.quarter, l.st.code, l.hint % 4 + 4 * b2n l.racked + 8 * b2n l.pinned,
        l.poison.toNat, f.ch, 0, 0].flatMap (fun v => natBytes v 1)
    BitVec.ofNat 512 (leNat (natBytes (f.grp / 32768) 4 ++ natBytes g 2 ++ natBytes 0 2 ++ f.lines.flatMap ent))

/-- The unit as read, and whether it is uncorrectable. -/
def State.roUnit (s : State) (space a : Nat) (errs : List SymErr) : BitVec 512 × Bool :=
  if space = 1 then (deliver errs 0 (s.roWord a), (decodeCw errs 0).bad)
  else if space = 2 then (s.roThread a, false)
  else if space = 3 then
    let h := nbits a 6 1
    (deliver errs h ((s.roRow (roFrame a)).extractLsb' (512 * h) 512), (decodeCw errs h).bad)
  else
    let tag := errs.filter (fun e => e.cw = 2)
    let bad : Bool := decide (1 < tag.foldl (fun k e => k + popc e.diff.toNat 8) 0)
    let d := s.roTagEntry (roTag a)
    (if bad then tag.foldl (fun x e => x ^^^ (BitVec.ofNat 512 e.diff.toNat <<< (8 * e.pos))) d else d, bad)

/-- The keystream of a read-out under a debug key (R507). -/
def roStream (key : BitVec 256) (space a seq : Nat) : BitVec 512 :=
  let addr := space * 2 ^ 60 + a
  BitVec.ofNat 512 (leNat ((List.range 4).flatMap (fun j =>
    aesEncrypt (toBytes key 32) (natBytes addr 8 ++ natBytes seq 4 ++ beBytes j 4))))

/-- A read-out: status, partition and, where a unit is read or powered down, its data. -/
def State.roAnswer (s : State) (space a : Nat) (errs : List SymErr) : Nat × Nat × Option (BitVec 512) :=
  if ¬ roValid space a then (3, 0, none)
  else if ¬ s.roPermitted space a then (5, 0, none)
  else if s.roDown space a then (4, 0, some 0)
  else if s.roOut space a then (6, 0, none)
  else
    let (d, bad) := s.roUnit space a errs
    match s.roSealed space a with
    | none => (if bad then 7 else 1, 0, some d)
    | some p =>
      let k := roStream (s.secPart p).debugKey space a (s.fld rDbgFreeze fDbgFreezeSeq)
      (if bad then 7 else 2, p, some (d ^^^ k))

/-- DBG_RO.go: the answer goes into DBG_RO and DBG_RO_DATA_k. -/
def readOutGo (s : State) (space addr : Nat) (errs : List SymErr) : State :=
  let a := addr % 2 ^ 34
  let (st, p, d) := s.roAnswer space a errs
  let w := fDbgRoPartition.put (fDbgRoStatus.put (fDbgRoAddr.put (fDbgRoSpace.put 0 space) a) st) p
  let s1 := s.tick.setReg rDbgRo w
  match d with
  | none => s1
  | some x => foldS (List.range 8) s1 (fun t k => t.setReg (rDbgRoData k) (x.extractLsb' (64 * k) 64))

/-- READ_OUT. -/
def execReadOut (f : Fn) (space addr : Nat) (errs : List SymErr) (s : State) : Host.Outcome State Fault Refusal :=
  .next (whenReached s f rDbgRo (fun s => readOutGo s (space % 16) addr errs))

/-! ### Scan (R490) -/

/-- What a scan shift leaves: nothing is known of it. A constant without a body; the first argument is the counter of
free values. -/
opaque scanned : Nat → List Bool → State

/-- SCAN_SHIFT: accepted at D3 in full freeze. The state is undefined until PWRGOOD is cycled; the pins stay as the board
drives them. -/
def execScanShift (bits : List Bool) (s : State) : Host.Outcome State Fault Refusal :=
  .next (if s.on ∧ s.level = 3 ∧ s.dbg.frozen = 2 ∧ ¬ s.dbg.entering then
    let t := scanned s.free bits
    { t with
      pci := { t.pci with
        pwrgood := s.pci.pwrgood
        resetLow := s.pci.resetLow
        supplyFault := s.pci.supplyFault
        perstLow := s.pci.perstLow
        freezeLow := s.pci.freezeLow }
      out := s.out
      free := s.free + 1
      pending := s.pending }
  else s)

end Sys2Proof.Machine
end

