-- ==== Sys2Proof/Machine/Fp.lean ====
section
/-! DEFINITION. Floating-point instructions of the cell instruction set (R102, R105, R111, R131). -/

namespace Sys2Proof.Machine

open Sys2Proof

/-- The format of a floating-point instruction: 0 FP32, 1 BF16, 2 FP16. -/
def laneFmt (fmt : Nat) : FpFmt := if fmt = 0 then fp32 else if fmt = 1 then bf16 else fp16

/-- The lane value of a register: its low bits (R131). -/
def laneOf (f : FpFmt) (v : Word) : Nat := v.toNat % 2 ^ (f.e + f.m + 1)

/-- A lane value written zero-extended, with its status. -/
def laneRes (r : Nat × Nat) : Word × Nat := (BitVec.ofNat 64 r.1, r.2)

/-- An operation on two lane values. -/
def fp2 (i : Instr) (fmt d a b : Nat) (g : FpFmt → Nat → Nat → Nat × Nat) (s : State) : State :=
  aluStatus i d (fun x => laneRes (g (laneFmt fmt) (laneOf (laneFmt fmt) (x.reg a)) (laneOf (laneFmt fmt) (x.reg b)))) s

/-- A comparison: 1 or 0. -/
def fpCompare (i : Instr) (fmt d a b op : Nat) (s : State) : State :=
  fp2 i fmt d a b (fun f u v => (b2n (fpRel f op u v), 0)) s

/-- An approximated operation of R111. -/
def fpApx (i : Instr) (fmt d a op : Nat) (s : State) : State :=
  issue i s (fun u x =>
    let r := laneRes (fpApprox (laneFmt fmt) op (laneOf (laneFmt fmt) (x.reg a)) u.free)
    raiseArith (retireReg i u.tick d r.1) (bayOfSlot (slotOf i)) r.2)

/-- The sign of a lane value changed; NaN becomes the canonical NaN (R93). -/
def fpSigned (f : FpFmt) (g : Fv → Fv) (a : Nat) : Nat × Nat := fpEnc f false (g (fpDec f a))

/-- The absolute value. -/
def fvAbs (v : Fv) : Fv := if v.neg then v.negate else v

/-- FADD. -/
def execFadd (t fmt d a b : Nat) (s : State) : Host.Outcome State Fault Refusal :=
  .next (fp2 (.fadd t fmt d a b) fmt d a b fpAdd s)

/-- FSUB. -/
def execFsub (t fmt d a b : Nat) (s : State) : Host.Outcome State Fault Refusal :=
  .next (fp2 (.fsub t fmt d a b) fmt d a b fpSub s)

/-- FMUL. -/
def execFmul (t fmt d a b : Nat) (s : State) : Host.Outcome State Fault Refusal :=
  .next (fp2 (.fmul t fmt d a b) fmt d a b fpMul s)

/-- FMAC: d plus a times b, rounded once. -/
def execFmac (t fmt d a b : Nat) (s : State) : Host.Outcome State Fault Refusal :=
  .next (aluStatus (.fmac t fmt d a b) d (fun x => laneRes (fpFma (laneFmt fmt) (laneOf (laneFmt fmt) (x.reg d)) (laneOf (laneFmt fmt) (x.reg a)) (laneOf (laneFmt fmt) (x.reg b)))) s)

/-- FMIN. -/
def execFmin (t fmt d a b : Nat) (s : State) : Host.Outcome State Fault Refusal :=
  .next (fp2 (.fmin t fmt d a b) fmt d a b (fun f u v => (fpMinMax f false u v, 0)) s)

/-- FMAX. -/
def execFmax (t fmt d a b : Nat) (s : State) : Host.Outcome State Fault Refusal :=
  .next (fp2 (.fmax t fmt d a b) fmt d a b (fun f u v => (fpMinMax f true u v, 0)) s)

/-- FEQ. -/
def execFeq (t fmt d a b : Nat) (s : State) : Host.Outcome State Fault Refusal :=
  .next (fpCompare (.feq t fmt d a b) fmt d a b 0 s)

/-- FLT. -/
def execFlt (t fmt d a b : Nat) (s : State) : Host.Outcome State Fault Refusal :=
  .next (fpCompare (.flt t fmt d a b) fmt d a b 1 s)

/-- FLE. -/
def execFle (t fmt d a b : Nat) (s : State) : Host.Outcome State Fault Refusal :=
  .next (fpCompare (.fle t fmt d a b) fmt d a b 2 s)

/-- FABS. -/
def execFabs (t fmt d a : Nat) (s : State) : Host.Outcome State Fault Refusal :=
  .next (aluStatus (.fabs t fmt d a) d (fun x => laneRes (fpSigned (laneFmt fmt) fvAbs (laneOf (laneFmt fmt) (x.reg a)))) s)

/-- FNEG. -/
def execFneg (t fmt d a : Nat) (s : State) : Host.Outcome State Fault Refusal :=
  .next (aluStatus (.fneg t fmt d a) d (fun x => laneRes (fpSigned (laneFmt fmt) Fv.negate (laneOf (laneFmt fmt) (x.reg a)))) s)

/-- FRCP. -/
def execFrcp (t fmt d a : Nat) (s : State) : Host.Outcome State Fault Refusal :=
  .next (fpApx (.frcp t fmt d a) fmt d a 0 s)

/-- FRSQ. -/
def execFrsq (t fmt d a : Nat) (s : State) : Host.Outcome State Fault Refusal :=
  .next (fpApx (.frsq t fmt d a) fmt d a 1 s)

/-- FEXP2. -/
def execFexp2 (t fmt d a : Nat) (s : State) : Host.Outcome State Fault Refusal :=
  .next (fpApx (.fexp2 t fmt d a) fmt d a 2 s)

/-- FLOG2. -/
def execFlog2 (t fmt d a : Nat) (s : State) : Host.Outcome State Fault Refusal :=
  .next (fpApx (.flog2 t fmt d a) fmt d a 3 s)

/-- CVT (R102, R103). -/
def execCvt (t d a src target : Nat) (sat : Bool) (s : State) : Host.Outcome State Fault Refusal :=
  .next (aluStatus (.cvt t d a src target sat) d (fun x => cvtRun src target sat (x.reg a)) s)

end Sys2Proof.Machine
end

