-- ==== Sys2Proof/Machine/Mem.lean ====
section
/-! DEFINITION. Loads, stores, SACC, PREF, CINV and fences of the cell instruction set (R131 to R139), and the replies that reach
waiting threads (R132, R145, R146). -/

namespace Sys2Proof.Machine

open Sys2Proof

/-- LDL: 8 bytes of the literal pool, hint 0. -/
def execLdl (t d : Nat) (imm : BitVec 20) (s : State) : Host.Outcome State Fault Refusal :=
  .next (issue (.ldl t d imm) s (fun u x => load (.ldl t d imm) u d 8 false 0 (BitVec.ofNat 64 (x.pc / 8 * 8) + imm.signExtend 64 * 8).toNat))

/-- LDU8. -/
def execLdu8 (t d a hint : Nat) (imm : BitVec 12) (s : State) : Host.Outcome State Fault Refusal :=
  .next (issue (.ldu8 t d a hint imm) s (fun u x => load (.ldu8 t d a hint imm) u d 1 false hint (x.ea a imm)))

/-- LDS8. -/
def execLds8 (t d a hint : Nat) (imm : BitVec 12) (s : State) : Host.Outcome State Fault Refusal :=
  .next (issue (.lds8 t d a hint imm) s (fun u x => load (.lds8 t d a hint imm) u d 1 true hint (x.ea a imm)))

/-- LDU16. -/
def execLdu16 (t d a hint : Nat) (imm : BitVec 12) (s : State) : Host.Outcome State Fault Refusal :=
  .next (issue (.ldu16 t d a hint imm) s (fun u x => load (.ldu16 t d a hint imm) u d 2 false hint (x.ea a imm)))

/-- LDS16. -/
def execLds16 (t d a hint : Nat) (imm : BitVec 12) (s : State) : Host.Outcome State Fault Refusal :=
  .next (issue (.lds16 t d a hint imm) s (fun u x => load (.lds16 t d a hint imm) u d 2 true hint (x.ea a imm)))

/-- LDU32. -/
def execLdu32 (t d a hint : Nat) (imm : BitVec 12) (s : State) : Host.Outcome State Fault Refusal :=
  .next (issue (.ldu32 t d a hint imm) s (fun u x => load (.ldu32 t d a hint imm) u d 4 false hint (x.ea a imm)))

/-- LDS32. -/
def execLds32 (t d a hint : Nat) (imm : BitVec 12) (s : State) : Host.Outcome State Fault Refusal :=
  .next (issue (.lds32 t d a hint imm) s (fun u x => load (.lds32 t d a hint imm) u d 4 true hint (x.ea a imm)))

/-- LD64. -/
def execLd64 (t d a hint : Nat) (imm : BitVec 12) (s : State) : Host.Outcome State Fault Refusal :=
  .next (issue (.ld64 t d a hint imm) s (fun u x => load (.ld64 t d a hint imm) u d 8 false hint (x.ea a imm)))

/-- ST8. -/
def execSt8 (t v a hint : Nat) (imm : BitVec 12) (s : State) : Host.Outcome State Fault Refusal :=
  .next (issue (.st8 t v a hint imm) s (fun u x => store (.st8 t v a hint imm) u v 1 hint (x.ea a imm)))

/-- ST16. -/
def execSt16 (t v a hint : Nat) (imm : BitVec 12) (s : State) : Host.Outcome State Fault Refusal :=
  .next (issue (.st16 t v a hint imm) s (fun u x => store (.st16 t v a hint imm) u v 2 hint (x.ea a imm)))

/-- ST32. -/
def execSt32 (t v a hint : Nat) (imm : BitVec 12) (s : State) : Host.Outcome State Fault Refusal :=
  .next (issue (.st32 t v a hint imm) s (fun u x => store (.st32 t v a hint imm) u v 4 hint (x.ea a imm)))

/-- ST64. -/
def execSt64 (t v a hint : Nat) (imm : BitVec 12) (s : State) : Host.Outcome State Fault Refusal :=
  .next (issue (.st64 t v a hint imm) s (fun u x => store (.st64 t v a hint imm) u v 8 hint (x.ea a imm)))

/-- The sector in registers d to d + 3, g63 reading zero (R130). -/
def Thread.sector (x : Thread) (d : Nat) : Sector :=
  BitVec.ofNat 256 ((List.range 4).foldl (fun a k => a + (x.reg (d + k)).toNat * 2 ^ (64 * k)) 0)

/-- SACC at a translated address: it bypasses the L1 and invalidates the line of its target (R134). -/
def saccPlace (i : Instr) (s : State) (op va d b : Nat) (p : Phys) : State :=
  let t := slotOf i
  match s.thread t with
  | none => s
  | some x =>
    if x.full then waitFor i s (.stores 0)
    else
      hbmTarget i s va true p (fun u =>
        let v := retire i (pushStore (l1Drop u (cellOfSlot t) p) t p 32) Thread.next
        let mask := (x.reg b).setWidth 16
        match p with
        | .hbm a => toSlice v t x.part a 0 (.accum op mask (x.sector d) false)
        | .remote f => remoteAsk v (.thread t) (accumMsg f x.part op mask (x.sector d))
        | _ => v)

/-- SACC: accumulate-on-write of a sector (R113). -/
def execSacc (t op d a b : Nat) (s : State) : Host.Outcome State Fault Refusal :=
  .next (issue (.sacc t op d a b) s (fun u x =>
    let va := (x.reg a).toNat
    if va % 32 ≠ 0 then instrFault (.sacc t op d a b) u 2 va 0
    else withPlace (.sacc t op d a b) u va .update (saccPlace (.sacc t op d a b) · op va d b ·)))

/-- PREF of a line that its TLB entry leads to: into the L1 and the slice, or the slice only. It posts no record and
answers nothing; a line of host memory or of another stack is asked for, and what comes back without a waiting load is
dropped. -/
def prefPlace (s : State) (t : Nat) (x : Thread) (sliceOnly : Bool) (hint : Nat) (p : Phys) : State :=
  let h := if hint = 3 then 0 else hint
  match p with
  | .hbm a =>
    if ¬ (s.permits (.thread t) false a ∧ s.poolAllows (.thread t) true (lineAddr a)) then s
    else if sliceOnly then toSlice s t x.part a h .pref
    else
      match s.l1Find (cellOfSlot t) p with
      | some _ => s
      | none =>
        let (u, r) := engineRead (portBeats s t x.part) (.thread t) a h
        l1Fill u (cellOfSlot t) p r.data (wordPoison r.poison) h
  | .remote f => if sliceOnly then s else toRemoteRead s t x.part f h
  | .host port b _ _ => if sliceOnly then s else s.emit (.hostRead port (b / 128 * 128) 128)
  | .bad _ => s

/-- PREF: dropped on a bay TLB miss or an unusable translation (R131). -/
def execPref (t d a hint : Nat) (imm : BitVec 12) (s : State) : Host.Outcome State Fault Refusal :=
  .next (issue (.pref t d a hint imm) s (fun u x =>
    let v := retire (.pref t d a hint imm) u Thread.next
    match lookup u x.m (x.ea a imm) .read (some (bayOfSlot t)) with
    | some p => prefPlace v t x (d = 1) hint p
    | none => v))

/-- CINV: it lists no fault, so a failed translation leaves it without effect (DEDUCED, assumption log 32). -/
def execCinv (t a : Nat) (imm : BitVec 12) (s : State) : Host.Outcome State Fault Refusal :=
  .next (issue (.cinv t a imm) s (fun u x =>
    match translate u ⟨.thread t, x.m, x.ea a imm, .read, bayOfSlot t, 0⟩ true with
    | (v, .ok p) => retire (.cinv t a imm) (l1Drop v (cellOfSlot t) p) Thread.next
    | (v, .pending) => waitFor (.cinv t a imm) v .xlat
    | (v, .fault _) => retire (.cinv t a imm) v Thread.next))

/-- FENCE kind 1. -/
def execFenceRelease (t : Nat) (s : State) : Host.Outcome State Fault Refusal :=
  .next (issue (.fenceRelease t) s (fun u x => release (.fenceRelease t) u x (fun v => retire (.fenceRelease t) v Thread.next)))

/-- FENCE kind 2. -/
def execFenceAcquire (t : Nat) (s : State) : Host.Outcome State Fault Refusal :=
  .next (issue (.fenceAcquire t) s (fun u _ => acquireDone (charge u t 1) t id))

/-- FENCE kind 3. -/
def execFenceFull (t : Nat) (s : State) : Host.Outcome State Fault Refusal :=
  .next (issue (.fenceFull t) s (fun u x => release (.fenceFull t) u x (fun v => acquireDone (charge v t 1) t id)))

/-! ### Flags (R144 to R146) -/

/-- A flag SET (`op` 0) or ADD (1) at a translated address. -/
def flagPlace (i : Instr) (s : State) (op va d : Nat) (v : Word) (p : Phys) : State :=
  let t := slotOf i
  match s.thread t with
  | none => s
  | some x =>
    if x.full then waitFor i s (.stores 0)
    else
      hbmTarget i s va true p (fun u =>
        let u1 := charge (l1Drop u (cellOfSlot t) p) t 1
        let u2 := updThread (pushStore u1 t p 8) t (fun y => { y with st := .waiting (.flagReply d p va u1.cmp.clock) })
        match p with
        | .hbm a => toSlice u2 t x.part a 0 (if op = 0 then .flagSet v else .flagAdd v)
        | .remote f => remoteAsk u2 (.thread t) (flagMsg f x.part op 0 v)
        | _ => u2)

/-- A flag SET or ADD: with rel a release. -/
def flagUpdate (i : Instr) (op d a b : Nat) (rel : Bool) (s : State) : State :=
  issue i s (fun u x =>
    let va := (x.reg a).toNat
    if va % 8 ≠ 0 then instrFault i u 2 va 0
    else
      let go := fun (w : State) => withPlace i w va .update (fun w p => flagPlace i w op va d (x.reg b) p)
      if rel then release i u x go else go u)

/-- Send a WAIT to its flag. -/
def flagAsk (s : State) (t part cond : Nat) (v : Word) (p : Phys) : State :=
  match p with
  | .hbm a => toSlice s t part a 0 (.flagWait cond v)
  | .remote f => remoteAsk s (.thread t) (flagMsg f part 2 cond v)
  | _ => s

/-- A flag WAIT at a translated address; d on entry is its timeout. -/
def waitPlace (i : Instr) (s : State) (va d cond : Nat) (v : Word) (p : Phys) : State :=
  let t := slotOf i
  match s.thread t with
  | none => s
  | some x =>
    hbmTarget i s va false p (fun u =>
      let u1 := charge (l1Drop u (cellOfSlot t) p) t 1
      flagAsk (updThread u1 t (fun y => { y with st := .waiting (.flagWait d cond v p va false) })) t x.part cond v p)

/-- FLAG SET. -/
def execFlagSet (t d a b : Nat) (rel : Bool) (s : State) : Host.Outcome State Fault Refusal :=
  .next (flagUpdate (.flagSet t d a b rel) 0 d a b rel s)

/-- FLAG ADD. -/
def execFlagAdd (t d a b : Nat) (rel : Bool) (s : State) : Host.Outcome State Fault Refusal :=
  .next (flagUpdate (.flagAdd t d a b rel) 1 d a b rel s)

/-- FLAG WAIT. -/
def execFlagWait (t d a b cond : Nat) (s : State) : Host.Outcome State Fault Refusal :=
  .next (issue (.flagWait t d a b cond) s (fun u x =>
    let va := (x.reg a).toNat
    if va % 8 ≠ 0 then instrFault (.flagWait t d a b cond) u 2 va 0
    else
      withPlace (.flagWait t d a b cond) u va .read (fun w p =>
        waitPlace (.flagWait t d a b cond) w va d cond (x.reg b) p)))

/-! ### Replies (R132) -/

/-- A fault of a waiting thread at its PC, with the word it issued. -/
def replyFault (s : State) (t code va : Nat) : State :=
  match s.thread t with
  | none => s
  | some x => threadFault s t code va 0 x.word

/-- Load data reaches its thread: the L1 fills unless the load bypasses it; a poisoned word faults (R134, R135, R339). -/
def loadReply (s : State) (t d size : Nat) (sg : Bool) (hint va : Nat) (p : Phys) (r : Reply) : State :=
  if r.status ≠ 0 then replyFault s t 5 va
  else
    let u := if hint < 3 then l1Fill s (cellOfSlot t) p r.data (wordPoison r.poison) hint else s
    let bad := if hint = 3 then r.poison.getLsbD (physAddr p % 128 / 32) else wordBad (wordPoison r.poison) (physAddr p)
    if bad then replyFault u t 4 va
    else updThread u t (fun x => (x.setReg d (loadValue r.data (physAddr p) size sg)).next)

/-- Remove the store entry of a flag update. -/
def dropStore (x : Thread) (p : Phys) : Thread :=
  match x.stores.find? (fun e => e.target = p ∧ e.size = 8) with
  | some e => { x with stores := x.stores.erase e }
  | none => x

/-- The reply of a SET or ADD. -/
def flagReplied (s : State) (t d va : Nat) (p : Phys) (r : Reply) : State :=
  let u := updThread s t (fun x => dropStore x p)
  if r.status = 0 then updThread u t (fun x => (x.setReg d r.word).next)
  else replyFault u t (if r.status = 5 then 4 else 5) va

/-- The reply of a WAIT: a value ends it with an acquire; retry and retry-later leave it to be reissued, or end it when
its timeout has passed (R145, R146). -/
def waitReplied (s : State) (t d cond : Nat) (v : Word) (p : Phys) (va : Nat) (cancelled : Bool) (r : Reply) : State :=
  if r.status = 0 ∨ r.status = 7 ∨ ((r.status = 6 ∨ r.status = 3) ∧ cancelled) then
    acquireDone s t (fun x => x.setReg d r.word)
  else if r.status = 6 ∨ r.status = 3 then
    updThread s t (fun x => { x with st := .waiting (.flagRetry d cond v p va r.word) })
  else replyFault s t (if r.status = 5 then 4 else 5) va

/-- The reply answers what the thread waits for. -/
def answers (w : Wait) (r : Reply) : Bool :=
  let at_ := fun (p : Phys) => match p with
    | .hbm a => r.source = 0 && lineAddr a = lineAddr r.addr
    | .remote f => (r.source = 1 && lineAddr f = lineAddr r.addr) || (r.source = 0 && lineAddr f % 65536 = lineAddr r.addr % 65536)
    | .host _ _ _ _ => r.source = 2
    | .bad _ => false
  match w with
  | .data _ _ _ _ _ p _ => at_ p
  | .flagReply _ p _ _ => at_ p
  | .flagWait _ _ _ p _ _ => at_ p
  | _ => false

/-- Deliver a reply to its thread; one that nothing waits for is dropped. -/
def giveReply (s : State) (t : Nat) (r : Reply) : State :=
  match s.thread t with
  | none => s
  | some x =>
    match x.st with
    | .waiting w =>
      if answers w r then
        match w with
        | .data d size sg hint va p _ => loadReply s t d size sg hint va p r
        | .flagReply d p va _ => flagReplied s t d va p r
        | .flagWait d cond v p va c => waitReplied s t d cond v p va c r
        | _ => s
      else s
    | _ => s

/-- THREAD_MEMORY_REPLY: the oldest reply held for the thread, or a completion from host memory. A reply for a gated bay
wakes it and stays (R450, R451). -/
def memReplyX (t : Nat) (src : ReplySrc) (s : State) : State :=
  whenLive s (fun s =>
    let s1 : State := match src with
      | .fabric => s
      | .host data ep =>
        { s with cmp := { s.cmp with replies := s.cmp.replies ++ [⟨t, 0, data, if ep then 0xF else 0, 0, 0, 2⟩] } }
    if ¬ s1.bayRuns (bayOfSlot t) then wakeBay s1 (bayOfSlot t) false
    else
      match s1.cmp.replies.find? (fun r => r.slot = t) with
      | none => s1
      | some r => giveReply { s1 with cmp := { s1.cmp with replies := s1.cmp.replies.erase r } } t r)

/-- THREAD_MEMORY_REPLY. -/
def execThreadMemoryReply (t : Nat) (src : ReplySrc) (s : State) : Host.Outcome State Fault Refusal :=
  .next (memReplyX t src s)

/-- FLAG_WAIT_TIMEOUT: the bay hub cancels the WAIT at its slice or stack; in the gap before a reissue the WAIT ends with
the word of the retry answer, which fails the condition (R146). -/
def waitTimeoutX (t : Nat) (s : State) : State :=
  whenLive s (fun s =>
    match s.thread t with
    | none => s
    | some x =>
      match x.st with
      | .waiting (.flagWait d cond v p va false) =>
        if x.reg d = 0 then s
        else
          let u := s.setThread t { x with st := .waiting (.flagWait d cond v p va true) }
          match p with
          | .remote f =>
            match u.ral.reqs.find? (fun r => r.who = .thread t ∧ r.msg.typ = 5 ∧ r.msg.addr = f) with
            | some r => (ralRoute u { r.msg with typ := 6, op := 0, arg := 0 }).1
            | none => u
          | _ => u
      | .waiting (.flagRetry d _ _ _ _ last) => if x.reg d = 0 then s else acquireDone s t (fun y => y.setReg d last)
      | _ => s)

/-- FLAG_WAIT_TIMEOUT. -/
def execFlagWaitTimeout (t : Nat) (s : State) : Host.Outcome State Fault Refusal := .next (waitTimeoutX t s)

/-- FLAG_WAIT_RETRY: the WAIT is sent again (R145). -/
def waitRetryX (t : Nat) (s : State) : State :=
  whenLive s (fun s =>
    match s.thread t with
    | none => s
    | some x =>
      match x.st with
      | .waiting (.flagRetry d cond v p va _) =>
        flagAsk (s.setThread t { x with st := .waiting (.flagWait d cond v p va false) }) t x.part cond v p
      | _ => s)

/-- FLAG_WAIT_RETRY. -/
def execFlagWaitRetry (t : Nat) (s : State) : Host.Outcome State Fault Refusal := .next (waitRetryX t s)

end Sys2Proof.Machine
end

