-- ==== Sys2Proof/Machine/Scrub.lean ====
section
/-! DEFINITION. The ERR block's commands (chapter 11): the pop of a record, and scrubs (R331 to R333). -/

namespace Sys2Proof.Machine

open Sys2Proof

/-- The oldest record leaves the queue (R340). -/
def errPop (s : State) : State := { s with dbg := { s.dbg with errq := s.dbg.errq.drop 1 } }

/-- ERR_POP. -/
def execErrPop (f : Fn) (s : State) : Host.Outcome State Fault Refusal := .next (whenReached s f rErrPop errPop)

/-! ### Start (R331) -/

/-- The result of a scrub. -/
def scrubResult (s : State) (r : Nat) : State :=
  (s.setFld rErrScrubCtrl fErrScrubCtrlBusy 0).setFld rErrScrubCtrl fErrScrubCtrlResult r

/-- A scrub over units from one place up to another starts. -/
def scrubStart (s : State) (target first last : Nat) : State :=
  let s1 := (s.setReg rErrScrubRes 0).setFld rErrScrubCtrl fErrScrubCtrlResult 0
  let s2 := s1.setFld rErrScrubCtrl fErrScrubCtrlBusy 1
  { s2 with dbg := { s2.dbg with scrub := some (target, first, last) } }

/-- A write of ERR_SCRUB_CTRL with go: target and unit are stored; ignored while busy. -/
def scrubGo (s : State) (target unit : Nat) : State :=
  let s0 := (s.setFld rErrScrubCtrl fErrScrubCtrlTarget target).setFld rErrScrubCtrl fErrScrubCtrlUnit unit
  if s.fld rErrScrubCtrl fErrScrubCtrlBusy = 1 then s0
  else if target = 0 then s0.setFld rErrScrubCtrl fErrScrubCtrlResult 2
  else if target = 1 then
    let base := 256 * s.fld rErrScrubBase fErrScrubBaseBase
    let len := 256 * s.fld rErrScrubLen fErrScrubLenLen
    if len = 0 ∨ s.backedTop < base + len then s0.setFld rErrScrubCtrl fErrScrubCtrlResult 3
    else scrubStart s0 1 base (base + len)
  else if target = 2 then
    if unit = 0xFF then scrubStart s0 2 0 (frameKey 192 0 0)
    else if 192 ≤ unit then s0.setFld rErrScrubCtrl fErrScrubCtrlResult 3
    else if (s.slice unit).state ≠ 0 then s0.setFld rErrScrubCtrl fErrScrubCtrlResult 5
    else scrubStart s0 2 (frameKey unit 0 0) (frameKey (unit + 1) 0 0)
  else if 32 ≤ unit then s0.setFld rErrScrubCtrl fErrScrubCtrlResult 3
  else if ¬ s.bayOn unit then s0.setFld rErrScrubCtrl fErrScrubCtrlResult 5
  else scrubStart s0 3 0 (16384 * 768)

/-- SCRUB_HBM. The unit field keeps its value: it is ignored for target 1. -/
def execScrubHbm (f : Fn) (s : State) : Host.Outcome State Fault Refusal :=
  .next (whenReached s f rErrScrubCtrl (fun s => scrubGo s 1 (s.fld rErrScrubCtrl fErrScrubCtrlUnit)))

/-- SCRUB_CELLAR. -/
def execScrubCellar (f : Fn) (unit : Nat) (s : State) : Host.Outcome State Fault Refusal :=
  .next (whenReached s f rErrScrubCtrl (fun s => scrubGo s 2 unit))

/-- SCRUB_CELL_STORE. -/
def execScrubCellStore (f : Fn) (unit : Nat) (s : State) : Host.Outcome State Fault Refusal :=
  .next (whenReached s f rErrScrubCtrl (fun s => scrubGo s 3 unit))

/-- SCRUB_NO_TARGET. -/
def execScrubNoTarget (f : Fn) (s : State) : Host.Outcome State Fault Refusal :=
  .next (whenReached s f rErrScrubCtrl (fun s => scrubGo s 0 (s.fld rErrScrubCtrl fErrScrubCtrlUnit)))

/-! ### Steps (R331, R332) -/

/-- The lowest key of a list that is not below a bound. -/
def nextKey (l : List Nat) (first : Nat) : Option Nat :=
  l.foldl (fun m k => if k < first then m else match m with | none => some k | some x => some (Nat.min x k)) none

/-- Units that the scrub does not skip. -/
def State.scrubUnits (s : State) (target last : Nat) : List Nat :=
  if target = 1 then
    (s.hbm.blocks.filter (fun e => e.2.valid && !(e.2.zero0 && e.2.zero1) && e.2.addr < last
      && !s.chanFailed e.2.addr)).map (fun e => e.2.addr)
  else if target = 2 then
    (s.cel.frames.filter (fun e => e.1 < last && (s.slice (e.1 / 524288)).state = 0
      && e.2.lines.any (fun l => l.cls ≠ 0))).map Prod.fst
  else
    (s.cmp.cs.filter (fun e => e.2.valid && bayOfCell (e.1 / 16384) = s.fld rErrScrubCtrl fErrScrubCtrlUnit
      && s.cellOn (e.1 / 16384) && s.role (e.1 / 16384) ≠ 0)).map Prod.fst

/-- Codewords rewritten and codewords found bad (ERR_SCRUB_RES). -/
def scrubCount (s : State) (fixed bad : Nat) : State :=
  (s.addMod rErrScrubRes fErrScrubResFixed fixed).addSat rErrScrubRes fErrScrubResBad bad

/-- One block: corrected codewords are written back, failed ones poison the block. -/
def scrubBlock (s : State) (a : Nat) (errs : List SymErr) : State :=
  let b := s.block a
  let hs := (List.range 2).filter (fun h => !b.zero h)
  let outs := hs.map (fun h => (h, readHalf b h errs))
  let fixed : Nat := outs.foldl (fun n o => n + o.2.2.2) 0
  let bad := outs.flatMap (fun o => o.2.2.1)
  let s1 := blockFixed (countBursts (touchSidecar s a (decide (fixed ≠ 0))) a (1 + 4 * hs.length + (if fixed = 0 then 0 else 1 + 2 * fixed))) a fixed
  let put := fun (x : Block) (o : Nat × (Line × List (Nat × RsOutcome) × Nat)) =>
    if o.2.2.1 = [] ∧ o.2.2.2 ≠ 0 then x.setHalf o.1 o.2.1 false else x
  let s2 := if fixed = 0 then s1 else s1.putBlock a (outs.foldl put (s1.block a))
  let s3 := if bad = [] then s2 else blockFailed s2 a bad errs
  scrubCount s3 fixed bad.length

/-- One frame: corrected codewords are written back, lines of a failed one are poisoned. -/
def scrubFrame (s : State) (key : Nat) (errs : List SymErr) : State :=
  match smGet s.cel.frames key with
  | none => s
  | some f =>
    let n := key / 524288
    let set := key % 524288 / 16
    let way := key % 16
    let outs := [0, 1].map (fun c => (c, decodeCw errs c))
    let (s1, row) := readRow s n set way f errs
    let good := fun (l : LineEnt) => l.quarters.all (fun q => !(decodeCw errs (q / 2)).bad)
    let s2 := match smGet s1.cel.frames key with
      | none => s1
      | some g =>
        if row = f.row then s1
        else s1.putFrame n set way { g with lines := g.lines.map (fun (l : LineEnt) =>
          if l.cls ≠ 0 ∧ good l then { l with data := rowLine row l s1.free } else l) }
    scrubCount s2.tick ((outs.filter (fun o => o.2.fixed)).length) ((outs.filter (fun o => o.2.bad)).length)

/-- One cell-store word: corrected, or its poison bit set with one record of source 4 (R342). -/
def scrubWord (s : State) (key : Nat) (errs : List SymErr) : State :=
  match smGet s.cmp.cs key with
  | none => s
  | some w =>
    let o := decodeCw errs 0
    let cell := key / 16384
    let put := fun (u : State) (x : CsWord) => ({ u with cmp := { u.cmp with cs := smSet u.cmp.cs key x } } : State)
    if o.fixed then scrubCount (countCe (put s { w with data := deliver errs 0 w.data }) 0 1) 1 0
    else if o.bad then
      let s1 := put s { w with poison := true }
      let payload := o.kind + 2 ^ 8 * bayOfCell cell + 2 ^ 16 * localOfCell cell + 2 ^ 24 * (key % 16384 / 512)
        + 2 ^ 32 * (key % 512)
      let s2 := postErr s1 4 1 (partByte (s.partOfBay (bayOfCell cell))) payload
      scrubCount (captureSynd s2 (syndNat (syndOf errs 0))) 0 1
    else s

/-- The next unit of the scrub in progress. -/
def scrubStep (errs : List SymErr) (s : State) : State :=
  match s.dbg.scrub with
  | none => s
  | some (t, first, last) =>
    match nextKey (s.scrubUnits t last) first with
    | none => s
    | some k =>
      let s1 := if t = 1 then scrubBlock s k errs else if t = 2 then scrubFrame s k errs else scrubWord s k errs
      { s1 with dbg := { s1.dbg with scrub := some (t, k + 1, last) } }

/-- SCRUB_STEP. -/
def execScrubStep (errs : List SymErr) (s : State) : Host.Outcome State Fault Refusal :=
  .next (whenLive s (scrubStep errs))

/-- SCRUB_DONE: every unit has been read. -/
def execScrubDone (s : State) : Host.Outcome State Fault Refusal :=
  .next (whenLive s (fun s =>
    match s.dbg.scrub with
    | none => s
    | some (t, first, last) =>
      if (nextKey (s.scrubUnits t last) first).isSome then s
      else scrubResult { s with dbg := { s.dbg with scrub := none } } 1))

end Sys2Proof.Machine
end

