-- ==== Sys2Proof/Machine/Reset.lean ====
section
/-! DEFINITION. The compute reset (R526 to R529, R554), in-service save-test-restore (R530, R531), and the distance table
(R52 to R54). -/

namespace Sys2Proof.Machine

open Sys2Proof

/-! ### Compute reset: what it clears (R527) -/

/-- Requests of this stack's own threads, tiles, commands and engines. -/
def ownRequester : Requester → Bool
  | .bar2 _ _ _ => false
  | .raloth _ _ _ _ _ _ => false
  | _ => true

/-- Requests on their way to a slice, and those held for sharers, go the way of R554. -/
def resetTraffic (s : State) : State :=
  let far := s.cel.xbar.filter (fun h => !ownRequester h.who)
  let held := s.plc.dir.flatMap DirEnt.held
  let s1 : State := { s with
    cel := { s.cel with xbar := [] }
    plc := { s.plc with dir := [] } }
  cellarReset (foldS (held ++ far) s1 resetHeld)

/-- Threads, tasks, contexts, barriers, tiles and L1s go without a record or a flag; cell-store words lose their valid bits,
and those of sealed partitions' bays are overwritten (R150, R175, R140, R439). -/
def resetCompute (s : State) : State :=
  let sealedBay := fun (k : Nat) => match s.partOfBay (bayOfCell (k / 16384)) with | some p => s.sealed p | none => false
  let cs := (smKeep s.cmp.cs (fun k => !sealedBay k)).map (fun e => (e.1, { e.2 with valid := false, poison := false }))
  { s with
    cmp := { s.cmp with
      thr := [], tasks := [], ctx := [], rot := [], bars := [], opq := [], qTurn := [], lastBay := [], l1 := []
      cs := cs
      replies := []
      posts := [] }
    dbg := { s.dbg with halted := [] } }

/-- Translation (R289, R293): entries, waiters and commands go, and invalidations are answered at once. -/
def resetXlat (s : State) : State :=
  let s1 : State := { s with xlt := { s.xlt with
    bay := []
    l2 := []
    ats := s.xlt.ats.map (fun a => { a with waiters := [] })
    prs := s.xlt.prs.map (fun r => { r with waiters := [] })
    invs := []
    cmds := [] } }
  foldS s.xlt.invs s1 (fun u i => u.emit (.invDone i.f i.itag))

/-- Requests of this stack to others, and barrier arrivals that its head has not released (R403). -/
def resetLinks (s : State) : State :=
  let s1 : State := { s with ral := { s.ral with reqs := s.ral.reqs.filter (fun r => !ownRequester r.who) } }
  if s1.fld rRalEnum fRalEnumHead = 1 then dropArrivals s1 s1.stackId else s1

/-- Registers of the cellar (R220): the ranges' base and length stay, and an abandoned operation reads 5. -/
def resetCelRegs (s : State) (active : List Nat) : State :=
  let keep := fun (o : Nat) => (List.range 16).any (fun p => o = rCelRangeBase p || o = rCelRangeLen p)
  foldS active (s.resetRegs (fun o => decide (blockOf o = .cel) && !keep o))
    (fun u p => u.setFld (rCelRangeCtrl p) fCelRangeCtrlResult 5)

/-- Registers of placement (R269): the fields that sealing locks stay. -/
def resetPlcRegs (s : State) : State :=
  let ps := (List.range 16).filter s.sealed
  let kept := fun (u : State) (p : Nat) =>
    let w := s.reg (rPlcWorkCfg p)
    let d := regReset s.bup.variant (rPlcWorkCfg p)
    let v := fPlcWorkCfgPoolRegions.put (fPlcWorkCfgReplIn.put (fPlcWorkCfgReplEn.put d (fPlcWorkCfgReplEn.get w))
      (fPlcWorkCfgReplIn.get w)) (fPlcWorkCfgPoolRegions.get w)
    (u.setReg (rPlcWorkCfg p) v).setReg (rPlcPoolBase p) (s.reg (rPlcPoolBase p))
  let s1 := foldS ps (s.resetRegs (fun o => decide (rPlcQryCtrl ≤ o) && decide (blockOf o = .plc))) kept
  { s1 with plc := { s1.plc with
    cfg := foldS plcCfgRegs s1.plc.cfg (fun c o => smPut c o (s1.reg o) (regReset s1.bup.variant o)) } }

/-- Registers of the bays and of commands (R118, R155, R179, R294); an operation of CMP_CTX_CTRL under way ends with result
2 (DESIGN CHOICE, assumption log 40). -/
def resetCmpRegs (s : State) : State :=
  let gone := fun (o : Nat) =>
    (decide (blockOf o = .cmp) && decide (o < rCmpCtxCtrl) && decide (0x38 ≤ o % 0x40000))
      || (decide (rXltCmdStat 0 ≤ o) && decide (o < rXltFlogBase 0))
  let s1 := s.resetRegs gone
  let s2 := foldS (List.range 1024) s1 (fun u m =>
    if u.fld (rCmpTaskStat m) fCmpTaskStatAccepted = 0 then u else u.setFld (rCmpTaskStat m) fCmpTaskStatAccepted 0)
  if s2.fld rCmpCtxCtrl fCmpCtxCtrlBusy = 1 then ctxResult s2 2 else s2

/-- Operations in progress are abandoned: a scrub with result 4 (R333), imports with result 7. -/
def resetOps (s : State) : State :=
  let s1 := if s.dbg.scrub.isSome then scrubResult { s with dbg := { s.dbg with scrub := none } } 4 else s
  foldS (List.range 16) s1 (fun u p => importEnd u p 7)

/-- Bring-up registers: steps 6, 7, 8 and 10 are open again, and no Blend is loaded. -/
def resetSteps (s : State) : State :=
  let s1 := foldS [6, 7, 8, 10] s (fun u k => stepStatus (u.setFld rBupDone (fBupDoneDone.bit (k - 1)) 0) k 0 0 0)
  (s1.setFld rBupGrade fBupGradeValid 0).setFld rBldCtrl fBldCtrlLoaded 0

/-- The hardware part starts. The 50 ms of R404 count from the first start (R529). -/
def cresetStart (s : State) : State :=
  let s0 := ((s.setFld rBupCreset fBupCresetPending 0).setFld rBupCreset fBupCresetBusy 1).setFld rBupCreset fBupCresetHolding 1
  let s1 : State := { s0 with bup := { s0.bup with
    cresetPending := false
    cresetRun := true
    holding := true
    holdOver := s0.bup.holding && s0.bup.holdOver } }
  let active := s.cel.ranges.map Prod.fst
  let s2 := resetTraffic (dropReplicas s1 (fun _ => true))
  let s3 := resetLinks (resetXlat (resetCompute s2))
  let s4 := resetOps (placementReset s3)
  let s5 := resetSteps (resetCmpRegs (resetPlcRegs (resetCelRegs s4 active)))
  { s5 with hbm := { s5.hbm with chans := s5.hbm.chans.map (fun e =>
    (e.1, { e.2 with scache := e.2.scache.map (fun p => (p.1, false)) })) } }

/-- What a compute reset waits for (R526). -/
def State.cresetWaits (s : State) : Bool :=
  s.asleep || s.dbg.frozen ≠ 0 || s.bup.step.isSome || s.bup.tstUnit.isSome

/-- A waiting reset leaves a sleep state first (R459). -/
def cresetExit (s : State) : State :=
  if s.pwr.state ≠ 0 ∧ s.pwr.target = none ∧ s.thawed then exitStart s else s

/-- BUP_CRESET.go (R526). -/
def cresetGo (s : State) : State :=
  if ¬ s.bup.enabledOnce then s.setFld rBupCreset fBupCresetResult 2
  else if s.cresetWaits then
    cresetExit ({ s with bup := { s.bup with cresetPending := true } }.setFld rBupCreset fBupCresetPending 1)
  else cresetStart s

/-- COMPUTE_RESET. -/
def execComputeReset (f : Fn) (s : State) : Host.Outcome State Fault Refusal :=
  .next (whenReached s f rBupCreset cresetGo)

/-- CRESET_DEFERRED_START: the waiting reset starts; an entry to a sleep state that has completed is left first. -/
def execCresetDeferredStart (s : State) : Host.Outcome State Fault Refusal :=
  .next (
    if ¬ s.on ∨ ¬ s.bup.cresetPending then s
    else if s.cresetWaits then cresetExit s
    else cresetStart s)

/-- COMPUTE_RESET_DONE. -/
def execComputeResetDone (s : State) : Host.Outcome State Fault Refusal :=
  .next (
    if ¬ s.on ∨ ¬ s.bup.cresetRun then s
    else
      let s1 : State := { s with bup := { s.bup with cresetRun := false } }
      let s2 := (s1.setFld rBupCreset fBupCresetBusy 0).setFld rBupCreset fBupCresetResult 1
      raise s2 rBupEvent fBupEventCresetDone)

/-! ### In-service save-test-restore (R530, R531) -/

/-- Units of a kind: 768 cells, 49,152 slice units, 1,024 numbers for each pseudo-channel. -/
def testUnits (kind : Nat) : Nat := if kind = 1 then 768 else if kind = 2 then 49152 else 393216

/-- The unit exists and is in service. -/
def State.testable (s : State) (kind u : Nat) : Bool :=
  if kind = 1 then s.bayOn (bayOfCell u) && s.cellOn u
  else if kind = 2 then decide ((s.slice (u / 256)).state = 0)
  else decide (u % 1024 < 636) && decide (s.chanSt (u / 2048) = 0)

/-- The next unit of a kind: the first in service from the place reached, around. -/
def State.testNext (s : State) (kind : Nat) : Option Nat :=
  let n := testUnits kind
  ((List.range n).map (fun i => (smGetD s.bup.tstNext kind 0 + i) % n)).find? (s.testable kind)

/-- The next enabled kind after the last, in the order cells, slices, HBM. -/
def State.testKind (s : State) (kinds : Nat) : Option Nat :=
  ((List.range 3).map (fun i => (s.bup.tstKind + i) % 3 + 1)).find? (fun k => nbit kinds (k - 1))

/-- The cell is skipped: its bay belongs to a sealed partition or is not gated. -/
def State.testSkips (s : State) (kind u : Nat) : Bool :=
  kind = 1 && (smGetD s.pwr.bayGate (bayOfCell u) 0 = 0 ||
    (match s.partOfBay (bayOfCell u) with | some p => s.sealed p | none => false))

/-- The save area takes the unit's contents, in an arrangement that is not stated: free values. -/
def saveContents (s : State) (base : Nat) : State :=
  foldS (List.range 8192) s (fun u i =>
    let a := base + 256 * i
    let b : Block := { Block.blank a with half0 := Config.garble u.free, half1 := Config.garble (u.free + 1), valid := true }
    let v := u.tick.tick
    v.putBlock a (v.withMac a b))

/-- A turn of the test: a unit is saved and tested, or a cell is skipped. -/
def testTurn (s : State) (kinds base : Nat) : State :=
  match s.testKind kinds with
  | none => s
  | some k =>
    let s1 : State := { s with bup := { s.bup with tstRounds := 0, tstKind := k } }
    match s1.testNext k with
    | none => s1
    | some u =>
      let s2 : State := { s1 with bup := { s1.bup with tstNext := smSet s1.bup.tstNext k (u + 1) } }
      if s2.testSkips k u then s2.addSat rBupTestStat fBupTestStatSkipped 1
      else
        let s3 := ((s2.setFld rBupTestStat fBupTestStatKind k).setFld rBupTestStat fBupTestStatUnit u).setFld rBupTestStat
          fBupTestStatRunning 1
        let s4 : State := { s3 with bup := { s3.bup with tstUnit := some (k, u) } }
        if k = 1 ∧ smGetD s4.pwr.bayGate (bayOfCell u) 0 = 2 then s4 else saveContents s4 base

/-- INSERVICE_TEST: every interval rounds once the stack is enabled. -/
def execInserviceTest (s : State) : Host.Outcome State Fault Refusal :=
  .next (whenLive s (fun s =>
    match s.bup.blend.bind Blend.test with
    | none => s
    | some (kinds, interval, base) =>
      if ¬ s.stepDone 10 ∨ s.bup.cresetPending ∨ s.bup.tstUnit.isSome ∨ s.bup.tstRounds < interval then s
      else testTurn s kinds base))

/-- A block that failed its test: poison and a record of kind 1, unless it is poisoned already. -/
def testPoison (s : State) (u a : Nat) : State :=
  let (d, slot) := s.placeOf a
  let b := s.block a
  if u / 1024 ≠ 2 * d + pcOf a ∨ u % 1024 ≠ slot / 4096 ∨ b.poison then s
  else
    let s1 := s.putBlock a (s.withMac a { b with poison := true })
    let s2 := postErr s1 2 1 (partByte (s.partOfAddr a)) (hbmPayload 1 (sliceOf a) d (pcOf a) slot (blockAddr a))
    s2.setFld (rHbmChUe d) fHbmChUeBlock (blockAddr a / 256)

/-- A failed unit, by its kind (R531). -/
def testFailed (s : State) (k u : Nat) (bad : List Nat) : State :=
  let s1 :=
    if k = 1 then withDuty s (fun t => retireCell t u)
    else if k = 2 then retireSlice s (u / 256)
    else newDefect (foldS bad s (fun t a => testPoison t u (blockAddr a))) (unitEntry 4 0 (u / 2048))
  raise (s1.addSat rBupTestStat fBupTestStatFailed 1) rBupEvent fBupEventTestFail

/-- Requests that waited for the restore of a slice unit go on, unless their slice drains. -/
def testRelease (s : State) (k u : Nat) : State :=
  let n := u / 256
  let x := s.slice n
  if k ≠ 2 ∨ x.state = 1 then s
  else foldS x.held (s.setSlice n { x with held := [] }) (fun t h => sliceReq t h [])

/-- INSERVICE_TEST_DONE: paused in S1 to S3 and in a freeze. -/
def execInserviceTestDone (bad : List Nat) (s : State) : Host.Outcome State Fault Refusal :=
  .next (whenLive s (fun s =>
    match s.bup.tstUnit with
    | none => s
    | some (k, u) =>
      let s1 := (s.setFld rBupTestStat fBupTestStatRunning 0).addMod rBupTestStat fBupTestStatTested 1
      let s2 := testRelease { s1 with bup := { s1.bup with tstUnit := none } } k u
      if bad = [] then s2 else testFailed s2 k u bad))

/-! ### The distance table (R52 to R54) -/

/-- The record of a bay. -/
def State.distBay (s : State) (b : Nat) : List Byte :=
  let off := !s.bayOn b
  [if off then 4 else smGetD s.bup.half b 0, if off then 0 else s.bayActive b, if b % 4 < 2 then 0 else 1, b / 4, b % 4,
    if b % 4 = 0 ∨ b % 4 = 3 then 1 else 0, if off then 0 else 100 * s.bayCapacity b / (24 * 1024), 0].map (BitVec.ofNat 8)

/-- The record of a slice. -/
def State.distSlice (s : State) (n : Nat) : List Byte :=
  [(s.slice n).state, n / 32, if n < 96 then 0 else 1, 0].map (BitVec.ofNat 8)

/-- The record of a peer. -/
def State.distPeer (s : State) (k : Nat) : List Byte :=
  let p := s.peer k
  natBytes p.hops 1 ++ natBytes p.port 1 ++ natBytes (b2n p.reach + 2 * b2n p.chord) 1 ++ natBytes 0 1 ++ natBytes p.latency 2
    ++ natBytes p.bw 2

/-- The trellis bisection (R398). -/
def State.trellisCut (s : State) : Nat :=
  let low := cdiv s.peerCount 2
  (List.range low).foldl (fun a k =>
    (List.range 6).foldl (fun x p => match s.mapLink k p with
      | some (j, lw) => if low ≤ j then x + 106 * 2 ^ lw / 8 else x
      | none => x) a) 0

/-- The matrix entry of a bay and a slice. -/
def State.distClassOf (s : State) (b n : Nat) : Nat :=
  if !s.bayOn b ∨ (s.slice n).state = 2 then 0xF else distClass b n

/-- The table's 7,440 bytes. -/
def State.distTable (s : State) : List Byte :=
  ascii "DIST" ++ natBytes 1 2 ++ natBytes 7440 2 ++ toBytes s.plc.gen 4 ++ natBytes s.trellisId 2 ++ natBytes s.stackId 1
    ++ natBytes s.peerCount 1 ++ natBytes 0 48
    ++ (List.range 16).flatMap (fun c => natBytes (if c < 4 then classW c else 0) 2 ++ natBytes 0 2)
    ++ (List.range 32).flatMap s.distBay ++ (List.range 192).flatMap s.distSlice ++ (List.range 16).flatMap s.distPeer
    ++ natBytes 32000 4 ++ natBytes (if s.peerCount = 1 then 0 else s.trellisCut) 4 ++ natBytes 0 8
    ++ (List.range 32).flatMap (fun b => (List.range 192).map (fun n => BitVec.ofNat 8 (s.distClassOf b n)))

/-- PLC_DIST_CTRL.fetch: ignored while busy; before BUP enable it ends with err_cause 2. -/
def distGo (s : State) (f : Fn) : State :=
  if s.fld rPlcDistCtrl fPlcDistCtrlBusy = 1 then s
  else if ¬ s.stepDone 10 then raise (s.setFld rPlcDistCtrl fPlcDistCtrlErrCause 2) rPlcDistCtrl fPlcDistCtrlError
  else
    let t := s.distTable
    let s1 : State := { s with plc := { s.plc with dist := some (t, f, s.plc.gen.toNat) } }
    (s1.setFld rPlcDistCtrl fPlcDistCtrlBusy 1).emit
      (.hostWrite f.port (64 * s.fld rPlcDistAddr fPlcDistAddrAddr) (t.map some) false)

/-- DIST_FETCH. -/
def execDistFetch (f : Fn) (s : State) : Host.Outcome State Fault Refusal :=
  .next (whenReached s f rPlcDistCtrl (fun s => distGo s f))

/-- DIST_FETCH_DONE: `ok` unless the host write failed. -/
def execDistFetchDone (ok : Bool) (s : State) : Host.Outcome State Fault Refusal :=
  .next (
    match s.plc.dist with
    | none => s
    | some (_, _, g) =>
      if ¬ s.on ∨ s.freeze = 2 then s
      else
        let s1 : State := { s with plc := { s.plc with dist := none } }
        let s2 := s1.setFld rPlcDistCtrl fPlcDistCtrlBusy 0
        let s3 := if s.plc.gen.toNat = g then s2 else raise s2 rPlcDistCtrl fPlcDistCtrlStale
        if ok then raise s3 rPlcDistCtrl fPlcDistCtrlDone
        else raise (s3.setFld rPlcDistCtrl fPlcDistCtrlErrCause 1) rPlcDistCtrl fPlcDistCtrlError)

end Sys2Proof.Machine
end

