-- ==== Sys2Proof/Machine/Round.lean ====
section
/-! DEFINITION. The end of a housekeeping round: the updates that the chapters make once in 250 µs. -/

namespace Sys2Proof.Machine

open Sys2Proof

/-! ### HBM temperature (R238) -/

/-- The refresh step at a temperature in °C, from the step in force. -/
def refreshStep (old t : Nat) : Nat :=
  if 95 ≤ t then 2
  else if old = 2 ∧ 92 ≤ t then 2
  else if 85 ≤ t then 1
  else if 1 ≤ old ∧ 82 ≤ t then 1
  else 0

/-- Hot at 105 °C; no longer below 102 °C. -/
def hotNext (old : Bool) (t : Nat) : Bool := decide (105 ≤ t) || (old && decide (102 ≤ t))

/-- A device's controllers read its temperature. -/
def hbmTempRead (s : State) (d t : Nat) : State :=
  let r := rHbmStkStat d
  let old := s.fld r fHbmStkStatRefreshStep
  let new := refreshStep old t
  let wasHot : Bool := s.fld r fHbmStkStatHot = 1
  let hot := hotNext wasHot t
  let s1 := ((s.setFld r fHbmStkStatTemp (Nat.min t 255)).setFld r fHbmStkStatRefreshStep new).setFld r fHbmStkStatHot (b2n hot)
  let s2 := if old < new then raise s1 (rHbmStkEvent d) fHbmStkEventStepUp else s1
  if hot && !wasHot then raise s2 (rHbmStkEvent d) fHbmStkEventHot else s2

/-- The HBM tier's round: temperatures of the trained devices; uncorrectable codewords count afresh (R243), and a round
has passed since each calibration (R240). -/
def hbmRound (s : State) (temps : List Nat) : State :=
  if ¬ s.hbmLive then s
  else
    let s1 := foldS ((List.range 6).filter (fun d => s.fld (rHbmStkStat d) fHbmStkStatTrain = 2)) s (fun t d =>
      match temps[d]? with
      | some x => hbmTempRead t d x
      | none => t)
    foldS ((List.range 192).filter (fun c => s.stepDone 4 && s.chanSt c = 0)) s1 (fun t c =>
      let x := t.chan c
      t.setChan c { x with
        ueRound := 0
        calRounds := smUpd (smUpd x.calRounds 0 0 (· + 1)) 1 0 (· + 1) })

/-! ### Telemetry (R447, R465, R366) -/

/-- The means of the round reach PWR_TEL and PWR_TILE. -/
def telemetry (s : State) (tel : RoundTel) : State :=
  let s1 := foldS (List.range 8) s (fun t k => t.setFld (rPwrTel k) fPwrTelValue (tel.tel.getD k 0))
  foldS (tel.tiles.filter (fun e => e.1 < 384)) s1 (fun t e => t.setFld (rPwrTile e.1) fPwrTileCurrent e.2)

/-- Highest estimate of the model in 1/16 °C, as a signed 32-bit word. -/
def State.hottestWord (s : State) : Nat :=
  if s.pwr.modelOn then
    let m := (List.range 384).foldl (fun a n => if a < s.nodeEst n then s.nodeEst n else a) (s.nodeEst 0)
    (BitVec.ofInt 32 (sext (temp16 m) 16)).toNat
  else 0

/-- The telemetry words of the sideband at the end of a round (R366). -/
def i3cSample (s : State) : State :=
  let h := s.stackHealth.toNat
  { s with pci := { s.pci with i3cWords :=
    [(0x04, h % 2 ^ 32), (0x08, h / 2 ^ 32), (0x0C, s.fld (rPwrTel 0) fPwrTelValue), (0x10, s.hottestWord),
      (0x14, s.dbg.errq.length + 2 ^ 8 * s.fld rErrStat fErrStatDropped + 2 ^ 16 * s.dbg.errSeq.toNat),
      (0x18, s.pwr.state + 8 * s.freeze + 32 * b2n (decide (s.fld rThmTrip fThmTripCause ≠ 0))),
      (0x1C, s.bup.variant + 4 * s.fld rBupGrade fBupGradeDegraded + 8 * b2n s.pci.owner.isSome + 16 * s.pci.owner.getD 0)] } }

/-! ### Counters of a round -/

/-- Slices count their misses afresh (R206). -/
def missRound (s : State) : State :=
  let fresh := s.cel.slices.map (fun e => (e.1, { e.2 with misses := [], missPart := [], thrashed := [] }))
  { s with cel := { s.cel with slices := fresh.filter (fun e => e.2 ≠ Slice.initial e.1) } }

/-- Ports count tag failures afresh (R391), links of cells their parity errors (R84). -/
def failRound (s : State) : State :=
  let s1 := foldS (List.range 8) s (fun t p =>
    if (t.port p).tagFailsRound = 0 then t else t.updPort p (fun x => { x with tagFailsRound := 0 }))
  { s1 with bup := { s1.bup with parity := [] } }

/-- The noise source seeds the random bit generator again, unless it has failed (R411). -/
def reseed (s : State) : State :=
  if s.sec.rngFail then s else { s with sec := { s.sec with drbg := s.sec.drbg + 1 } }

/-- A round counts towards the next in-service test; tests pause in S1 to S3 and in a freeze (R530). -/
def testRound (s : State) : State :=
  if s.live ∧ s.stepDone 10 ∧ (s.bup.blend.bind Blend.test).isSome then
    { s with bup := { s.bup with tstRounds := s.bup.tstRounds + 1 } }
  else s

/-! ### The round -/

/-- What the round does while the stack is on. -/
def roundOn (s : State) (tel : RoundTel) : State :=
  let s1 := hbmRound (telemetry (reseed s) tel) tel.hbmTemp
  let s2 := if s1.live then missRound (placementRound s1) else s1
  let s3 := withDuty s2 powerRound
  let s4 := if s3.freeze = 2 then s3 else healthRound s3
  testRound (failRound s4)

/-- The round ends; the thermal model's engine goes on through a shutdown and a supply fault. -/
def roundEnd (s : State) (tel : RoundTel) : State :=
  let s1 := if s.on then roundOn s tel else s
  let s2 := if s1.modelRuns then thermalRound s1 tel.nodeMw else s1
  if s2.pci.pwrgood ∧ ¬ s2.pci.resetLow ∧ ¬ s2.pci.supplyFault then alertRound (i3cSample s2) else s2

/-- HOUSEKEEPING_ROUND. -/
def execHousekeepingRound (tel : RoundTel) (s : State) : Host.Outcome State Fault Refusal := .next (roundEnd s tel)

end Sys2Proof.Machine
end

