-- ==== Sys2Proof/Machine/RegView.lean ====
section
/-! DEFINITION. Register reads: what a register of the window shows, and the parts of an access (R16 to R19, R353,
R356). -/

namespace Sys2Proof.Machine

open Sys2Proof

/-! ### The parts of an access (R356) -/

/-- The bits of the fields that satisfy a test. -/
def RegRow.bits (r : RegRow) (t : FieldRow → Bool) : Word := r.fields.foldl (fun m x => if t x then m ||| x.f.mask else m) 0

/-- A part of an access: a register, its instance, the bits accessed, and how far its bits lie above those of the access. -/
structure RegPart where
  row : RegRow
  k : Nat
  en : Word
  up : Nat
  down : Nat
  deriving DecidableEq, Repr

/-- A 32-bit BAR0 access is aligned to 4 bytes, a 64-bit one to 8. -/
def accessOk (off size : Nat) : Bool := (size = 4 && off % 4 = 0) || (size = 8 && off % 8 = 0)

/-- The part that one 32-bit word of an access reaches: `w` is 0 or 1. -/
def wordPart (off w : Nat) : Option RegPart :=
  match regAt (off + 4 * w) with
  | none => none
  | some (r, k) =>
    let sh := 8 * (off + 4 * w - r.addr k)
    some ⟨r, k, BitVec.ofNat 64 ((2 ^ 32 - 1) * 2 ^ sh), sh, 32 * w⟩

/-- The registers that an access reaches; both halves of a 64-bit register are one part. -/
def accessParts (off size : Nat) : List RegPart :=
  if size = 4 then (wordPart off 0).toList
  else
    match wordPart off 0, wordPart off 1 with
    | some a, some b => if a.row.base = b.row.base ∧ a.k = b.k then [⟨a.row, a.k, BitVec.allOnes 64, 0, 0⟩] else [a, b]
    | some a, none => [a]
    | none, some b => [b]
    | none, none => []

/-- A value of the access as the register's bits. -/
def RegPart.place (p : RegPart) (v : Word) : Word := ((v >>> p.down) <<< p.up) &&& p.en

/-- The register's bits as they stand in the access. -/
def RegPart.lift (p : RegPart) (v : Word) : Word := ((v &&& p.en) >>> p.up) <<< p.down

/-! ### What a register shows -/

/-- Set fields of a word. -/
def putAll (v : Word) (l : List (Fld × Nat)) : Word := l.foldl (fun w e => e.1.put w e.2) v

/-- Role codes of a bay's cells as the accepted ROLE section gives them (R60). -/
def State.bayRoles (s : State) (b : Nat) : Nat :=
  (List.range 24).foldl (fun a i => a + nbits s.bup.roles.toNat (2 * cellOf b i) 2 * 4 ^ i) 0

/-- State codes of a bay's cells. -/
def State.bayCells (s : State) (b : Nat) : Nat := (List.range 24).foldl (fun a i => a + s.cellSt (cellOf b i) * 4 ^ i) 0

/-- Skip sites and removed rows of a bay (R80, R81). -/
def State.bayRows (s : State) (b : Nat) : Word :=
  (List.range 4).foldl (fun w k =>
    let r := 4 * (b / 4) + k
    let gone := s.bup.removed.contains r
    (fCmpBayRowsRemoved k).put ((fCmpBayRowsSkipSite k).put w (if gone then 24 else s.skipOf r)) (b2n gone)) 0

/-- What CEL_SLICE_STAT_n shows. -/
def State.sliceStat (s : State) (n : Nat) : List (Fld × Nat) :=
  let x := s.slice n
  [(fCelSliceStatState, x.state), (fCelSliceStatSubst, x.subst), (fCelSliceStatPinned, s.pinnedIn n (List.range 16)),
    (fCelSliceStatMrBusy, (x.fills.filter (fun e => e.privileged)).length),
    (fCelSliceStatFillBusy, (x.fills.filter (fun e => !e.privileged)).length), (fCelSliceStatWaitBusy, x.waits.length)]

/-- What SEC_PART_p shows. -/
def State.secShow (s : State) (p : Nat) : List (Fld × Nat) :=
  let q := s.secPart p
  [(fSecPartState, s.secState p), (fSecPartSealable, b2n ((s.secuOf p).elim false Prod.fst)),
    (fSecPartWriteGen, if s.sealed p then q.writeGen else 0), (fSecPartOldGen, q.oldGen),
    (fSecPartDecant, b2n q.decant.isSome), (fSecPartOldBlocks, s.oldBlocks p)]

/-- What RAL_PORT_STAT_n shows beside the peer. -/
def State.portShow (s : State) (n : Nat) : List (Fld × Nat) :=
  let p := s.port n
  [(fRalPortStatState, p.state), (fRalPortStatWidth, if p.framing || p.state = 7 then p.width else 0),
    (fRalPortStatLanes, s.usable n), (fRalPortStatEpoch, p.txEpoch), (fRalPortStatTxAsleep, b2n p.txSleep),
    (fRalPortStatRxAsleep, b2n p.rxSleep), (fRalPortStatRole, s.portRole n)]

/-- What CMP_BAY_LOAD's and the other computed registers of the placement engine show (R264, R269). -/
def State.bayLoad (s : State) (b : Nat) : List (Fld × Nat) :=
  let ps := s.piecesWith (fun _ x => x.onBay b)
  [(fPlcBayLoadQKib, ps.foldl (fun a x => a + x.kib) 0), (fPlcBayLoadPieces, Nat.min ps.length 255)]

/-- The fields that the stack computes, of the registers that have some; `port` is the port of the read. -/
def State.computed (s : State) (r : RegRow) (k port : Nat) : List (Fld × Nat) :=
  if r.base = rErrStat then [(fErrStatPending, s.dbg.errq.length)]
  else if r.base = rErrRec 0 then [(fErrRecBytes, ((s.dbg.errq.headD 0).extractLsb' (64 * k) 64).toNat)]
  else if r.base = rErrSeq then [(fErrSeqNext, s.dbg.errSeq.toNat)]
  else if r.base = rPciOwner then
    [(fPciOwnerOwner, s.pci.owner.getD 0), (fPciOwnerElected, b2n s.pci.owner.isSome), (fPciOwnerThisPort, port)]
  else if r.base = rPlcHealth then [(fPlcHealthWord, s.stackHealth.toNat)]
  else if r.base = rPlcDistGen then [(fPlcDistGenGen, s.plc.gen.toNat)]
  else if r.base = rCmpBayHealth 0 then [(fCmpBayHealthWord, (s.bayHealth k).toNat)]
  else if r.base = rCmpBayRole 0 then [(fCmpBayRoleRole, s.bayRoles k)]
  else if r.base = rCmpBayCells 0 then [(fCmpBayCellsState, s.bayCells k), (fCmpBayCellsValid, b2n (s.stepDone 6))]
  else if r.base = rCmpBayRows 0 then [(⟨0, 32⟩, (s.bayRows k).toNat)]
  else if r.base = rCmpBayDuty 0 then [(fCmpBayDutyDuty, s.duty k), (fCmpBayDutyTileCap, s.bayCap k)]
  else if r.base = rCmpTaskStat 0 then [(fCmpTaskStatPending, (s.context k).queue.length)]
  else if r.base = rCmpCtxCtrl then
    [(fCmpCtxCtrlState, s.ctxState (64 * s.fld rCmpCtxCtrl fCmpCtxCtrlPartition + s.fld rCmpCtxCtrl fCmpCtxCtrlContext))]
  else if r.base = rCmpOpqStat 0 0 then [(fCmpOpqStatDepth, (s.opq k).length)]
  else if r.base = rCelSliceStat 0 then s.sliceStat k
  else if r.base = rPlcWorkCfg 0 then
    [(fPlcWorkCfgPoolBad, b2n (decide (s.plcFld (rPlcWorkCfg k) fPlcWorkCfgPoolRegions ≠ 0) && decide (s.poolSlots k = [])))]
  else if r.base = rPlcCnt 0 then
    [(fPlcCntRacked, (s.rackedSet (some k)).length),
      (fPlcCntReplicas, (s.plc.replicas.filter (fun x => x.part = k && x.valid)).length)]
  else if r.base = rPlcBayLoad 0 then s.bayLoad k
  else if r.base = rXltStat then
    [(fXltStatPrOut, Nat.min s.xlt.prs.length 1024), (fXltStatWaiters, (s.xlt.prs.flatMap PageReq.waiters).length),
      (fXltStatSeq, s.xlt.seq.toNat)]
  else if r.base = rXltCmdStat 0 then [(fXltCmdStatPending, (s.cmdq k).queue.length)]
  else if r.base = rRalPortStat 0 then s.portShow k
  else if r.base = rRalLane 0 0 then [(fRalLaneState, s.laneSt (k / 8) (k % 8))]
  else if r.base = rSecStat then
    [(fSecStatIdReady, b2n s.sec.idReady), (fSecStatRngFail, b2n s.sec.rngFail),
      (fSecStatSealed, (List.range 16).foldl (fun a p => a + b2n (s.sealed p) * 2 ^ p) 0)]
  else if r.base = rSecPart 0 then s.secShow k
  else if r.base = rPwrWakeStat then [(fPwrWakeStatQueued, s.pwr.wakes.length)]
  else if r.base = rPwrTile 0 then [(fPwrTileOpen, if k < 64 then 0 else s.openVias (k / 64) (k % 64))]
  else if r.base = rDbgBrk then [(fDbgBrkHalted, s.dbg.halted.length)]
  else if r.base = rBupNdCtrl then [(fBupNdCtrlCount, s.bup.nd.length), (fBupNdCtrlOverflow, b2n s.bup.ndOver)]
  else if r.base = rBupNdData then [(fBupNdDataEntry, (s.bup.nd.getD (s.fld rBupNdCtrl fBupNdCtrlIndex) 0).toNat)]
  else []

/-- The value of a register: its stored fields, the computed ones, and zero for fields that only take writes. -/
def State.show (s : State) (r : RegRow) (k port : Nat) : Word :=
  putAll (s.reg (r.addr k) &&& ~~~ r.bits (fun x => x.acc = .wo)) (s.computed r k port)

/-- Registers of the block read through BAR0: where it responds; in a core freeze the others too, as they stand (R501). -/
def State.readable (s : State) (b : Blk) : Bool :=
  s.responds b || (s.freeze = 1 && ({ s with dbg := { s.dbg with frozen := 0 } } : State).responds b)

/-- A read through the function returns the register; before the election the BUP registers are read through the physical
function of either port (R514). -/
def State.canRead (s : State) (f : Fn) (r : RegRow) (k : Nat) : Bool :=
  s.readable (blockOf r.base) &&
    (s.allows f r k || (decide (r.reach = .bup) && decide (s.pci.owner = none) && decide (f.vf = 0)))

/-- What a read of a register returns through a function. -/
def State.readBy (s : State) (f : Fn) (off : Nat) : Word :=
  match regAt off with
  | none => 0
  | some (r, k) => if s.canRead f r k then s.show r k f.port else 0

/-- A read of PWR_WAKE_STAT clears max_wait, but keeps an event of the same cycle (R19). -/
def rcClear (s : State) (event : Option Nat) : State :=
  s.setFld rPwrWakeStat fPwrWakeStatMaxWait (Nat.min (event.getD 0) 65535)

/-- RC_FIELD_READ: the read of PWR_WAKE_STAT, the register with an RC field. Where the function does not reach it, the
read returns zero and clears nothing. -/
def execRcFieldRead (f : Fn) (event : Option Nat) (s : State) : Host.Outcome State Fault Refusal :=
  .next (
    let can : Bool := match regAt rPwrWakeStat with | some (r, k) => s.canRead f r k | none => false
    let s1 := s.emit (.regData f (s.readBy f rPwrWakeStat))
    if can then rcClear s1 event
    else match event with
      | some n => if s.on then s1.setFld rPwrWakeStat fPwrWakeStatMaxWait
          (Nat.min (Nat.max (s1.fld rPwrWakeStat fPwrWakeStatMaxWait) n) 65535) else s1
      | none => s1)

end Sys2Proof.Machine
end

