-- ==== Sys2Proof/Machine/RegWrite.lean ====
section
/-! DEFINITION. Register writes (R19 to R21, R343 to R346, R356): the access codes, the actions that the registers
describe, configuration space (R348, R349, R362), and the test access port (R508). -/

namespace Sys2Proof.Machine

open Sys2Proof

/-! ### The access codes -/

/-- The sticky overlap field of a register. -/
def RegRow.overBit (r : RegRow) : Word := match r.overlap with | some i => BitVec.ofNat 64 (2 ^ i) | none => 0

/-- The W1C status fields other than overlap. -/
def RegRow.status (r : RegRow) : Word := r.bits (fun x => x.acc = .w1c) &&& ~~~ r.overBit

/-- The fields that a write sets. -/
def RegRow.writable (r : RegRow) : Word := r.bits (fun x => x.acc = .rw || x.acc = .rl)

/-- The fields of a register whose writes are ignored as things stand: RL fields of a sealed partition (R433), and those
that a description locks. -/
def State.lockedBits (s : State) (r : RegRow) (k : Nat) : Word :=
  let rl := r.bits (fun x => x.acc = .rl)
  let all := r.writable
  if r.base = rPlcWorkCfg 0 ∨ r.base = rPlcPoolBase 0 then (if s.sealed k then rl else 0)
  else if r.base = rBldSrc ∨ r.base = rBldLen then
    (if s.fld rBldCtrl fBldCtrlBusy = 1 ∨ s.bup.loadRunning then all else 0)
  else if r.base = rBldKeydig 0 then (if s.bup.loadedOnce then all else 0)
  else if r.base = rSecImpSrc 0 then (if s.fld (rSecImpCtrl k) fSecImpCtrlBusy = 1 then all else 0)
  else if r.base = rRalEstate then (if s.fld rRalEstate fRalEstateSet = 1 then all else 0)
  else 0

/-- The register's word after a write of `v` to the bits `en` while hardware sets `hw` (R19, R20, R344). -/
def writtenWord (r : RegRow) (old en v hw locked : Word) : Word :=
  let rw := r.writable &&& en &&& ~~~ locked
  let clr := v &&& en &&& (r.status ||| r.overBit)
  let set := hw &&& r.status
  let lost := clr &&& set
  ((((old &&& ~~~ rw) ||| (v &&& rw)) &&& ~~~ clr) ||| set) ||| (if lost = 0 then 0 else r.overBit)

/-- The write signals a message (R345): with the enable at 1, a covered bit rises, a clear of one is lost, or the write
raises the enable over a covered bit that is 1. -/
def writeSignals (r : RegRow) (old new en v hw : Word) : Bool :=
  match r.ie with
  | none => false
  | some e =>
    let cov : Word := BitVec.ofNat 64 r.covered
    let set := hw &&& r.status &&& cov
    let lost := v &&& en &&& set
    nbit new.toNat e && (decide (set &&& ~~~ old ≠ 0) || decide (lost ≠ 0) || (!nbit old.toNat e && decide (new &&& cov ≠ 0)))

/-- A write to a locked RL field posts a record of source 6 (R19, R342). -/
def lockedRecord (s : State) (f : Fn) (r : RegRow) (k : Nat) (en : Word) : State :=
  if s.lockedBits r k &&& en &&& r.bits (fun x => x.acc = .rl) = 0 then s
  else postErr s 6 1 k (f.port + 2 ^ 8 * f.vf + 2 ^ 32 * r.addr k)

/-- Values that read back as their bound (R237, R259, R466, R478). -/
def bounded (s : State) (r : RegRow) (k : Nat) : State :=
  let off := r.addr k
  let cap := fun (g : Fld) (m : Nat) => if m < s.fld off g then s.setFld off g m else s
  if r.base = rHbmReg 0 then cap fHbmRegRate 1024
  else if r.base = rPlcWorkCfg 0 then cap fPlcWorkCfgPoolRegions 4096
  else if r.base = rPwrLimit then cap fPwrLimitLimit (s.fld off fPwrLimitVariantLimit)
  else if r.base = rThmLimit 0 then
    let d := if k = 1 then 0x5F0 else 0x640
    if sext d 16 < sext (s.fld off fThmLimitLimit) 16 then s.setFld off fThmLimitLimit d else s
  else s

/-- A write under the access codes alone. -/
def plainWrite (s : State) (f : Fn) (r : RegRow) (k : Nat) (en v hw : Word) : State :=
  let off := r.addr k
  let old := s.reg off
  let new := writtenWord r old en v hw (s.lockedBits r k)
  let s1 := bounded (lockedRecord (s.setReg off new) f r k en) r k
  if writeSignals r old new en v hw then signal s1 r k else s1

/-! ### The actions -/

/-- What a step begins with when a plain write of BUP_STEP starts it: fuses, diodes and findings are free values. -/
def stepStart (f : Fn) (k : Nat) (s : State) : State :=
  let bad := Config.findings s.free
  let t := s.tick
  if k = 1 then
    vintageStart ((List.range vintageWords).map (fun i => (Config.fuse i, Config.fuse i, Config.fuse i))) Config.package
      ((List.range 96).map (fun m => Config.diode (96 * s.free + m))) t
  else if k = 2 then powerStart2 s
  else if k = 3 then verticalStart bad t
  else if k = 4 then trainingStart bad t
  else if k = 5 then testStart bad t
  else if k = 6 then cellsStart bad t
  else if k = 8 then loadStart f s
  else if k = 9 then securityStart s
  else if k = 10 then enableStart s
  else s

/-- CMP_CTX_CTRL with go, by its op. -/
def ctxWrite (s : State) (f : Fn) : State :=
  let p := s.fld rCmpCtxCtrl fCmpCtxCtrlPartition
  let c := s.fld rCmpCtxCtrl fCmpCtxCtrlContext
  let op := s.fld rCmpCtxCtrl fCmpCtxCtrlOp
  if op = 1 then suspendGo s f p c
  else if op = 2 then resumeGo s f p c
  else if op = 3 then abortGo s f p c
  else ctxGo s f p c 0 (fun s _ => s)

/-- The actions of RAL_PORT_CTRL_n whose bits are written 1, in the order of the bits. -/
def portWrite (s : State) (n : Nat) (go : Fld → Bool) : State :=
  let s1 := if go fRalPortCtrlRetrain then retrainGo s n else s
  let s2 := if go fRalPortCtrlProceed then proceedGo s1 n else s1
  let s3 := if go fRalPortCtrlLoopGo then loopApply s2 n (s.fld (rRalPortCtrl n) fRalPortCtrlLoop) else s2
  if go fRalPortCtrlRekey then rekeyPort s3 n else s3

/-- The action that a register's WO and W1S fields trigger once its other fields hold what was written; `go` tells which
of them were written 1, and `full` is the value written, with the bits outside the access as stored. -/
def regAction (s : State) (f : Fn) (r : RegRow) (k : Nat) (go : Fld → Bool) (full : Word) : State :=
  let off := r.addr k
  if r.base = rBupStep then
    (if go fBupStepGo then stepGo s (s.fld off fBupStepStep) (s.fld off fBupStepQuick) (stepStart f (s.fld off fBupStepStep)) else s)
  else if r.base = rBupCreset then (if go fBupCresetGo then cresetGo s else s)
  else if r.base = rPwrStateCtrl then (if go fPwrStateCtrlGo then pwrGo s (s.fld off fPwrStateCtrlTarget) else s)
  else if r.base = rDbgLevel then (if go fDbgLevelGo then levelGo s (s.fld off fDbgLevelTarget) else s)
  else if r.base = rDbgFreeze then
    let s1 := if go fDbgFreezeReq then freezeReg s else s
    (if go fDbgFreezeThaw then thawGo s1 else s1)
  else if r.base = rDbgBrk then (if go fDbgBrkResume then brkResume s else s)
  else if r.base = rDbgTraceMark then traceMark s (full.toNat % 2 ^ 32)
  else if r.base = rDbgRo then
    (if go fDbgRoGo then
      readOutGo s (s.fld off fDbgRoSpace) (s.fld off fDbgRoAddr) (Config.symErrs s.free) else s)
  else if r.base = rErrPop then (if go fErrPopPop then errPop s else s)
  else if r.base = rErrScrubCtrl then
    (if go fErrScrubCtrlGo then scrubGo s (s.fld off fErrScrubCtrlTarget) (s.fld off fErrScrubCtrlUnit) else s)
  else if r.base = rPlcDistCtrl then (if go fPlcDistCtrlFetch then distGo s f else s)
  else if r.base = rPlcQryCtrl then (if go fPlcQryCtrlGo then plcLookup s (s.fld off fPlcQryCtrlRegion) else s)
  else if r.base = rXltCmdDb 0 then cmdDoor (s.setFld off fXltCmdDbDesc (fXltCmdDbDesc.get full)) k full
  else if r.base = rCelRangeCtrl 0 then (if go fCelRangeCtrlGo then rangeGo s k (s.fld off fCelRangeCtrlOp) else s)
  else if r.base = rHbmRegCtrl then (if go fHbmRegCtrlApply then regApply s else s)
  else if r.base = rCmpBayRetire 0 then
    (if go fCmpBayRetireGo then cellRetireGo s k (s.fld off fCmpBayRetireCell) else s)
  else if r.base = rCmpCtxCtrl then (if go fCmpCtxCtrlGo then ctxWrite s f else s)
  else if r.base = rCmpTaskDb 0 then taskDoor (s.setFld off fCmpTaskDbDesc (fCmpTaskDbDesc.get full)) k full
  else if r.base = rRalPortCtrl 0 then portWrite s k go
  else if r.base = rRalLane 0 0 then (if go fRalLaneSlip then slipGo s (k / 8) (k % 8) else s)
  else if r.base = rRalEnum then
    let s1 := if go fRalEnumGo then enumGo s else s
    (if go fRalEnumAdopt then adoptGo s1 else s1)
  else if r.base = rRalEstate then (if go fRalEstateSet then estateGo s else s)
  else if r.base = rSecPartCtrl 0 then (if go fSecPartCtrlGo then partCtrlGo s f k (s.fld off fSecPartCtrlOp) else s)
  else if r.base = rSecImpCtrl 0 then (if go fSecImpCtrlGo then importGo s f k else s)
  else if r.base = rBldCtrl then (if go fBldCtrlStage then stageGo s f else s)
  else s

/-- A write that reaches its register. The registers whose write is judged as a whole come first. -/
def regWrite (s : State) (f : Fn) (r : RegRow) (k : Nat) (en v hw : Word) : State :=
  let full := (s.reg (r.addr k) &&& ~~~ en) ||| (v &&& en)
  if r.base = rXltCtxBind 0 then (if fXltCtxBindPasid.mask &&& en = 0 then s else bindWrite s k full)
  else if r.base = rXltFlogBase 0 then flogBaseWrite s f k full
  else if r.base = rDbgTraceCfg then traceWrite s full
  else if r.base = rDbgCnt 0 then (if fDbgCntEvent.mask &&& en = 0 then s else cntSelect s k full)
  else regAction (plainWrite s f r k en v hw) f r k (fun g => g.get (v &&& en) = 1) full

/-- A part of a BAR0 write; where the write does not reach the register, what hardware sets in that cycle is set all the
same. -/
def regPartWrite (f : Fn) (value hwSet : Word) (s : State) (p : RegPart) : State :=
  let off := p.row.addr p.k
  if s.canWrite f off then regWrite (regWake s off) f p.row p.k p.en (p.place value) (p.place hwSet)
  else if s.on then raiseMask s off (p.place hwSet &&& p.row.status)
  else s

/-! ### Configuration space (R282, R348, R349, R361, R362) -/

/-- The port's link is up and the function exists: a physical function, or an enabled virtual one. -/
def State.cfgReached (s : State) (f : Fn) : Bool :=
  s.on && decide (s.freeze ≠ 2) && decide (f.port < 2) && s.pci.up.getLsbD f.port &&
    decide (f.vf ≤ s.fld (rPciLink f.port) fPciLinkNumVfs)

/-- Pending vectors that are no longer masked are signalled, with MSI-X enabled. -/
def msixRelease (s : State) (f : Fn) : State :=
  let c := s.fn f
  if !c.msix then s
  else
    let now := ones (c.pend &&& ~~~ c.mask).toNat 32
    foldS now (s.setFn f { c with pend := c.pend &&& c.mask }) (fun t v => t.emit (.msix f v))

/-- A write to a configuration-space register of the function. -/
def cfgWrite (s : State) (f : Fn) (r : CfgReg) (value : Word) : State :=
  let c := s.fn f
  let b : Bool := value.getLsbD 0
  let n := value.toNat
  match r with
  | .msixEnable => msixRelease (s.setFn f { c with msix := b }) f
  | .msixMask v =>
    if (if f.vf = 0 then 32 else 4) ≤ v then s
    else
      let bit : BitVec 32 := BitVec.ofNat 32 (2 ^ v)
      msixRelease (s.setFn f { c with mask := if b then c.mask ||| bit else c.mask &&& ~~~ bit }) f
  | .ats => s.setFn f { c with ats := b }
  | .pri => s.setFn f { c with pri := b }
  | .pasid => s.setFn f { c with pasid := b }
  | .priAlloc => s.setFn f { c with alloc := Nat.min n 1024 }
  | .numVfs =>
    if f.vf = 0 ∧ n ≤ 16 then
      let s1 := s.setFld (rPciLink f.port) fPciLinkNumVfs n
      { s1 with fns := smKeep s1.fns (fun k => decide (k / 32 ≠ f.port) || decide (k % 32 ≤ n)) }
    else s
  | .bar2Log2 => if f.vf = 0 ∧ 43 ≤ n ∧ n ≤ 57 then s.setFn f { c with bar2Log2 := n } else s
  | .bar2Base => s.setFn f { c with bar2Base := some n }

/-- REGISTER_WRITE: a BAR0 write of 32 or 64 bits, or a write to configuration space. -/
def execRegisterWrite (f : Fn) (tgt : RegTarget) (value hwSet : Word) (s : State) : Host.Outcome State Fault Refusal :=
  .next (
    match tgt with
    | .cfg r => if s.cfgReached f then cfgWrite s f r value else s
    | .bar0 off size => if accessOk off size then foldS (accessParts off size) s (regPartWrite f value hwSet) else s)

/-! ### The test access port (R508) -/

/-- The test access port has its domain's supply. -/
def State.tapOn (s : State) : Bool := s.pci.pwrgood && !s.pci.resetLow && !s.pci.supplyFault

/-- The test access port reaches the block: DBG in every state, another block wherever it responds. -/
def State.tapReaches (s : State) (b : Blk) : Bool := decide (b = .dbg) || s.readable b

/-- The function whose place the port's register accesses take: the owner port's physical function. -/
def State.tapFn (s : State) : Fn := s.ownerFn.getD ⟨0, 0⟩

/-- A register read of the port. -/
def State.tapRead (s : State) (off size : Nat) : Word :=
  (accessParts off size).foldl (fun w p =>
    if s.tapReaches (blockOf p.row.base) then w ||| p.lift (s.show p.row p.k s.tapFn.port) else w) 0

/-- A part of a register write of the port. -/
def tapPart (value : Word) (s : State) (p : RegPart) : State :=
  let b := blockOf p.row.base
  if b = .dbg ∨ s.responds b then regWrite (regWake s (p.row.addr p.k)) s.tapFn p.row p.k p.en (p.place value) 0 else s

/-- TAP_ACCESS. -/
def execTapAccess (op : TapOp) (s : State) : Host.Outcome State Fault Refusal :=
  .next (
    if !s.tapOn then s
    else
      match op with
      | .readOut space addr errs =>
        let (st, _, d) := s.roAnswer (space % 16) (addr % 2 ^ 34) errs
        s.tick.emit (.tap 0 (d.getD 0) st)
      | .regRead off size =>
        if accessOk off size then
          let s1 := s.emit (.tap (s.tapRead off size) 0 0)
          let rc := (accessParts off size).any (fun p => p.row.base = rPwrWakeStat && s.responds .pwr &&
            decide (fPwrWakeStatMaxWait.mask &&& p.en ≠ 0))
          (if rc then rcClear s1 none else s1)
        else s
      | .regWrite off size value =>
        if accessOk off size then foldS (accessParts off size) s (tapPart value) else s)

end Sys2Proof.Machine
end

