-- ==== Sys2Proof/Machine/Sync.lean ====
section
/-! DEFINITION. Barrier instructions and EXIT (R138, R140 to R143). -/

namespace Sys2Proof.Machine

open Sys2Proof

/-- The counter is available to the thread (R140). -/
def State.barAvailable (s : State) (x : Thread) (scope ctr : Nat) : Bool :=
  if scope = 0 then ctr < 16 else (match s.part x.part with | some r => r.counters.getLsbD ctr | none => false)

/-- A barrier operation on an available counter, else fault 7; ARRIVE and WAIT need a target (`needs`). -/
def barrier (i : Instr) (scope ctr : Nat) (needs : Bool) (s : State) (k : State → Thread → Nat → State) : State :=
  issue i s (fun u x =>
    let key := barKey (bayOfSlot (slotOf i)) scope ctr
    if ¬ u.barAvailable x scope ctr ∨ (needs ∧ (u.bar key).target = 0) then instrFault i u 7 0 0 else k u x key)

/-- BAR INIT: sets the target of an idle counter (R141, R143). -/
def execBarrierInit (t scope d a ctr : Nat) (s : State) : Host.Outcome State Fault Refusal :=
  .next (barrier (.barrierInit t scope d a ctr) scope ctr false s (fun u x key =>
    let b := u.bar key
    let n := (x.reg a).toNat
    if b.count = 0 ∧ ¬ u.barWaited key ∧ ¬ b.awaiting ∧ 1 ≤ n ∧ n ≤ 131071 then
      retireReg (.barrierInit t scope d a ctr) (u.setBar key { b with target := n, count := 0 }) d 0
    else retireReg (.barrierInit t scope d a ctr) u d 1))

/-- BAR ARRIVE: a release; on a counter that awaits its trellis release the thread waits (R143). -/
def execBarrierArrive (t scope d ctr : Nat) (s : State) : Host.Outcome State Fault Refusal :=
  .next (barrier (.barrierArrive t scope d ctr) scope ctr true s (fun u x key =>
    release (.barrierArrive t scope d ctr) u x (fun v =>
      let v1 := charge v t 1
      if (v1.bar key).awaiting then updThread v1 t (fun y => { y with st := .waiting (.barHeld key d) })
      else barArrive barReleaseAll v1 t d key)))

/-- BAR WAIT: an acquire on return. -/
def execBarrierWait (t scope a ctr : Nat) (s : State) : Host.Outcome State Fault Refusal :=
  .next (barrier (.barrierWait t scope a ctr) scope ctr true s (fun u x key =>
    let u1 := charge u t 1
    let old := (x.reg a).getLsbD 0
    if (u1.bar key).phase ≠ old then acquireDone u1 t id
    else updThread u1 t (fun y => { y with st := .waiting (.bar key old) })))

/-- BAR QUERY: target, count and phase. -/
def execBarrierQuery (t scope d ctr : Nat) (s : State) : Host.Outcome State Fault Refusal :=
  .next (barrier (.barrierQuery t scope d ctr) scope ctr false s (fun u _ key =>
    let b := u.bar key
    retireReg (.barrierQuery t scope d ctr) u d
      (BitVec.ofNat 64 (b.target + 2 ^ 17 * b.count + 2 ^ 34 * b2n b.phase))))

/-- EXIT: a release, then the thread ends; the last thread ends its task (R126). -/
def execExit (t : Nat) (s : State) : Host.Outcome State Fault Refusal :=
  .next (issue (.exit t) s (fun u x => release (.exit t) u x (fun v => threadEnd (charge v t 1) t none)))

end Sys2Proof.Machine
end

