-- ==== Sys2Proof/Machine/Dispatch.lean ====
section
/-! DEFINITION. The dispatch of a command to its meaning, one arm per row of the table. -/

namespace Sys2Proof.Machine

open Sys2Proof

/-- The effect of a command on everything but the queue of waiting commands. -/
def exec (i : Instr) (s : State) : Host.Outcome State Fault Refusal :=
  match i with
  | .powerUp => Sys2Proof.Machine.execPowerUp s
  | .powerOff => Sys2Proof.Machine.execPowerOff s
  | .sysReset low => Sys2Proof.Machine.execSysReset low s
  | .supplyFault => Sys2Proof.Machine.execSupplyFault s
  | .ownerElect => Sys2Proof.Machine.execOwnerElect s
  | .pcieLinkUp port speed width flit => Sys2Proof.Machine.execPcieLinkUp port speed width flit s
  | .pcieLinkDown port => Sys2Proof.Machine.execPcieLinkDown port s
  | .pciePortReset port perst => Sys2Proof.Machine.execPciePortReset port perst s
  | .flr f => Sys2Proof.Machine.execFlr f s
  | .priReset f => Sys2Proof.Machine.execPriReset f s
  | .bar0BadAccess f isRead off size => Sys2Proof.Machine.execBar0BadAccess f isRead off size s
  | .registerWrite f tgt value hwSet => Sys2Proof.Machine.execRegisterWrite f tgt value hwSet s
  | .bar2Read f off len tag => Sys2Proof.Machine.execBar2Read f off len tag s
  | .bar2Write f off bytes ep => Sys2Proof.Machine.execBar2Write f off bytes ep s
  | .bar2Atomic f tag => Sys2Proof.Machine.execBar2Atomic f tag s
  | .ideKm f sess key => Sys2Proof.Machine.execIdeKm f sess key s
  | .ideInsecure port => Sys2Proof.Machine.execIdeInsecure port s
  | .doeOversize f len => Sys2Proof.Machine.execDoeOversize f len s
  | .i3cEntdaa addr => Sys2Proof.Machine.execI3cEntdaa addr s
  | .i3cRstdaa => Sys2Proof.Machine.execI3cRstdaa s
  | .i3cGetpid => Sys2Proof.Machine.execI3cGetpid s
  | .i3cGetbcr => Sys2Proof.Machine.execI3cGetbcr s
  | .i3cGetdcr => Sys2Proof.Machine.execI3cGetdcr s
  | .i3cGetstatus => Sys2Proof.Machine.execI3cGetstatus s
  | .i3cPrivateWrite bytes => Sys2Proof.Machine.execI3cPrivateWrite bytes s
  | .i3cPrivateRead words => Sys2Proof.Machine.execI3cPrivateRead words s
  | .getVersion f => Sys2Proof.Machine.execGetVersion f s
  | .getCapabilities f => Sys2Proof.Machine.execGetCapabilities f s
  | .negotiateAlgorithms f => Sys2Proof.Machine.execNegotiateAlgorithms f s
  | .challenge f slotId nonce => Sys2Proof.Machine.execChallenge f slotId nonce s
  | .getMeasurements f index sig nonce => Sys2Proof.Machine.execGetMeasurements f index sig nonce s
  | .keyExchange f slotId exchange => Sys2Proof.Machine.execKeyExchange f slotId exchange s
  | .finish f sess ok => Sys2Proof.Machine.execFinish f sess ok s
  | .heartbeat f sess => Sys2Proof.Machine.execHeartbeat f sess s
  | .keyUpdate f sess => Sys2Proof.Machine.execKeyUpdate f sess s
  | .endSession f sess => Sys2Proof.Machine.execEndSession f sess s
  | .respondIfReady f => Sys2Proof.Machine.execRespondIfReady f s
  | .spdmUnsupported f code => Sys2Proof.Machine.execSpdmUnsupported f code s
  | .seal f sess req => Sys2Proof.Machine.execSeal f sess req s
  | .sealComplete p => Sys2Proof.Machine.execSealComplete p s
  | .rotate f sess p => Sys2Proof.Machine.execRotate f sess p s
  | .erase f sess p => Sys2Proof.Machine.execErase f sess p s
  | .debugkey f sess p => Sys2Proof.Machine.execDebugkey f sess p s
  | .partCtrlRotate f p => Sys2Proof.Machine.execPartCtrlRotate f p s
  | .partCtrlErase f p => Sys2Proof.Machine.execPartCtrlErase f p s
  | .partCtrlBadOp f p op => Sys2Proof.Machine.execPartCtrlBadOp f p op s
  | .secDeferredGo => Sys2Proof.Machine.execSecDeferredGo s
  | .eraseOverwriteStep p => Sys2Proof.Machine.execEraseOverwriteStep p s
  | .importGo f p => Sys2Proof.Machine.execImportGo f p s
  | .importChunk p chunk => Sys2Proof.Machine.execImportChunk p chunk s
  | .decantStep p errs => Sys2Proof.Machine.execDecantStep p errs s
  | .rngHealthFail => Sys2Proof.Machine.execRngHealthFail s
  | .bupVintage f copies pkg diodes => Sys2Proof.Machine.execBupVintage f copies pkg diodes s
  | .bupClocksPower f => Sys2Proof.Machine.execBupClocksPower f s
  | .bupVertical f bad => Sys2Proof.Machine.execBupVertical f bad s
  | .bupTraining f bad => Sys2Proof.Machine.execBupTraining f bad s
  | .bupMemoryTest f quick bad => Sys2Proof.Machine.execBupMemoryTest f quick bad s
  | .bupCells f quick bad => Sys2Proof.Machine.execBupCells f quick bad s
  | .bupReconciliation f => Sys2Proof.Machine.execBupReconciliation f s
  | .bupBlendLoad f => Sys2Proof.Machine.execBupBlendLoad f s
  | .bupSecurity f => Sys2Proof.Machine.execBupSecurity f s
  | .bupEnable f => Sys2Proof.Machine.execBupEnable f s
  | .bupStepInvalid f step quick => Sys2Proof.Machine.execBupStepInvalid f step quick s
  | .bupStepEnd cause => Sys2Proof.Machine.execBupStepEnd cause s
  | .borsumRegionStart test region => Sys2Proof.Machine.execBorsumRegionStart test region s
  | .computeReset f => Sys2Proof.Machine.execComputeReset f s
  | .cresetDeferredStart => Sys2Proof.Machine.execCresetDeferredStart s
  | .computeResetDone => Sys2Proof.Machine.execComputeResetDone s
  | .inserviceTest => Sys2Proof.Machine.execInserviceTest s
  | .inserviceTestDone bad => Sys2Proof.Machine.execInserviceTestDone bad s
  | .blendStage f => Sys2Proof.Machine.execBlendStage f s
  | .blendStageDone img => Sys2Proof.Machine.execBlendStageDone img s
  | .blendLoadDone img sigOk => Sys2Proof.Machine.execBlendLoadDone img sigOk s
  | .verticalCrcMismatch iface bundle bumps => Sys2Proof.Machine.execVerticalCrcMismatch iface bundle bumps s
  | .verticalReplayEnd iface bundle => Sys2Proof.Machine.execVerticalReplayEnd iface bundle s
  | .powerViaOpen iface idx => Sys2Proof.Machine.execPowerViaOpen iface idx s
  | .distFetch f => Sys2Proof.Machine.execDistFetch f s
  | .distFetchDone ok => Sys2Proof.Machine.execDistFetchDone ok s
  | .cellLinkParityError row col link => Sys2Proof.Machine.execCellLinkParityError row col link s
  | .cellRetireRequest f bay cell hw => Sys2Proof.Machine.execCellRetireRequest f bay cell hw s
  | .illegalInstruction t w => Sys2Proof.Machine.execIllegalInstruction t w s
  | .add t d a b => Sys2Proof.Machine.execAdd t d a b s
  | .sub t d a b => Sys2Proof.Machine.execSub t d a b s
  | .and t d a b => Sys2Proof.Machine.execAnd t d a b s
  | .or t d a b => Sys2Proof.Machine.execOr t d a b s
  | .xor t d a b => Sys2Proof.Machine.execXor t d a b s
  | .andn t d a b => Sys2Proof.Machine.execAndn t d a b s
  | .shl t d a b => Sys2Proof.Machine.execShl t d a b s
  | .shr t d a b => Sys2Proof.Machine.execShr t d a b s
  | .sar t d a b => Sys2Proof.Machine.execSar t d a b s
  | .min t d a b => Sys2Proof.Machine.execMin t d a b s
  | .max t d a b => Sys2Proof.Machine.execMax t d a b s
  | .minu t d a b => Sys2Proof.Machine.execMinu t d a b s
  | .maxu t d a b => Sys2Proof.Machine.execMaxu t d a b s
  | .mul t d a b => Sys2Proof.Machine.execMul t d a b s
  | .mulhs t d a b => Sys2Proof.Machine.execMulhs t d a b s
  | .mulhu t d a b => Sys2Proof.Machine.execMulhu t d a b s
  | .divs t d a b => Sys2Proof.Machine.execDivs t d a b s
  | .divu t d a b => Sys2Proof.Machine.execDivu t d a b s
  | .rmds t d a b => Sys2Proof.Machine.execRmds t d a b s
  | .rmdu t d a b => Sys2Proof.Machine.execRmdu t d a b s
  | .clz t d a => Sys2Proof.Machine.execClz t d a s
  | .ctz t d a => Sys2Proof.Machine.execCtz t d a s
  | .popc t d a => Sys2Proof.Machine.execPopc t d a s
  | .sel t d a b => Sys2Proof.Machine.execSel t d a b s
  | .fadd t fmt d a b => Sys2Proof.Machine.execFadd t fmt d a b s
  | .fsub t fmt d a b => Sys2Proof.Machine.execFsub t fmt d a b s
  | .fmul t fmt d a b => Sys2Proof.Machine.execFmul t fmt d a b s
  | .fmac t fmt d a b => Sys2Proof.Machine.execFmac t fmt d a b s
  | .fmin t fmt d a b => Sys2Proof.Machine.execFmin t fmt d a b s
  | .fmax t fmt d a b => Sys2Proof.Machine.execFmax t fmt d a b s
  | .feq t fmt d a b => Sys2Proof.Machine.execFeq t fmt d a b s
  | .flt t fmt d a b => Sys2Proof.Machine.execFlt t fmt d a b s
  | .fle t fmt d a b => Sys2Proof.Machine.execFle t fmt d a b s
  | .fabs t fmt d a => Sys2Proof.Machine.execFabs t fmt d a s
  | .fneg t fmt d a => Sys2Proof.Machine.execFneg t fmt d a s
  | .frcp t fmt d a => Sys2Proof.Machine.execFrcp t fmt d a s
  | .frsq t fmt d a => Sys2Proof.Machine.execFrsq t fmt d a s
  | .fexp2 t fmt d a => Sys2Proof.Machine.execFexp2 t fmt d a s
  | .flog2 t fmt d a => Sys2Proof.Machine.execFlog2 t fmt d a s
  | .cvt t d a src target sat => Sys2Proof.Machine.execCvt t d a src target sat s
  | .cmp t cond d a b => Sys2Proof.Machine.execCmp t cond d a b s
  | .addk t d a imm => Sys2Proof.Machine.execAddk t d a imm s
  | .andk t d a imm => Sys2Proof.Machine.execAndk t d a imm s
  | .ork t d a imm => Sys2Proof.Machine.execOrk t d a imm s
  | .xork t d a imm => Sys2Proof.Machine.execXork t d a imm s
  | .cmpkLt t d a imm => Sys2Proof.Machine.execCmpkLt t d a imm s
  | .cmpkUlt t d a imm => Sys2Proof.Machine.execCmpkUlt t d a imm s
  | .shlk t d a imm => Sys2Proof.Machine.execShlk t d a imm s
  | .shrk t d a imm => Sys2Proof.Machine.execShrk t d a imm s
  | .sark t d a imm => Sys2Proof.Machine.execSark t d a imm s
  | .seti t d imm => Sys2Proof.Machine.execSeti t d imm s
  | .shin t d imm => Sys2Proof.Machine.execShin t d imm s
  | .pca t d imm => Sys2Proof.Machine.execPca t d imm s
  | .cbrEq t a b imm => Sys2Proof.Machine.execCbrEq t a b imm s
  | .cbrNe t a b imm => Sys2Proof.Machine.execCbrNe t a b imm s
  | .cbrLt t a b imm => Sys2Proof.Machine.execCbrLt t a b imm s
  | .cbrGe t a b imm => Sys2Proof.Machine.execCbrGe t a b imm s
  | .cbrUlt t a b imm => Sys2Proof.Machine.execCbrUlt t a b imm s
  | .cbrUge t a b imm => Sys2Proof.Machine.execCbrUge t a b imm s
  | .jmp t imm => Sys2Proof.Machine.execJmp t imm s
  | .call t imm => Sys2Proof.Machine.execCall t imm s
  | .jmpr t a imm => Sys2Proof.Machine.execJmpr t a imm s
  | .callr t a imm => Sys2Proof.Machine.execCallr t a imm s
  | .ldl t d imm => Sys2Proof.Machine.execLdl t d imm s
  | .ldu8 t d a hint imm => Sys2Proof.Machine.execLdu8 t d a hint imm s
  | .lds8 t d a hint imm => Sys2Proof.Machine.execLds8 t d a hint imm s
  | .ldu16 t d a hint imm => Sys2Proof.Machine.execLdu16 t d a hint imm s
  | .lds16 t d a hint imm => Sys2Proof.Machine.execLds16 t d a hint imm s
  | .ldu32 t d a hint imm => Sys2Proof.Machine.execLdu32 t d a hint imm s
  | .lds32 t d a hint imm => Sys2Proof.Machine.execLds32 t d a hint imm s
  | .ld64 t d a hint imm => Sys2Proof.Machine.execLd64 t d a hint imm s
  | .st8 t v a hint imm => Sys2Proof.Machine.execSt8 t v a hint imm s
  | .st16 t v a hint imm => Sys2Proof.Machine.execSt16 t v a hint imm s
  | .st32 t v a hint imm => Sys2Proof.Machine.execSt32 t v a hint imm s
  | .st64 t v a hint imm => Sys2Proof.Machine.execSt64 t v a hint imm s
  | .sacc t op d a b => Sys2Proof.Machine.execSacc t op d a b s
  | .pref t d a hint imm => Sys2Proof.Machine.execPref t d a hint imm s
  | .cinv t a imm => Sys2Proof.Machine.execCinv t a imm s
  | .fenceRelease t => Sys2Proof.Machine.execFenceRelease t s
  | .fenceAcquire t => Sys2Proof.Machine.execFenceAcquire t s
  | .fenceFull t => Sys2Proof.Machine.execFenceFull t s
  | .barrierInit t scope d a ctr => Sys2Proof.Machine.execBarrierInit t scope d a ctr s
  | .barrierArrive t scope d ctr => Sys2Proof.Machine.execBarrierArrive t scope d ctr s
  | .barrierWait t scope a ctr => Sys2Proof.Machine.execBarrierWait t scope a ctr s
  | .barrierQuery t scope d ctr => Sys2Proof.Machine.execBarrierQuery t scope d ctr s
  | .flagSet t d a b rel => Sys2Proof.Machine.execFlagSet t d a b rel s
  | .flagAdd t d a b rel => Sys2Proof.Machine.execFlagAdd t d a b rel s
  | .flagWait t d a b cond => Sys2Proof.Machine.execFlagWait t d a b cond s
  | .opcall t d a q => Sys2Proof.Machine.execOpcall t d a q s
  | .spawn t d a desc => Sys2Proof.Machine.execSpawn t d a desc s
  | .nop t => Sys2Proof.Machine.execNop t s
  | .exit t => Sys2Proof.Machine.execExit t s
  | .brk t => Sys2Proof.Machine.execBrk t s
  | .rds t d b => Sys2Proof.Machine.execRds t d b s
  | .threadMemoryReply t src => Sys2Proof.Machine.execThreadMemoryReply t src s
  | .flagWaitTimeout t => Sys2Proof.Machine.execFlagWaitTimeout t s
  | .flagWaitRetry t => Sys2Proof.Machine.execFlagWaitRetry t s
  | .taskDoorbell f m desc => Sys2Proof.Machine.execTaskDoorbell f m desc s
  | .taskDescReadDone m desc => Sys2Proof.Machine.execTaskDescReadDone m desc s
  | .taskStart p => Sys2Proof.Machine.execTaskStart p s
  | .ctxSuspend f p c => Sys2Proof.Machine.execCtxSuspend f p c s
  | .ctxSuspendDone m => Sys2Proof.Machine.execCtxSuspendDone m s
  | .ctxResume f p c => Sys2Proof.Machine.execCtxResume f p c s
  | .ctxResumeStart m => Sys2Proof.Machine.execCtxResumeStart m s
  | .ctxAbort f p c => Sys2Proof.Machine.execCtxAbort f p c s
  | .ctxNoOp f p c => Sys2Proof.Machine.execCtxNoOp f p c s
  | .pieceDispatch bay => Sys2Proof.Machine.execPieceDispatch bay s
  | .piecePlace bay q tile idx => Sys2Proof.Machine.execPiecePlace bay q tile idx s
  | .pieceEnd bay q tile idx host => Sys2Proof.Machine.execPieceEnd bay q tile idx host s
  | .sliceRead r errs => Sys2Proof.Machine.execSliceRead r errs s
  | .sliceWrite r data poison errs => Sys2Proof.Machine.execSliceWrite r data poison errs s
  | .slicePartialWrite r be data poison errs => Sys2Proof.Machine.execSlicePartialWrite r be data poison errs s
  | .sliceAccumulate r op mask data poison errs => Sys2Proof.Machine.execSliceAccumulate r op mask data poison errs s
  | .sliceFlagSet r v errs => Sys2Proof.Machine.execSliceFlagSet r v errs s
  | .sliceFlagAdd r v errs => Sys2Proof.Machine.execSliceFlagAdd r v errs s
  | .sliceFlagWait r cond v errs => Sys2Proof.Machine.execSliceFlagWait r cond v errs s
  | .sliceFlagCancel r => Sys2Proof.Machine.execSliceFlagCancel r s
  | .fillArrive addr => Sys2Proof.Machine.execFillArrive addr s
  | .mergeEntryExpire slice addr => Sys2Proof.Machine.execMergeEntryExpire slice addr s
  | .sideQueueResume slice => Sys2Proof.Machine.execSideQueueResume slice s
  | .victimWaitResume slice => Sys2Proof.Machine.execVictimWaitResume slice s
  | .rangePin f p => Sys2Proof.Machine.execRangePin f p s
  | .rangeUnpin f p => Sys2Proof.Machine.execRangeUnpin f p s
  | .rangeClean f p => Sys2Proof.Machine.execRangeClean f p s
  | .rangeFlush f p => Sys2Proof.Machine.execRangeFlush f p s
  | .rangeKill f p => Sys2Proof.Machine.execRangeKill f p s
  | .rangeBadOp f p op => Sys2Proof.Machine.execRangeBadOp f p op s
  | .rangeDone p => Sys2Proof.Machine.execRangeDone p s
  | .thrashDetect slice set => Sys2Proof.Machine.execThrashDetect slice set s
  | .sliceDrainDone slice => Sys2Proof.Machine.execSliceDrainDone slice s
  | .rackLine region line => Sys2Proof.Machine.execRackLine region line s
  | .hbmFill addr errs => Sys2Proof.Machine.execHbmFill addr errs s
  | .hbmWriteBack addr data poison errs => Sys2Proof.Machine.execHbmWriteBack addr data poison errs s
  | .hbmKill addr errs => Sys2Proof.Machine.execHbmKill addr errs s
  | .hbmSidecarUpdate addr => Sys2Proof.Machine.execHbmSidecarUpdate addr s
  | .hbmUncachedRead r errs => Sys2Proof.Machine.execHbmUncachedRead r errs s
  | .hbmUncachedWrite r u errs => Sys2Proof.Machine.execHbmUncachedWrite r u errs s
  | .hbmRefresh ch pc bank => Sys2Proof.Machine.execHbmRefresh ch pc bank s
  | .hbmRecalibrate ch pc => Sys2Proof.Machine.execHbmRecalibrate ch pc s
  | .hbmRecalDone ch pc ok => Sys2Proof.Machine.execHbmRecalDone ch pc ok s
  | .hbmParityError ch => Sys2Proof.Machine.execHbmParityError ch s
  | .hbmParityRetry ch ok => Sys2Proof.Machine.execHbmParityRetry ch ok s
  | .hbmUeRateFail ch => Sys2Proof.Machine.execHbmUeRateFail ch s
  | .hbmPowerDown ch pc => Sys2Proof.Machine.execHbmPowerDown ch pc s
  | .hbmRegApply f => Sys2Proof.Machine.execHbmRegApply f s
  | .housekeepingRound tel => Sys2Proof.Machine.execHousekeepingRound tel s
  | .pwrFloorHit => Sys2Proof.Machine.execPwrFloorHit s
  | .plcQuery f region => Sys2Proof.Machine.execPlcQuery f region s
  | .replCopyDone region => Sys2Proof.Machine.execReplCopyDone region s
  | .ctxBindWrite f m value => Sys2Proof.Machine.execCtxBindWrite f m value s
  | .atsCompletion f pasid va c => Sys2Proof.Machine.execAtsCompletion f pasid va c s
  | .atsCompletionTimeout f pasid va => Sys2Proof.Machine.execAtsCompletionTimeout f pasid va s
  | .pageRequestSend f => Sys2Proof.Machine.execPageRequestSend f s
  | .prgSuccess f group => Sys2Proof.Machine.execPrgSuccess f group s
  | .prgInvalidRequest f group => Sys2Proof.Machine.execPrgInvalidRequest f group s
  | .prgResponseFailure f group => Sys2Proof.Machine.execPrgResponseFailure f group s
  | .priTimeout f group => Sys2Proof.Machine.execPriTimeout f group s
  | .atsInvalidate f pasid base size itag => Sys2Proof.Machine.execAtsInvalidate f pasid base size itag s
  | .invalidateCompletion f itag => Sys2Proof.Machine.execInvalidateCompletion f itag s
  | .cmdDoorbell f m desc => Sys2Proof.Machine.execCmdDoorbell f m desc s
  | .cmdDescReadDone m desc => Sys2Proof.Machine.execCmdDescReadDone m desc s
  | .xlat m => Sys2Proof.Machine.execXlat m s
  | .copy m src ep => Sys2Proof.Machine.execCopy m src ep s
  | .advise m => Sys2Proof.Machine.execAdvise m s
  | .cmdEnd m => Sys2Proof.Machine.execCmdEnd m s
  | .flogBaseWrite f p value => Sys2Proof.Machine.execFlogBaseWrite f p value s
  | .errPop f => Sys2Proof.Machine.execErrPop f s
  | .scrubHbm f => Sys2Proof.Machine.execScrubHbm f s
  | .scrubCellar f unit => Sys2Proof.Machine.execScrubCellar f unit s
  | .scrubCellStore f unit => Sys2Proof.Machine.execScrubCellStore f unit s
  | .scrubNoTarget f => Sys2Proof.Machine.execScrubNoTarget f s
  | .scrubStep errs => Sys2Proof.Machine.execScrubStep errs s
  | .scrubDone => Sys2Proof.Machine.execScrubDone s
  | .ralothFrameReceive port lanes => Sys2Proof.Machine.execRalothFrameReceive port lanes s
  | .ralothFrameSend port => Sys2Proof.Machine.execRalothFrameSend port s
  | .ralothReplayTimeout port => Sys2Proof.Machine.execRalothReplayTimeout port s
  | .trainingBlockReceive port blocks => Sys2Proof.Machine.execTrainingBlockReceive port blocks s
  | .equaliseDone port badLanes => Sys2Proof.Machine.execEqualiseDone port badLanes s
  | .alignDone port badLanes peerMask => Sys2Proof.Machine.execAlignDone port badLanes peerMask s
  | .syncDone port => Sys2Proof.Machine.execSyncDone port s
  | .trainingTimeout port => Sys2Proof.Machine.execTrainingTimeout port s
  | .failedRetry port => Sys2Proof.Machine.execFailedRetry port s
  | .laneLossOfSignal port lane => Sys2Proof.Machine.execLaneLossOfSignal port lane s
  | .deskewLoss port => Sys2Proof.Machine.execDeskewLoss port s
  | .recoverDone port badLanes peerMask => Sys2Proof.Machine.execRecoverDone port badLanes peerMask s
  | .recoverTimeout port => Sys2Proof.Machine.execRecoverTimeout port s
  | .retrain f port => Sys2Proof.Machine.execRetrain f port s
  | .laneSlip f port lane => Sys2Proof.Machine.execLaneSlip f port lane s
  | .proceed f port => Sys2Proof.Machine.execProceed f port s
  | .loopGo f port mode => Sys2Proof.Machine.execLoopGo f port mode s
  | .farLoopbackExit port => Sys2Proof.Machine.execFarLoopbackExit port s
  | .txSleep port => Sys2Proof.Machine.execTxSleep port s
  | .rxSleep port => Sys2Proof.Machine.execRxSleep port s
  | .rxSignalDetect port => Sys2Proof.Machine.execRxSignalDetect port s
  | .txWake port => Sys2Proof.Machine.execTxWake port s
  | .txWakeDone port => Sys2Proof.Machine.execTxWakeDone port s
  | .rekey f port => Sys2Proof.Machine.execRekey f port s
  | .keyxHello port nonce pk => Sys2Proof.Machine.execKeyxHello port nonce pk s
  | .keyxKey port ek => Sys2Proof.Machine.execKeyxKey port ek s
  | .keyxCiphertext port ct ok => Sys2Proof.Machine.execKeyxCiphertext port ct ok s
  | .keyxSignature port sig ok => Sys2Proof.Machine.execKeyxSignature port sig ok s
  | .keyxTimeout port => Sys2Proof.Machine.execKeyxTimeout port s
  | .read port m => Sys2Proof.Machine.execRead port m s
  | .readRsp port m => Sys2Proof.Machine.execReadRsp port m s
  | .write port m => Sys2Proof.Machine.execWrite port m s
  | .accum port m => Sys2Proof.Machine.execAccum port m s
  | .flag port m => Sys2Proof.Machine.execFlag port m s
  | .cancel port m => Sys2Proof.Machine.execCancel port m s
  | .ack port m => Sys2Proof.Machine.execAck port m s
  | .barArrive port m => Sys2Proof.Machine.execBarArrive port m s
  | .barRelease port m => Sys2Proof.Machine.execBarRelease port m s
  | .replReq port m => Sys2Proof.Machine.execReplReq port m s
  | .replRsp port m => Sys2Proof.Machine.execReplRsp port m s
  | .replInval port m => Sys2Proof.Machine.execReplInval port m s
  | .invalAck port m => Sys2Proof.Machine.execInvalAck port m s
  | .enumStart f => Sys2Proof.Machine.execEnumStart f s
  | .enum port m => Sys2Proof.Machine.execEnum port m s
  | .enumEnd port m => Sys2Proof.Machine.execEnumEnd port m s
  | .mapCollect port m => Sys2Proof.Machine.execMapCollect port m s
  | .mapDistribute port m => Sys2Proof.Machine.execMapDistribute port m s
  | .mapWaitTimeout => Sys2Proof.Machine.execMapWaitTimeout s
  | .enumTimeout => Sys2Proof.Machine.execEnumTimeout s
  | .adopt f => Sys2Proof.Machine.execAdopt f s
  | .linkid port m => Sys2Proof.Machine.execLinkid port m s
  | .linkdown port m => Sys2Proof.Machine.execLinkdown port m s
  | .health port m => Sys2Proof.Machine.execHealth port m s
  | .memberHealthLost stack => Sys2Proof.Machine.execMemberHealthLost stack s
  | .ping port m => Sys2Proof.Machine.execPing port m s
  | .pong port m rttNs => Sys2Proof.Machine.execPong port m rttNs s
  | .estate port m => Sys2Proof.Machine.execEstate port m s
  | .reservedMessage port m => Sys2Proof.Machine.execReservedMessage port m s
  | .estateSet f => Sys2Proof.Machine.execEstateSet f s
  | .requestLost tag => Sys2Proof.Machine.execRequestLost tag s
  | .requestReissue tag => Sys2Proof.Machine.execRequestReissue tag s
  | .holdWindowExpire => Sys2Proof.Machine.execHoldWindowExpire s
  | .pwrEnterS1 f => Sys2Proof.Machine.execPwrEnterS1 f s
  | .pwrEnterS2 f => Sys2Proof.Machine.execPwrEnterS2 f s
  | .pwrEnterS3 f => Sys2Proof.Machine.execPwrEnterS3 f s
  | .pwrExitS0 f => Sys2Proof.Machine.execPwrExitS0 f s
  | .pwrTargetInvalid f target => Sys2Proof.Machine.execPwrTargetInvalid f target s
  | .pwrTransitionDone => Sys2Proof.Machine.execPwrTransitionDone s
  | .bayClockGate bay => Sys2Proof.Machine.execBayClockGate bay s
  | .bayPowerGate bay => Sys2Proof.Machine.execBayPowerGate bay s
  | .wakeAdmit => Sys2Proof.Machine.execWakeAdmit s
  | .wakeRailUp kind unit => Sys2Proof.Machine.execWakeRailUp kind unit s
  | .thermalSubstep parityOk => Sys2Proof.Machine.execThermalSubstep parityOk s
  | .thermalSolveEnd diodes => Sys2Proof.Machine.execThermalSolveEnd diodes s
  | .thermalShutdown => Sys2Proof.Machine.execThermalShutdown s
  | .thermalRestart => Sys2Proof.Machine.execThermalRestart s
  | .dbgLevelChange f target => Sys2Proof.Machine.execDbgLevelChange f target s
  | .dbgEnterD3 f => Sys2Proof.Machine.execDbgEnterD3 f s
  | .d3Effect => Sys2Proof.Machine.execD3Effect s
  | .dbgCntSelect f k value => Sys2Proof.Machine.execDbgCntSelect f k value s
  | .traceEnable f value => Sys2Proof.Machine.execTraceEnable f value s
  | .traceMark f value => Sys2Proof.Machine.execTraceMark f value s
  | .brkResume f => Sys2Proof.Machine.execBrkResume f s
  | .freezePin => Sys2Proof.Machine.execFreezePin s
  | .freezeRequest f scope drive => Sys2Proof.Machine.execFreezeRequest f scope drive s
  | .freezeHeldStart => Sys2Proof.Machine.execFreezeHeldStart s
  | .freezeEntryDone => Sys2Proof.Machine.execFreezeEntryDone s
  | .thaw f => Sys2Proof.Machine.execThaw f s
  | .freezePinRelease => Sys2Proof.Machine.execFreezePinRelease s
  | .thawDone => Sys2Proof.Machine.execThawDone s
  | .readOut f space addr errs => Sys2Proof.Machine.execReadOut f space addr errs s
  | .scanShift bits => Sys2Proof.Machine.execScanShift bits s
  | .tapAccess op => Sys2Proof.Machine.execTapAccess op s
  | .askalaOperationDone => Sys2Proof.Machine.execAskalaOperationDone s
  | .testRegionEnd test region => Sys2Proof.Machine.execTestRegionEnd test region s
  | .rcFieldRead f event => Sys2Proof.Machine.execRcFieldRead f event s
  | .pwrAlreadyInTarget f => Sys2Proof.Machine.execPwrAlreadyInTarget f s
  | .doeDiscovery f index => Sys2Proof.Machine.execDoeDiscovery f index s
  | .perstRelease port => Sys2Proof.Machine.execPerstRelease port s

end Sys2Proof.Machine
end

