-- ==== Sys2Proof/WellFormed.lean ====
section
/-! DEFINITION. When a command is well formed: every operand lies in the range of the field or unit that it names. -/

namespace Sys2Proof

/-- A function of one of the two ports: the physical function or one of 16 virtual functions (R348). -/
def fnOk (f : Fn) : Bool := f.port < 2 && f.vf ≤ 16

/-- A hardware thread slot: 768 cells of 16 pipelines of 8 threads (R127). -/
def slotOk (t : Nat) : Bool := t < 98304

/-- A register number of an instruction (R129). -/
def regOk (r : Nat) : Bool := r < 64

/-- A format code of CVT: 0 to 6, or 0x3F for an integer. -/
def fmtOk (x : Nat) : Bool := x ≤ 6 || x = 0x3F

/-- A request of a slice: a hint of two bits and a local address (R47, R135). -/
def reqOk (r : SReq) : Bool := r.hint < 4 && r.addr < 2 ^ 43

/-- Wrong symbols of stored codewords: positions 0 to 69 are stored, and a wrong symbol differs (R323). -/
def errsOk (l : List SymErr) : Bool := l.all (fun e => e.pos < 70 && e.diff ≠ 0)

/-- Every header field of a Raloth message fits its bits, and at most 30 data slots follow (R392). -/
def RMsg.wf (m : RMsg) : Bool :=
  m.typ < 256 && m.vc < 4 && m.tag < 65536 && m.srcT < 1024 && m.srcS < 16 && m.hint < 4 && m.op < 8 && m.part < 16
    && m.addr < 2 ^ 57 && m.data.length ≤ 30

/-- Line symbols of up to eight lanes, each a level of PAM4 (R370). -/
def lanesOk (l : List (List Nat)) : Bool := l.length ≤ 8 && l.all (fun x => x.all (· < 4))

/-- Training blocks of 64 symbols on up to eight lanes (R381). -/
def blocksOk (l : List (List Nat)) : Bool := lanesOk l && l.all (fun x => x.length = 64)

/-- What a round's sensors give: six HBM devices, eight totals, tiles and nodes 0 to 383. -/
def telOk (t : RoundTel) : Bool :=
  t.hbmTemp.length = 6 && t.hbmTemp.all (· < 256) && t.tel.length = 8 && t.tiles.all (fun e => e.1 < 384)
    && t.nodeMw.all (fun e => e.1 < 384)

/-- A BAR0 access lies in the 64 MiB of the window; a vector of MSI-X is one of 32 (R355, R361). -/
def targetOk : RegTarget → Bool
  | .bar0 off size => off < 2 ^ 26 && size ≤ 4096
  | .cfg (.msixMask v) => v < 32
  | .cfg _ => true

/-- An operation of the test access port: a space of four bits, an offset of the window. -/
def tapOk : TapOp → Bool
  | .readOut space addr errs => space < 16 && addr < 2 ^ 34 && errsOk errs
  | .regRead off _ => off < 2 ^ 26
  | .regWrite off _ _ => off < 2 ^ 26

/-- The command is well formed. -/
def Instr.wf : Instr → Bool
  | .powerUp => true
  | .powerOff => true
  | .sysReset _ => true
  | .supplyFault => true
  | .ownerElect => true
  | .pcieLinkUp port speed width _ => port < 2 && (1 ≤ speed && speed ≤ 6) && [1, 2, 4, 8].contains width
  | .pcieLinkDown port => port < 2
  | .pciePortReset port _ => port < 2
  | .flr f => fnOk f
  | .priReset f => fnOk f
  | .bar0BadAccess f _ _ _ => fnOk f
  | .registerWrite f tgt _ _ => fnOk f && targetOk tgt
  | .bar2Read f _ _ _ => fnOk f
  | .bar2Write f _ _ _ => fnOk f
  | .bar2Atomic f _ => fnOk f
  | .ideKm f _ _ => fnOk f
  | .ideInsecure port => port < 2
  | .doeOversize f _ => fnOk f
  | .i3cEntdaa _ => true
  | .i3cRstdaa => true
  | .i3cGetpid => true
  | .i3cGetbcr => true
  | .i3cGetdcr => true
  | .i3cGetstatus => true
  | .i3cPrivateWrite _ => true
  | .i3cPrivateRead _ => true
  | .getVersion f => fnOk f
  | .getCapabilities f => fnOk f
  | .negotiateAlgorithms f => fnOk f
  | .challenge f _ _ => fnOk f
  | .getMeasurements f _ _ _ => fnOk f
  | .keyExchange f _ _ => fnOk f
  | .finish f _ _ => fnOk f
  | .heartbeat f _ => fnOk f
  | .keyUpdate f _ => fnOk f
  | .endSession f _ => fnOk f
  | .respondIfReady f => fnOk f
  | .spdmUnsupported f _ => fnOk f
  | .seal f _ _ => fnOk f
  | .sealComplete p => p < 16
  | .rotate f _ p => fnOk f && p < 16
  | .erase f _ p => fnOk f && p < 16
  | .debugkey f _ p => fnOk f && p < 16
  | .partCtrlRotate f p => fnOk f && p < 16
  | .partCtrlErase f p => fnOk f && p < 16
  | .partCtrlBadOp f p op => fnOk f && p < 16 && (op = 0 || op = 3)
  | .secDeferredGo => true
  | .eraseOverwriteStep p => p < 16
  | .importGo f p => fnOk f && p < 16
  | .importChunk p _ => p < 16
  | .decantStep p errs => p < 16 && errsOk errs
  | .rngHealthFail => true
  | .bupVintage f copies _ diodes => fnOk f && copies.length = 384 && diodes.length = 96
  | .bupClocksPower f => fnOk f
  | .bupVertical f _ => fnOk f
  | .bupTraining f _ => fnOk f
  | .bupMemoryTest f _ _ => fnOk f
  | .bupCells f _ _ => fnOk f
  | .bupReconciliation f => fnOk f
  | .bupBlendLoad f => fnOk f
  | .bupSecurity f => fnOk f
  | .bupEnable f => fnOk f
  | .bupStepInvalid f step _ => fnOk f && step < 16
  | .bupStepEnd _ => true
  | .borsumRegionStart _ _ => true
  | .computeReset f => fnOk f
  | .cresetDeferredStart => true
  | .computeResetDone => true
  | .inserviceTest => true
  | .inserviceTestDone _ => true
  | .blendStage f => fnOk f
  | .blendStageDone _ => true
  | .blendLoadDone _ _ => true
  | .verticalCrcMismatch iface bundle _ => iface < 6 && bundle < 32768
  | .verticalReplayEnd iface bundle => iface < 6 && bundle < 32768
  | .powerViaOpen iface _ => iface < 6
  | .distFetch f => fnOk f
  | .distFetchDone _ => true
  | .cellLinkParityError row col _ => row < 32 && col < 24
  | .cellRetireRequest f bay cell _ => fnOk f && bay < 32 && cell < 32
  | .illegalInstruction t _ => slotOk t
  | .add t d a b => slotOk t && regOk d && regOk a && regOk b
  | .sub t d a b => slotOk t && regOk d && regOk a && regOk b
  | .and t d a b => slotOk t && regOk d && regOk a && regOk b
  | .or t d a b => slotOk t && regOk d && regOk a && regOk b
  | .xor t d a b => slotOk t && regOk d && regOk a && regOk b
  | .andn t d a b => slotOk t && regOk d && regOk a && regOk b
  | .shl t d a b => slotOk t && regOk d && regOk a && regOk b
  | .shr t d a b => slotOk t && regOk d && regOk a && regOk b
  | .sar t d a b => slotOk t && regOk d && regOk a && regOk b
  | .min t d a b => slotOk t && regOk d && regOk a && regOk b
  | .max t d a b => slotOk t && regOk d && regOk a && regOk b
  | .minu t d a b => slotOk t && regOk d && regOk a && regOk b
  | .maxu t d a b => slotOk t && regOk d && regOk a && regOk b
  | .mul t d a b => slotOk t && regOk d && regOk a && regOk b
  | .mulhs t d a b => slotOk t && regOk d && regOk a && regOk b
  | .mulhu t d a b => slotOk t && regOk d && regOk a && regOk b
  | .divs t d a b => slotOk t && regOk d && regOk a && regOk b
  | .divu t d a b => slotOk t && regOk d && regOk a && regOk b
  | .rmds t d a b => slotOk t && regOk d && regOk a && regOk b
  | .rmdu t d a b => slotOk t && regOk d && regOk a && regOk b
  | .clz t d a => slotOk t && regOk d && regOk a
  | .ctz t d a => slotOk t && regOk d && regOk a
  | .popc t d a => slotOk t && regOk d && regOk a
  | .sel t d a b => slotOk t && regOk d && regOk a && regOk b
  | .fadd t fmt d a b => slotOk t && fmt < 3 && regOk d && regOk a && regOk b
  | .fsub t fmt d a b => slotOk t && fmt < 3 && regOk d && regOk a && regOk b
  | .fmul t fmt d a b => slotOk t && fmt < 3 && regOk d && regOk a && regOk b
  | .fmac t fmt d a b => slotOk t && fmt < 3 && regOk d && regOk a && regOk b
  | .fmin t fmt d a b => slotOk t && fmt < 3 && regOk d && regOk a && regOk b
  | .fmax t fmt d a b => slotOk t && fmt < 3 && regOk d && regOk a && regOk b
  | .feq t fmt d a b => slotOk t && fmt < 3 && regOk d && regOk a && regOk b
  | .flt t fmt d a b => slotOk t && fmt < 3 && regOk d && regOk a && regOk b
  | .fle t fmt d a b => slotOk t && fmt < 3 && regOk d && regOk a && regOk b
  | .fabs t fmt d a => slotOk t && fmt < 3 && regOk d && regOk a
  | .fneg t fmt d a => slotOk t && fmt < 3 && regOk d && regOk a
  | .frcp t fmt d a => slotOk t && fmt < 3 && regOk d && regOk a
  | .frsq t fmt d a => slotOk t && fmt < 3 && regOk d && regOk a
  | .fexp2 t fmt d a => slotOk t && fmt < 3 && regOk d && regOk a
  | .flog2 t fmt d a => slotOk t && fmt < 3 && regOk d && regOk a
  | .cvt t d a src target _ => slotOk t && regOk d && regOk a && fmtOk src && fmtOk target
  | .cmp t cond d a b => slotOk t && cond < 6 && regOk d && regOk a && regOk b
  | .addk t d a _ => slotOk t && regOk d && regOk a
  | .andk t d a _ => slotOk t && regOk d && regOk a
  | .ork t d a _ => slotOk t && regOk d && regOk a
  | .xork t d a _ => slotOk t && regOk d && regOk a
  | .cmpkLt t d a _ => slotOk t && regOk d && regOk a
  | .cmpkUlt t d a _ => slotOk t && regOk d && regOk a
  | .shlk t d a _ => slotOk t && regOk d && regOk a
  | .shrk t d a _ => slotOk t && regOk d && regOk a
  | .sark t d a _ => slotOk t && regOk d && regOk a
  | .seti t d _ => slotOk t && regOk d
  | .shin t d _ => slotOk t && regOk d
  | .pca t d _ => slotOk t && regOk d
  | .cbrEq t a b _ => slotOk t && regOk a && regOk b
  | .cbrNe t a b _ => slotOk t && regOk a && regOk b
  | .cbrLt t a b _ => slotOk t && regOk a && regOk b
  | .cbrGe t a b _ => slotOk t && regOk a && regOk b
  | .cbrUlt t a b _ => slotOk t && regOk a && regOk b
  | .cbrUge t a b _ => slotOk t && regOk a && regOk b
  | .jmp t _ => slotOk t
  | .call t _ => slotOk t
  | .jmpr t a _ => slotOk t && regOk a
  | .callr t a _ => slotOk t && regOk a
  | .ldl t d _ => slotOk t && regOk d
  | .ldu8 t d a hint _ => slotOk t && regOk d && regOk a && hint < 4
  | .lds8 t d a hint _ => slotOk t && regOk d && regOk a && hint < 4
  | .ldu16 t d a hint _ => slotOk t && regOk d && regOk a && hint < 4
  | .lds16 t d a hint _ => slotOk t && regOk d && regOk a && hint < 4
  | .ldu32 t d a hint _ => slotOk t && regOk d && regOk a && hint < 4
  | .lds32 t d a hint _ => slotOk t && regOk d && regOk a && hint < 4
  | .ld64 t d a hint _ => slotOk t && regOk d && regOk a && hint < 4
  | .st8 t v a hint _ => slotOk t && regOk v && regOk a && hint < 3
  | .st16 t v a hint _ => slotOk t && regOk v && regOk a && hint < 3
  | .st32 t v a hint _ => slotOk t && regOk v && regOk a && hint < 3
  | .st64 t v a hint _ => slotOk t && regOk v && regOk a && hint < 3
  | .sacc t op d a b => slotOk t && (1 ≤ op && op ≤ 6) && (regOk d && d % 4 = 0) && regOk a && regOk b
  | .pref t d a hint _ => slotOk t && d ≤ 1 && regOk a && hint < 4
  | .cinv t a _ => slotOk t && regOk a
  | .fenceRelease t => slotOk t
  | .fenceAcquire t => slotOk t
  | .fenceFull t => slotOk t
  | .barrierInit t scope d a ctr => slotOk t && scope < 2 && regOk d && regOk a && ctr < 64
  | .barrierArrive t scope d ctr => slotOk t && scope < 2 && regOk d && ctr < 64
  | .barrierWait t scope a ctr => slotOk t && scope < 2 && regOk a && ctr < 64
  | .barrierQuery t scope d ctr => slotOk t && scope < 2 && regOk d && ctr < 64
  | .flagSet t d a b _ => slotOk t && regOk d && regOk a && regOk b
  | .flagAdd t d a b _ => slotOk t && regOk d && regOk a && regOk b
  | .flagWait t d a b cond => slotOk t && regOk d && regOk a && regOk b && cond < 4
  | .opcall t d a q => slotOk t && regOk d && (regOk a && a % 8 = 0) && q < 4
  | .spawn t d a _ => slotOk t && regOk d && regOk a
  | .nop t => slotOk t
  | .exit t => slotOk t
  | .brk t => slotOk t
  | .rds t d b => slotOk t && regOk d && b ≤ 8
  | .threadMemoryReply t _ => slotOk t
  | .flagWaitTimeout t => slotOk t
  | .flagWaitRetry t => slotOk t
  | .taskDoorbell f m _ => fnOk f && m < 1024
  | .taskDescReadDone m _ => m < 1024
  | .taskStart p => p < 16
  | .ctxSuspend f p c => fnOk f && p < 16 && c < 64
  | .ctxSuspendDone m => m < 1024
  | .ctxResume f p c => fnOk f && p < 16 && c < 64
  | .ctxResumeStart m => m < 1024
  | .ctxAbort f p c => fnOk f && p < 16 && c < 64
  | .ctxNoOp f p c => fnOk f && p < 16 && c < 64
  | .pieceDispatch bay => bay < 32
  | .piecePlace bay q _ _ => bay < 32 && q < 4
  | .pieceEnd bay q _ _ _ => bay < 32 && q < 4
  | .sliceRead r errs => reqOk r && errsOk errs
  | .sliceWrite r _ _ errs => reqOk r && errsOk errs
  | .slicePartialWrite r _ _ _ errs => reqOk r && errsOk errs
  | .sliceAccumulate r op _ _ _ errs => reqOk r && op < 8 && errsOk errs
  | .sliceFlagSet r _ errs => reqOk r && errsOk errs
  | .sliceFlagAdd r _ errs => reqOk r && errsOk errs
  | .sliceFlagWait r cond _ errs => reqOk r && cond < 4 && errsOk errs
  | .sliceFlagCancel r => reqOk r
  | .fillArrive addr => addr < 2 ^ 43
  | .mergeEntryExpire slice addr => slice < 192 && addr < 2 ^ 43
  | .sideQueueResume slice => slice < 192
  | .victimWaitResume slice => slice < 192
  | .rangePin f p => fnOk f && p < 16
  | .rangeUnpin f p => fnOk f && p < 16
  | .rangeClean f p => fnOk f && p < 16
  | .rangeFlush f p => fnOk f && p < 16
  | .rangeKill f p => fnOk f && p < 16
  | .rangeBadOp f p op => fnOk f && p < 16 && (op < 8 && (op = 0 || 5 < op))
  | .rangeDone p => p < 16
  | .thrashDetect slice set => slice < 192 && set < 32768
  | .sliceDrainDone slice => slice < 192
  | .rackLine region line => region < 2 ^ 22 && line < 512
  | .hbmFill addr errs => addr < 2 ^ 43 && errsOk errs
  | .hbmWriteBack addr _ _ errs => addr < 2 ^ 43 && errsOk errs
  | .hbmKill addr errs => addr < 2 ^ 43 && errsOk errs
  | .hbmSidecarUpdate addr => addr < 2 ^ 43
  | .hbmUncachedRead r errs => reqOk r && errsOk errs
  | .hbmUncachedWrite r _ errs => reqOk r && errsOk errs
  | .hbmRefresh ch pc _ => ch < 192 && pc < 2
  | .hbmRecalibrate ch pc => ch < 192 && pc < 2
  | .hbmRecalDone ch pc _ => ch < 192 && pc < 2
  | .hbmParityError ch => ch < 192
  | .hbmParityRetry ch _ => ch < 192
  | .hbmUeRateFail ch => ch < 192
  | .hbmPowerDown ch pc => ch < 192 && pc < 2
  | .hbmRegApply f => fnOk f
  | .housekeepingRound tel => telOk tel
  | .pwrFloorHit => true
  | .plcQuery f region => fnOk f && region < 2 ^ 22
  | .replCopyDone _ => true
  | .ctxBindWrite f m _ => fnOk f && m < 1024
  | .atsCompletion f pasid _ c => fnOk f && pasid < 2 ^ 20 && c.status < 3
  | .atsCompletionTimeout f pasid _ => fnOk f && pasid < 2 ^ 20
  | .pageRequestSend f => fnOk f
  | .prgSuccess f _ => fnOk f
  | .prgInvalidRequest f _ => fnOk f
  | .prgResponseFailure f _ => fnOk f
  | .priTimeout f _ => fnOk f
  | .atsInvalidate f pasid _ _ itag => fnOk f && pasid.all (· < 2 ^ 20) && itag < 32
  | .invalidateCompletion f itag => fnOk f && itag < 32
  | .cmdDoorbell f m _ => fnOk f && m < 1024
  | .cmdDescReadDone m _ => m < 1024
  | .xlat m => m < 1024
  | .copy m _ _ => m < 1024
  | .advise m => m < 1024
  | .cmdEnd m => m < 1024
  | .flogBaseWrite f p _ => fnOk f && p < 16
  | .errPop f => fnOk f
  | .scrubHbm f => fnOk f
  | .scrubCellar f unit => fnOk f && unit < 256
  | .scrubCellStore f unit => fnOk f && unit < 256
  | .scrubNoTarget f => fnOk f
  | .scrubStep errs => errsOk errs
  | .scrubDone => true
  | .ralothFrameReceive port lanes => port < 8 && lanesOk lanes
  | .ralothFrameSend port => port < 8
  | .ralothReplayTimeout port => port < 8
  | .trainingBlockReceive port blocks => port < 8 && blocksOk blocks
  | .equaliseDone port _ => port < 8
  | .alignDone port _ _ => port < 8
  | .syncDone port => port < 8
  | .trainingTimeout port => port < 8
  | .failedRetry port => port < 8
  | .laneLossOfSignal port lane => port < 8 && lane < 8
  | .deskewLoss port => port < 8
  | .recoverDone port _ _ => port < 8
  | .recoverTimeout port => port < 8
  | .retrain f port => fnOk f && port < 8
  | .laneSlip f port lane => fnOk f && port < 8 && lane < 8
  | .proceed f port => fnOk f && port < 8
  | .loopGo f port mode => fnOk f && port < 8 && mode < 4
  | .farLoopbackExit port => port < 8
  | .txSleep port => port < 8
  | .rxSleep port => port < 8
  | .rxSignalDetect port => port < 8
  | .txWake port => port < 8
  | .txWakeDone port => port < 8
  | .rekey f port => fnOk f && port < 8
  | .keyxHello port _ _ => port < 8
  | .keyxKey port _ => port < 8
  | .keyxCiphertext port _ _ => port < 8
  | .keyxSignature port _ _ => port < 8
  | .keyxTimeout port => port < 8
  | .read port m => port < 8 && m.wf
  | .readRsp port m => port < 8 && m.wf
  | .write port m => port < 8 && m.wf
  | .accum port m => port < 8 && m.wf
  | .flag port m => port < 8 && m.wf
  | .cancel port m => port < 8 && m.wf
  | .ack port m => port < 8 && m.wf
  | .barArrive port m => port < 8 && m.wf
  | .barRelease port m => port < 8 && m.wf
  | .replReq port m => port < 8 && m.wf
  | .replRsp port m => port < 8 && m.wf
  | .replInval port m => port < 8 && m.wf
  | .invalAck port m => port < 8 && m.wf
  | .enumStart f => fnOk f
  | .enum port m => port < 8 && m.wf
  | .enumEnd port m => port < 8 && m.wf
  | .mapCollect port m => port < 8 && m.wf
  | .mapDistribute port m => port < 8 && m.wf
  | .mapWaitTimeout => true
  | .enumTimeout => true
  | .adopt f => fnOk f
  | .linkid port m => port < 8 && m.wf
  | .linkdown port m => port < 8 && m.wf
  | .health port m => port < 8 && m.wf
  | .memberHealthLost stack => stack < 16
  | .ping port m => port < 8 && m.wf
  | .pong port m _ => port < 8 && m.wf
  | .estate port m => port < 8 && m.wf
  | .reservedMessage port m => port < 8 && m.wf
  | .estateSet f => fnOk f
  | .requestLost _ => true
  | .requestReissue _ => true
  | .holdWindowExpire => true
  | .pwrEnterS1 f => fnOk f
  | .pwrEnterS2 f => fnOk f
  | .pwrEnterS3 f => fnOk f
  | .pwrExitS0 f => fnOk f
  | .pwrTargetInvalid f target => fnOk f && target < 8
  | .pwrTransitionDone => true
  | .bayClockGate bay => bay < 32
  | .bayPowerGate bay => bay < 32
  | .wakeAdmit => true
  | .wakeRailUp kind _ => kind < 7
  | .thermalSubstep _ => true
  | .thermalSolveEnd diodes => diodes.length = 96
  | .thermalShutdown => true
  | .thermalRestart => true
  | .dbgLevelChange f target => fnOk f && target < 4
  | .dbgEnterD3 f => fnOk f
  | .d3Effect => true
  | .dbgCntSelect f k _ => fnOk f && k < 16
  | .traceEnable f _ => fnOk f
  | .traceMark f _ => fnOk f
  | .brkResume f => fnOk f
  | .freezePin => true
  | .freezeRequest f scope _ => fnOk f && scope < 4
  | .freezeHeldStart => true
  | .freezeEntryDone => true
  | .thaw f => fnOk f
  | .freezePinRelease => true
  | .thawDone => true
  | .readOut f space addr errs => fnOk f && space < 16 && addr < 2 ^ 43 && errsOk errs
  | .scanShift _ => true
  | .tapAccess op => tapOk op
  | .askalaOperationDone => true
  | .testRegionEnd _ _ => true
  | .rcFieldRead f _ => fnOk f
  | .pwrAlreadyInTarget f => fnOk f
  | .doeDiscovery f _ => fnOk f
  | .perstRelease port => port < 2

end Sys2Proof
end

