-- ==== Sys2Proof/Safety.lean ====
section
/-! DEFINITION. The words in which statements about the machine are made: what a command leaves as it was, when a thread
instruction runs, and what its completion leaves. -/

namespace Sys2Proof.Machine

open Sys2Proof

/-- `t` is `s` but for the register store, the messages sent, the Pending Bits of the functions, the trace and the counter
of free values: what an interrupt, a count or a trace record may change beside a command's own effect. -/
structure SideOnly (s t : State) : Prop where
  pci : t.pci = s.pci
  sec : t.sec = s.sec
  bup : t.bup = s.bup
  cmp : t.cmp = s.cmp
  xlt : t.xlt = s.xlt
  cel : t.cel = s.cel
  hbm : t.hbm = s.hbm
  plc : t.plc = s.plc
  ral : t.ral = s.ral
  pwr : t.pwr = s.pwr
  pending : t.pending = s.pending
  dbg : { t.dbg with trBuf := s.dbg.trBuf, trace := s.dbg.trace } = s.dbg

/-! ### Frames -/

/-- The parts of `State`, but for the queue. -/
inductive Area where
  | regs | fns | pci | sec | bup | cmp | xlt | cel | hbm | plc | ral | pwr | dbg | out | free
  deriving DecidableEq, Repr

/-- A part is the same in two states. -/
def Area.same (p : Area) (s t : State) : Prop :=
  match p with
  | .regs => t.regs = s.regs
  | .fns => t.fns = s.fns
  | .pci => t.pci = s.pci
  | .sec => t.sec = s.sec
  | .bup => t.bup = s.bup
  | .cmp => t.cmp = s.cmp
  | .xlt => t.xlt = s.xlt
  | .cel => t.cel = s.cel
  | .hbm => t.hbm = s.hbm
  | .plc => t.plc = s.plc
  | .ral => t.ral = s.ral
  | .pwr => t.pwr = s.pwr
  | .dbg => t.dbg = s.dbg
  | .out => t.out = s.out
  | .free => t.free = s.free

/-- From `s` to `t` only the parts listed have changed; the queue of commands is as it was. -/
def Only (l : List Area) (s t : State) : Prop := t.pending = s.pending ∧ ∀ p, p ∉ l → p.same s t

/-- What raising a status bit may change: registers, Pending Bits, messages sent (R344, R361). -/
def raisedIn : List Area := [.regs, .fns, .out]

/-- What a trace record or an error record may change beside: the trace, the queue of records and free values. -/
def tracedIn : List Area := .dbg :: .free :: raisedIn

/-- Command `c` acts on `s`: it answers a next state that differs from `s` in no part but those listed, and of which `P`
holds. -/
def Acts (c : Instr) (s : State) (l : List Area) (P : State → Prop) : Prop :=
  ∃ t, exec c s = .next t ∧ Only l s t ∧ P t

/-- The command leaves the state as it is. -/
def Idle (c : Instr) (s : State) : Prop := exec c s = .next s

/-- `s` with another register store. -/
def State.withRegs (s : State) (r : SMap Word) : State := { s with regs := r }

/-- `t` is `s` but for the register store. -/
def RegsOnly (s t : State) : Prop := t = s.withRegs t.regs

/-- Every register outside the list holds what it held. -/
def RegsKept (s t : State) (l : List Nat) : Prop := ∀ o, o ∉ l → t.reg o = s.reg o

/-- The registers that tracing an event may change: DBG_TRACE_STAT and DBG_EVENT (R493). -/
def traceRegs : List Nat := [rDbgTraceStat, rDbgEvent]

/-- The event counters DBG_CNT_k (R491). -/
def countRegs : List Nat := (List.range 16).map (rDbgCnt ·)

/-! ### Thread instructions (R75, R127 to R132, R148) -/

/-- The thread with the word of the instruction that it issues now. -/
def Thread.issued (x : Thread) (i : Instr) : Thread := { x with word := wordOfInstr i }

/-- The instruction `i` runs in `s`: its fields fit their widths, its slot holds thread `x`, the slot issues (R75), the
thread has not to end (R126, R153), and the fetch at its PC succeeds (R133, R134). `u` is the state after the fetch. -/
def Runs (i : Instr) (s u : State) (x : Thread) : Prop :=
  i.wf = true ∧ s.thread (slotOf i) = some x ∧ s.issues (slotOf i) = true ∧ x.ending = none ∧
    ∃ v, fetch s (slotOf i) x = (v, true) ∧ v.thread (slotOf i) = some x ∧ u = v.setThread (slotOf i) (x.issued i)

/-- From `u` to `t`, the instruction's thread has become `y`, and beside event counters nothing else has changed. -/
structure Finished (i : Instr) (u t : State) (y : Thread) : Prop where
  cmp : t.cmp = { u.cmp with thr := smSet u.cmp.thr (slotOf i) y }
  rest : t = { u with regs := t.regs, cmp := t.cmp }
  kept : RegsKept u t countRegs

/-- The thread has used `n` issue slots and goes on at `pc`; its other data are as before but for `regs`. -/
def Passed (i : Instr) (n : Nat) (x y : Thread) (pc : Nat) (regs : SMap Word) : Prop :=
  y = { x with regs := regs, pc := pc, issue := x.issue + n, word := wordOfInstr i, st := .ready }

/-- Register `d` holds `v`, g63 reads zero, and every other register is as it was (R127). -/
def HasWritten (x y : Thread) (d : Nat) (v : Word) : Prop :=
  ∀ r, r < 64 → y.reg r = if r = 63 then 0 else if r = d then v else x.reg r

/-- The instruction runs to its end: it writes `v` to `d`, uses `n` issue slots, and the next instruction is due. -/
def Computes (i : Instr) (s u : State) (x : Thread) (d : Nat) (v : Word) (n : Nat) : Prop :=
  ∃ t y, exec i s = .next t ∧ Finished i u t y ∧ HasWritten x y d v ∧ Passed i n x y ((x.pc + 4) % 2 ^ 64) y.regs

/-- The instruction runs to its end: it goes on at `pc`, and no register changes. -/
def GoesTo (i : Instr) (s u : State) (x : Thread) (pc : Nat) : Prop :=
  ∃ t y, exec i s = .next t ∧ Finished i u t y ∧ Passed i 1 x y pc x.regs

/-- A floating-point instruction runs to its end: the low bits of `d` take the result `r`, zero-extended, the events of
the result are set in the arithmetic status of its bay (R118), and beside counters and a message nothing else changes. -/
def ComputesFp (i : Instr) (s u : State) (x : Thread) (d : Nat) (r : Nat × Nat) (n : Nat) : Prop :=
  ∃ t y, exec i s = .next t ∧ t.cmp = { u.cmp with thr := smSet u.cmp.thr (slotOf i) y } ∧
    HasWritten x y d (BitVec.ofNat 64 r.1) ∧ Passed i n x y ((x.pc + 4) % 2 ^ 64) y.regs ∧
    t.reg (rCmpBayArith (bayOfSlot (slotOf i))) =
      u.reg (rCmpBayArith (bayOfSlot (slotOf i))) ||| BitVec.ofNat 64 (r.2 % 32) ∧
    SideOnly { u with cmp := t.cmp } t ∧ RegsKept u t (rCmpBayArith (bayOfSlot (slotOf i)) :: countRegs)

/-- The access of an instruction at `va` translates, without a wait or a fault, to the place `p`; `w` is the state
after the translation (R133). -/
def Translates (i : Instr) (u w : State) (x : Thread) (va : Nat) (acc : Acc) (p : Phys) : Prop :=
  translate u ⟨.thread (slotOf i), x.m, va, acc, bayOfSlot (slotOf i), 0⟩ true = (w, .ok p) ∧
    w.thread (slotOf i) = some (x.issued i)

/-- A load of `size` bytes at `va` finds its line in the L1: it is aligned, its address translates to `p`, its hint is not
3, no store of the thread that is not yet performed overlaps it (R137), and its word carries no poison (R134, R338). -/
def LoadHits (i : Instr) (s u w : State) (x : Thread) (size hint va : Nat) (p : Phys) (l : L1Line) : Prop :=
  Runs i s u x ∧ va % size = 0 ∧ Translates i u w x va .read p ∧ (∀ a, p ≠ .bad a) ∧ hint ≠ 3 ∧
    (∀ e ∈ x.stores, overlaps p size e.target e.size = false) ∧
    w.l1Find (cellOfSlot (slotOf i)) p = some l ∧ wordBad l.poison (physAddr p) = false

/-- The load completes from that line: it writes `v` to `d`, and the line's age is renewed. -/
def LoadsFrom (i : Instr) (s w : State) (x : Thread) (l : L1Line) (d : Nat) (v : Word) : Prop :=
  ∃ t y, exec i s = .next t ∧ Finished i (l1Touch w (cellOfSlot (slotOf i)) l) t y ∧ HasWritten x y d v ∧
    Passed i 1 x y ((x.pc + 4) % 2 ^ 64) y.regs

/-- A load of `size` bytes that does not take its line from the L1: it misses, or carries hint 3 (R135). -/
def LoadMisses (i : Instr) (s u w : State) (x : Thread) (size hint va : Nat) (p : Phys) : Prop :=
  Runs i s u x ∧ va % size = 0 ∧ Translates i u w x va .read p ∧
    (∀ e ∈ x.stores, overlaps p size e.target e.size = false) ∧
    (hint = 3 ∨ w.l1Find (cellOfSlot (slotOf i)) p = none)

/-- The load asks for its line and waits: at the slice of a local address, or from host memory; its PC stays. -/
def LoadAsks (i : Instr) (s w : State) (x : Thread) (d size : Nat) (sg : Bool) (hint va : Nat) (p : Phys) : Prop :=
  ∃ t y q, exec i s = .next t ∧ t.thread (slotOf i) = some y ∧
    y = { x with issue := x.issue + 1, word := wordOfInstr i, st := .waiting (.data d size sg hint va p q) } ∧
    (∀ a, p = .hbm a → t.cel.xbar = w.cel.xbar ++ [⟨.thread (slotOf i), a, hint, .read hint⟩] ∧ t.out = w.out) ∧
    (∀ port b n k, p = .host port b n k →
      t.cel.xbar = w.cel.xbar ∧ t.out = w.out ++ [.hostRead port (b / 128 * 128) 128])

/-- A store of `size` bytes at `va` that may go to local address `a`: aligned, translated, allowed there, and a store
entry of the thread is free (R132). -/
def StoreMay (i : Instr) (s u w : State) (x : Thread) (size va a : Nat) : Prop :=
  Runs i s u x ∧ va % size = 0 ∧ Translates i u w x va .write (.hbm a) ∧ x.stores.length < 4 ∧
    w.mayWrite (slotOf i) a = true

/-- The store is on its way to its slice with exactly its bytes enabled, holds a store entry until it is performed, and
the next instruction is due; a line of the cell's L1 that holds its address takes the bytes (R132, R134). -/
def StoreGoes (i : Instr) (s w : State) (x : Thread) (size hint a : Nat) (v : Word) : Prop :=
  let be : BitVec 128 := BitVec.ofNat 128 ((2 ^ size - 1) * 2 ^ (a % 128))
  let data : Line := BitVec.ofNat 1024 (v.toNat % 2 ^ (8 * size) * 2 ^ (8 * (a % 128)))
  ∃ t y q, exec i s = .next t ∧ t.thread (slotOf i) = some y ∧
    y = { x with
      pc := (x.pc + 4) % 2 ^ 64
      issue := x.issue + 1
      word := wordOfInstr i
      stores := x.stores ++ [⟨.hbm a, size, q⟩]
      st := .ready } ∧
    t.cel = { w.cel with xbar := w.cel.xbar ++ [⟨.thread (slotOf i), a, hint, .write be data 0⟩] } ∧
    t.l1 (cellOfSlot (slotOf i)) = (w.l1 (cellOfSlot (slotOf i))).map (fun l =>
      if l.target = .hbm (lineAddr a) then { l with data := mergeBytes l.data data be } else l) ∧
    RegsKept w t countRegs

/-- The cell's L1 holds nothing and the thread goes on at the next instruction (R136, R138). -/
def Acquires (i : Instr) (s : State) (x : Thread) : Prop :=
  ∃ t y, exec i s = .next t ∧ t.thread (slotOf i) = some y ∧ t.l1 (cellOfSlot (slotOf i)) = [] ∧
    Passed i 1 x y ((x.pc + 4) % 2 ^ 64) x.regs

/-- From `u` to `v`, thread `x` in slot `t` has ended with fault `f` (R149): the slot is free; a task that has other threads
left counts one thread fewer and one abnormal end, and keeps its first fault; with abort_on_fault its other threads are to
end with code 10 at their next issue slot. -/
def EndsWith (u v : State) (t : Nat) (x : Thread) (f : FaultInfo) : Prop :=
  v.thread t = none ∧
  ∀ r, smGet u.cmp.tasks x.task = some r → 1 < r.live →
    smGet v.cmp.tasks x.task = some { r with
      live := r.live - 1
      abnormal := r.abnormal + 1
      fault := r.fault.or (some f) } ∧
    (r.desc.abortOnFault = true → ∀ k y, v.thread k = some y → y.task = x.task → y.ending = some 10)

/-! ### Lines of the cellar (R187, R194 to R198, R204, R218, R336, R530) -/

/-- Every entry that slice `n` holds of the line of an address. -/
def State.entriesOf (s : State) (n a : Nat) : List LineEnt :=
  (s.setFrames n (setOf a)).flatMap (fun e =>
    if e.2.ch = sliceOf a ∧ e.2.grp = lidxOf a then e.2.lines.filter (fun l => l.line = lineOf a) else [])

/-- Slice `n` serves the line of `a` now: active, its set neither quarantined nor under test, and no earlier request for
the line waits there; the frames are in canonical form. -/
structure Free (s : State) (n a : Nat) : Prop where
  backed : s.backed a = true
  server : s.server (lineAddr a) = some n
  active : (s.slice n).state = 0
  idle : s.setUnderTest n (setOf (lineAddr a)) = false
  sound : (s.slice n).quarantined.contains (setOf (lineAddr a)) = false
  turn : ∀ y ∈ (s.slice n).victim ++ (s.slice n).side, lineAddr y.addr ≠ lineAddr a
  wf : smWf s.cel.frames = true

/-- Slice `n` holds the line of `a` in way `w`, frame `f`, entry `l`, and in no other entry. -/
structure Holds (s : State) (n a w : Nat) (f : Frame) (l : LineEnt) : Prop where
  line : s.findLine n (lineAddr a) = some (w, f, l)
  one : s.entriesOf n (lineAddr a) = [l]

/-- The entry may become class `c` in its frame. -/
def Fits (f : Frame) (l : LineEnt) (c : Nat) : Prop :=
  c = l.cls ∨ ({ f with lines := f.lines.erase l } : Frame).fit c ≠ none

/-- The request passes its checks (R51, R259, R261, R422) and slice `n` serves it now. -/
structure Serves (s : State) (r : SReq) (writes : Bool) (n : Nat) : Prop where
  live : s.live = true
  free : Free s n r.addr
  permit : s.permits r.who writes r.addr = true
  pool : s.poolAllows r.who (!writes) (lineAddr r.addr) = true
  home : s.sharersOf (regionOf (lineAddr r.addr)) = none
  sent : ∀ h ∈ s.cel.xbar, h.who = r.who → h.addr = r.addr → h.op ≠ .pref

/-- What a line delivers: nothing is stored for class 0; the merge table, else the row (R188, R213). -/
def State.delivers (s : State) (n a : Nat) (l : LineEnt) : Line :=
  if l.cls = 0 then 0
  else match (s.slice n).merge.find? (fun e => e.1 = lineAddr a) with
    | some e => e.2
    | none => l.data

/-- Every line but that of `a` is held as it was. -/
def OthersKept (s t : State) (a : Nat) : Prop :=
  ∀ k b, sliceOf b ≠ sliceOf a ∨ lidxOf b ≠ lidxOf a ∨ lineOf b ≠ lineOf a → t.entriesOf k b = s.entriesOf k b

/-- What a request at a slice may change: the cellar, its requester's answer, heat and counters; HBM keeps its blocks. -/
def servedIn : List Area := [.cmp, .cel, .plc, .ral] ++ tracedIn

/-- The line has been written: one entry, DIRTY, with the content given, no merge entry, every other line as it was;
the store of a thread is performed (R139, R196, R213). -/
def LineWritten (s t : State) (r : SReq) (n : Nat) (d : Line) (p : BitVec 4) : Prop :=
  (∃ l, t.entriesOf n (lineAddr r.addr) = [l] ∧ l.st = .dirty ∧ l.data = d ∧ l.poison = p) ∧
  (∀ e ∈ (t.slice n).merge, e.1 ≠ lineAddr r.addr) ∧ OthersKept s t (lineAddr r.addr)

/-- The first store of a requesting thread to the line has left its store entries. -/
def StorePerformed (s t : State) (r : SReq) : Prop :=
  ∀ k x e, r.who = .thread k → s.thread k = some x → x.stores.find? (fun e => inLine r.addr e.target) = some e →
    ∃ y, t.thread k = some y ∧ y.stores = x.stores.erase e ∧ y.regs = x.regs ∧ y.pc = x.pc

/-- A requesting thread has the answer of a flag operation: status and word. -/
def FlagAnswered (t : State) (r : SReq) (status : Nat) (w : Word) : Prop :=
  ∀ k, r.who = .thread k → t.cmp.replies.getLast? = some ⟨k, r.addr, 0, 0, status, w, 0⟩

/-- A requesting thread, or a function that reads through BAR2, has the line. -/
def ReadAnswered (s t : State) (r : SReq) (d : Line) (p : BitVec 4) : Prop :=
  (∀ k, r.who = .thread k → t.cmp.replies = s.cmp.replies ++ [⟨k, r.addr, d, p, 0, 0, 0⟩]) ∧
  (∀ f tag len, r.who = .bar2 f tag len → p = 0 →
    t.out = s.out ++ [.bar2Cpl f tag 0 r.addr (sliceB (toBytes d 128) (r.addr % 128) len)])

/-! ### Blocks of the HBM tier (R223, R231 to R233) -/

/-- The channel of the line of `a` serves request `q` now: the line is backed, its channel works and holds nothing back, the
block lies in no sealed partition, and nothing else waits for the block. -/
structure ChanServes (s : State) (a : Nat) (q : ChanReq) : Prop where
  live : s.live = true
  backed : s.backed a = true
  held : s.chanHeld a = false
  works : s.chanFailed a = false
  isOpen : s.sealedAt a = none
  turn : ∀ x ∈ s.cel.hbmq, blockAddr x.addr = blockAddr a → x = q

/-- Every block stored elsewhere than the block of `a` is as it was. -/
def BlocksKept (s t : State) (a : Nat) : Prop := ∀ b, s.keyOf b ≠ s.keyOf a → t.block b = s.block b

/-- Channel `d` has failed in service (R243): its state and cause, its sidecar cache gone, the event set, no block
changed. -/
def ChanHasFailed (s t : State) (d cause : Nat) : Prop :=
  t.chanSt d = 2 ∧ t.fld (rHbmChStat d) fHbmChStatCause = cause ∧ (t.chan d).scache = [] ∧
  t.fld (rHbmStkEvent (d / 32)) fHbmStkEventChFailed = 1 ∧ t.hbm.blocks = s.hbm.blocks ∧ t.cel = s.cel

/-- The two memories are in canonical form: keys strictly rising, and no frame listed without a line. -/
def MemoryCanonical (s : State) : Prop :=
  smWf s.hbm.blocks = true ∧ smWf s.cel.frames = true ∧ ∀ e ∈ s.cel.frames, e.2.lines ≠ []

/-! ### Raloth ports (R368, R380 to R384, R393, R395, R405) -/

/-- The ports run and `n` is one of them: power is on and no full freeze is in force (R456, R502). -/
def PortRuns (s : State) (n : Nat) : Prop := s.on = true ∧ s.freeze ≠ 2 ∧ n < 8

/-- The first valid training block among those received, lane 0 first, has this code and mask (R381). -/
def BlocksSay (bs : List (List Nat)) (code mask : Nat) : Prop :=
  ((bs.zipIdx.map (fun e => trainParse e.2 e.1)).filterMap id).head? = some (code, mask)

/-- The lanes of a mask that port `n` used have left it with a state code; every other lane is as it was (R382). -/
def LanesLost (s v : State) (n : Nat) (bad : BitVec 8) (code : Nat) : Prop :=
  ∀ k l, l < 8 → v.laneSt k l =
    if k = n ∧ bad.getLsbD l = true ∧ (s.port n).mask.getLsbD l = true ∧ s.laneSt n l = 0 then code else s.laneSt k l

/-- A usable lane of port `n` that is not among the bad ones and that the peer's mask names. -/
def LaneLeft (s : State) (n : Nat) (bad peer : BitVec 8) : Prop :=
  ∃ l, l < 8 ∧ (s.usable n).testBit l = true ∧ bad.getLsbD l = false ∧ peer.getLsbD l = true

/-- No request of this stack waits at another and no region is shared: what a route's loss would end (R262, R405). -/
def NoneAbroad (s : State) : Prop := s.ral.reqs = [] ∧ s.plc.dir = []

/-- The port has gone to FAILED: keys, counters and replay buffer discarded, the event set (R382); of every other port
only the messages to send may have changed. -/
def PortFailed (s v : State) (n : Nat) : Prop :=
  (v.port n).state = 9 ∧ (v.port n).txKey = 0 ∧ (v.port n).rxKey = 0 ∧ (v.port n).newTx = none ∧
  (v.port n).newRx = none ∧ (v.port n).replay = [] ∧ (v.port n).txCtr = 0 ∧ (v.port n).rxCtr = 0 ∧
  (v.port n).mask = (s.port n).mask ∧ v.fld (rRalPortEvent n) fRalPortEventFailed = 1 ∧
  v.fld (rRalPortStat n) fRalPortStatPeerValid = 0 ∧ ∀ k, k ≠ n → v.port k = { s.port k with txq := (v.port k).txq }

/-- Port `n` is as given, and every other port as it was. -/
def PortIs (s v : State) (n : Nat) (p : RalPort) : Prop := v.port n = p ∧ ∀ k, k ≠ n → v.port k = s.port k

/-- What a change of a port may change: the ports, the trace, registers and messages sent. -/
def portIn : List Area := .ral :: tracedIn

/-- Message `m` of type `code` is taken at port `n`, and `u` is what remains: frames have brought it and it is the oldest of
its virtual channel, or the command brings it to a port that carries frames and its type (R388, R395). -/
def Takes (s : State) (n : Nat) (m : RMsg) (code : Nat) (u : State) : Prop :=
  PortRuns s n ∧ m.typ = code ∧
  ((m ∈ (s.port n).rxq ∧ (s.port n).rxq.find? (fun x => x.vc = m.vc) = some m ∧
      u = s.setPort n { s.port n with rxq := (s.port n).rxq.erase m }) ∨
    (m ∉ (s.port n).rxq ∧ (s.port n).framing = true ∧ ((s.port n).state = 6 ∨ plainType code = true) ∧ u = s))

/-- The port, the message and the type code of a message that stacks forward to its target (R393). -/
def endToEndOf : Instr → Option (Nat × RMsg × Nat)
  | .read n m => some (n, m, 0x01)
  | .readRsp n m => some (n, m, 0x02)
  | .write n m => some (n, m, 0x03)
  | .accum n m => some (n, m, 0x04)
  | .flag n m => some (n, m, 0x05)
  | .cancel n m => some (n, m, 0x06)
  | .ack n m => some (n, m, 0x07)
  | .barArrive n m => some (n, m, 0x08)
  | .barRelease n m => some (n, m, 0x09)
  | .replReq n m => some (n, m, 0x0A)
  | .replRsp n m => some (n, m, 0x0B)
  | .replInval n m => some (n, m, 0x0C)
  | .invalAck n m => some (n, m, 0x0D)
  | .linkdown n m => some (n, m, 0x14)
  | .health n m => some (n, m, 0x15)
  | _ => none

/-- Where a route to its source exists, the message last queued there answers `q`: its tag and virtual channel, this
stack as its source. -/
def Replies (x v : State) (q : RMsg) (typ : Nat) (arg : BitVec 128) (data : List Sector) : Prop :=
  ∀ k, x.routePort (q.srcT * 2 ^ 47 + q.srcS * 2 ^ 43) = some k → (v.port k).txq.getLast? = some
    ⟨typ, q.vc, q.prio, q.tag, x.trellisId, x.stackId, 0, 0, q.part, 0, q.srcT * 2 ^ 47 + q.srcS * 2 ^ 43, arg, data⟩

/-- One ERR record of source 9 has been posted with this payload (R341, R342, R407). -/
def RalRecord (s v : State) (payload : Nat) : Prop :=
  v.dbg.errSeq = s.dbg.errSeq + 1 ∧ (s.dbg.errq.length < 64 → ∃ r, v.dbg.errq = s.dbg.errq ++ [r] ∧
    r.extractLsb' 0 8 = 9 ∧ r.extractLsb' 128 128 = BitVec.ofNat 128 payload)

/-! ### Bring-up (R511, R512) -/

/-- A go of a bring-up step: the function that writes it, the step, and the quick bit where the step has one. -/
def goOf : Instr → Option (Fn × Nat × Option Bool)
  | .bupVintage f _ _ _ => some (f, 1, none)
  | .bupClocksPower f => some (f, 2, none)
  | .bupVertical f _ => some (f, 3, none)
  | .bupTraining f _ => some (f, 4, none)
  | .bupMemoryTest f quick _ => some (f, 5, some quick)
  | .bupCells f quick _ => some (f, 6, some quick)
  | .bupReconciliation f => some (f, 7, none)
  | .bupBlendLoad f => some (f, 8, none)
  | .bupSecurity f => some (f, 9, none)
  | .bupEnable f => some (f, 10, none)
  | _ => none

/-! ### Mailboxes and sessions (R417, R456) -/

/-- The Askala engine serves the mailboxes: the links run, the identity key exists, and the stack is not in S3. -/
def MailOpen (s : State) : Prop := s.on = true ∧ s.freeze ≠ 2 ∧ s.sec.idReady = true ∧ s.pwr.state ≠ 3

/-- Session `sess` of function `f` is established and served. -/
def InSession (s : State) (f : Fn) (sess : Nat) : Prop :=
  MailOpen s ∧ ∃ x ∈ s.sec.sessions, x.id = sess ∧ x.f = f ∧ x.established = true

/-- The command only answers: it sends `o`, and nothing else changes. -/
def Answers (c : Instr) (s : State) (o : Out) : Prop := Acts c s [.out] (fun v => v.out = s.out ++ [o])

end Sys2Proof.Machine
end

