-- ==== Sys2Proof/Certificates/Slice0/Obligations.lean ====
section
/-! DEFINITION. The statements for the provers: what the rules of the specification say that a command does, over every
state that meets the hypotheses. -/

namespace Sys2Proof.Machine

open Sys2Proof

end Sys2Proof.Machine

open Sys2Proof Sys2Proof.Machine

/-! ## The queue of commands -/

/-- A step runs the command at the front of the queue on the state with the queue's rest, whatever the command and the
state; with an empty queue the block idles (the model's choice, assumption log 1). -/
def Obligations.StepRunsFront : Prop :=
  ∀ (s : State) (c : Instr) (rest : List Instr),
    step { s with pending := c :: rest } = exec c { s with pending := rest } ∧
      step { s with pending := [] } = .next { s with pending := [] }

/-! ## Instruction words (R129 to R131) -/

/-- The word of every well-formed thread instruction decodes to that instruction, with every operand at every value
that its field admits (R129, R130, R131). A word that decodes is the word of the instruction that it decodes to, at
the thread that issues it: no two words are one instruction, but for BAR (0x31) and FLAG (0x32), whose operations
leave some fields without a meaning (R130, R131). -/
def Obligations.IsaRoundTrip : Prop :=
  (∀ (i : Instr) (w : BitVec 32), i.wf = true → isaWord i = some w → isaDecode (slotOf i) (descOf i) w = some i) ∧
  (∀ (t : Nat) (r : ReadData) (w : BitVec 32) (i : Instr), isaDecode t r w = some i →
     w.toNat / 2 ^ 26 ≠ 0x31 → w.toNat / 2 ^ 26 ≠ 0x32 → isaWord i = some w ∧ slotOf i = t)

/-! ## Thread instructions on registers (R131, R132) -/

/-- ADD to SAR and MIN to MAXU: the value of R131, modulo 2^64, in one issue slot; g63 reads zero (R127). MUL to RMDU
and CLZ to SEL: the value of R131 and the issue slots of R132, with the results that R131 gives for a zero divisor and
for −2^63 ÷ −1. -/
def Obligations.IntegerOpsCompute : Prop :=
  (∀ (s u : State) (x : Thread) (t d a b : Nat),
     let A := (x.reg a).toNat
     let B := (x.reg b).toNat
     let SA := (x.reg a).toInt
     let SB := (x.reg b).toInt
     (Runs (.add t d a b) s u x → Computes (.add t d a b) s u x d (BitVec.ofNat 64 (A + B)) 1) ∧
     (Runs (.sub t d a b) s u x → Computes (.sub t d a b) s u x d (BitVec.ofInt 64 ((A : Int) - B)) 1) ∧
     (Runs (.and t d a b) s u x → Computes (.and t d a b) s u x d (BitVec.ofNat 64 (A &&& B)) 1) ∧
     (Runs (.or t d a b) s u x → Computes (.or t d a b) s u x d (BitVec.ofNat 64 (A ||| B)) 1) ∧
     (Runs (.xor t d a b) s u x → Computes (.xor t d a b) s u x d (BitVec.ofNat 64 (A ^^^ B)) 1) ∧
     (Runs (.andn t d a b) s u x → Computes (.andn t d a b) s u x d (BitVec.ofNat 64 (A &&& (2 ^ 64 - 1 - B))) 1) ∧
     (Runs (.shl t d a b) s u x → Computes (.shl t d a b) s u x d (BitVec.ofNat 64 (A * 2 ^ (B % 64))) 1) ∧
     (Runs (.shr t d a b) s u x → Computes (.shr t d a b) s u x d (BitVec.ofNat 64 (A / 2 ^ (B % 64))) 1) ∧
     (Runs (.sar t d a b) s u x → Computes (.sar t d a b) s u x d (BitVec.ofInt 64 (SA / 2 ^ (B % 64))) 1) ∧
     (Runs (.min t d a b) s u x → Computes (.min t d a b) s u x d (BitVec.ofInt 64 (Min.min SA SB)) 1) ∧
     (Runs (.max t d a b) s u x → Computes (.max t d a b) s u x d (BitVec.ofInt 64 (Max.max SA SB)) 1) ∧
     (Runs (.minu t d a b) s u x → Computes (.minu t d a b) s u x d (BitVec.ofNat 64 (Min.min A B)) 1) ∧
     (Runs (.maxu t d a b) s u x → Computes (.maxu t d a b) s u x d (BitVec.ofNat 64 (Max.max A B)) 1)) ∧
  (∀ (s u : State) (x : Thread) (t d a b : Nat),
     let A := (x.reg a).toNat
     let B := (x.reg b).toNat
     let SA := (x.reg a).toInt
     let SB := (x.reg b).toInt
     (Runs (.mul t d a b) s u x → Computes (.mul t d a b) s u x d (BitVec.ofNat 64 (A * B)) 2) ∧
     (Runs (.mulhs t d a b) s u x → Computes (.mulhs t d a b) s u x d (BitVec.ofInt 64 (SA * SB / 2 ^ 64)) 2) ∧
     (Runs (.mulhu t d a b) s u x → Computes (.mulhu t d a b) s u x d (BitVec.ofNat 64 (A * B / 2 ^ 64)) 2) ∧
     (Runs (.divs t d a b) s u x →
       Computes (.divs t d a b) s u x d (BitVec.ofInt 64 (SA.sign * SB.sign * (SA.natAbs / SB.natAbs : Nat))) 16) ∧
     (Runs (.divu t d a b) s u x → Computes (.divu t d a b) s u x d (BitVec.ofNat 64 (A / B)) 16) ∧
     (Runs (.rmds t d a b) s u x →
       Computes (.rmds t d a b) s u x d (BitVec.ofInt 64 (SA.sign * (SA.natAbs % SB.natAbs : Nat))) 16) ∧
     (Runs (.rmdu t d a b) s u x → Computes (.rmdu t d a b) s u x d (BitVec.ofNat 64 (A % B)) 16) ∧
     (Runs (.clz t d a) s u x → Computes (.clz t d a) s u x d (BitVec.ofNat 64 (64 - A.size)) 1) ∧
     (Runs (.ctz t d a) s u x → ∃ n, n ≤ 64 ∧ (A = 0 → n = 64) ∧ (A ≠ 0 → 2 ^ n ∣ A ∧ ¬ 2 ^ (n + 1) ∣ A) ∧
       Computes (.ctz t d a) s u x d (BitVec.ofNat 64 n) 1) ∧
     (Runs (.popc t d a) s u x →
       Computes (.popc t d a) s u x d (BitVec.ofNat 64 ((List.range 64).countP (fun k => A.testBit k))) 1) ∧
     (Runs (.sel t d a b) s u x →
       Computes (.sel t d a b) s u x d (if x.reg d = 0 then x.reg b else x.reg a) 1))

/-- CMP with its six conditions, and the operations with an immediate: sign-extended (R130), shifts by imm14[5:0], SHIN
zero-extended. -/
def Obligations.ImmediatesCompute : Prop :=
  ∀ (s u : State) (x : Thread) (t d a b : Nat) (k : BitVec 14) (h : BitVec 6) (m : BitVec 20),
    let A := (x.reg a).toNat
    let SA := (x.reg a).toInt
    let all (p : Bool) : Word := if p then BitVec.ofInt 64 (-1) else 0
    (Runs (.cmp t 0 d a b) s u x → Computes (.cmp t 0 d a b) s u x d (all (A = (x.reg b).toNat)) 1) ∧
    (Runs (.cmp t 1 d a b) s u x → Computes (.cmp t 1 d a b) s u x d (all (A ≠ (x.reg b).toNat)) 1) ∧
    (Runs (.cmp t 2 d a b) s u x → Computes (.cmp t 2 d a b) s u x d (all (SA < (x.reg b).toInt)) 1) ∧
    (Runs (.cmp t 3 d a b) s u x → Computes (.cmp t 3 d a b) s u x d (all ((x.reg b).toInt ≤ SA)) 1) ∧
    (Runs (.cmp t 4 d a b) s u x → Computes (.cmp t 4 d a b) s u x d (all (A < (x.reg b).toNat)) 1) ∧
    (Runs (.cmp t 5 d a b) s u x → Computes (.cmp t 5 d a b) s u x d (all ((x.reg b).toNat ≤ A)) 1) ∧
    (Runs (.addk t d a k) s u x → Computes (.addk t d a k) s u x d (BitVec.ofInt 64 (SA + k.toInt)) 1) ∧
    (Runs (.andk t d a k) s u x → Computes (.andk t d a k) s u x d (x.reg a &&& BitVec.ofInt 64 k.toInt) 1) ∧
    (Runs (.ork t d a k) s u x → Computes (.ork t d a k) s u x d (x.reg a ||| BitVec.ofInt 64 k.toInt) 1) ∧
    (Runs (.xork t d a k) s u x → Computes (.xork t d a k) s u x d (x.reg a ^^^ BitVec.ofInt 64 k.toInt) 1) ∧
    (Runs (.cmpkLt t d a k) s u x → Computes (.cmpkLt t d a k) s u x d (all (SA < k.toInt)) 1) ∧
    (Runs (.cmpkUlt t d a k) s u x →
      Computes (.cmpkUlt t d a k) s u x d (all (A < (BitVec.ofInt 64 k.toInt).toNat)) 1) ∧
    (Runs (.shlk t d a h) s u x → Computes (.shlk t d a h) s u x d (BitVec.ofNat 64 (A * 2 ^ h.toNat)) 1) ∧
    (Runs (.shrk t d a h) s u x → Computes (.shrk t d a h) s u x d (BitVec.ofNat 64 (A / 2 ^ h.toNat)) 1) ∧
    (Runs (.sark t d a h) s u x → Computes (.sark t d a h) s u x d (BitVec.ofInt 64 (SA / 2 ^ h.toNat)) 1) ∧
    (Runs (.seti t d m) s u x → Computes (.seti t d m) s u x d (BitVec.ofInt 64 m.toInt) 1) ∧
    (Runs (.shin t d m) s u x →
      Computes (.shin t d m) s u x d (BitVec.ofNat 64 ((x.reg d).toNat * 2 ^ 20 + m.toNat)) 1) ∧
    (Runs (.pca t d m) s u x → Computes (.pca t d m) s u x d (BitVec.ofInt 64 (x.pc + 4 * m.toInt)) 1)

/-- Branches and jumps: the target of R131 when the condition holds, else the next instruction; no register changes,
but CALL and CALLR write g62 with the return address, CALLR after it has read its register; NOP only passes. -/
def Obligations.BranchesGo : Prop :=
  ∀ (s u : State) (x : Thread) (t a b : Nat) (k : BitVec 14) (j : BitVec 26),
    let A := (x.reg a).toNat
    let B := (x.reg b).toNat
    let SA := (x.reg a).toInt
    let SB := (x.reg b).toInt
    let next := (x.pc + 4) % 2 ^ 64
    let dest (n : Int) : Nat := ((x.pc + 4 * n) % 2 ^ 64).toNat
    (Runs (.cbrEq t a b k) s u x → GoesTo (.cbrEq t a b k) s u x (if A = B then dest k.toInt else next)) ∧
    (Runs (.cbrNe t a b k) s u x → GoesTo (.cbrNe t a b k) s u x (if A ≠ B then dest k.toInt else next)) ∧
    (Runs (.cbrLt t a b k) s u x → GoesTo (.cbrLt t a b k) s u x (if SA < SB then dest k.toInt else next)) ∧
    (Runs (.cbrGe t a b k) s u x → GoesTo (.cbrGe t a b k) s u x (if SB ≤ SA then dest k.toInt else next)) ∧
    (Runs (.cbrUlt t a b k) s u x → GoesTo (.cbrUlt t a b k) s u x (if A < B then dest k.toInt else next)) ∧
    (Runs (.cbrUge t a b k) s u x → GoesTo (.cbrUge t a b k) s u x (if B ≤ A then dest k.toInt else next)) ∧
    (Runs (.jmp t j) s u x → GoesTo (.jmp t j) s u x (dest j.toInt)) ∧
    (Runs (.nop t) s u x → GoesTo (.nop t) s u x next) ∧
    (Runs (.jmpr t a k) s u x → ((SA + k.toInt) % 4 = 0) →
      GoesTo (.jmpr t a k) s u x ((SA + k.toInt) % 2 ^ 64).toNat) ∧
    (Runs (.call t j) s u x → ∃ v y, exec (.call t j) s = .next v ∧ Finished (.call t j) u v y ∧
      HasWritten x y 62 (BitVec.ofNat 64 (x.pc + 4)) ∧ Passed (.call t j) 1 x y (dest j.toInt) y.regs) ∧
    (Runs (.callr t a k) s u x → ((SA + k.toInt) % 4 = 0) → ∃ v y, exec (.callr t a k) s = .next v ∧
      Finished (.callr t a k) u v y ∧ HasWritten x y 62 (BitVec.ofNat 64 (x.pc + 4)) ∧
      Passed (.callr t a k) 1 x y ((SA + k.toInt) % 2 ^ 64).toNat y.regs)

/-! ## Floating point (R91, R102, R105, R111, R131) -/

/-- The floating-point instructions on lane values of their format: a lane is read from the low bits of a register and
the result is written zero-extended; FMAC rounds once; comparisons write 1 or 0; events set the status of the bay. -/
def Obligations.FloatingPointComputes : Prop :=
  ∀ (s u : State) (x : Thread) (t fmt d a b src target : Nat) (sat : Bool),
    let F := laneFmt fmt
    let lane (r : Nat) := (x.reg r).toNat % 2 ^ (if fmt = 0 then 32 else 16)
    (Runs (.fadd t fmt d a b) s u x → ComputesFp (.fadd t fmt d a b) s u x d (fpAdd F (lane a) (lane b)) 1) ∧
    (Runs (.fsub t fmt d a b) s u x → ComputesFp (.fsub t fmt d a b) s u x d (fpSub F (lane a) (lane b)) 1) ∧
    (Runs (.fmul t fmt d a b) s u x → ComputesFp (.fmul t fmt d a b) s u x d (fpMul F (lane a) (lane b)) 1) ∧
    (Runs (.fmac t fmt d a b) s u x →
      ComputesFp (.fmac t fmt d a b) s u x d (fpFma F (lane d) (lane a) (lane b)) (if fmt = 0 then 2 else 1)) ∧
    (Runs (.fmin t fmt d a b) s u x → ComputesFp (.fmin t fmt d a b) s u x d (fpMinMax F false (lane a) (lane b), 0) 1) ∧
    (Runs (.fmax t fmt d a b) s u x → ComputesFp (.fmax t fmt d a b) s u x d (fpMinMax F true (lane a) (lane b), 0) 1) ∧
    (Runs (.feq t fmt d a b) s u x →
      ComputesFp (.feq t fmt d a b) s u x d (if fpRel F 0 (lane a) (lane b) then 1 else 0, 0) 1) ∧
    (Runs (.flt t fmt d a b) s u x →
      ComputesFp (.flt t fmt d a b) s u x d (if fpRel F 1 (lane a) (lane b) then 1 else 0, 0) 1) ∧
    (Runs (.fle t fmt d a b) s u x →
      ComputesFp (.fle t fmt d a b) s u x d (if fpRel F 2 (lane a) (lane b) then 1 else 0, 0) 1) ∧
    (Runs (.fabs t fmt d a) s u x → ComputesFp (.fabs t fmt d a) s u x d (fpSigned F fvAbs (lane a)) 1) ∧
    (Runs (.fneg t fmt d a) s u x → ComputesFp (.fneg t fmt d a) s u x d (fpSigned F Fv.negate (lane a)) 1) ∧
    (Runs (.frcp t fmt d a) s u x → ComputesFp (.frcp t fmt d a) s u x d (fpApprox F 0 (lane a) u.free) 2) ∧
    (Runs (.frsq t fmt d a) s u x → ComputesFp (.frsq t fmt d a) s u x d (fpApprox F 1 (lane a) u.free) 2) ∧
    (Runs (.fexp2 t fmt d a) s u x → ComputesFp (.fexp2 t fmt d a) s u x d (fpApprox F 2 (lane a) u.free) 2) ∧
    (Runs (.flog2 t fmt d a) s u x → ComputesFp (.flog2 t fmt d a) s u x d (fpApprox F 3 (lane a) u.free) 2) ∧
    (Runs (.cvt t d a src target sat) s u x →
      ComputesFp (.cvt t d a src target sat) s u x d
        ((cvtRun src target sat (x.reg a)).1.toNat, (cvtRun src target sat (x.reg a)).2) 1)

/-- Every encoding of FP32, BF16 and FP16 that is not a NaN is the encoding of its own value, without any event; a NaN
becomes the canonical NaN of its format (R91, R93, R102). Comparisons are of values: nothing compares with a NaN, the
two zeros are equal, and for other operands exactly one of less, equal and greater holds (R105). -/
def Obligations.FloatsRoundTripAndOrder : Prop :=
  (∀ (f : FpFmt), f ∈ [fp32, bf16, fp16] → ∀ b, b < 2 ^ (f.e + f.m + 1) →
     (fpDec f b = .nan → fpEnc f false (fpDec f b) = (f.canonNan, 0)) ∧
     (fpDec f b ≠ .nan → fpEnc f false (fpDec f b) = (b, 0))) ∧
  (∀ (f : FpFmt) (a b : Nat),
     (fpDec f a = .nan ∨ fpDec f b = .nan → ∀ op, fpRel f op a b = false) ∧
     (fpDec f a ≠ .nan → fpDec f b ≠ .nan →
       (fpRel f 2 a b = true ↔ fpRel f 1 a b = true ∨ fpRel f 0 a b = true) ∧
       (fpRel f 0 a b = fpRel f 0 b a) ∧ (fpRel f 1 a b = true → fpRel f 1 b a = false) ∧
       (fpRel f 1 a b = true ∨ fpRel f 0 a b = true ∨ fpRel f 1 b a = true) ∧
       (fpRel f 0 a b = true → fpRel f 1 a b = false)))

/-! ## Loads and stores (R131 to R139) -/

/-- A load that hits the L1 writes the bytes at its address, zero-extended or sign-extended; LDL reads 8 bytes at 8 ×
imm20 from the PC rounded down to 8 (R131, R134). A load that misses the L1, or whose hint bypasses it, asks for its
line and waits with its PC on it (R132, R135); the reply then writes the register, and the next instruction is due. -/
def Obligations.LoadsComplete : Prop :=
  (∀ (s u w : State) (x : Thread) (t d a hint : Nat) (k : BitVec 12) (m : BitVec 20) (p : Phys) (l : L1Line),
     let ea := (((x.reg a).toInt + k.toInt) % 2 ^ 64).toNat
     let pool := (((x.pc / 8 * 8 : Nat) + 8 * m.toInt) % 2 ^ 64).toNat
     let raw (n : Nat) := l.data.toNat / 2 ^ (8 * (physAddr p % 128)) % 2 ^ (8 * n)
     let neg (n : Nat) : Int := if raw n < 2 ^ (8 * n - 1) then raw n else (raw n : Int) - 2 ^ (8 * n)
     (LoadHits (.ldl t d m) s u w x 8 0 pool p l → LoadsFrom (.ldl t d m) s w x l d (BitVec.ofNat 64 (raw 8))) ∧
     (LoadHits (.ldu8 t d a hint k) s u w x 1 hint ea p l →
       LoadsFrom (.ldu8 t d a hint k) s w x l d (BitVec.ofNat 64 (raw 1))) ∧
     (LoadHits (.lds8 t d a hint k) s u w x 1 hint ea p l →
       LoadsFrom (.lds8 t d a hint k) s w x l d (BitVec.ofInt 64 (neg 1))) ∧
     (LoadHits (.ldu16 t d a hint k) s u w x 2 hint ea p l →
       LoadsFrom (.ldu16 t d a hint k) s w x l d (BitVec.ofNat 64 (raw 2))) ∧
     (LoadHits (.lds16 t d a hint k) s u w x 2 hint ea p l →
       LoadsFrom (.lds16 t d a hint k) s w x l d (BitVec.ofInt 64 (neg 2))) ∧
     (LoadHits (.ldu32 t d a hint k) s u w x 4 hint ea p l →
       LoadsFrom (.ldu32 t d a hint k) s w x l d (BitVec.ofNat 64 (raw 4))) ∧
     (LoadHits (.lds32 t d a hint k) s u w x 4 hint ea p l →
       LoadsFrom (.lds32 t d a hint k) s w x l d (BitVec.ofInt 64 (neg 4))) ∧
     (LoadHits (.ld64 t d a hint k) s u w x 8 hint ea p l →
       LoadsFrom (.ld64 t d a hint k) s w x l d (BitVec.ofNat 64 (raw 8)))) ∧
  ((∀ (s u w : State) (x : Thread) (t d a hint : Nat) (k : BitVec 12) (m : BitVec 20) (p : Phys),
     let ea := (((x.reg a).toInt + k.toInt) % 2 ^ 64).toNat
     let pool := (((x.pc / 8 * 8 : Nat) + 8 * m.toInt) % 2 ^ 64).toNat
     (∀ q, p ≠ .bad q) →
     (LoadMisses (.ldl t d m) s u w x 8 0 pool p → LoadAsks (.ldl t d m) s w x d 8 false 0 pool p) ∧
     (LoadMisses (.ldu8 t d a hint k) s u w x 1 hint ea p →
       LoadAsks (.ldu8 t d a hint k) s w x d 1 false hint ea p) ∧
     (LoadMisses (.lds8 t d a hint k) s u w x 1 hint ea p →
       LoadAsks (.lds8 t d a hint k) s w x d 1 true hint ea p) ∧
     (LoadMisses (.ldu16 t d a hint k) s u w x 2 hint ea p →
       LoadAsks (.ldu16 t d a hint k) s w x d 2 false hint ea p) ∧
     (LoadMisses (.lds16 t d a hint k) s u w x 2 hint ea p →
       LoadAsks (.lds16 t d a hint k) s w x d 2 true hint ea p) ∧
     (LoadMisses (.ldu32 t d a hint k) s u w x 4 hint ea p →
       LoadAsks (.ldu32 t d a hint k) s w x d 4 false hint ea p) ∧
     (LoadMisses (.lds32 t d a hint k) s u w x 4 hint ea p →
       LoadAsks (.lds32 t d a hint k) s w x d 4 true hint ea p) ∧
     (LoadMisses (.ld64 t d a hint k) s u w x 8 hint ea p →
       LoadAsks (.ld64 t d a hint k) s w x d 8 false hint ea p)) ∧
   (∀ (s : State) (x : Thread) (t d size hint va q : Nat) (sg : Bool) (p : Phys) (r : Reply),
     s.live = true → s.bayRuns (bayOfSlot t) = true → s.thread t = some x → d < 64 →
     x.st = .waiting (.data d size sg hint va p q) → s.cmp.replies.find? (fun r => r.slot = t) = some r →
     answers (.data d size sg hint va p q) r = true → r.status = 0 → r.poison = 0 →
     ∃ v y, exec (.threadMemoryReply t .fabric) s = .next v ∧ v.thread t = some y ∧
       HasWritten x y d (loadValue r.data (physAddr p) size sg) ∧
       y = { x with regs := y.regs, pc := (x.pc + 4) % 2 ^ 64, st := .ready } ∧
       v.cmp.replies = s.cmp.replies.erase r ∧
       (hint < 3 → ∃ l ∈ v.l1 (cellOfSlot t), l.target = physLine p ∧ l.data = r.data)))

/-- Stores to this stack's memory: the low bytes of the register go to the slice of the address, no other byte is
enabled, and the thread goes on while the store is on its way (R131, R132, R134). -/
def Obligations.StoresGoToSlices : Prop :=
  ∀ (s u w : State) (x : Thread) (t v a hint addr : Nat) (k : BitVec 12),
    let ea := (((x.reg a).toInt + k.toInt) % 2 ^ 64).toNat
    (StoreMay (.st8 t v a hint k) s u w x 1 ea addr → StoreGoes (.st8 t v a hint k) s w x 1 hint addr (x.reg v)) ∧
    (StoreMay (.st16 t v a hint k) s u w x 2 ea addr → StoreGoes (.st16 t v a hint k) s w x 2 hint addr (x.reg v)) ∧
    (StoreMay (.st32 t v a hint k) s u w x 4 ea addr → StoreGoes (.st32 t v a hint k) s w x 4 hint addr (x.reg v)) ∧
    (StoreMay (.st64 t v a hint k) s u w x 8 ea addr → StoreGoes (.st64 t v a hint k) s w x 8 hint addr (x.reg v))

/-- Faults that end a thread (R131, R148, R149): code 2 for an access whose address is not a multiple of its size and for
a jump to an address that is not 4-byte aligned, code 1 for a word that decodes to no instruction (R130), code 7 for a
barrier operation on a counter that its thread may not use, code 8 for BRK where breakpoints are disabled. The thread's
slot is free, its task counts the abnormal end and keeps its first fault, and with abort_on_fault the other threads of
the task are to end with code 10. -/
def Obligations.ThreadFaultsEnd : Prop :=
  ∀ (s u : State) (x : Thread) (t d a hint ctr : Nat) (k : BitVec 12) (j : BitVec 14) (w : BitVec 32) (i : Instr),
    let ea := (((x.reg a).toInt + k.toInt) % 2 ^ 64).toNat
    let target := (((x.reg a).toInt + j.toInt) % 2 ^ 64).toNat
    (∀ h ∈ u.cel.xbar, h.who ≠ .thread t) →
    (Runs i s u x → ea % 2 ≠ 0 →
      i ∈ [.ldu16 t d a hint k, .lds16 t d a hint k, .ldu32 t d a hint k, .lds32 t d a hint k, .ld64 t d a hint k,
        .st16 t d a hint k, .st32 t d a hint k, .st64 t d a hint k] →
      ∃ v, exec i s = .next v ∧ EndsWith u v t x ⟨2, x.idx, x.pc, ea, 0, t / 128 / 24, t / 128 % 24,
        bayOfCell (t / 128), t % 128 / 8, wordOfInstr i⟩) ∧
    (Runs i s u x → target % 4 ≠ 0 → i = .jmpr t a j ∨ i = .callr t a j →
      ∃ v, exec i s = .next v ∧ EndsWith u v t x ⟨2, x.idx, x.pc, target, 0, t / 128 / 24, t / 128 % 24,
        bayOfCell (t / 128), t % 128 / 8, wordOfInstr i⟩) ∧
    (s.thread t = some x → s.issues t = true → x.ending = none → isaDecode t ⟨[], false⟩ w = none →
      fetch s t x = (u, true) → u.thread t = some x →
      ∃ v, exec (.illegalInstruction t w) s = .next v ∧ EndsWith u v t x ⟨1, x.idx, x.pc, 0, 0, t / 128 / 24,
        t / 128 % 24, bayOfCell (t / 128), t % 128 / 8, w.toNat⟩) ∧
    (Runs i s u x → 16 ≤ ctr → i = .barrierArrive t 0 d ctr ∨ i = .barrierWait t 0 a ctr ∨ i = .barrierQuery t 0 d ctr →
      ∃ v, exec i s = .next v ∧ EndsWith u v t x ⟨7, x.idx, x.pc, 0, 0, t / 128 / 24, t / 128 % 24,
        bayOfCell (t / 128), t % 128 / 8, wordOfInstr i⟩) ∧
    (Runs (.brk t) s u x → u.fld rDbgLevel fDbgLevelBrkEn = 0 →
      ∃ v, exec (.brk t) s = .next v ∧ EndsWith u v t x ⟨8, x.idx, x.pc, 0, 0, t / 128 / 24, t / 128 % 24,
        bayOfCell (t / 128), t % 128 / 8, wordOfInstr (.brk t)⟩)

/-- SACC sends the sector of registers d to d + 3 with the lane mask of b to the slice of its address; PREF into the
slice asks for the line and holds nothing up; CINV leaves no line of its address in the cell's L1 (R113, R131, R134). -/
def Obligations.AccumulateAndHintsGo : Prop :=
  (∀ (s u w : State) (x : Thread) (t op d a b addr : Nat),
    Runs (.sacc t op d a b) s u x → (x.reg a).toNat % 32 = 0 → x.stores.length < 4 →
    Translates (.sacc t op d a b) u w x (x.reg a).toNat .update (.hbm addr) → w.mayWrite t addr = true →
    ∃ v y q, exec (.sacc t op d a b) s = .next v ∧ v.thread t = some y ∧
      y = { x with
        pc := (x.pc + 4) % 2 ^ 64
        issue := x.issue + 1
        word := wordOfInstr (.sacc t op d a b)
        stores := x.stores ++ [⟨.hbm addr, 32, q⟩]
        st := .ready } ∧
      (∃ data : Sector, (∀ j, j < 4 → data.extractLsb' (64 * j) 64 = x.reg (d + j)) ∧
        v.cel.xbar = w.cel.xbar ++ [⟨.thread t, addr, 0, .accum op ((x.reg b).setWidth 16) data false⟩]) ∧
      v.l1Find (cellOfSlot t) (.hbm addr) = none) ∧
  (∀ (s u : State) (x : Thread) (t a hint addr : Nat) (k : BitVec 12),
    Runs (.pref t 1 a hint k) s u x →
    lookup u x.m (((x.reg a).toInt + k.toInt) % 2 ^ 64).toNat .read (some (bayOfSlot t)) = some (.hbm addr) →
    u.permits (.thread t) false addr = true → u.poolAllows (.thread t) true (lineAddr addr) = true →
    ∃ v y, exec (.pref t 1 a hint k) s = .next v ∧ v.thread t = some y ∧
      Passed (.pref t 1 a hint k) 1 x y ((x.pc + 4) % 2 ^ 64) x.regs ∧
      v.cel.xbar = u.cel.xbar ++ [⟨.thread t, addr, if hint = 3 then 0 else hint, .pref⟩]) ∧
  (∀ (s u w : State) (x : Thread) (t a : Nat) (k : BitVec 12) (p : Phys),
    Runs (.cinv t a k) s u x →
    Translates (.cinv t a k) u w x (((x.reg a).toInt + k.toInt) % 2 ^ 64).toNat .read p →
    ∃ v y, exec (.cinv t a k) s = .next v ∧ v.thread t = some y ∧
      Passed (.cinv t a k) 1 x y ((x.pc + 4) % 2 ^ 64) x.regs ∧ v.l1Find (cellOfSlot t) p = none ∧
      ∀ q, physLine q ≠ physLine p → v.l1Find (cellOfSlot t) q = w.l1Find (cellOfSlot t) q)

/-- Fences (R131, R136 to R138): a release passes once every earlier store of the thread is performed and waits before
that; an acquire empties the cell's L1; a full fence does both. Barrier operations on a bay counter that its thread
may use (R140, R141): INIT sets the target of an idle counter and writes 0, ARRIVE writes the phase and counts, at the
target it clears the count and inverts the phase; WAIT passes as an acquire when the phase is no longer that of its
register, and waits else; QUERY reads target, count and phase. -/
def Obligations.FencesAndBarriers : Prop :=
  (∀ (s u : State) (x : Thread) (t : Nat),
     (Runs (.fenceRelease t) s u x → x.stores = [] →
       GoesTo (.fenceRelease t) s u x ((x.pc + 4) % 2 ^ 64)) ∧
     (Runs (.fenceAcquire t) s u x → Acquires (.fenceAcquire t) s x) ∧
     (Runs (.fenceFull t) s u x → x.stores = [] → Acquires (.fenceFull t) s x) ∧
     (∀ i, i = .fenceRelease t ∨ i = .fenceFull t → Runs i s u x → x.stores ≠ [] →
       ∃ v, exec i s = .next v ∧ v.thread t = some { x.issued i with st := .waiting (.stores 0) } ∧
         { v with cmp := u.cmp } = u)) ∧
  (∀ (s u : State) (x : Thread) (t d a c : Nat),
     let key := 16 * bayOfCell (t / 128) + c
     let b := u.bar key
     c < 16 →
     (Runs (.barrierInit t 0 d a c) s u x → b.count = 0 → u.barWaited key = false → b.awaiting = false →
       1 ≤ (x.reg a).toNat → (x.reg a).toNat ≤ 131071 →
       ∃ v y, exec (.barrierInit t 0 d a c) s = .next v ∧ v.thread t = some y ∧ HasWritten x y d 0 ∧
         v.bar key = { b with target := (x.reg a).toNat } ∧ ∀ j, j ≠ key → v.bar j = u.bar j) ∧
     (Runs (.barrierArrive t 0 d c) s u x → x.stores = [] → b.target ≠ 0 → b.awaiting = false →
       b.count + 1 ≠ b.target →
       ∃ v y, exec (.barrierArrive t 0 d c) s = .next v ∧ v.thread t = some y ∧
         HasWritten x y d (if b.phase then 1 else 0) ∧
         v.bar key = { b with count := b.count + 1 } ∧ ∀ j, j ≠ key → v.bar j = u.bar j) ∧
     (Runs (.barrierArrive t 0 d c) s u x → x.stores = [] → b.target ≠ 0 → b.awaiting = false →
       b.count + 1 = b.target → u.barHolders key = [] →
       ∃ v y, exec (.barrierArrive t 0 d c) s = .next v ∧ v.thread t = some y ∧
         HasWritten x y d (if b.phase then 1 else 0) ∧
         v.bar key = { b with count := 0, phase := !b.phase } ∧
         ∀ k z, u.thread k = some z → k ≠ t → z.st = .waiting (.bar key b.phase) →
           ∃ z', v.thread k = some z' ∧ z'.st = .ready ∧ z'.pc = (z.pc + 4) % 2 ^ 64) ∧
     (Runs (.barrierWait t 0 a c) s u x → b.target ≠ 0 → b.phase ≠ (x.reg a).getLsbD 0 →
       Acquires (.barrierWait t 0 a c) s x) ∧
     (Runs (.barrierWait t 0 a c) s u x → b.target ≠ 0 → b.phase = (x.reg a).getLsbD 0 →
       ∃ v y, exec (.barrierWait t 0 a c) s = .next v ∧ v.thread t = some y ∧ y.st = .waiting (.bar key b.phase) ∧
         y.pc = x.pc ∧ v.cmp.bars = u.cmp.bars) ∧
     (Runs (.barrierQuery t 0 d c) s u x →
       Computes (.barrierQuery t 0 d c) s u x d
         (BitVec.ofNat 64 (b.target + 2 ^ 17 * b.count + 2 ^ 34 * (if b.phase then 1 else 0))) 1))

/-! ## Barriers, flags, tasks and system instructions (R120 to R128, R138 to R147) -/

/-- Flag operations of a thread (R144 to R146): SET and ADD send the word to the slice of the flag and wait for the old
word; WAIT sends its condition; with rel they go only after every earlier store of the thread. The replies write
d, and a WAIT's is an acquire; a timeout in the gap before a reissue gives the word last seen, and a retry sends the
WAIT again. -/
def Obligations.FlagsAskAndAnswer : Prop :=
  (∀ (s u w : State) (x : Thread) (t d a b addr : Nat) (rel : Bool) (i : Instr) (op : SliceOp),
    (i = .flagSet t d a b rel ∧ op = .flagSet (x.reg b) ∨ i = .flagAdd t d a b rel ∧ op = .flagAdd (x.reg b)) →
    Runs i s u x → (x.reg a).toNat % 8 = 0 → (rel = true → x.stores = []) → x.stores.length < 4 →
    Translates i u w x (x.reg a).toNat .update (.hbm addr) → w.mayWrite t addr = true →
    ∃ v y q, exec i s = .next v ∧ v.thread t = some y ∧
      y = { x with
        issue := x.issue + 1
        word := wordOfInstr i
        stores := x.stores ++ [⟨.hbm addr, 8, q⟩]
        st := .waiting (.flagReply d (.hbm addr) (x.reg a).toNat q) } ∧
      v.cel.xbar = w.cel.xbar ++ [⟨.thread t, addr, 0, op⟩]) ∧
  (∀ (s u w : State) (x : Thread) (t d a b cond addr : Nat),
    Runs (.flagWait t d a b cond) s u x → (x.reg a).toNat % 8 = 0 →
    Translates (.flagWait t d a b cond) u w x (x.reg a).toNat .read (.hbm addr) →
    ∃ v y, exec (.flagWait t d a b cond) s = .next v ∧ v.thread t = some y ∧
      y = { x with
        issue := x.issue + 1
        word := wordOfInstr (.flagWait t d a b cond)
        st := .waiting (.flagWait d cond (x.reg b) (.hbm addr) (x.reg a).toNat false) } ∧
      v.cel.xbar = w.cel.xbar ++ [⟨.thread t, addr, 0, .flagWait cond (x.reg b)⟩]) ∧
  (∀ (s : State) (x : Thread) (t d cond va q : Nat) (vv last : Word) (p : Phys) (r : Reply),
    s.live = true → s.thread t = some x → d < 64 →
    (s.bayRuns (bayOfSlot t) = true → s.cmp.replies.find? (fun r => r.slot = t) = some r → r.status = 0 →
      (x.st = .waiting (.flagReply d p va q) → answers (.flagReply d p va q) r = true →
        ∃ v y, exec (.threadMemoryReply t .fabric) s = .next v ∧ v.thread t = some y ∧ HasWritten x y d r.word ∧
          y.pc = (x.pc + 4) % 2 ^ 64 ∧ y.st = .ready) ∧
      (x.st = .waiting (.flagWait d cond vv p va false) → answers (.flagWait d cond vv p va false) r = true →
        ∃ v y, exec (.threadMemoryReply t .fabric) s = .next v ∧ v.thread t = some y ∧ HasWritten x y d r.word ∧
          y.pc = (x.pc + 4) % 2 ^ 64 ∧ y.st = .ready ∧ v.l1 (cellOfSlot t) = [])) ∧
    (x.st = .waiting (.flagRetry d cond vv p va last) → x.reg d ≠ 0 →
      ∃ v y, exec (.flagWaitTimeout t) s = .next v ∧ v.thread t = some y ∧ HasWritten x y d last ∧
        y.pc = (x.pc + 4) % 2 ^ 64 ∧ y.st = .ready ∧ v.l1 (cellOfSlot t) = []) ∧
    (x.st = .waiting (.flagWait d cond vv p va false) → x.reg d ≠ 0 → (∀ f, p ≠ .remote f) →
      exec (.flagWaitTimeout t) s =
        .next (s.setThread t { x with st := .waiting (.flagWait d cond vv p va true) })) ∧
    (∀ addr, x.st = .waiting (.flagRetry d cond vv (.hbm addr) va last) →
      ∃ v, exec (.flagWaitRetry t) s = .next v ∧
        v.thread t = some { x with st := .waiting (.flagWait d cond vv (.hbm addr) va false) } ∧
        v.cel.xbar = s.cel.xbar ++ [⟨.thread t, addr, 0, .flagWait cond vv⟩]))

/-- RDS reads the system values of R128; BRK halts its thread at the next instruction and shows it in DBG_BRK and
DBG_BRK_PC where breakpoints are enabled (R498), and BRK_RESUME lets every halted thread go on; EXIT frees the slot
and leaves its task with one thread fewer (R126). OPCALL and SPAWN (R125, R147, R164): an accepted tile or task enters
its queue behind the others and d reads 0; a full queue, a queue that does not yet accept work and a misaligned
descriptor are refused by their codes, and nothing is queued. -/
def Obligations.SystemAndSubmit : Prop :=
  ((∀ (s u : State) (x : Thread) (t d : Nat) (r : TaskRun), smGet u.cmp.tasks x.task = some r →
     (Runs (.rds t d 0) s u x → Computes (.rds t d 0) s u x d (BitVec.ofNat 64 x.idx) 1) ∧
     (Runs (.rds t d 1) s u x → Computes (.rds t d 1) s u x d (BitVec.ofNat 64 r.desc.n) 1) ∧
     (Runs (.rds t d 2) s u x →
       Computes (.rds t d 2) s u x d (BitVec.ofNat 64 (t / 128 / 24 * 256 + t / 128 % 24)) 1) ∧
     (Runs (.rds t d 3) s u x → Computes (.rds t d 3) s u x d (BitVec.ofNat 64 (bayOfCell (t / 128))) 1) ∧
     (Runs (.rds t d 4) s u x → Computes (.rds t d 4) s u x d (BitVec.ofNat 64 u.stackId) 1) ∧
     (Runs (.rds t d 5) s u x → Computes (.rds t d 5) s u x d (BitVec.ofNat 64 u.trellisId) 1) ∧
     (Runs (.rds t d 6) s u x → Computes (.rds t d 6) s u x d (BitVec.ofNat 64 x.part) 1) ∧
     (Runs (.rds t d 7) s u x → Computes (.rds t d 7) s u x d (BitVec.ofNat 64 x.ctx) 1) ∧
     (Runs (.rds t d 8) s u x → Computes (.rds t d 8) s u x d (BitVec.ofNat 64 x.issue) 1)) ∧
   (∀ (s u : State) (x : Thread) (t : Nat), Runs (.brk t) s u x → 2 ≤ u.level →
     u.fld rDbgLevel fDbgLevelBrkEn = 1 → u.fld rDbgLevel fDbgLevelBrkFreeze = 0 → u.sealed x.part = false →
     ∃ v y, exec (.brk t) s = .next v ∧ v.thread t = some y ∧ y.st = .halted ∧ y.pc = (x.pc + 4) % 2 ^ 64 ∧
       v.dbg.halted = u.dbg.halted ++ [t] ∧ v.reg rDbgBrkPc = BitVec.ofNat 64 x.pc ∧
       v.fld rDbgEvent fDbgEventBrk = 1) ∧
   (∀ (s u : State) (x : Thread) (t : Nat) (r : TaskRun), Runs (.exit t) s u x → x.stores = [] →
     (∀ h ∈ u.cel.xbar, h.who ≠ .thread t) → smGet u.cmp.tasks x.task = some r → 1 < r.live →
     ∃ v, exec (.exit t) s = .next v ∧ v.thread t = none ∧
       smGet v.cmp.tasks x.task = some { r with live := r.live - 1 } ∧
       ∀ k, k ≠ t → v.thread k = u.thread k) ∧
   (∀ (s : State) (f : Fn), s.canWrite f rDbgBrk = true →
     ∃ v, exec (.brkResume f) s = .next v ∧ v.dbg.halted = [] ∧
       ∀ t x, s.thread t = some x →
         v.thread t = some (if t ∈ s.dbg.halted then { x with st := .ready } else x))) ∧
  ((∀ (s u : State) (x : Thread) (t d a q : Nat), Runs (.opcall t d a q) s u x → x.stores = [] →
     let k := 4 * bayOfCell (t / 128) + q
     (u.enabled = true → (u.opq k).length < 64 → u.tileCode x.part (x.desc a) = 0 →
       ∃ v y, exec (.opcall t d a q) s = .next v ∧ v.thread t = some y ∧ HasWritten x y d 0 ∧
         v.opq k = u.opq k ++ [⟨u.cmp.nextTile, x.part, x.ctx, x.desc a, false, [], []⟩] ∧
         (∀ j, j ≠ k → v.opq j = u.opq j) ∧ v.cmp.nextTile = u.cmp.nextTile + 1) ∧
     (u.enabled = false ∨ 64 ≤ (u.opq k).length →
       ∃ v y, exec (.opcall t d a q) s = .next v ∧ v.thread t = some y ∧ HasWritten x y d 1 ∧
         v.cmp.opq = u.cmp.opq) ∧
     (u.enabled = true → (u.opq k).length < 64 → u.tileCode x.part (x.desc a) ≠ 0 →
       ∃ v y, exec (.opcall t d a q) s = .next v ∧ v.thread t = some y ∧
         HasWritten x y d (BitVec.ofNat 64 (u.tileCode x.part (x.desc a))) ∧ v.cmp.opq = u.cmp.opq ∧
         v.fld (rCmpOpqStat (bayOfCell (t / 128)) q) fCmpOpqStatRefused = 1)) ∧
   (∀ (s u w : State) (x : Thread) (t d a : Nat) (desc : ReadData) (l : List Byte),
     Runs (.spawn t d a desc) s u x → x.stores = [] →
     (u.enabled = false ∨ 64 ≤ (u.context x.m).queue.length →
       Computes (.spawn t d a desc) s u x d 1 1) ∧
     (u.enabled = true → (u.context x.m).queue.length < 64 → (x.reg a).toNat % 64 ≠ 0 →
       Computes (.spawn t d a desc) s u x d 2 1) ∧
     (u.enabled = true → (u.context x.m).queue.length < 64 → (x.reg a).toNat % 64 = 0 →
       unitRead u ⟨.thread t, x.m, (x.reg a).toNat, .read, bayOfSlot t, 0⟩ 64 desc = (w, .bytes l) →
       w.thread t = some (x.issued (.spawn t d a desc)) →
       ∃ v y, exec (.spawn t d a desc) s = .next v ∧ v.thread t = some y ∧
         HasWritten x y d (BitVec.ofNat 64 (w.taskCode x.m l)) ∧
         v.context x.m = { w.context x.m with
           queue := (w.context x.m).queue ++ if w.taskCode x.m l = 0 then [taskOf l] else [] })))

/-! ## Tasks and contexts (R119 to R127, R151 to R153) -/

/-- Submission and start of tasks: a doorbell starts the read of its descriptor, or is refused with code 1 once 64
tasks wait; the descriptor read queues an accepted task behind the others or refuses it by its code (R123, R125); a
start takes the oldest task of the next context in rotation and gives each of its threads a free slot with the
registers of R127 (R119, R121). The dispatcher of a bay serves a queue of the higher level while one has a tile to
start, and the queues of one level in turn (R166); a piece goes to an eligible bay of the lowest cost, of equal ones
to the first after the bay chosen last (R263, R264). -/
def Obligations.TasksQueueAndStart : Prop :=
  ((∀ (s : State) (f : Fn) (m : Nat) (desc : Word), s.canWrite f (rCmpTaskDb m) = true → m < 1024 →
     (s.enabled = true → (s.context m).queue.length < 64 →
       Acts (.taskDoorbell f m desc) s ([.cmp, .xlt, .ral, .pwr] ++ tracedIn) (fun v =>
         v.context m = { s.context m with reading := (s.context m).reading ++ [desc] })) ∧
     (64 ≤ (s.context m).queue.length →
       Acts (.taskDoorbell f m desc) s (.pwr :: raisedIn) (fun v =>
         v.fld (rCmpTaskStat m) fCmpTaskStatRefuseCode = 1 ∧ v.fld (rCmpTaskStat m) fCmpTaskStatOverflow = 1))) ∧
   (∀ (s u : State) (m : Nat) (a : Word) (rest : List Word) (desc : ReadData) (l : List Byte), s.live = true →
     (s.context m).reading = a :: rest → unitRead s (taskWaiter m a) 64 desc = (u, .bytes l) →
     u.context m = s.context m →
     (u.taskCode m l = 0 →
       ∃ v, exec (.taskDescReadDone m desc) s = .next v ∧ Only [.cmp, .regs] u v ∧
         v.context m = { s.context m with reading := rest, queue := (s.context m).queue ++ [taskOf l] } ∧
         v.fld (rCmpTaskStat m) fCmpTaskStatAccepted = (u.fld (rCmpTaskStat m) fCmpTaskStatAccepted + 1) % 2 ^ 16) ∧
     (u.taskCode m l ≠ 0 →
       ∃ v, exec (.taskDescReadDone m desc) s = .next v ∧ Only (.cmp :: raisedIn) u v ∧
         v.context m = { s.context m with reading := rest } ∧
         v.fld (rCmpTaskStat m) fCmpTaskStatRefuseCode = u.taskCode m l)) ∧
   (∀ (s : State) (p c : Nat) (d : TaskDesc), s.live = true → s.enabled = true →
     (s.rotation p).find? (fun c => (s.startable (64 * p + c)).isSome) = some c →
     s.startable (64 * p + c) = some d → c < 64 →
     let slots := (s.slotOrder p d.bayHint).take d.n
     slots.Nodup →
     Acts (.taskStart p) s ([.cmp, .pwr] ++ tracedIn) (fun v =>
       v.cmp.nextTask = s.cmp.nextTask + 1 ∧
       (v.context (64 * p + c)).queue = (s.context (64 * p + c)).queue.drop 1 ∧
       (∀ t, t ∉ slots → v.thread t = s.thread t) ∧
       ∀ k t, slots[k]? = some t → ∃ y, v.thread t = some y ∧ y.part = p ∧ y.ctx = c ∧ y.task = s.cmp.nextTask ∧
         y.idx = k ∧ y.pc = d.entry ∧ y.st = .ready ∧ y.reg 0 = d.arg ∧ y.reg 1 = BitVec.ofNat 64 k ∧
         y.reg 2 = BitVec.ofNat 64 d.n ∧
         y.reg 61 = BitVec.ofNat 64 (if d.stackSize = 0 then 0 else d.stackBase + (k + 1) * d.stackSize)))) ∧
  ((∀ (s : State) (b q : Nat), s.nextQueue b = some q →
     let waits (j : Nat) : Prop := (s.opq (4 * b + j)).any Tile.startable = true
     q < 4 ∧ waits q ∧ (2 ≤ q → ¬ waits 0 ∧ ¬ waits 1) ∧
     (∀ l k, l < 2 → k < 2 → smGetD s.cmp.qTurn (2 * b + l) 1 = k → q = 2 * l + k → ¬ waits (2 * l + (1 - k)))) ∧
   (∀ (s : State) (b : Nat), s.nextQueue b = none → ∀ q, q < 4 → (s.opq (4 * b + q)).any Tile.startable = false) ∧
   (∀ (s : State) (cost : Nat → Nat) (last b : Nat) (bs : List Nat), s.chooseBay cost last bs = some b →
     b ∈ bs ∧ ∀ j ∈ bs, j < 32 → cost b ≤ cost j ∧
       (cost j = cost b → (b + 31 - last % 32) % 32 ≤ (j + 31 - last % 32) % 32)))

/-- Operations on a context (R151 to R153): each is refused by its code in a state that does not admit it; a suspend stops
the threads and ends, once none of their accesses is in flight, with their state saved and their slots free; a resume
restores every thread; an abort ends them all and discards the queued tasks; op 0 gives result 5. -/
def Obligations.ContextsSuspendAndResume : Prop :=
  (∀ (s : State) (f : Fn) (p c : Nat), s.canWrite f rCmpCtxCtrl = true → p < 16 → c < 64 →
    s.fld rCmpCtxCtrl fCmpCtxCtrlBusy = 0 →
    let m := 64 * p + c
    let ends (i : Instr) (r : Nat) : Prop := Acts i s (.pwr :: tracedIn) (fun v =>
      v.fld rCmpCtxCtrl fCmpCtxCtrlResult = r ∧ v.fld rCmpCtxCtrl fCmpCtxCtrlBusy = 0)
    ends (.ctxNoOp f p c) 5 ∧
    (s.mapped p f = false → ends (.ctxSuspend f p c) 3 ∧ ends (.ctxResume f p c) 3 ∧ ends (.ctxAbort f p c) 3) ∧
    (s.mapped p f = true →
      (s.ctxState m = 2 ∨ s.ctxState m = 3 → ends (.ctxSuspend f p c) 2) ∧
      (s.ctxState m = 0 ∨ s.ctxState m = 1 → s.saveOk p s.saveReg = false → ends (.ctxSuspend f p c) 4) ∧
      (s.ctxState m = 0 ∨ s.ctxState m = 1 → s.saveOk p s.saveReg = true →
        (∀ r ∈ s.ral.reqs, ∀ t, r.who ≠ .thread t) →
        Acts (.ctxSuspend f p c) s ([.cmp, .xlt, .cel, .pwr] ++ tracedIn) (fun v =>
          v.fld rCmpCtxCtrl fCmpCtxCtrlBusy = 1 ∧
          v.context m = { s.context m with state := 3, op := 1, saveAddr := s.saveReg } ∧
          ∀ t x, s.thread t = some x → x.m = m → ∃ y, v.thread t = some y ∧ y.stopping = true ∧ y.pc = x.pc)) ∧
      (s.ctxState m = 2 → s.saveOk p s.saveReg = true → s.saveReg = (s.context m).saveAddr →
        (s.context m).saved.length ≤ s.slotsOf p →
        Acts (.ctxResume f p c) s ([.cmp, .pwr] ++ tracedIn) (fun v =>
          v.fld rCmpCtxCtrl fCmpCtxCtrlBusy = 1 ∧ v.context m = { s.context m with op := 2 })) ∧
      (s.ctxState m = 0 → ends (.ctxResume f p c) 7 ∧ ends (.ctxAbort f p c) 2) ∧
      (s.ctxState m ≠ 0 → ∃ v, exec (.ctxAbort f p c) s = .next v ∧ v.pending = s.pending ∧
        v.fld rCmpCtxCtrl fCmpCtxCtrlResult = 1 ∧ (v.context m).state = 0 ∧ (v.context m).queue = [] ∧
        ∀ t x, v.thread t = some x → x.m ≠ m))) ∧
  (∀ (s : State) (m : Nat), s.live = true → (s.context m).state = 3 →
    (∀ e ∈ s.cmp.thr, e.2.m = m → (e.2.st = .ready ∨ e.2.st = .halted) ∧ e.2.stores = []) →
    ∃ v, exec (.ctxSuspendDone m) s = .next v ∧ v.pending = s.pending ∧
      v.context m = { s.context m with
        state := 2
        op := 0
        saved := (s.cmp.thr.filter (fun e => e.2.m = m)).map (fun e => { e.2 with st := .ready, stopping := false }) } ∧
      v.fld rCmpCtxCtrl fCmpCtxCtrlBusy = 0 ∧ v.fld rCmpCtxCtrl fCmpCtxCtrlResult = 1 ∧
      ∀ t x, v.thread t = some x → x.m ≠ m) ∧
  (∀ (s : State) (m : Nat), s.live = true → (s.context m).op = 2 →
    (s.context m).saved.length ≤ (s.slotOrder (m / 64) 0xFF).length → (s.slotOrder (m / 64) 0xFF).Nodup →
    Acts (.ctxResumeStart m) s [.regs, .cmp, .pwr] (fun v =>
      (v.context m).state = 0 ∧ (v.context m).op = 0 ∧
      v.fld rCmpCtxCtrl fCmpCtxCtrlBusy = 0 ∧ v.fld rCmpCtxCtrl fCmpCtxCtrlResult = 1 ∧
      ∀ (k : Nat) (t : Nat) (x : Thread), (s.slotOrder (m / 64) 0xFF)[k]? = some t → (s.context m).saved[k]? = some x →
        v.thread t = some x))

/-! ## Tiles (R163 to R174, R263, R264) -/

/-- A dispatch cuts the tile at the head of its queue and starts the first piece: its pages are translated, or it waits
for those that are missing (R166 to R169). A translated piece stands on the bay chosen; a piece whose reads and writes
are done ends with its status, and a tile with other pieces stays in its queue (R169, R170). -/
def Obligations.PiecesMove : Prop :=
  (∀ (s : State) (bay q i : Nat) (t : Tile) (o : Oper) (p : Piece) (rest : List Piece),
    s.live = true → smGetD s.pwr.bayGate bay 0 = 0 → s.nextQueue bay = some q →
    (s.opq (4 * bay + q)).find? Tile.startable = some t → ((s.opq (4 * bay + q)).map Tile.id).Nodup →
    s.operOf t.part (td t.desc 0 1) = some o →
    let m := 64 * t.part + t.ctx
    (t.cut = true ∨ (opnds o.kind t.desc).findSome? (wideRow s m bay o.kind) = none) →
    let t1 : Tile := if t.cut then t else { t with cut := true, pieces := cutTile o t.desc }
    t1.nextPiece = some i →
    fitPiece s m bay o.kind (opnds o.kind t.desc) 40 (t1.pieces.getD i (Piece.fresh 0 0 0 0 [])) [] = .fits p rest →
    let t2 : Tile := { t1 with pieces := t1.pieces.set i p ++ rest }
    let s2 : State := (updTile s (4 * bay + q) t.id (fun _ => t2))
    let s3 : State := { s2 with cmp := { s2.cmp with qTurn := smPut s.cmp.qTurn (2 * bay + q / 2) (q % 2) 1 } }
    let r := xlatPages (fun va acc => ⟨.piece bay q t.id i, m, va, acc, bay, 0⟩) ⟨s3, [], [], [], none⟩
      (piecePages s3 bay t2 o p)
    r.fault = none →
    (r.missing ≠ [] → Acts (.pieceDispatch bay) s ([.cmp, .xlt] ++ raisedIn) (fun v =>
      v.tile (4 * bay + q) t.id =
        some { t2 with pieces := t2.pieces.set i { p with ph := .translating r.missing } } ∧
      smGetD v.cmp.qTurn (2 * bay + q / 2) 1 = q % 2)) ∧
    (r.missing = [] →
      (∀ e ∈ r.places, e.2.1 = 4 ∨ s.placeStatus (.piece bay q t.id i) (tdAcc t.desc) e.1 e.2.1 = 0) →
      Acts (.pieceDispatch bay) s ([.cmp, .xlt] ++ raisedIn) (fun v =>
        v.tile (4 * bay + q) t.id =
          some { t2 with pieces := t2.pieces.set i { p with ph := .translated, trans := r.trans } } ∧
        smGetD v.cmp.qTurn (2 * bay + q / 2) 1 = q % 2))) ∧
  (∀ (s : State) (bay q tile idx b : Nat) (t : Tile) (p : Piece) (o : Oper), s.live = true → q < 4 →
    s.tile (4 * bay + q) tile = some t → t.pieces[idx]? = some p → s.operOf t.part (td t.desc 0 1) = some o →
    p.ph = .translated → (ones o.bays.toNat 32).any s.bayOn = true → (∀ f, s.replicaOf f = none) →
    s.chooseBay (s.pieceCost t.part (td t.desc 13 1)
      ((opnds o.kind t.desc).filterMap (localLines s (64 * t.part + t.ctx) o.kind t.desc p)))
      (smGetD s.cmp.lastBay bay 31) ((List.range 32).filter (s.eligible o)) = some b →
    Acts (.piecePlace bay q tile idx) s ([.cmp, .plc, .ral, .pwr] ++ tracedIn) (fun v =>
      (∃ t' p', v.tile (4 * bay + q) tile = some t' ∧ t'.pieces[idx]? = some p' ∧ p'.ph = .placed b false) ∧
      smGetD v.cmp.lastBay bay 31 = b)) ∧
  (∀ (s : State) (bay q tile idx b : Nat) (t : Tile) (p : Piece) (o : Oper) (host : List HostLine), s.live = true →
    q < 4 → s.tile (4 * bay + q) tile = some t → t.pieces[idx]? = some p →
    s.operOf t.part (td t.desc 0 1) = some o → p.ph = .placed b true → s.bayRuns b = true →
    s.pieceWaits (4 * bay + q) tile idx = false → (∃ j r, j ≠ idx ∧ t.pieces[j]? = some r ∧ r.status = none) →
    Acts (.pieceEnd bay q tile idx host) s ([.cmp, .xlt] ++ tracedIn) (fun v =>
      v.tile (4 * bay + q) tile = some { t with
        pieces := t.pieces.set idx { p with ph := .ended p.bad, trans := [], far := [] } }))

/-! ## The cellar (R181 to R221) -/

/-- Requests that find their line CLEAN or DIRTY (R196 to R198, R213, R144, R145): a read delivers the line and keeps it,
or leaves it DEAD with the last-use hint outside a sealed range; writes, accumulates and flag updates leave it DIRTY with
the new bytes and poison, and flag operations answer the old word; a WAIT ends when its condition holds, else a wait
entry holds it until its cancel. -/
def Obligations.SlicesServeRequests : Prop :=
  (∀ (s : State) (r : SReq) (n w : Nat) (f : Frame) (l : LineEnt), l.st = .clean ∨ l.st = .dirty →
    Holds s n r.addr w f l →
    let a := lineAddr r.addr
    let d := s.delivers n a l
    let off := r.addr % 128
    let sec := off / 32
    (Serves s r false n →
      Acts (.sliceRead r []) s servedIn (fun v => ReadAnswered s v r d l.poison ∧ OthersKept s v a ∧
        (r.hint < 3 → v.entriesOf n a = [{ l with hint := r.hint }]) ∧
        (r.hint = 3 → s.inSealed a = false →
          ∃ x, v.entriesOf n a = [x] ∧ x.st = .dead ∧ x.data = 0 ∧ x.poison = 0))) ∧
    (Serves s r true n →
      (∀ (data : Line) (p : BitVec 4), Fits f l (classFor data p) →
        Acts (.sliceWrite r data p []) s servedIn (fun v => LineWritten s v r n data p ∧ StorePerformed s v r)) ∧
      (∀ (be : BitVec 128) (data : Line) (p : BitVec 4), be ≠ BitVec.allOnes 128 →
        Fits f l (classFor (mergeBytes d data be) (writePoison l.poison be p)) →
        Acts (.slicePartialWrite r be data p []) s servedIn (fun v =>
          LineWritten s v r n (mergeBytes d data be) (writePoison l.poison be p) ∧ StorePerformed s v r)) ∧
      (∀ (op : Nat) (mask : BitVec 16) (x : Sector) (bad : Bool), 1 ≤ op → op < 7 →
        let nd := putSector d sec (accumSector op mask (sectorOf d sec) x)
        let np := if bad then l.poison ||| BitVec.ofNat 4 (2 ^ sec) else l.poison
        Fits f l (classFor nd np) →
        Acts (.sliceAccumulate r op mask x bad []) s servedIn (fun v =>
          LineWritten s v r n nd np ∧ StorePerformed s v r)) ∧
      (∀ (x : Word), l.poison.getLsbD sec = false →
        (Fits f l (classFor (putWord d off x) l.poison) →
          Acts (.sliceFlagSet r x []) s servedIn (fun v =>
            LineWritten s v r n (putWord d off x) l.poison ∧ FlagAnswered v r 0 (wordAt d off))) ∧
        (Fits f l (classFor (putWord d off (wordAt d off + x)) l.poison) →
          Acts (.sliceFlagAdd r x []) s servedIn (fun v =>
            LineWritten s v r n (putWord d off (wordAt d off + x)) l.poison ∧ FlagAnswered v r 0 (wordAt d off))) ∧
        (∀ cond, flagCond cond (wordAt d off) x = true →
          Acts (.sliceFlagWait r cond x []) s servedIn (fun v =>
            FlagAnswered v r 0 (wordAt d off) ∧ v.cel.frames = s.cel.frames ∧ (v.slice n).waits = (s.slice n).waits)) ∧
        (∀ cond, flagCond cond (wordAt d off) x = false → (s.slice n).waits.length < 128 →
          Acts (.sliceFlagWait r cond x []) s servedIn (fun v => v.cmp = s.cmp ∧ v.cel.frames = s.cel.frames ∧
            (v.slice n).waits = (s.slice n).waits ++ [⟨r.who, r.addr, cond, x⟩]))) ∧
      (∀ (x : Word), l.poison.getLsbD sec = true →
        Acts (.sliceFlagSet r x []) s servedIn (fun v => FlagAnswered v r 5 0 ∧ v.cel.frames = s.cel.frames)))) ∧
  (∀ (s : State) (r : SReq) (n : Nat) (e : WaitEnt), s.live = true → s.server (lineAddr r.addr) = some n →
    (s.slice n).waits.find? (fun e => e.who = r.who ∧ e.addr = r.addr) = some e →
    Acts (.sliceFlagCancel r) s servedIn (fun v => (v.slice n).waits = (s.slice n).waits.erase e ∧
      v.cel.frames = s.cel.frames ∧
      FlagAnswered v r 7 (wordAt (s.peekLine (lineAddr r.addr)) (r.addr % 128))))

/-- Lines that are not there (R196, R200, R202, R210 to R213): a read of an ABSENT line reserves a FILLING entry and waits
for the fill; a write of the whole line needs no fill; the fill makes the line CLEAN, or ZERO for a block that is not
valid, and the read that waited is answered from it; requests that waited for a place or a frame are served in their order; a
merge entry leaves the merge table. -/
def Obligations.SlicesFillAndResume : Prop :=
  (∀ (s : State) (r : SReq) (n : Nat), Serves s r false n → s.entriesOf n (lineAddr r.addr) = [] →
    let a := lineAddr r.addr
    let h : Held := ⟨r.who, r.addr, r.hint, .read r.hint⟩
    (joinEntry (s.slice n) h).isSome = true → (place s n a (LineEnt.fresh a .filling r.hint) none).isSome = true →
    Acts (.sliceRead r []) s servedIn (fun v =>
      (∃ x, v.entriesOf n a = [x] ∧ x.st = .filling) ∧ (v.slice n).waiting = (s.slice n).waiting ++ [h] ∧
      (∃ e ∈ (v.slice n).fills, e.addr = a) ∧ v.cmp = s.cmp)) ∧
  (∀ (s : State) (r : SReq) (n : Nat) (data : Line) (p : BitVec 4), Serves s r true n →
    s.entriesOf n (lineAddr r.addr) = [] →
    let a := lineAddr r.addr
    (place s n a { LineEnt.fresh a .dirty r.hint with data := data, poison := p, cls := classFor data p } none).isSome →
    Acts (.sliceWrite r data p []) s servedIn (fun v =>
      (∃ x, v.entriesOf n a = [x] ∧ x.st = .dirty ∧ x.data = data ∧ x.poison = p) ∧ StorePerformed s v r)) ∧
  (∀ (s : State) (n w : Nat) (f : Frame) (l : LineEnt) (fd : FillData), s.live = true → Free s n fd.addr →
    lineAddr fd.addr = fd.addr → Holds s n fd.addr w f l → l.st = .filling →
    s.cel.fillq.find? (fun x => x.addr = fd.addr) = some fd → (∀ e ∈ (s.slice n).merge, e.1 ≠ fd.addr) →
    Fits f l (if fd.valid then classFor fd.data fd.poison else 0) →
    let waits := (s.slice n).waiting.filter (fun y => lineAddr y.addr = fd.addr)
    let st := if fd.valid then LineSt.clean else .zero
    let d := if fd.valid then fd.data else 0
    let p := if fd.valid then fd.poison else 0
    (waits = [] → Acts (.fillArrive fd.addr) s servedIn (fun v =>
      (∃ x, v.entriesOf n fd.addr = [x] ∧ x.st = st ∧ x.data = d ∧ x.poison = p ∧ x.hint = l.hint) ∧
      OthersKept s v fd.addr ∧ v.cel.fillq = s.cel.fillq.erase fd ∧ v.cmp = s.cmp)) ∧
    (∀ k b hint, fd.valid = true → hint < 3 → waits = [⟨.thread k, b, hint, .read hint⟩] →
      Acts (.fillArrive fd.addr) s servedIn (fun v =>
        (∃ x, v.entriesOf n fd.addr = [x] ∧ x.st = .clean ∧ x.data = d ∧ x.hint = hint) ∧
        v.cmp.replies = s.cmp.replies ++ [⟨k, b, d, p, 0, 0, 0⟩] ∧
        ∀ y ∈ (v.slice n).waiting, lineAddr y.addr ≠ fd.addr))) ∧
  (∀ (s : State) (n a : Nat), s.live = true →
    Acts (.mergeEntryExpire n a) s [.cel] (fun v =>
      (v.slice n).merge = (s.slice n).merge.filter (fun e => e.1 ≠ lineAddr a) ∧ v.cel.frames = s.cel.frames)) ∧
  (∀ (s : State) (n k b hint w : Nat) (f : Frame) (l : LineEnt) (rest : List Held), s.live = true → hint < 3 →
    (l.st = .clean ∨ l.st = .dirty) → Holds s n b w f l → smWf s.cel.frames = true →
    let h : Held := ⟨.thread k, b, hint, .read hint⟩
    let served (v : State) : Prop := v.entriesOf n (lineAddr b) = [{ l with hint := hint }] ∧
      v.cmp.replies = s.cmp.replies ++ [⟨k, b, s.delivers n (lineAddr b) l, l.poison, 0, 0, 0⟩]
    ((s.slice n).side = h :: rest → Acts (.sideQueueResume n) s servedIn (fun v => (v.slice n).side = rest ∧ served v)) ∧
    ((s.slice n).victim = h :: rest →
      Acts (.victimWaitResume n) s servedIn (fun v => (v.slice n).victim = rest ∧ served v)))

/-- Range operations (R216, R217): a go with an accepted range begins, one with a range that is not accepted gives
result 4 and a bad op code result 2; on a line that its slice holds, pin sets the pinned bit within its caps (R204),
unpin clears it, clean writes a DIRTY line back and kills a DEAD one, flush also drops a line that is not pinned, kill
makes a CLEAN or DIRTY line DEAD; the operation ends once nothing of it waits, with result 1. Thrash detection,
racking and retirement of a slice (R206, R218, R219, R255): a set whose misses of the round reach the threshold is
recorded once with its partition; a racking request sets or clears the racked bit of a line held and leaves the queue;
a draining slice that has nothing in flight is retired, holds no frame, and names as its substitute the next active
slice of its HBM stack. -/
def Obligations.RangesAndDrains : Prop :=
  ((∀ (s : State) (f : Fn) (p op : Nat) (c : Instr), s.canWrite f (rCelRangeCtrl p) = true → p < 16 →
     s.fld (rCelRangeCtrl p) fCelRangeCtrlBusy = 0 →
     (op = 1 ∧ c = .rangePin f p ∨ op = 2 ∧ c = .rangeUnpin f p ∨ op = 3 ∧ c = .rangeClean f p ∨
       op = 4 ∧ c = .rangeFlush f p ∨ op = 5 ∧ c = .rangeKill f p) →
     let base := 128 * s.fld (rCelRangeBase p) fCelRangeBaseBase
     let len := 128 * s.fld (rCelRangeLen p) fCelRangeLenLen
     (s.rangeOk p op base len = true →
       Acts c s (.pci :: .pwr :: servedIn) (fun v => v.fld (rCelRangeCtrl p) fCelRangeCtrlBusy = 1 ∧
         v.fld (rCelRangeCtrl p) fCelRangeCtrlResult = 0 ∧ v.fld (rCelRangeCtrl p) fCelRangeCtrlOp = op ∧
         smGet v.cel.ranges p = some ⟨op, base, len⟩)) ∧
     (s.rangeOk p op base len = false →
       Acts c s [.regs, .pwr] (fun v => v.fld (rCelRangeCtrl p) fCelRangeCtrlResult = 4)) ∧
     (∀ k, k % 8 = 0 ∨ 5 < k % 8 →
       Acts (.rangeBadOp f p k) s [.regs, .pwr] (fun v => v.fld (rCelRangeCtrl p) fCelRangeCtrlResult = 2)) ∧
     (∀ (n w : Nat) (fr : Frame) (l : LineEnt), s.rangeOk p op base 128 = true → len = 128 → Free s n base →
       Holds s n base w fr l → l.st ≠ .filling → s.sharersOf (regionOf base) = none →
       ∃ v, exec c s = .next v ∧ OthersKept s v base ∧
         (op = 1 → l.pinned = true ∨ s.pinFits n p base = true →
           v.entriesOf n base = [{ l with pinned := true }] ∧ v.cel.hbmq = s.cel.hbmq) ∧
         (op = 2 → v.entriesOf n base = [{ l with pinned := false }] ∧ v.cel.hbmq = s.cel.hbmq) ∧
         (op = 3 ∨ op = 4 →
           (l.st = .dirty → v.cel.hbmq = s.cel.hbmq ++ [.writeBack base l.data l.poison]) ∧
           (l.st = .dead → v.cel.hbmq = s.cel.hbmq ++ [.kill base]) ∧
           (l.st = .clean ∨ l.st = .zero → v.cel.hbmq = s.cel.hbmq)) ∧
         (op = 3 → v.entriesOf n base = [{ l with
           st := if l.st = .dirty then .clean else if l.st = .dead then .zero else l.st }]) ∧
         (op = 4 → l.pinned = false → v.entriesOf n base = []) ∧
         (op = 5 → l.st = .clean ∨ l.st = .dirty →
           ∃ x, v.entriesOf n base = [x] ∧ x.st = .dead ∧ x.data = 0 ∧ x.poison = 0) ∧
         (op = 5 → l.st = .zero ∨ l.st = .dead → v.entriesOf n base = [l]))) ∧
   (∀ (s : State) (p : Nat) (r : RangeOp), s.live = true → smGet s.cel.ranges p = some r →
     s.rangeWaits r.base r.len = false →
     Acts (.rangeDone p) s [.regs, .cel] (fun v => smGet v.cel.ranges p = none ∧
       v.fld (rCelRangeCtrl p) fCelRangeCtrlBusy = 0 ∧ v.fld (rCelRangeCtrl p) fCelRangeCtrlResult = 1 ∧
       v.cel.frames = s.cel.frames))) ∧
  ((∀ (s : State) (n set : Nat), s.live = true → n < 192 → set < 32768 →
     0 < s.fld (rCelPinCtrl n) fCelPinCtrlThrashThresh →
     s.fld (rCelPinCtrl n) fCelPinCtrlThrashThresh ≤ smGetD (s.slice n).misses set 0 →
     (s.slice n).thrashed.contains set = false →
     Acts (.thrashDetect n set) s (.cel :: raisedIn) (fun v =>
       v.slice n = { s.slice n with thrashed := (s.slice n).thrashed ++ [set] } ∧
       v.fld (rCelThrash n) fCelThrashSet = set ∧
       v.fld (rCelThrash n) fCelThrashPartition = smGetD (s.slice n).missPart set 0 % 16 ∧
       v.fld (rCelEvent n) fCelEventThrash = 1 ∧ v.cel.frames = s.cel.frames)) ∧
   (∀ (s : State) (region line n w : Nat) (f : Frame) (l : LineEnt) (on : Bool), s.live = true →
     s.plc.rackReqs.find? (fun e => e.1 = region ∧ e.2.1 = line) = some (region, line, on) →
     let a := region * 65536 + 128 * line
     Free s n a → Holds s n a w f l → l.st ≠ .filling →
     Acts (.rackLine region line) s [.plc, .cel] (fun v =>
       v.entriesOf n a = [{ l with racked := on }] ∧ OthersKept s v a ∧
       v.plc = { s.plc with rackReqs := s.plc.rackReqs.erase (region, line, on) })) ∧
   (∀ (s : State) (n : Nat), s.live = true → n < 192 → (s.slice n).state = 1 → (s.slice n).waiting = [] →
     (s.slice n).side = [] → (s.slice n).victim = [] → (s.slice n).fills = [] → (s.slice n).subst = n →
     Acts (.sliceDrainDone n) s (.pci :: servedIn) (fun v =>
       (v.slice n).state = 2 ∧ (v.slice n).subst = s.nextSlice n ∧ (v.slice n).held = [] ∧
       (∀ e ∈ v.cel.frames, e.1 / 524288 ≠ n) ∧ v.fld (rCelEvent n) fCelEventDrainDone = 1)))

/-! ## The HBM tier (R185, R222 to R246) -/

/-- Where a local address lies (R185): its slice, its set, its line and its channel-local group are computed as the rule
says, and together they determine its line; with some channels mapped out, two lines of the backed window are never
stored at one place (R230, R242). -/
def Obligations.AddressesMapOneToOne : Prop :=
  (∀ a, let G := a % 2 ^ 38 / 512
    let L := G / 192
    let fold := L % 64 ^^^ L / 64 % 64 ^^^ L / 4096 % 64 ^^^ L / 262144 % 64
    sliceOf a = 64 * (G % 3) + (G / 3 % 64 ^^^ fold) ∧ setOf a = L % 32768 ∧ lineOf a = a / 128 % 4 ∧ lidxOf a = L ∧
      sliceOf a < 192) ∧
  (∀ a, a < 2 ^ 38 → addrOf (sliceOf a) (lidxOf a) (lineOf a) = lineAddr a) ∧
  (∀ (s : State) (a b : Nat), 0 < s.chansOn → (∀ c, c < 192 → s.chanSt c ≤ 1) →
    a < lPrime s.chansOut.length * 98304 → b < lPrime s.chansOut.length * 98304 → s.keyOf a = s.keyOf b →
    blockAddr a = blockAddr b)

/-- The requests of a channel on a block of no sealed partition (R231, R232, R234): a fill delivers valid bit, data
and poison to its slice and changes no block; a write-back stores its half, clears that half's zero flag, and of a
block that was not valid sets the other's; a kill clears a block whose other half is zero, else sets the zero flag of
its half; an uncached read answers its requester, an uncached write stores and never clears the poison bit; a sidecar
update makes its page the latest of the sidecar cache. Channels in service (R222, R237, R240, R241, R243): refreshes
are counted; a change of 8 °C or 4,000 rounds begins a recalibration, whose end clears it and notes the temperature; a
failed command is retried up to three times, a recalibration before the third; a fourth failure, a failed
recalibration and 64 uncorrectable codewords in a round fail the channel with causes 5, 7 and 6; an idle
pseudo-channel powers down; an apply makes the regulator values current, or refuses them. -/
def Obligations.ChannelsServeAndAreKept : Prop :=
  (∀ (s : State) (a : Nat), lineAddr a = a →
     let b := s.block a
     let h := a / 128 % 2
     let o := 1 - h
     let data : Line := if b.valid ∧ b.zero h = false then b.half h else 0
     let sick : BitVec 4 := if b.valid ∧ b.poison then 0xF else 0
     (∀ q, ChanServes s a q → (∀ x ∈ s.cel.hbmq, blockAddr x.addr ≠ blockAddr a) →
       s.cel.fillq.any (fun f => f.addr = a) = false →
       (∀ n x, s.server a = some n → (s.findLine n a).map (fun e => e.2.2) = some x → x.st = .filling →
         Acts (.hbmFill a []) s [.cel, .hbm, .regs] (fun v =>
           v.cel = { s.cel with fillq := s.cel.fillq ++ [⟨a, b.valid, data, sick⟩] } ∧ v.hbm.blocks = s.hbm.blocks))) ∧
     (∀ (d : Line) (p : BitVec 4), ChanServes s a (.writeBack a d p) →
       Acts (.hbmWriteBack a d p []) s [.cel, .hbm, .regs] (fun v =>
         let x := v.block a
         x.valid = true ∧ x.half h = d ∧ x.zero h = false ∧ x.half o = b.half o ∧
         x.zero o = (if b.valid then b.zero o else true) ∧ x.keygen = 0 ∧ x.mac = openMac x ∧
         x.poison = decide (p ≠ 0 ∨ b.valid = true ∧ b.poison = true ∧ b.zero o = false) ∧ BlocksKept s v a ∧
         v.cel = { s.cel with hbmq := s.cel.hbmq.erase (.writeBack a d p) })) ∧
     (ChanServes s a (.kill a) →
       Acts (.hbmKill a []) s [.cel, .hbm, .regs] (fun v => BlocksKept s v a ∧
         v.cel = { s.cel with hbmq := s.cel.hbmq.erase (.kill a) } ∧
         (b.valid = false → v.block a = b) ∧
         (b.valid = true → (b.zero o = true ∨ b.half o = 0 ∧ b.poison = false) → v.block a = b.clear) ∧
         (b.valid = true → b.zero o = false → (b.half o ≠ 0 ∨ b.poison = true) →
           (v.block a).valid = true ∧ (v.block a).zero h = true ∧ (v.block a).half o = b.half o ∧
           (v.block a).poison = b.poison))) ∧
     (∀ k hint, ChanServes s a (.uncached ⟨.thread k, a, hint, .read hint⟩) → s.permits (.thread k) false a = true →
       Acts (.hbmUncachedRead ⟨.thread k, a, hint⟩ []) s [.cmp, .cel, .hbm, .regs] (fun v =>
         v.cmp.replies = s.cmp.replies ++ [⟨k, a, data, sick, 0, 0, 0⟩] ∧ v.hbm.blocks = s.hbm.blocks)) ∧
     (∀ k hint (d : Line) (p : BitVec 4),
       ChanServes s a (.uncached ⟨.thread k, a, hint, .write (BitVec.allOnes 128) d p⟩) →
       s.permits (.thread k) true a = true →
       Acts (.hbmUncachedWrite ⟨.thread k, a, hint⟩ (.plain (BitVec.allOnes 128) d p) []) s
         ([.cmp, .cel, .hbm, .ral] ++ tracedIn) (fun v =>
           (v.block a).valid = true ∧ (v.block a).half h = d ∧ (v.block a).zero h = false ∧
           (v.block a).half o = b.half o ∧
           (v.block a).poison = decide (p ≠ 0 ∨ b.valid = true ∧ b.poison = true) ∧ BlocksKept s v a ∧
           StorePerformed s v ⟨.thread k, a, hint⟩)) ∧
     (ChanServes s a (.sidecar a) →
       Acts (.hbmSidecarUpdate a) s [.cel, .hbm] (fun v =>
         (v.chan (s.placeOf a).1).scache.head? = some (2 ^ 20 * pcOf a + (s.placeOf a).2 / 32, true) ∧
         v.hbm.blocks = s.hbm.blocks))) ∧
  ((∀ (s : State) (ch pc bank : Nat), s.hbmLive = true → ch < 192 → s.chanSt ch = 0 →
     Acts (.hbmRefresh ch pc bank) s [.hbm] (fun v =>
       v.chan ch = { s.chan ch with refreshes := (s.chan ch).refreshes + 1 } ∧ ∀ j, j ≠ ch → v.chan j = s.chan j) ∧
     (8 ≤ s.chanTemp ch - smGetD (s.chan ch).calTemp pc 0 ∨ 8 ≤ smGetD (s.chan ch).calTemp pc 0 - s.chanTemp ch ∨
         4000 ≤ smGetD (s.chan ch).calRounds pc 0 → pc < 2 →
       Acts (.hbmRecalibrate ch pc) s [.hbm] (fun v => (v.chan ch).recal.getLsbD pc = true ∧
         ∀ j, j ≠ pc → (v.chan ch).recal.getLsbD j = (s.chan ch).recal.getLsbD j)) ∧
     ((s.chan ch).recal.getLsbD pc = true → pc < 2 →
       Acts (.hbmRecalDone ch pc true) s [.hbm] (fun v => (v.chan ch).recal.getLsbD pc = false ∧
         smGetD (v.chan ch).calTemp pc 0 = s.chanTemp ch ∧ smGetD (v.chan ch).calRounds pc 0 = 0) ∧
       Acts (.hbmRecalDone ch pc false) s ([.pci, .bup, .hbm] ++ tracedIn) (fun v => ChanHasFailed s v ch 7 ∧
         v.fld (rHbmStkEvent (ch / 32)) fHbmStkEventRecalFail = 1)) ∧
     ((s.chan ch).attempt = 0 →
       Acts (.hbmParityError ch) s [.hbm] (fun v => v.chan ch = { s.chan ch with attempt := 1 })) ∧
     (0 < (s.chan ch).attempt →
       Acts (.hbmParityRetry ch true) s [.hbm, .regs] (fun v => (v.chan ch).attempt = 0 ∧ v.chanSt ch = 0) ∧
       ((s.chan ch).attempt < 3 → Acts (.hbmParityRetry ch false) s [.hbm, .regs] (fun v =>
         (v.chan ch).attempt = (s.chan ch).attempt + 1)) ∧
       ((s.chan ch).attempt = 3 → Acts (.hbmParityRetry ch false) s ([.pci, .bup, .hbm] ++ tracedIn) (fun v =>
         ChanHasFailed s v ch 5 ∧ smGetD (v.chan ch).calRounds 0 0 = 0 ∧ smGetD (v.chan ch).calRounds 1 0 = 0))) ∧
     (64 ≤ (s.chan ch).ueRound →
       Acts (.hbmUeRateFail ch) s ([.pci, .bup, .hbm] ++ tracedIn) (fun v => ChanHasFailed s v ch 6)) ∧
     ((∀ q ∈ s.cel.hbmq, (s.placeOf q.addr).1 ≠ ch) → pc < 2 →
       Acts (.hbmPowerDown ch pc) s [.hbm] (fun v => (v.chan ch).pdown.getLsbD pc = true))) ∧
   (∀ (s : State) (f : Fn), s.canWrite f rHbmRegCtrl = true →
     let rate (p : Nat) := s.fld (rHbmReg p) fHbmRegRate
     let depth (p : Nat) := s.fld (rHbmReg p) fHbmRegDepth
     let sum := ((List.range 16).map rate).sum
     let bad := (List.range 16).any (fun p => depth p = 0 ∧ rate p ≠ 0)
     (sum ≤ 1024 → bad = false → Acts (.hbmRegApply f) s [.regs, .hbm] (fun v =>
       v.fld rHbmRegCtrl fHbmRegCtrlResult = 1 ∧ ∀ p, p < 16 →
         smGetD v.hbm.regs p (0, 0, false) = (rate p, depth p, decide (s.fld (rHbmReg p) fHbmRegHard = 1)))) ∧
     (1024 < sum → Acts (.hbmRegApply f) s [.regs] (fun v => v.fld rHbmRegCtrl fHbmRegCtrlResult = 2)) ∧
     (sum ≤ 1024 → bad = true → Acts (.hbmRegApply f) s [.regs] (fun v => v.fld rHbmRegCtrl fHbmRegCtrlResult = 3))))

/-! ## Power and heat (R446 to R487) -/

/-- At the end of a round (R467), with P the package power of the round and P_lim the limit in force, the duty cap becomes
the clamped value of the rule, PWR_EVENT.limit_hit is set when it first falls below 1,024, and the duty of a bay is the
smallest of pcap, the tile cap and the thermal cap. -/
def Obligations.PowerCapFollowsExcess : Prop :=
  ∀ (s : State) (tel : RoundTel), s.on = true → 0 < s.fld rPwrLimit fPwrLimitLimit →
    ∃ v, exec (.housekeepingRound tel) s = .next v ∧
      let P : Int := v.fld (rPwrTel 0) fPwrTelValue
      let lim : Int := 1000 * s.fld rPwrLimit fPwrLimitLimit
      let gain : Int := s.fld rPwrLimit fPwrLimitGain
      let old : Int := s.fld rPwrDuty fPwrDutyPcap
      (v.fld rPwrDuty fPwrDutyPcap : Int) = max 64 (min 1024 (old - gain * (P - lim) * 1024 / (16 * lim))) ∧
      (old = 1024 → v.fld rPwrDuty fPwrDutyPcap < 1024 → v.fld rPwrEvent fPwrEventLimitHit = 1) ∧
      (v.bup.step = none → ∀ b, v.duty b =
        Nat.min (v.fld rPwrDuty fPwrDutyPcap) (Nat.min (v.bayCap b) (smGetD v.pwr.thermalCap b 1024)))

/-- At the end of each round, each node whose governing temperature T exceeds its layer's limit has the cap of R479, and
every other node has 1,024. -/
def Obligations.ThermalCapsFollowTemperature : Prop :=
  ∀ (s : State) (ds : List (Option Int)), s.modelRuns = true → s.pwr.substep = 8 →
    Acts (.thermalSolveEnd ds) s ([.pci, .pwr] ++ tracedIn) (fun v => ∀ n, n < 384 →
      let T := v.governing n
      let lim := v.thermLimit (n / 64)
      let E : Rat := 16 * (T - lim)
      let gain : Rat := (s.fld rThmCfg fThmCfgGain : Nat)
      (v.fld (rThmNode n) fThmNodeNcap : Int) =
        if lim < T then max 64 (min 1024 (1024 - (gain * E / 4).floor)) else 1024)

/-- The round (R238, R249, R447, R465, R471, R546): telemetry is reported, the model takes the node powers and begins
its sub-steps, ALERT_N is low exactly while a condition holds, and without replicas and sharers every tracked region's
heat decays and takes its count. The thermal engine (R472 to R477, R482 to R485): a sub-step advances every node by
the sum of R472, and a failed parity check enters sensors-only operation; a solve keeps every offset within 8 °C,
marks open and impossible diodes failed and finds diodes at their trip point; a shutdown keeps what R484 names and
loses the rest; a restart releases THERMTRIP_N once 4,000 rounds have passed and everything is below 70 °C. -/
def Obligations.RoundsAndThermalModel : Prop :=
  (∀ (s : State) (tel : RoundTel), s.on = true →
     ∃ v, exec (.housekeepingRound tel) s = .next v ∧ v.pending = s.pending ∧
       (∀ k, k < 8 → v.fld (rPwrTel k) fPwrTelValue = tel.tel.getD k 0 % 2 ^ 32) ∧ v.pci.alert = v.alerting ∧
       (s.pwr.modelOn = true → v.pwr.substep = 0 ∧ v.pwr.temps = s.pwr.temps ∧
         ∀ n, n < 64 → smGetD v.pwr.power n 0 = ((tel.nodeMw.find? (fun e => e.1 = n)).map Prod.snd).getD 0) ∧
       (s.live = true → s.plc.replicas = [] → s.plc.dir = [] →
         (∀ p, p < 16 → s.plcFld (rPlcWorkCfg p) fPlcWorkCfgReplEn = 0) →
         ∀ r h, smGet s.plc.heat r = some h → ∃ x, smGet v.plc.heat r = some x ∧ x.n = 0 ∧ x.part = h.part ∧
           x.heat = Nat.min 65535 (h.heat - h.heat / 2 ^ s.decayOf h.part + h.n))) ∧
  ((∀ (s : State) (ok : Bool), s.modelRuns = true → s.pwr.substep < 8 →
     Acts (.thermalSubstep ok) s (.pwr :: raisedIn) (fun v =>
       v.pwr.substep = s.pwr.substep + 1 ∧ (∀ n, n < 384 → v.nodeRaw n = nodeStep s n) ∧
       v.pwr.sensorsOnly = (s.pwr.sensorsOnly || !ok) ∧
       (ok = false → v.fld rThmEvent fThmEventModelFail = 1) ∧ (ok = true → v.regs = s.regs))) ∧
   (∀ (s : State) (ds : List (Option Int)), s.modelRuns = true → s.pwr.substep = 8 →
     Acts (.thermalSolveEnd ds) s ([.pci, .pwr] ++ tracedIn) (fun v =>
       v.pwr.temps = s.pwr.temps ∧ (∀ l, l < 6 → -8 ≤ v.layerOff l ∧ v.layerOff l ≤ 8) ∧
       (∀ m, m < 96 → badReading (ds.getD m none) = true → m ∈ v.pwr.diodeBad) ∧
       (∀ m, m < 96 → m ∉ v.pwr.diodeBad → ∃ r, ds.getD m none = some r ∧ v.diodeTemp m = (r : Rat) / 16) ∧
       (∀ m, m < 96 → m ∉ v.pwr.diodeBad → v.tripPoint (m / 16) ≤ v.diodeTemp m → v.pwr.trig.isSome = true))) ∧
   (∀ (s : State) (cause node diode : Nat) (temp : Int), s.modelRuns = true → s.pwr.shutdown = false →
     s.pci.supplyFault = false → s.pwr.trig = some (cause, node, diode, temp) → cause < 4 → node < 384 → diode < 96 →
     ∃ v, exec (.thermalShutdown) s = .next v ∧ v.pending = s.pending ∧
       v.pci.thermtrip = true ∧ v.pwr.shutdown = true ∧ v.fld rThmTrip fThmTripCause = cause ∧
       v.fld rThmTrip fThmTripNode = node ∧ v.fld rThmTrip fThmTripDiode = diode ∧
       v.fld rThmTrip fThmTripTrips = Nat.min 255 (s.fld rThmTrip fThmTripTrips + 1) ∧
       v.dbg.errq = s.dbg.errq ∧ v.pci.owner = s.pci.owner ∧ v.pci.i3cAddr = s.pci.i3cAddr ∧
       v.pwr.temps = s.pwr.temps ∧
       (v.sec, v.bup, v.cmp, v.xlt, v.cel, v.hbm, v.plc, v.ral) =
         (State.reset.sec, State.reset.bup, State.reset.cmp, State.reset.xlt, State.reset.cel, State.reset.hbm,
           State.reset.plc, State.reset.ral)) ∧
   (∀ (s : State), s.modelRuns = true → s.pci.supplyFault = false → s.pwr.shutdown = true → 4000 ≤ s.pwr.tripRounds →
     (∀ n, n < 384 → s.nodeEst n < 70) →
     (∀ m, m < 96 → m ∉ s.pwr.diodeBad → s.diodeTemp m < 70) →
     Acts (.thermalRestart) s [.regs, .pci, .pwr] (fun v => v.pci.thermtrip = false ∧ v.pwr.shutdown = false ∧
       v.pci.owner = s.pci.owner ∧ v.reg rThmTrip = s.reg rThmTrip ∧ v.on = true)))

/-- Power states (R453 to R457): an entry that nothing blocks puts the stack in transit with every translation gone,
for S3 with no line left in the cellar and no heat, and its end brings the new state, state_done and result 1, with
the devices in self-refresh for S2 and S3; the exit leaves self-refresh and queues the wakes of the floor fabric and
of the slices; an invalid target gives result 3, the present state result 2. Idle bays and wakes (R450, R451, R460 to
R462, R468): an idle bay clock-gates; a gated bay without threads and tiles power-gates and loses its cell stores and
its TLB; a cycle admits wakes only within the slew limit and one rung of the ladder, the oldest of the highest
priority first, and an admitted clock start opens its bay; a rail that is up queues the clock start with the age of
its power-up; excess power at the lowest cap for four rounds halves the clocks. -/
def Obligations.PowerStatesAndGating : Prop :=
  ((∀ (s : State) (f : Fn) (t : Nat) (c : Instr), s.canWrite f rPwrStateCtrl = true →
     s.fld rPwrStateCtrl fPwrStateCtrlBusy = 0 →
     (t = 1 ∧ c = .pwrEnterS1 f ∨ t = 2 ∧ c = .pwrEnterS2 f ∨ t = 3 ∧ c = .pwrEnterS3 f) →
     (s.pwr.state = 0 → s.thawed = true → s.stepDone 10 = true → s.blockers.any id = false →
       (t = 3 → s.anyPinned = false) →
       ∃ v, exec c s = .next v ∧ v.pending = s.pending ∧ v.fld rPwrStateCtrl fPwrStateCtrlTransit = 1 ∧
         v.fld rPwrStateCtrl fPwrStateCtrlBusy = 1 ∧ v.pwr.target = some t ∧ v.pwr.state = 0 ∧
         v.xlt.bay = [] ∧ v.xlt.l2 = [] ∧ v.xlt.ats = [] ∧ v.xlt.prs = [] ∧
         (t = 3 → v.cel.frames = [] ∧ v.plc.heat = [])) ∧
     (s.pwr.state = 0 → s.thawed = true → s.stepDone 10 = true → s.blockers.any id = true →
       Acts c s (.pwr :: raisedIn) (fun v => v.fld rPwrStateCtrl fPwrStateCtrlResult = 4 ∧
         v.fld rPwrEvent fPwrEventRefused = 1 ∧ v.pwr.state = 0)) ∧
     (s.pwr.state = 0 → s.thawed = true → s.stepDone 10 = false →
       Acts c s (.pwr :: raisedIn) (fun v => v.fld rPwrStateCtrl fPwrStateCtrlResult = 7)) ∧
     (∀ k, k < 8 → 3 < k ∨ s.pwr.state ≠ 0 ∧ k ≠ 0 ∧ k ≠ s.pwr.state →
       Acts (.pwrTargetInvalid f k) s (.pwr :: raisedIn) (fun v => v.fld rPwrStateCtrl fPwrStateCtrlResult = 3 ∧
         v.fld rPwrEvent fPwrEventRefused = 1 ∧ v.pwr.state = s.pwr.state)) ∧
     (s.pwr.state < 4 → Acts (.pwrAlreadyInTarget f) s [.regs, .pwr] (fun v =>
       v.fld rPwrStateCtrl fPwrStateCtrlResult = 2 ∧ v.pwr.state = s.pwr.state)) ∧
     (0 < s.pwr.state → s.pwr.state < 4 → s.thawed = true → s.pwr.wakes = [] → s.pwr.rails = [] →
       Acts (.pwrExitS0 f) s [.regs, .pwr, .hbm] (fun v => v.pwr.target = some 0 ∧
         v.fld rPwrStateCtrl fPwrStateCtrlTransit = 1 ∧ v.hbm.selfRefresh = false ∧ v.hbm.blocks = s.hbm.blocks ∧
         v.starting = true ∧ v.pwr.wakes.length = 193))) ∧
   (∀ (s : State) (t : Nat), s.on = true → s.pwr.target = some t → t < 4 → (t = 0 → s.starting = false) →
     Acts (.pwrTransitionDone) s ([.cmp, .xlt, .hbm, .pwr] ++ tracedIn) (fun v => v.pwr.state = t ∧ v.pwr.target = none ∧
       v.fld rPwrStateCtrl fPwrStateCtrlTransit = 0 ∧ v.fld rPwrStateCtrl fPwrStateCtrlBusy = 0 ∧
       v.fld rPwrStateCtrl fPwrStateCtrlState = t ∧ v.fld rPwrStateCtrl fPwrStateCtrlResult = 1 ∧
       v.fld rPwrEvent fPwrEventStateDone = 1 ∧ v.hbm.blocks = s.hbm.blocks ∧
       (2 ≤ t → v.hbm.selfRefresh = true ∧ ∀ b, b < 32 → smGetD v.pwr.bayGate b 0 = 2)))) ∧
  ((∀ (s : State) (b : Nat), s.live = true → b < 32 → s.bayIdle b = true →
     (smGetD s.pwr.bayGate b 0 = 0 → Acts (.bayClockGate b) s [.pwr] (fun v =>
       v.pwr = { s.pwr with bayGate := v.pwr.bayGate } ∧ smGetD v.pwr.bayGate b 0 = 1 ∧
       ∀ j, j ≠ b → smGetD v.pwr.bayGate j 0 = smGetD s.pwr.bayGate j 0)) ∧
     (smGetD s.pwr.bayGate b 0 = 1 → 0 < s.fld rPwrIdleCfg fPwrIdleCfgPwrIdle →
       (∀ e ∈ s.cmp.thr, bayOfCell (e.1 / 128) ≠ b) → (∀ q, q < 4 → smGetD s.cmp.opq (4 * b + q) [] = []) →
       Acts (.bayPowerGate b) s [.pwr, .cmp, .xlt] (fun v => smGetD v.pwr.bayGate b 0 = 2 ∧
         smGet v.xlt.bay b = none ∧ v.xlt.l2 = s.xlt.l2 ∧
         (∀ c, bayOfCell c = b → smGet v.cmp.l1 c = none) ∧ (∀ c, bayOfCell c ≠ b → smGet v.cmp.l1 c = smGet s.cmp.l1 c) ∧
         (∀ k, bayOfCell (k / 16384) = b → smGet v.cmp.cs k = none) ∧ v.cmp.thr = s.cmp.thr ∧ v.cmp.bars = s.cmp.bars))) ∧
   (∀ (s : State), s.pci.pwrgood = true → s.pci.resetLow = false → s.pci.supplyFault = false →
     ∃ (v : State) (now : List Wake), exec (.wakeAdmit) s = .next v ∧ v.pending = s.pending ∧ v.pwr.aon = s.pwr.aon + 1 ∧
       (∀ w ∈ now, w ∈ s.pwr.wakes) ∧
       v.pwr.recent = ((now.map (fun w => wakeStep w.kind w.unit)).sum :: s.pwr.recent).take 3 ∧
       (now = [] ∨ (now.map (fun w => wakeStep w.kind w.unit)).sum + (s.pwr.recent.take 3).sum ≤
         2 * Nat.max 40 (s.fld rPwrSlewCfg fPwrSlewCfgLimit)) ∧
       (now.countP (fun w => isRung w.kind) ≤ if s.pwr.rung.isNone then 1 else 0) ∧
       (∀ w, s.pwr.wakes = [w] → (w.kind = 5 ∨ w.kind = 2) → s.bup.tstUnit = none →
         wakeStep w.kind w.unit + (s.pwr.recent.take 3).sum ≤ 2 * Nat.max 40 (s.fld rPwrSlewCfg fPwrSlewCfgLimit) →
         now = [w] ∧ v.pwr.wakes = [] ∧ (w.kind = 5 → smGetD v.pwr.bayGate w.unit 0 = 0))) ∧
   (∀ (s : State) (w : Wake), s.on = true → s.pwr.rails.find? (fun x => x.kind = w.kind ∧ x.unit = w.unit) = some w →
     Acts (.wakeRailUp w.kind w.unit) s [.pwr] (fun v => v.pwr.rails = s.pwr.rails.erase w ∧
       (w.kind = 4 → v.pwr.wakes = s.pwr.wakes ++ [{ w with kind := 5, since := s.pwr.aon }]) ∧
       (w.kind = 1 → v.pwr.wakes = s.pwr.wakes ++ [{ w with kind := 2, since := s.pwr.aon }]))) ∧
   (∀ (s : State), s.on = true → 4 ≤ s.pwr.overRounds → s.pwr.halved = false →
     Acts (.pwrFloorHit) s (.pwr :: raisedIn) (fun v => v.pwr = { s.pwr with halved := true } ∧
       v.fld rPwrEvent fPwrEventFloorHit = 1)))

/-! ## Power, ports and functions (R348 to R366, R541 to R545) -/

/-- Power and reset (R541, R543, R545): after PWRGOOD or the release of SYS_RESET_N the stack stands as after reset with its ports
in training; power off, SYS_RESET_N low and a supply fault leave it off with nothing kept, the owner not elected. -/
def Obligations.PowerAndResetClear : Prop :=
  ∀ (s : State),
    let leaves (c : Instr) (P : PciSt → Prop) : Prop := ∃ p, P p ∧ p.owner = none ∧ p.perstLow = s.pci.perstLow ∧
      p.i3cAddr = none ∧ p.up = 0 ∧
      exec c s = .next { State.reset with pci := p, out := s.out, free := s.free, pending := s.pending }
    (s.pci.pwrgood = false → leaves .powerUp (fun p => p.pwrgood = true ∧ p.training = ~~~ s.pci.perstLow)) ∧
    leaves .powerOff (fun p => p.pwrgood = false ∧ p.supplyFault = false) ∧
    leaves (.sysReset true) (fun p => p.resetLow = true) ∧
    (s.pci.resetLow = true →
      leaves (.sysReset false) (fun p => p.resetLow = false ∧ p.training = ~~~ s.pci.perstLow)) ∧
    (s.pci.pwrgood = true → s.pci.resetLow = false → s.pci.thermtrip = false →
      leaves .supplyFault (fun p => p.supplyFault = true ∧ p.pwrgood = true))

/-- Election and the ports (R350, R351): at the deadline port 0 is elected if it has come up, else port 1; later the
first port to come up; a link that goes down, a hot reset and PERST reset the port's functions and sessions of its
stream and leave the owner and everything else; a port released from PERST trains. A Function Level Reset (R354,
R417): the contexts bound to the function are aborted and unbound, no TLB entry of them is left, its configuration
space and its sessions are gone, and ownership stays. -/
def Obligations.LinksComeAndGo : Prop :=
  ((∀ (s : State), s.pci.pwrgood = true → s.pci.resetLow = false → s.pci.supplyFault = false → s.pci.deadline = false →
     s.pci.owner = none →
     Acts .ownerElect s [.pci] (fun v => v.pci.deadline = true ∧
       v.pci.owner = if s.pci.wasUp.getLsbD 0 then some 0 else if s.pci.wasUp.getLsbD 1 then some 1 else none)) ∧
   (∀ (s : State) (n speed width : Nat) (flit : Bool), s.on = true → s.freeze ≠ 2 → n < 2 →
     s.pci.perstLow.getLsbD n = false → 1 ≤ speed → speed ≤ 6 → width ∈ [1, 2, 4, 8] →
     Acts (.pcieLinkUp n speed width flit) s [.regs, .pci] (fun v => v.pci.up.getLsbD n = true ∧
       v.pci.training.getLsbD n = false ∧ v.fld (rPciLink n) fPciLinkSpeed = speed ∧
       v.fld (rPciLink n) fPciLinkWidth = width ∧
       (s.pci.owner.isSome = true ∨ s.pci.deadline = false → v.pci.owner = s.pci.owner) ∧
       (s.pci.owner = none → s.pci.deadline = true → s.pci.wasUp = 0 → v.pci.owner = some n))) ∧
   (∀ (s : State) (n : Nat) (c : Instr), s.on = true → n < 2 →
     (c = .pcieLinkDown n ∧ s.pci.up.getLsbD n = true ∨ c = .pciePortReset n true ∨ c = .pciePortReset n false) →
     Acts c s (.pci :: raisedIn) (fun v => v.pci.owner = s.pci.owner ∧ v.pci.up.getLsbD n = false ∧
       v.pci.up.getLsbD (1 - n) = s.pci.up.getLsbD (1 - n) ∧ v.reg (rPciLink n) = 0 ∧
       (s.pci.up.getLsbD n = true → v.fld rPciEvent (fPciEventLinkDownN.bit n) = 1) ∧
       (∀ vf, vf ≤ 16 → (v.fn ⟨n, vf⟩).msix = false ∧ (v.fn ⟨n, vf⟩).ats = false ∧ (v.fn ⟨n, vf⟩).bar2Base = none) ∧
       (c = .pciePortReset n true → v.pci.perstLow.getLsbD n = true ∧ v.pci.training.getLsbD n = false))) ∧
   (∀ (s : State) (n : Nat), n < 2 → s.pci.perstLow.getLsbD n = true → s.on = true →
     Acts (.perstRelease n) s [.pci] (fun v => v.pci.perstLow.getLsbD n = false ∧ v.pci.training.getLsbD n = true ∧
       v.pci.owner = s.pci.owner))) ∧
  (∀ (s : State) (f : Fn), s.on = true → s.freeze ≠ 2 → f.port < 2 → f.vf ≤ 16 →
     ∃ v, exec (.flr f) s = .next v ∧ v.pending = s.pending ∧ v.pci.owner = s.pci.owner ∧
       v.fld rPciEvent fPciEventFlr = 1 ∧ (v.fn f).msix = false ∧ (v.fn f).ats = false ∧ (v.fn f).bar2Base = none ∧
       (∀ x ∈ v.sec.sessions, x.f ≠ f) ∧
       ∀ m, m < 1024 → (s.binding m).map Prod.fst = some f →
         v.fld (rXltCtxBind m) fXltCtxBindBindState = 0 ∧ v.binding m = none ∧ (v.context m).queue = [] ∧
         (∀ t x, v.thread t = some x → x.m ≠ m) ∧ ∀ e ∈ v.xlt.l2, 64 * e.part + e.ctx ≠ m)

/-- BAR2 (R356, R359, R360): a read of this stack's window goes to its slice, a write of some of a line's bytes that
the slice holds is performed at once; while the stack does not serve BAR2 a read completes with the status of the
reason; AtomicOps and BAR0 reads of another size or alignment complete with Unsupported Request, such writes change
nothing. Register writes (R19, R344, R356, R361): a plain 64-bit write stores its fields and nothing else; a status
bit that hardware sets in the cycle of its clear stays set with overlap; a write in configuration space sets its
register; the read of PWR_WAKE_STAT clears max_wait but keeps an event of its cycle. -/
def Obligations.WindowAccessesComplete : Prop :=
  ((∀ (s : State) (f : Fn) (off len tag a : Nat), s.on = true → s.freeze ≠ 2 →
     (s.bar2Status f = 0 → 0 < len → off % 128 + len ≤ 128 → s.bar2Place f off = .hbm a →
       Acts (.bar2Read f off len tag) s [.cel] (fun v =>
         v.cel = { s.cel with xbar := s.cel.xbar ++ [⟨.bar2 f tag len, a, 0, .read 0⟩] })) ∧
     (s.bar2Status f ≠ 0 → Acts (.bar2Read f off len tag) s [.out] (fun v =>
       v.out = s.out ++ [.bar2Cpl f tag (s.bar2Status f) off []])) ∧
     Acts (.bar2Atomic f tag) s [.out] (fun v => v.out = s.out ++ [.unsupported f tag]) ∧
     (∀ size, bar0Ok off size = false →
       Acts (.bar0BadAccess f true off size) s [.out] (fun v => v.out = s.out ++ [.unsupported f 0]) ∧
         Idle (.bar0BadAccess f false off size) s)) ∧
   (∀ (s : State) (f : Fn) (off a n w : Nat) (bytes : List (Option Byte)) (ep : Bool) (fr : Frame) (l : LineEnt),
     s.bar2Status f = 0 → s.bar2Place f off = .hbm a → bytes ≠ [] → off % 128 + bytes.length ≤ 128 →
     Serves s ⟨.bar2 f 0 0, a, 0⟩ true n → Holds s n a w fr l → (l.st = .clean ∨ l.st = .dirty) →
     let be := (partWrite off bytes).1
     let d := mergeBytes (s.delivers n (lineAddr a) l) (partWrite off bytes).2 be
     let p := writePoison l.poison be (if ep then touched be else 0)
     be ≠ 0 → be ≠ BitVec.allOnes 128 → Fits fr l (classFor d p) →
     Acts (.bar2Write f off bytes ep) s servedIn (fun v => LineWritten s v ⟨.bar2 f 0 0, a, 0⟩ n d p))) ∧
  ((∀ (s : State) (f : Fn) (v : Word),
     (s.canWrite f rPwrSlewCfg = true → Acts (.registerWrite f (.bar0 rPwrSlewCfg 8) v 0) s [.regs] (fun t =>
       t.fld rPwrSlewCfg fPwrSlewCfgLimit = fPwrSlewCfgLimit.get v ∧ RegsKept s t [rPwrSlewCfg])) ∧
     (s.canWrite f rPwrEvent = true → ∀ hw : Word,
       Acts (.registerWrite f (.bar0 rPwrEvent 8) v hw) s raisedIn (fun t =>
         (∀ i, i < 4 → (t.reg rPwrEvent).getLsbD i = (hw.getLsbD i || ((s.reg rPwrEvent).getLsbD i && !v.getLsbD i))) ∧
         (t.reg rPwrEvent).getLsbD 8 = v.getLsbD 8 ∧
         ((∃ i, i < 4 ∧ v.getLsbD i = true ∧ hw.getLsbD i = true) → t.fld rPwrEvent fPwrEventOverlap = 1) ∧
         RegsKept s t [rPwrEvent])) ∧
     (s.cfgReached f = true →
       Acts (.registerWrite f (.cfg .ats) v 0) s [.fns] (fun t => t.fn f = { s.fn f with ats := v.getLsbD 0 }) ∧
       Acts (.registerWrite f (.cfg .pasid) v 0) s [.fns] (fun t => t.fn f = { s.fn f with pasid := v.getLsbD 0 }) ∧
       (f.vf = 0 → v.toNat ≤ 16 → Acts (.registerWrite f (.cfg .numVfs) v 0) s [.fns, .regs] (fun t =>
         t.fld (rPciLink f.port) fPciLinkNumVfs = v.toNat)))) ∧
   (∀ (s : State) (f : Fn) (event : Option Nat), (∃ r k, regAt rPwrWakeStat = some (r, k) ∧ s.canRead f r k = true) →
     Acts (.rcFieldRead f event) s [.regs, .out] (fun t => t.out = s.out ++ [.regData f (s.readBy f rPwrWakeStat)] ∧
       t.fld rPwrWakeStat fPwrWakeStatMaxWait = Nat.min (event.getD 0) 65535 ∧ RegsKept s t [rPwrWakeStat])) ∧
   (∀ (s : State) (off size : Nat) (v : Word), s.tapOn = true → accessOk off size = true →
     (s.tapReaches .pwr = false ∨ (∀ p ∈ accessParts off size, p.row.base ≠ rPwrWakeStat) →
       Acts (.tapAccess (.regRead off size)) s [.out] (fun t => t.out = s.out ++ [.tap (s.tapRead off size) 0 0])) ∧
     (s.responds .pwr = true → Acts (.tapAccess (.regWrite rPwrSlewCfg 8 v)) s [.regs] (fun t =>
       t.fld rPwrSlewCfg fPwrSlewCfgLimit = fPwrSlewCfgLimit.get v ∧ RegsKept s t [rPwrSlewCfg]))))

/-- Until an owner is elected, and until bring-up step 2 completes, only the BUP, ERR and PCI blocks respond; every other
block of BAR0 reads zero and ignores writes (R352). -/
def Obligations.EarlyWindowResponds : Prop :=
  ∀ (s : State), s.pci.owner = none ∨ s.stepDone 2 = false →
    (∀ b, s.responds b = true → b = .bup ∨ b = .err ∨ b = .pci) ∧
    (s.on = true → s.freeze = 0 → s.asleep = false → s.bup.cresetRun = false →
      s.responds .bup = true ∧ s.responds .err = true ∧ s.responds .pci = true) ∧
    ∀ (f : Fn) (off size : Nat) (value : Word), blockOf off ≠ .bup → blockOf off ≠ .err → blockOf off ≠ .pci →
      accessOk off size = true →
      (s.freeze ≠ 1 → s.readBy f off = 0) ∧ Idle (.registerWrite f (.bar0 off size) value 0) s

/-- The access codes in one word (R19, R344): a writable field takes the value where it is enabled and not locked, a
W1C status bit is cleared by a 1 unless hardware sets it in the same cycle, and overlap then records the loss; other
bits stay. The sideband (R365, R366): the target takes its dynamic address once, until RSTDAA; it answers its identity
and characteristics; a private write sets the read index, a private read returns the words from it and advances it by
4, from 0x3C to 0. -/
def Obligations.FieldsAndSideband : Prop :=
  (∀ (off : Nat) (r : RegRow) (k : Nat), regAt off = some (r, k) → ∀ (old en v hw locked : Word) (i : Nat), i < 64 →
     let new := (writtenWord r old en v hw locked).getLsbD i
     let w := v.getLsbD i && en.getLsbD i
     (r.writable.getLsbD i = true →
       new = if en.getLsbD i && !locked.getLsbD i then v.getLsbD i else old.getLsbD i) ∧
     (r.status.getLsbD i = true → new = (hw.getLsbD i || (old.getLsbD i && !w))) ∧
     (r.writable.getLsbD i = false → r.status.getLsbD i = false → r.overBit.getLsbD i = false → new = old.getLsbD i) ∧
     (r.overBit.getLsbD i = true → r.writable.getLsbD i = false → r.status.getLsbD i = false →
       new = (decide (v &&& en &&& hw &&& r.status ≠ 0) || (old.getLsbD i && !w)))) ∧
  (∀ (s : State), s.i3cOn = true →
     (∀ a, s.pci.i3cAddr = none → Acts (.i3cEntdaa a) s [.pci] (fun v => v.pci = { s.pci with i3cAddr := some a })) ∧
     Acts .i3cRstdaa s [.pci] (fun v => v.pci = { s.pci with i3cAddr := none }) ∧
     (s.pci.i3cAddr.isSome = true →
       Acts .i3cGetpid s [.out] (fun v =>
         ∃ pid, v.out = s.out ++ [.i3c [pid]] ∧ pid % 2 ^ 32 = (s.vintage 0).toNat % 2 ^ 32 ∧ pid / 2 ^ 32 % 2 = 0) ∧
       Acts .i3cGetbcr s [.out] (fun v => v.out = s.out ++ [.i3c [0]]) ∧
       Acts .i3cGetdcr s [.out] (fun v => v.out = s.out ++ [.i3c [0]]) ∧
       Acts .i3cGetstatus s [.out, .free] (fun v => ∃ w, w < 65536 ∧ v.out = s.out ++ [.i3c [w]]) ∧
       (∀ b bs, Acts (.i3cPrivateWrite (b :: bs)) s [.pci] (fun v => v.pci = { s.pci with i3cIdx := b.toNat })) ∧
       (∀ n k, s.pci.i3cIdx = 4 * k → k < 16 → s.stepDone 1 = true →
         Acts (.i3cPrivateRead n) s [.pci, .out, .free] (fun v => v.pci.i3cIdx = 4 * ((k + n) % 16) ∧
           v.out = s.out ++ [.i3c ((List.range n).map (fun j =>
             let i := 4 * ((k + j) % 16)
             if i = 0 then 0x33383743 else if i < 0x20 then smGetD s.pci.i3cWords i 0 else 0))]))))

/-! ## Translation (R270 to R288) -/

/-- A write of XLT_CTX_BIND_m (R270 to R272): in a context that runs or suspends it gives bind_state 3, with a
function that is not mapped to the partition 2, and the binding stays; else the binding becomes what the word says,
and no translation of another binding is left. Invalidation (R286 to R288): no TLB keeps an entry of the range of a
context bound to the function and PASID and every other entry stays; the L1s of the partitions' thread cells hold
nothing; requests in flight for the range are overtaken; the completion goes out once no access that used such an
entry is in flight. -/
def Obligations.BindingsAndInvalidations : Prop :=
  (∀ (s : State) (f : Fn) (m : Nat) (value : Word), s.canWrite f (rXltCtxBind m) = true → m < 1024 →
     let busy : Prop := s.ctxState m = 1 ∨ s.ctxState m = 3
     let g : Fn := ⟨fXltCtxBindPort.get value, fXltCtxBindFunction.get value⟩
     let valid := fXltCtxBindValid.get value = 1
     let bad : Prop := valid ∧ (16 < g.vf ∨ s.mapped (m / 64) g = false)
     Acts (.ctxBindWrite f m value) s [.regs, .xlt] (fun v => RegsKept s v [rXltCtxBind m] ∧
       (busy → v.fld (rXltCtxBind m) fXltCtxBindBindState = 3 ∧ v.binding m = s.binding m ∧ v.xlt = s.xlt) ∧
       (¬ busy → bad → v.fld (rXltCtxBind m) fXltCtxBindBindState = 2 ∧ v.binding m = s.binding m ∧ v.xlt = s.xlt) ∧
       (¬ busy → ¬ bad → (valid → v.fld (rXltCtxBind m) fXltCtxBindBindState = 1 ∧
           v.binding m = some (g, fXltCtxBindPasid.get value)) ∧
         (¬ valid → v.fld (rXltCtxBind m) fXltCtxBindBindState = 0 ∧ v.binding m = none) ∧
         (v.binding m ≠ s.binding m → (∀ e ∈ v.xlt.l2, 64 * e.part + e.ctx ≠ m) ∧
           ∀ b, ∀ e ∈ v.bayTlb b, 64 * e.part + e.ctx ≠ m)))) ∧
  ((∀ (s : State) (f : Fn) (pasid : Option Nat) (base size itag : Nat), s.on = true → s.freeze = 0 →
     let gone (e : TlbEnt) : Bool := (s.boundTo f pasid).contains (64 * e.part + e.ctx) && e.overlaps base size
     Acts (.atsInvalidate f pasid base size itag) s [.cmp, .xlt] (fun v =>
       v.xlt.l2 = s.xlt.l2.filter (fun e => !gone e) ∧ (∀ b, v.bayTlb b = (s.bayTlb b).filter (fun e => !gone e)) ∧
       (∀ m ∈ s.boundTo f pasid, ∀ b ∈ s.baysOf (m / 64), ∀ c ∈ s.bayThreadCells b, v.l1 c = []) ∧
       (∀ a ∈ v.xlt.ats, a.f = f → pasid = none ∨ pasid = some a.pasid → a.va < base + size → base < a.va + 4096 →
         a.stale = true) ∧
       ∃ i, v.xlt.invs = s.xlt.invs ++ [i] ∧ i.f = f ∧ i.itag = itag ∧ i.ctxs = s.boundTo f pasid)) ∧
   (∀ (s : State) (f : Fn) (itag : Nat) (i : Inval), s.xlt.invs.find? (fun i => i.f = f ∧ i.itag = itag) = some i →
     (∀ e ∈ s.cmp.thr, e.2.m ∈ i.ctxs → e.2.inFlight i.stamp = false) → (∀ p ∈ i.pieces, s.pieceBusy p = false) →
     Acts (.invalidateCompletion f itag) s [.xlt, .out] (fun v =>
       v.out = s.out ++ [.invDone f itag] ∧ v.xlt = { s.xlt with invs := s.xlt.invs.erase i })))

/-- A translation request ends (R279, R284, R288): a usable answer enters the second-level TLB and its threads go on;
one that is not usable gives a page request; a failure or a timeout ends the thread that waits for a fetch with fault
3, whose id names the context and cause 1; an answer that an invalidation has overtaken sends the request again; a
core freeze keeps the answer. Page requests (R281 to R283): the oldest that is not sent takes the lowest free group
and goes out while the allocation allows; Success sends its waiter's translation request again, counted; Invalid
Request, Response Failure, which also stops PRI on the function, and the timeout end the thread that waits with the
cause 2, 3 or 6; after the timeout the request stays without waiters; the reset of PRI lets it resume with no group in
use. -/
def Obligations.TranslationsAndPageRequests : Prop :=
  (∀ (s : State) (f : Fn) (pasid va : Nat) (c : AtsCpl) (a : AtsReq),
     let i : Instr := .atsCompletion f pasid va c
     let rest := s.xlt.ats.filter (fun b => !b.is f pasid va)
     (s.on = true → s.freeze = 1 → Acts i s [.dbg] (fun v => v.dbg = { s.dbg with keptInv := s.dbg.keptInv ++ [i] })) ∧
     (s.on = true → s.freeze = 0 → s.xlt.ats.find? (fun b => b.is f pasid va) = some a →
       (a.stale = false → c.status = 0 →
         (∀ w ∈ a.waiters, cplUsable c w = true ∧ ∃ k x, w.who = .thread k ∧ s.thread k = some x ∧ x.st = .waiting .xlat) →
         Acts i s [.cmp, .xlt] (fun v => v.xlt.ats = rest ∧
           (∀ w ∈ a.waiters, ∀ k x, w.who = .thread k → s.thread k = some x → v.thread k = some { x with st := .ready }) ∧
           ∀ w, a.waiters = [w] → tlbFind v.xlt.l2 w.m w.va w.acc = some (entryOf w.m w.va c) ∧
             tlbFind (v.bayTlb w.bay) w.m w.va w.acc = some (entryOf w.m w.va c))) ∧
       (∀ w k, a.waiters = [w] → w.who = .thread k → w.m < 1024 →
         (a.stale = false → c.status = 0 → cplUsable c w = false → w.succ < 4 → (s.fn f).stopped = false →
           (∀ r ∈ s.xlt.prs, ¬ (r.part = w.m / 64 ∧ r.pasid = pasid ∧ r.va = va / 4096 * 4096)) →
           Acts i s [.xlt] (fun v => v.xlt = { s.xlt with
             ats := rest
             prs := s.xlt.prs ++ [⟨w.m / 64, f, pasid, va / 4096 * 4096, none, [w], w.succ, false⟩] })) ∧
         (a.stale = true → w.va / 4096 * 4096 = va / 4096 * 4096 →
           Acts i s [.xlt, .out] (fun v => v.xlt = { s.xlt with
             ats := rest ++ [⟨f, pasid, va / 4096 * 4096, [w], false⟩] })) ∧
         (∀ x, s.thread k = some x → x.st = .waiting .xlat → w.acc = .fetch → (∀ h ∈ s.cel.xbar, h.who ≠ .thread k) →
           let faults (j : Instr) : Prop := ∃ v fid, exec j s = .next v ∧ fid / 2 ^ 42 = 1 ∧ fid / 2 ^ 36 % 64 = w.m % 64 ∧
             fid / 2 ^ 32 % 16 = w.m / 64 ∧ EndsWith s v k x ⟨3, x.idx, x.pc, w.va, fid, k / 128 / 24, k / 128 % 24,
               bayOfCell (k / 128), k % 128 / 8, 0⟩
           (a.stale = false → c.status ≠ 0 → faults i) ∧ faults (.atsCompletionTimeout f pasid va))))) ∧
  ((∀ (s : State) (f : Fn) (r : PageReq) (l l' : List PageReq), s.live = true → (s.fn f).stopped = false →
     s.prSent f < (s.fn f).alloc → s.xlt.prs = l ++ r :: l' → l.length < 1024 →
     r.f = f → r.group = none → r.timedOut = false → (∀ q ∈ l, q.f = f → q.group = none → q.timedOut = true) →
     Acts (.pageRequestSend f) s (.xlt :: tracedIn) (fun v => ∃ g out w x,
       v.xlt.prs = l ++ { r with group := some g } :: l' ∧ v.out = s.out ++ .pageReq f r.pasid r.va g w x :: out ∧
       (∀ q ∈ s.xlt.prs, q.f = f → q.group ≠ some g) ∧ ∀ j, j < g → ∃ q ∈ s.xlt.prs, q.f = f ∧ q.group = some j)) ∧
   (∀ (s : State) (f : Fn) (g : Nat) (r : PageReq) (w : Waiter), s.on = true → s.freeze = 0 →
     s.xlt.prs.find? (fun r => r.f = f ∧ r.group = some g) = some r → r.waiters = [w] → r.timedOut = false →
     let none (v : State) : Prop := ∀ q ∈ v.xlt.prs, ¬ (q.f = f ∧ q.group = some g)
     (∀ h pasid, s.canXlate w.m = some (h, pasid) → tlbFind s.xlt.l2 w.m w.va w.acc = .none →
       (∀ a ∈ s.xlt.ats, ¬ (a.f = h ∧ a.pasid = pasid ∧ a.va = w.va / 4096 * 4096)) →
       Acts (.prgSuccess f g) s (.xlt :: tracedIn) (fun v => none v ∧ v.xlt.ats = s.xlt.ats ++
         [⟨h, pasid, w.va / 4096 * 4096, [{ w with succ := Nat.max w.succ r.successes + 1 }], false⟩])) ∧
     (∀ k x, w.who = .thread k → w.m < 1024 → s.thread k = some x → x.st = .waiting .xlat → w.acc = .fetch →
       (∀ h ∈ s.cel.xbar, h.who ≠ .thread k) →
       let faults (i : Instr) (cause : Nat) (P : State → Prop) : Prop := ∃ v fid, exec i s = .next v ∧ fid / 2 ^ 42 = cause ∧
         EndsWith s v k x ⟨3, x.idx, x.pc, w.va, fid, k / 128 / 24, k / 128 % 24, bayOfCell (k / 128), k % 128 / 8, 0⟩ ∧ P v
       faults (.prgInvalidRequest f g) 2 none ∧
       faults (.prgResponseFailure f g) 3 (fun v => none v ∧ (v.fn f).stopped = true) ∧
       (s.fld rXltCfg fXltCfgPriTimeout ≠ 0 → faults (.priTimeout f g) 6 (fun v =>
         v.xlt.prs.find? (fun r => r.f = f ∧ r.group = some g) = some { r with waiters := [], timedOut := true })))) ∧
   (∀ (s : State) (f : Fn), Acts (.priReset f) s [.fns, .xlt] (fun v => (v.fn f).stopped = false ∧
     (∀ q ∈ v.xlt.prs, q.f = f → q.group = none ∧ q.timedOut = false) ∧
     v.xlt.prs.filter (fun q => q.f ≠ f) = s.xlt.prs.filter (fun q => q.f ≠ f))))

/-! ## Commands of the translation unit, error records and placement (R258, R260, R285, R290 to R293, R340) -/

/-- Commands (R290 to R293): a doorbell starts the read of its descriptor, or is refused with code 1 once 16 commands wait; a
descriptor that is read is queued behind the others or refused by its code; XLAT goes over the pages of its range, ADVISE
records its advice for the local ones and skips the others; COPY moves a line of host memory to host memory or into the
cellar; a command that is done leaves its queue and adds 1 to its completion flag. -/
def Obligations.CommandsRun : Prop :=
  (∀ (s : State) (f : Fn) (m : Nat) (desc : Word), s.canWrite f (rXltCmdDb m) = true → m < 1024 →
    let s1 := s.setCmdq m { s.cmdq m with reading := (s.cmdq m).reading ++ [desc] }
    (s.enabled = true → (s.cmdq m).queue.length < 16 →
      ∃ v, exec (.cmdDoorbell f m desc) s = .next v ∧ v.pending = s.pending ∧
        (v.cmdq m).reading = (s.cmdq m).reading ++ [desc] ∧
        ((∀ u fab, translate s1 (cmdWaiter m desc) false ≠ (u, .ok (.remote fab))) →
          Only (.xlt :: raisedIn) s v ∧ (v.cmdq m).queue = (s.cmdq m).queue)) ∧
    (16 ≤ (s.cmdq m).queue.length → Acts (.cmdDoorbell f m desc) s raisedIn (fun v =>
      v.fld (rXltCmdStat m) fXltCmdStatRefuseCode = 1 ∧ v.fld (rXltCmdStat m) fXltCmdStatRefused = 1))) ∧
  (∀ (s u : State) (m : Nat) (a : Word) (rest : List Word) (desc : ReadData) (l : List Byte), s.live = true → m < 1024 →
    (s.cmdq m).reading = a :: rest → unitRead s (cmdWaiter m a) 64 desc = (u, .bytes l) → u.cmdq m = s.cmdq m →
    (u.cmdCode m l = 0 →
      ∃ v, exec (.cmdDescReadDone m desc) s = .next v ∧ Only [.xlt, .regs] u v ∧
        v.cmdq m = { reading := rest, queue := (s.cmdq m).queue ++ [cmdOf l] } ∧
        v.fld (rXltCmdStat m) fXltCmdStatAccepted = (u.fld (rXltCmdStat m) fXltCmdStatAccepted + 1) % 2 ^ 16) ∧
    (u.cmdCode m l ≠ 0 →
      ∃ v, exec (.cmdDescReadDone m desc) s = .next v ∧ Only (.xlt :: raisedIn) u v ∧
        v.cmdq m = { s.cmdq m with reading := rest } ∧
        v.fld (rXltCmdStat m) fXltCmdStatRefuseCode = u.cmdCode m l)) ∧
  (∀ (s u : State) (m : Nat) (c : Cmd) (rest : List Cmd), s.live = true → m < 1024 → (s.cmdq m).queue = c :: rest →
    c.ended = 0 → c.pos < c.len → s.cmdWaits m = false →
    let w (va : Nat) (acc : Acc) : Waiter := ⟨.cmd, m, va % 2 ^ 64, acc, 0, 0⟩
    let goesOn (v : State) (n : Nat) : Prop := v.cmdq m = { s.cmdq m with
      queue := { c with pos := c.pos + n, asked := if n = 128 then none else c.asked,
                        got := if n = 128 then none else c.got } :: rest }
    (∀ p, c.kind = 1 →
      translate s (w (c.base + c.pos) (if nbit c.flags 1 then .write else .read)) false = (u, .ok p) →
      Acts (.xlat m) s [.xlt] (fun v => goesOn v 4096)) ∧
    (∀ a, c.kind = 3 → translate s (w (c.base + c.pos) .read) false = (u, .ok (.hbm a)) →
      Acts (.advise m) s [.xlt, .plc] (fun v => goesOn v 4096 ∧ v.adviceOf (regionOf a) = nbits c.flags 3 3 ∧
        ∀ r, r ≠ regionOf a → v.adviceOf r = s.adviceOf r)) ∧
    (∀ p, c.kind = 3 → translate s (w (c.base + c.pos) .read) false = (u, .ok p) → (∀ a, p ≠ .hbm a) →
      Acts (.advise m) s (.xlt :: raisedIn) (fun v => goesOn v 4096 ∧ v.fld (rXltCmdStat m) fXltCmdStatSkipped = 1)) ∧
    (∀ (u' : State) (src : Line) (ep : Bool) (port b port' b' : Nat) (x y x' y' : Bool), c.kind = 2 →
      translate s (w (c.base + c.pos) .read) false = (u, .ok (.host port b x y)) →
      (translate u (w (c.dst + c.pos) .write) false = (u', .ok (.host port' b' x' y')) →
        Acts (.copy m src ep) s [.xlt, .out] (fun v => goesOn v 128 ∧
          v.out = s.out ++ [.hostRead port b 128, .hostWrite port' b' ((toBytes src 128).map some) ep])) ∧
      (∀ a n wy fr l, translate u (w (c.dst + c.pos) .write) false = (u', .ok (.hbm a)) → a % 128 = 0 →
        let r : SReq := ⟨.command m, a, nbits c.flags 1 2⟩
        let p : BitVec 4 := if ep then 0xF else 0
        Serves s r true n → Holds s n a wy fr l → (l.st = .clean ∨ l.st = .dirty) →
        (∀ q ∈ s.cel.hbmq, blockAddr q.addr ≠ blockAddr a) → Fits fr l (classFor src p) →
        Acts (.copy m src ep) s (.xlt :: servedIn) (fun v => goesOn v 128 ∧ LineWritten s v r n src p)))) ∧
  (∀ (s : State) (m : Nat) (c : Cmd) (rest : List Cmd), s.live = true → m < 1024 → (s.cmdq m).queue = c :: rest →
    (c.ended = 2 ∨ c.len ≤ c.pos) → (∀ r ∈ s.ral.reqs, r.who = .command m → r.msg.typ ≠ 3) →
    let s1 := s.setCmdq m { s.cmdq m with queue := rest }
    (∃ v, exec (.cmdEnd m) s = .next v ∧ v.pending = s.pending ∧ (v.cmdq m).queue = rest ∧
      (c.ended = 2 → v.fld (rXltCmdStat m) fXltCmdStatErrored = 1) ∧
      (c.doneFlag = 0 → Only (.xlt :: raisedIn) s v ∧ (c.ended ≠ 2 → v = s1))) ∧
    ∀ u a n wy fr l, c.ended ≠ 2 → c.doneFlag ≠ 0 →
      translate s1 (postWaiter m c.doneFlag .update) false = (u, .ok (.hbm a)) →
      Serves s ⟨.command m, a, 0⟩ true n → Holds s n a wy fr l → (l.st = .clean ∨ l.st = .dirty) →
      (∀ q ∈ s.cel.hbmq, blockAddr q.addr ≠ blockAddr a) → l.poison.getLsbD (a % 128 / 32) = false →
      let d := s.delivers n (lineAddr a) l
      let nd := putWord d (a % 128) (wordAt d (a % 128) + 1)
      Fits fr l (classFor nd l.poison) →
      Acts (.cmdEnd m) s (.xlt :: servedIn) (fun v => LineWritten s v ⟨.command m, a, 0⟩ n nd l.poison))

/-- Logs, records and regions (R258, R260, R285, R340): a write of a fault log's base starts its ring anew; a pop
takes the oldest record from the queue; a query answers a region's heat, racking, advice and sharers; a replica
becomes valid once no line of its copy is on the way, and then serves reads of its region. The distance table (R52 to
R54): 7,440 bytes; a fetch writes them to the address of PLC_DIST_ADDR through the function that asks, before BUP
enable it ends with err_cause 2, and while one is under way it is ignored; its end sets done, or error with err_cause
1, and stale where the generation has moved on. -/
def Obligations.LogsAndDistanceTable : Prop :=
  ((∀ (s : State) (f : Fn) (p : Nat) (value : Word), s.canWrite f (rXltFlogBase p) = true → p < 16 →
     Acts (.flogBaseWrite f p value) s [.regs, .xlt] (fun v => RegsKept s v [rXltFlogBase p, rXltFlogPtr p] ∧
       v.fld (rXltFlogBase p) fXltFlogBaseSize = fXltFlogBaseSize.get value ∧
       v.fld (rXltFlogBase p) fXltFlogBaseEnable = fXltFlogBaseEnable.get value ∧
       v.fld (rXltFlogBase p) fXltFlogBaseAddr = fXltFlogBaseAddr.get value ∧
       v.fld (rXltFlogPtr p) fXltFlogPtrHead = 0 ∧ v.fld (rXltFlogPtr p) fXltFlogPtrTail = 0 ∧
       v.fld (rXltFlogPtr p) fXltFlogPtrDropped = 0 ∧
       v.fld (rXltFlogPtr p) fXltFlogPtrNew = s.fld (rXltFlogPtr p) fXltFlogPtrNew ∧
       smGet v.xlt.flogFn p = some f)) ∧
   (∀ (s : State) (f : Fn), s.canWrite f rErrPop = true →
     Acts (.errPop f) s [.dbg] (fun v => v.dbg = { s.dbg with errq := s.dbg.errq.drop 1 })) ∧
   (∀ (s : State) (f : Fn) (region : Nat), s.canWrite f rPlcQryCtrl = true → region < 2 ^ 22 →
     Acts (.plcQuery f region) s [.regs] (fun v => RegsKept s v [rPlcQryCtrl, rPlcQryRes] ∧
       v.fld rPlcQryCtrl fPlcQryCtrlValid = 1 ∧ v.fld rPlcQryCtrl fPlcQryCtrlRegion = region ∧
       v.fld rPlcQryRes fPlcQryResHeat = s.heatOf region % 2 ^ 16 ∧
       (v.fld rPlcQryRes fPlcQryResTracked = 1 ↔ (smGet s.plc.heat region).isSome = true) ∧
       (v.fld rPlcQryRes fPlcQryResRacked = 1 ↔ s.racked region = true) ∧
       v.fld rPlcQryRes fPlcQryResTier = s.adviceOf region % 4 ∧
       v.fld rPlcQryRes fPlcQryResReadMostly = s.adviceOf region / 4 % 2 ∧
       ∀ d, s.sharersOf region = some d → v.fld rPlcQryRes fPlcQryResSharers = d.sharers.toNat)) ∧
   (∀ (s : State) (region : Nat), s.live = true →
     (∀ r ∈ s.ral.reqs, r.who = .placement → r.msg.typ = 1 → r.msg.addr / 65536 ≠ region) →
     Acts (.replCopyDone region) s [.plc] (fun v =>
       (∀ r ∈ s.plc.replicas, r.home = region → r.granted = true → { r with valid := true } ∈ v.plc.replicas) ∧
       (∀ r ∈ s.plc.replicas, r.home ≠ region ∨ r.granted = false → r ∈ v.plc.replicas) ∧
       ∀ r ∈ s.plc.replicas, r.home = region → r.granted = true → (∀ q ∈ s.plc.replicas, q.home = region → q = r) →
         (s.health = 2 ∨ s.health = 3) →
         ∀ o, o < 65536 → v.replicaOf (region * 65536 + o) = some (r.slot * 65536 + o)))) ∧
  ((∀ (s : State), s.distTable.length = 7440) ∧
   (∀ (s : State) (f : Fn), s.canWrite f rPlcDistCtrl = true →
     (s.fld rPlcDistCtrl fPlcDistCtrlBusy = 1 → Idle (.distFetch f) s) ∧
     (s.fld rPlcDistCtrl fPlcDistCtrlBusy = 0 → s.stepDone 10 = false → Acts (.distFetch f) s raisedIn (fun v =>
       v.fld rPlcDistCtrl fPlcDistCtrlError = 1 ∧ v.fld rPlcDistCtrl fPlcDistCtrlErrCause = 2 ∧
       v.fld rPlcDistCtrl fPlcDistCtrlBusy = 0)) ∧
     (s.fld rPlcDistCtrl fPlcDistCtrlBusy = 0 → s.stepDone 10 = true → Acts (.distFetch f) s [.regs, .plc, .out] (fun v =>
       v.fld rPlcDistCtrl fPlcDistCtrlBusy = 1 ∧ RegsKept s v [rPlcDistCtrl] ∧
       v.plc = { s.plc with dist := some (s.distTable, f, s.plc.gen.toNat) } ∧
       v.out = s.out ++ [.hostWrite f.port (64 * s.fld rPlcDistAddr fPlcDistAddrAddr) (s.distTable.map some) false]))) ∧
   (∀ (s : State) (ok : Bool) (t : List Byte) (f : Fn) (g : Nat), s.on = true → s.freeze ≠ 2 → s.plc.dist = some (t, f, g) →
     Acts (.distFetchDone ok) s (.plc :: raisedIn) (fun v => v.plc = { s.plc with dist := none } ∧
       v.fld rPlcDistCtrl fPlcDistCtrlBusy = 0 ∧
       (ok = true → v.fld rPlcDistCtrl fPlcDistCtrlDone = 1) ∧
       (ok = false → v.fld rPlcDistCtrl fPlcDistCtrlError = 1 ∧ v.fld rPlcDistCtrl fPlcDistCtrlErrCause = 1) ∧
       (s.plc.gen.toNat ≠ g → v.fld rPlcDistCtrl fPlcDistCtrlStale = 1) ∧
       (s.plc.gen.toNat = g → v.fld rPlcDistCtrl fPlcDistCtrlStale = s.fld rPlcDistCtrl fPlcDistCtrlStale))))

/-! ## Units that leave service, scrubs and the distance table (R26 to R39, R52, R84 to R86, R331 to R333) -/

/-- Units leave service (R30 to R32, R39, R85, R86): a lost bump of a sound bundle takes a spare; with the third the bundle
fails and its bay port runs at half width; a CRC mismatch without one, and the end of a replay, change nothing else; an open
power-via bundle takes a sixteenth from its tile's limit, and at eight the bays over the tile are disabled; the third
parity error of a link in a round, and a request of software, retire the cell: its threads end. -/
def Obligations.UnitsLeaveService : Prop :=
  (∀ (s : State) (iface b m : Nat), s.live = true → s.stepDone 2 = true → bundleReal iface b = true → m < 34 →
    let key := 32768 * iface + b
    let u := b / 528
    let (d, h) := bundleHalf b
    let old := smGetD s.bup.bumps key []
    Acts (.verticalCrcMismatch iface b []) s [.bup] (fun v => (iface, b) ∈ v.bup.recover ∧ v.bup.bumps = s.bup.bumps) ∧
    (key ∉ s.bup.failedB → m ∉ old →
      (old.length < 2 → Acts (.verticalCrcMismatch iface b [m]) s (.bup :: tracedIn) (fun v =>
        (iface, b) ∈ v.bup.recover ∧ smGetD v.bup.bumps key [] = old ++ [m] ∧ v.bup.failedB = s.bup.failedB ∧
        v.bup.bayOff = s.bup.bayOff ∧ v.bup.half = s.bup.half ∧
        (s.bup.nd.length < 1024 → bumpEntry iface b m ∈ v.bup.nd))) ∧
      (old.length = 2 → b < 16896 → s.bayOn u = true → nbit (smGetD s.bup.half u 0) d = false →
        (∀ k ∈ s.bup.failedB, k % 32768 < 16896 → k % 32768 / 528 = u → bundleHalf (k % 32768) ≠ (d, 1 - h)) →
        Acts (.verticalCrcMismatch iface b [m]) s ([.bup, .plc, .pci] ++ tracedIn) (fun v =>
          key ∈ v.bup.failedB ∧ v.bayOn u = true ∧ smGetD v.bup.half u 0 = smGetD s.bup.half u 0 + 2 ^ d ∧
          v.fld (rCmpBayEvent u) fCmpBayEventPortHalf = 1)))) ∧
  (∀ (s : State) (iface b : Nat), Acts (.verticalReplayEnd iface b) s [.bup] (fun v =>
    v.bup = { s.bup with recover := s.bup.recover.filter (fun e => e ≠ (iface, b)) })) ∧
  (∀ (s : State) (iface idx : Nat), s.on = true → s.stepDone 2 = true → 1 ≤ iface → iface ≤ 5 → idx < 1024 →
    1024 * iface + idx ∉ s.bup.vias →
    (s.openVias iface (idx / 16) < 7 → Acts (.powerViaOpen iface idx) s ([.bup, .pci] ++ tracedIn) (fun v =>
      v.tileCap iface (idx / 16) = 64 * (15 - s.openVias iface (idx / 16)) ∧
      ∀ b, b < 32 → s.bayCap b = 1024 → v.bayCap b < 1024 → v.fld (rCmpBayEvent b) fCmpBayEventDutyCapped = 1)) ∧
    (s.openVias iface (idx / 16) = 7 → iface = 5 → ∃ v, exec (.powerViaOpen iface idx) s = .next v ∧
      v.pending = s.pending ∧ ∀ b, b < 32 → idx / 16 ∈ s.bayTiles b → v.bayOn b = false)) ∧
  (∀ (s : State) (row col link : Nat), s.live = true → row < 32 → col < 24 → s.cellOn (24 * row + col) = true →
    let i := 24 * row + col
    let n := smGetD s.bup.parity (8 * i + link % 8) 0
    (n ≠ 2 → Acts (.cellLinkParityError row col link) s [.bup] (fun v =>
      smGetD v.bup.parity (8 * i + link % 8) 0 = n + 1 ∧ v.cellOn i = true)) ∧
    (n = 2 → ∃ v, exec (.cellLinkParityError row col link) s = .next v ∧ v.pending = s.pending ∧ v.cellSt i = 2 ∧
      (∀ t, t / 128 = i → v.thread t = none) ∧ v.fld (rCmpBayEvent (bayOfCell i)) fCmpBayEventCellRetired = 1)) ∧
  (∀ (s : State) (f : Fn) (bay cell : Nat), s.canWrite f (rCmpBayRetire bay) = true → bay < 32 → cell < 32 →
    let i := cellOf bay cell
    let refused (r : Nat) : Prop := Acts (.cellRetireRequest f bay cell false) s [.regs, .pwr] (fun v =>
      v.fld (rCmpBayRetire bay) fCmpBayRetireResult = r ∧ RegsKept s v [rCmpBayRetire bay])
    (s.stepDone 10 = false → refused 4) ∧ (s.stepDone 10 = true → 24 ≤ cell → refused 3) ∧
    (s.stepDone 10 = true → cell < 24 → s.cellOn i = false → refused 2) ∧
    (s.stepDone 10 = true → cell < 24 → s.cellOn i = true →
      ∃ v, exec (.cellRetireRequest f bay cell false) s = .next v ∧ v.pending = s.pending ∧ v.cellSt i = 2 ∧
        v.fld (rCmpBayRetire bay) fCmpBayRetireResult = 1 ∧ ∀ t, t / 128 = i → v.thread t = none))

/-- Scrubs (R331 to R333): a go begins a scrub of the range, slice or bay that it names, or gives result 2 without a target, 3
for one that does not exist and 5 for one out of service, and does nothing to the scrub while busy; a step reads the lowest unit not yet read,
corrects a cell-store word, or poisons it with one record; with nothing left the scrub ends with result 1. -/
def Obligations.ScrubsRun : Prop :=
  (∀ (s : State) (f : Fn) (unit : Nat), s.canWrite f rErrScrubCtrl = true → unit < 256 →
    let base := 256 * s.fld rErrScrubBase fErrScrubBaseBase
    let len := 256 * s.fld rErrScrubLen fErrScrubLenLen
    let gives (c : Instr) (r : Nat) : Prop := Acts c s [.regs] (fun v =>
      v.fld rErrScrubCtrl fErrScrubCtrlResult = r ∧ RegsKept s v [rErrScrubCtrl])
    let begins (c : Instr) (t : Nat) (P : Nat → Nat → Prop) : Prop := Acts c s [.regs, .dbg] (fun v =>
      v.fld rErrScrubCtrl fErrScrubCtrlBusy = 1 ∧ v.fld rErrScrubCtrl fErrScrubCtrlResult = 0 ∧ v.reg rErrScrubRes = 0 ∧
      v.fld rErrScrubCtrl fErrScrubCtrlTarget = t ∧ ∃ a b, v.dbg = { s.dbg with scrub := some (t, a, b) } ∧ P a b)
    (s.fld rErrScrubCtrl fErrScrubCtrlBusy = 0 →
      gives (.scrubNoTarget f) 2 ∧
      (len = 0 ∨ s.backedTop < base + len → gives (.scrubHbm f) 3) ∧
      (0 < len → base + len ≤ s.backedTop → begins (.scrubHbm f) 1 (fun a b => a = base ∧ b = base + len)) ∧
      (unit < 192 → (s.slice unit).state = 0 → begins (.scrubCellar f unit) 2 (fun a b =>
        a = frameKey unit 0 0 ∧ b = frameKey (unit + 1) 0 0)) ∧
      (unit = 255 → begins (.scrubCellar f unit) 2 (fun a b => a = 0 ∧ b = frameKey 192 0 0)) ∧
      (192 ≤ unit → unit < 255 → gives (.scrubCellar f unit) 3) ∧
      (unit < 192 → (s.slice unit).state ≠ 0 → gives (.scrubCellar f unit) 5) ∧
      (32 ≤ unit → gives (.scrubCellStore f unit) 3) ∧
      (unit < 32 → s.bayOn unit = false → gives (.scrubCellStore f unit) 5) ∧
      (unit < 32 → s.bayOn unit = true → begins (.scrubCellStore f unit) 3 (fun a b => a = 0 ∧ b = 16384 * 768))) ∧
    (s.fld rErrScrubCtrl fErrScrubCtrlBusy = 1 →
      ∀ c ∈ [Instr.scrubHbm f, .scrubCellar f unit, .scrubCellStore f unit, .scrubNoTarget f],
        Acts c s [.regs] (fun v => v.fld rErrScrubCtrl fErrScrubCtrlBusy = 1 ∧ RegsKept s v [rErrScrubCtrl]))) ∧
  (∀ (s : State) (errs : List SymErr) (t first last k : Nat), s.live = true → s.dbg.scrub = some (t, first, last) →
    k ∈ s.scrubUnits t last → first ≤ k → (∀ j ∈ s.scrubUnits t last, first ≤ j → k ≤ j) →
    (∃ v, exec (.scrubStep errs) s = .next v ∧ v.pending = s.pending ∧ v.dbg.scrub = some (t, k + 1, last)) ∧
    ∀ w, t = 3 → smGet s.cmp.cs k = some w →
      let o := decodeCw errs 0
      let becomes (x : CsWord) (fixed bad : Nat) : Prop := Acts (.scrubStep errs) s (.cmp :: tracedIn) (fun v =>
        v.cmp = { s.cmp with cs := smSet s.cmp.cs k x } ∧ v.dbg.scrub = some (3, k + 1, last) ∧
        v.fld rErrScrubRes fErrScrubResFixed = (s.fld rErrScrubRes fErrScrubResFixed + fixed) % 2 ^ 32 ∧
        v.fld rErrScrubRes fErrScrubResBad = Nat.min (s.fld rErrScrubRes fErrScrubResBad + bad) (2 ^ fErrScrubResBad.w - 1))
      (o.fixed = true → becomes { w with data := deliver errs 0 w.data } 1 0) ∧
      (o.fixed = false → o.bad = true → becomes { w with poison := true } 0 1) ∧
      (o.fixed = false → o.bad = false → Acts (.scrubStep errs) s [.dbg] (fun v =>
        v.dbg = { s.dbg with scrub := some (3, k + 1, last) }))) ∧
  (∀ (s : State) (t first last : Nat), s.live = true → s.dbg.scrub = some (t, first, last) →
    (∀ j ∈ s.scrubUnits t last, j < first) →
    Acts .scrubDone s [.regs, .dbg] (fun v => v.dbg = { s.dbg with scrub := none } ∧
      v.fld rErrScrubCtrl fErrScrubCtrlBusy = 0 ∧ v.fld rErrScrubCtrl fErrScrubCtrlResult = 1 ∧
      RegsKept s v [rErrScrubCtrl]))

/-! ## Bring-up (R511 to R525) -/

/-- A go for step k is accepted only when steps 1 to k − 1 are done and step k is not, no step is busy, and no compute reset
is in its hardware part; a go for a step that is done completes with result 5, any other that is not accepted with
result 2 (R512). -/
def Obligations.GosFollowTheOrder : Prop :=
  ∀ (s : State) (c : Instr) (f : Fn) (k : Nat) (quick : Option Bool), goOf c = some (f, k, quick) →
    s.canWrite f rBupStep = true → ∃ v, exec c s = .next v ∧ v.pending = s.pending ∧
      (v.fld rBupStep fBupStepResult = 1 → (∀ j, 1 ≤ j → j < k → s.stepDone j = true) ∧ s.stepDone k = false ∧
        s.bup.step = none ∧ s.bup.cresetRun = false) ∧
      (s.stepDone k = true → v.fld rBupStep fBupStepResult = 5) ∧
      (s.stepDone k = false → v.fld rBupStep fBupStepResult ≠ 1 → v.fld rBupStep fBupStepResult = 2)

/-- Steps begin (R511 to R518): an accepted go makes its step the one that runs, busy, with outcome 1; one that is not accepted changes
BUP_STEP alone. Step 1 votes the fuses, step 2 powers the floor and the slices, steps 3, 5 and 6 have their regions to
test, each of which starts when the power limit allows it, step 8 reads the image, step 9 exchanges keys on the ports in PLAIN. -/
def Obligations.StepsBegin : Prop :=
  (∀ (s : State) (c : Instr) (f : Fn) (k : Nat) (quick : Option Bool), goOf c = some (f, k, quick) →
    s.canWrite f rBupStep = true →
    (s.stepResult k = 1 → ∃ v, exec c s = .next v ∧ v.pending = s.pending ∧
      v.bup.step = some (k, quick.getD (decide (s.fld rBupStep fBupStepQuick = 1))) ∧
      v.fld rBupStep fBupStepBusy = 1 ∧ v.fld rBupStep fBupStepResult = 1 ∧ v.fld rBupStep fBupStepStep = k ∧
      v.fld (rBupStatus k) fBupStatusOutcome = 1) ∧
    (s.stepResult k ≠ 1 → Acts c s [.regs] (fun v => v.fld rBupStep fBupStepResult = s.stepResult k ∧
      v.fld rBupStep fBupStepBusy = s.fld rBupStep fBupStepBusy ∧ RegsKept s v [rBupStep]))) ∧
  (∀ (s : State) (f : Fn) (k : Nat) (quick : Bool), s.canWrite f rBupStep = true → s.stepResult (k % 16) ≠ 1 →
    Acts (.bupStepInvalid f k quick) s [.regs] (fun v =>
      v.fld rBupStep fBupStepResult = s.stepResult (k % 16) ∧ (k % 16 = 0 ∨ 10 < k % 16 → s.stepResult (k % 16) = 4) ∧
      v.fld rBupStep fBupStepBusy = s.fld rBupStep fBupStepBusy ∧ RegsKept s v [rBupStep])) ∧
  (∀ (s : State) (f : Fn), s.canWrite f rBupStep = true →
    (∀ copies pkg ds, s.stepResult 1 = 1 → ∃ v, exec (.bupVintage f copies pkg ds) s = .next v ∧
      v.pwr.modelOn = true ∧ v.pwr.pkg = pkg ∧ ∀ i j, i < vintageWords → j < 64 →
        let w := copies.getD i (0, 0, 0)
        (v.vintage i).getLsbD j = ((w.1.getLsbD j && w.2.1.getLsbD j) || (w.1.getLsbD j && w.2.2.getLsbD j) ||
          (w.2.1.getLsbD j && w.2.2.getLsbD j))) ∧
    (s.stepResult 2 = 1 → Acts (.bupClocksPower f) s [.regs, .bup, .pwr] (fun v =>
      (∃ w ∈ v.pwr.wakes ++ v.pwr.rails, w.unit = 0 ∧ wakeClass w.kind = 0) ∧
      ∀ n, n < 192 → ∃ w ∈ v.pwr.wakes ++ v.pwr.rails, w.unit = n ∧ wakeClass w.kind = 1)) ∧
    (∀ bad, s.stepResult 3 = 1 → Acts (.bupVertical f bad) s [.regs, .bup] (fun v => v.bup.bad = bad ∧
      v.bup.regWait = (List.range 5).map (fun i => (0, i)) ∧ v.bup.regRun = [] ∧
      v.bup.waitStage = decide (s.fld rBldCtrl fBldCtrlBusy = 1))) ∧
    (∀ bad n, s.stepResult 4 = 1 → n < 8 → (∀ e ∈ s.namedUnits, (unitKey e).1 ≠ 8) → (s.port n).off = false →
      ∃ v, exec (.bupTraining f bad) s = .next v ∧ (v.port n).state = 1) ∧
    (∀ bad quick, s.stepResult 5 = 1 → Acts (.bupMemoryTest f quick bad) s [.regs, .bup] (fun v =>
      v.bup.bad = bad ∧ v.bup.regRun = [] ∧ v.bup.regWait = regionsOf 5 quick ∧
      ((3, 0) ∈ v.bup.regWait ↔ quick = false))) ∧
    (∀ bad quick, s.stepResult 6 = 1 → s.bup.cellsDone = false → Acts (.bupCells f quick bad) s [.regs, .bup] (fun v =>
      v.bup.bad = bad ∧ v.bup.regRun = [] ∧ v.bup.regWait = (List.range 8).map (fun i => (4, i)))) ∧
    (s.stepResult 8 = 1 → Acts (.bupBlendLoad f) s [.regs, .bup, .out] (fun v => v.bup.loadRunning = true ∧
      v.out = s.out ++ [.hostRead f.port (16 * s.fld rBldSrc fBldSrcAddr) (s.fld rBldLen fBldLenLen)])) ∧
    (s.stepResult 9 = 1 → s.sec.rngFail = false → ∃ v, exec (.bupSecurity f) s = .next v ∧ v.bup.step9 = true ∧
      v.bup.kxPorts = (List.range 8).filter (fun n => (s.port n).state = 5))) ∧
  (∀ (s : State) (test region : Nat), s.live = true →
    ((test, region) ∈ s.bup.regWait → s.bup.waitStage = false →
      (s.regionFits test = false → Idle (.borsumRegionStart test region) s) ∧
      (s.regionFits test = true → Acts (.borsumRegionStart test region) s [.bup, .pwr] (fun v =>
        v.bup = { s.bup with
          regWait := s.bup.regWait.erase (test, region)
          regRun := s.bup.regRun ++ [(test, region)] } ∧
        (test ≠ 4 → v.pwr = s.pwr) ∧
        (test = 4 → ∀ i, i < 4 → ∃ w ∈ v.pwr.wakes ++ v.pwr.rails, w.unit = 4 * region + i ∧ wakeClass w.kind = 6)))) ∧
    (s.regionPowering test region = false → Acts (.testRegionEnd test region) s [.bup] (fun v =>
      v.bup = { s.bup with regRun := s.bup.regRun.erase (test, region) })))

/-- Steps end (R513, R515 to R517, R523 to R525): only once what the step waits for has come; then no step runs, and the step is done, or
its status word gives its cause and its done bit stays as it was. Step 1 sets the variant to the highest grade code, or
ends with cause 1 or 2; step 2 takes the cause that the event names; after step 5 HBM holds nothing and its capacity follows from the channels
in service; step 7 counts the units in service; step 9 counts the ports in SECURE; step 10 enables the stack. -/
def Obligations.StepsEnd : Prop :=
  ∀ (s : State) (k cause : Nat) (quick : Bool), s.on = true → s.bup.step = some (k, quick) → 1 ≤ k → k ≤ 10 →
    (s.stepReady k cause = false → Idle (.bupStepEnd cause) s) ∧
    (s.stepReady k cause = true → k < 3 ∨ s.live = true →
      ∃ v, exec (.bupStepEnd cause) s = .next v ∧ v.pending = s.pending ∧ v.bup.step = none ∧
        v.fld rBupStep fBupStepBusy = 0 ∧
        let done : Prop := v.stepDone k = true ∧
          (v.fld (rBupStatus k) fBupStatusOutcome = 2 ∨ v.fld (rBupStatus k) fBupStatusOutcome = 3)
        let errs (n : Nat) : Prop := v.stepDone k = s.stepDone k ∧ v.fld (rBupStatus k) fBupStatusOutcome = 4 ∧
          v.fld (rBupStatus k) fBupStatusCause = n ∧ v.fld rBupStep fBupStepResult = 3
        (k = 1 → (s.vintageCause = 0 → done ∧ v.sec.idReady = true ∧ v.bup.variant < 3 ∧
            (∃ l, l < 6 ∧ v.bup.variant = Nat.min 2 ((s.vintage (vintageAt l 2)).toNat % 4)) ∧
            ∀ l, l < 6 → Nat.min 2 ((s.vintage (vintageAt l 2)).toNat % 4) ≤ v.bup.variant) ∧
          (s.vintageCause ≠ 0 → errs s.vintageCause) ∧
          (s.vintageCause = 1 ↔ ∃ l, l < 6 ∧ s.vintage (vintageAt l 3) ≠ 1)) ∧
        (k = 2 → (cause = 1 ∨ cause = 2 → errs cause) ∧ (cause ≠ 1 → cause ≠ 2 → done)) ∧
        (k = 3 → if v.baysOn = 0 ∨ v.slicesOn = 0 then errs 1 else done) ∧
        (k = 4 → done ∨ errs 1) ∧
        (k = 5 → v.hbm.blocks = [] ∧ v.backedTop = (192 - v.chansOut.length) * lMax / 192 * 98304 ∧
          if v.slicesOn = 0 ∨ v.chansOn = 0 then errs 1 else done) ∧
        (k = 6 → if v.baysOn = 0 then errs 1 else done) ∧
        (k = 7 → v.fld rBupGrade fBupGradeValid = 1 ∧ v.fld rBupGrade fBupGradeCells = s.cellsOn ∧
          v.fld rBupGrade fBupGradeSlices = s.slicesOn ∧ v.fld rBupGrade fBupGradeChannels = s.chansOn ∧
          v.fld rBupGrade fBupGradeBays = s.baysOn ∧
          (v.fld rBupGrade fBupGradeDegraded = 1 ↔ s.belowFloor = true)) ∧
        (k = 9 → v.fld (rBupStatus 9) fBupStatusCount = ((List.range 8).filter (fun n => (s.port n).state = 6)).length ∧
          if s.sec.rngFail then errs 1 else done) ∧
        (k = 10 → done ∧ v.bup.enabledOnce = true ∧ v.bup.holding = false ∧ (s.bup.failed = false → v.enabled = true)))

/-! ## The Blend, the compute reset and in-service tests (R296, R297, R320, R526 to R531) -/

/-- Stage and load of a Blend (R296, R297, R304, R320, R321): a stage reads the image before step 3 and ends with the units it
names, or with an error that stages nothing; a load whose checks fail leaves no Blend loaded and ends step 8 with cause 1; one whose
checks pass takes effect whole, and step 8 is done. -/
def Obligations.BlendsLoadWhole : Prop :=
  (∀ (s : State) (f : Fn), s.canWrite f rBldCtrl = true →
    (s.fld rBldCtrl fBldCtrlBusy = 1 → Idle (.blendStage f) s) ∧
    (s.fld rBldCtrl fBldCtrlBusy = 0 → s.step3Started = true → Acts (.blendStage f) s raisedIn (fun v =>
      v.fld rBldCtrl fBldCtrlResult = 4 ∧ v.fld rBldCtrl fBldCtrlError = 1 ∧ RegsKept s v [rBldCtrl])) ∧
    (s.fld rBldCtrl fBldCtrlBusy = 0 → s.step3Started = false → Acts (.blendStage f) s [.regs, .out] (fun v =>
      v.fld rBldCtrl fBldCtrlResult = 0 ∧ v.fld rBldCtrl fBldCtrlBusy = 1 ∧ RegsKept s v [rBldCtrl] ∧
      v.out = s.out ++ [.hostRead f.port (16 * s.fld rBldSrc fBldSrcAddr) (s.fld rBldLen fBldLenLen)]))) ∧
  (∀ (s : State) (img : Image), s.on = true → s.fld rBldCtrl fBldCtrlBusy = 1 →
    (∀ e, stageImg s img = .error e → Acts (.blendStageDone img) s (.bup :: raisedIn) (fun v =>
      v.bup = { s.bup with waitStage := false } ∧ v.fld rBldCtrl fBldCtrlBusy = 0 ∧ v.fld rBldCtrl fBldCtrlResult = 3 ∧
      v.fld rBldCtrl fBldCtrlError = 1 ∧ v.fld rBldErr fBldErrCode = e.code % 256 ∧ v.fld rBldErr fBldErrStage = 1)) ∧
    (∀ units dig, stageImg s img = .ok (units, dig) → Acts (.blendStageDone img) s (.bup :: raisedIn) (fun v =>
      v.bup = { s.bup with waitStage := false, staged := some dig, stagedUnits := units } ∧
      v.fld rBldCtrl fBldCtrlBusy = 0 ∧ v.fld rBldCtrl fBldCtrlResult = (if dig.isSome then 1 else 2) ∧
      v.fld rBldCtrl fBldCtrlStaged = 1 ∧ v.fld rBldCtrl fBldCtrlDone = 1))) ∧
  (∀ (s : State) (img : Image) (sigOk : Bool), s.on = true → s.bup.loadRunning = true →
    (∀ e, imageChk s img sigOk = .error e → Acts (.blendLoadDone img sigOk) s (.bup :: raisedIn) (fun v =>
      v.bup.blend = none ∧ v.bup.loadRunning = false ∧ v.bup.step = none ∧ v.fld rBldCtrl fBldCtrlLoaded = 0 ∧
      v.reg rBldBuild = 0 ∧ v.fld rBldErr fBldErrCode = e.code % 256 ∧ v.fld rBldErr fBldErrStage = 0 ∧
      v.stepDone 8 = s.stepDone 8 ∧ v.fld (rBupStatus 8) fBupStatusOutcome = 4 ∧
      v.fld (rBupStatus 8) fBupStatusCause = 1)) ∧
    (∀ c key t, imageChk s img sigOk = .ok (c, key, t) → ∃ v b, exec (.blendLoadDone img sigOk) s = .next v ∧
      v.pending = s.pending ∧ v.bup.blend = some b ∧ b.parts = c.parts ∧ b.opers = c.opers ∧ b.pins = c.pins ∧
      b.key = key ∧ v.bup.roles = c.roles ∧ v.bup.loadRunning = false ∧ v.bup.step = none ∧
      v.fld rBldCtrl fBldCtrlLoaded = 1 ∧ v.fld rXltCfg fXltCfgPriTimeout = c.priTimeout.getD 5000 % 2 ^ 16 ∧
      v.reg rBldBuild = BitVec.ofNat 64 (leAt img.bytes 16 8) ∧ v.stepDone 8 = true))

/-- The compute reset (R526 to R529, R554): not accepted before the first BUP enable (result 2), waiting while the
stack sleeps, is frozen, or a step or a test runs; else threads, tasks, contexts, tiles, commands and translations are
gone, steps 6, 7, 8 and 10 are open again, and requests are held; its end gives result 1 and the event. In-service
tests (R530, R531): once the interval of rounds has passed, the next unit of the next kind is under test and its
contents stand in the save area, or a cell whose bay is sealed or not gated is skipped and counted; no block outside
the save area changes; the end counts the unit, and a unit that failed leaves service. -/
def Obligations.ComputeResetsAndTests : Prop :=
  (let started (s v : State) : Prop := v.bup.cresetRun = true ∧ v.bup.holding = true ∧ v.bup.cresetPending = false ∧
     v.fld rBupCreset fBupCresetBusy = 1 ∧ v.fld rBupCreset fBupCresetHolding = 1 ∧
     v.fld rBupCreset fBupCresetPending = 0 ∧ v.cmp.thr = [] ∧ v.cmp.tasks = [] ∧ v.cmp.ctx = [] ∧ v.cmp.opq = [] ∧
     v.cmp.l1 = [] ∧ v.xlt.l2 = [] ∧ v.xlt.bay = [] ∧ v.xlt.cmds = [] ∧ v.fld rBldCtrl fBldCtrlLoaded = 0 ∧
     (∀ k, k ∈ [6, 7, 8, 10] → v.stepDone k = false) ∧ (∀ k, k ∈ [1, 2, 3, 4, 5, 9] → v.stepDone k = s.stepDone k)
   (∀ (s : State) (f : Fn), s.canWrite f rBupCreset = true →
     (s.bup.enabledOnce = false → Acts (.computeReset f) s [.regs] (fun v =>
       v.fld rBupCreset fBupCresetResult = 2 ∧ RegsKept s v [rBupCreset])) ∧
     (s.bup.enabledOnce = true → s.cresetWaits = true → s.pwr.state = 0 ∨ s.pwr.target.isSome = true →
       Acts (.computeReset f) s [.regs, .bup] (fun v => v.bup = { s.bup with cresetPending := true } ∧
         v.fld rBupCreset fBupCresetPending = 1 ∧ RegsKept s v [rBupCreset])) ∧
     (s.bup.enabledOnce = true → s.pwr.state ≠ 0 → s.pwr.target = none → s.thawed = true →
       ∃ v, exec (.computeReset f) s = .next v ∧ v.pending = s.pending ∧ v.bup.cresetPending = true ∧
         v.pwr.target = some 0 ∧ v.cmp = s.cmp) ∧
     (s.bup.enabledOnce = true → s.cresetWaits = false →
       ∃ v, exec (.computeReset f) s = .next v ∧ v.pending = s.pending ∧ started s v)) ∧
   (∀ (s : State), s.on = true → s.bup.cresetPending = true → s.cresetWaits = false →
     ∃ v, exec .cresetDeferredStart s = .next v ∧ v.pending = s.pending ∧ started s v) ∧
   (∀ (s : State), s.on = true → s.bup.cresetRun = true → Acts .computeResetDone s (.bup :: raisedIn) (fun v =>
     v.bup = { s.bup with cresetRun := false } ∧ v.fld rBupCreset fBupCresetBusy = 0 ∧
     v.fld rBupCreset fBupCresetResult = 1 ∧ v.fld rBupEvent fBupEventCresetDone = 1))) ∧
  ((∀ (s : State) (kinds interval base k u : Nat), s.live = true →
     s.bup.blend.bind Blend.test = some (kinds, interval, base) → s.stepDone 10 = true → s.bup.cresetPending = false →
     s.bup.tstUnit = none →
     (s.bup.tstRounds < interval → Idle .inserviceTest s) ∧
     (interval ≤ s.bup.tstRounds → s.testKind kinds = some k → s.testNext k = some u →
       (s.testSkips k u = true → Acts .inserviceTest s [.regs, .bup] (fun v => v.bup.tstUnit = none ∧
         v.bup.tstRounds = 0 ∧ v.bup.tstKind = k ∧ smGetD v.bup.tstNext k 0 = u + 1 ∧ RegsKept s v [rBupTestStat] ∧
         v.fld rBupTestStat fBupTestStatSkipped = Nat.min (s.fld rBupTestStat fBupTestStatSkipped + 1) 255)) ∧
       (s.testSkips k u = false → Acts .inserviceTest s [.regs, .bup, .hbm, .free] (fun v =>
         v.bup.tstUnit = some (k, u) ∧ v.bup.tstRounds = 0 ∧ smGetD v.bup.tstNext k 0 = u + 1 ∧
         v.fld rBupTestStat fBupTestStatRunning = 1 ∧ v.fld rBupTestStat fBupTestStatKind = k % 4 ∧
         v.fld rBupTestStat fBupTestStatUnit = u % 2 ^ 24 ∧
         ∀ b, (∀ i, i < 8192 → s.keyOf (base + 256 * i) ≠ s.keyOf b) → v.block b = s.block b)))) ∧
   (∀ (s : State) (k u : Nat) (bad : List Nat), s.live = true → s.bup.tstUnit = some (k, u) →
     (bad = [] → ∃ v, exec (.inserviceTestDone bad) s = .next v ∧ v.pending = s.pending ∧ v.bup.tstUnit = none ∧
       v.fld rBupTestStat fBupTestStatRunning = 0 ∧
       v.fld rBupTestStat fBupTestStatTested = (s.fld rBupTestStat fBupTestStatTested + 1) % 2 ^ 16 ∧
       (k ≠ 2 → Only [.regs, .bup] s v)) ∧
     (bad ≠ [] → k = 1 → u < 768 → s.cellOn u = true →
       ∃ v, exec (.inserviceTestDone bad) s = .next v ∧ v.pending = s.pending ∧ v.bup.tstUnit = none ∧ v.cellSt u = 2 ∧
         v.fld rBupEvent fBupEventTestFail = 1 ∧
         v.fld rBupTestStat fBupTestStatFailed = Nat.min (s.fld rBupTestStat fBupTestStatFailed + 1) 255)))

/-! ## Sealing (R418, R424 to R445) -/

/-- SEAL, ROTATE, ERASE and DEBUGKEY (R418, R424, R425, R434, R436, R438): a request that does not hold is answered with its result and
does nothing else; an accepted SEAL puts the partition into sealing with its first key and the range of the request, ends its
threads, and leaves no line of its share in the cellar and no valid word in its cell stores; its completion seals it under
write generation 1; ROTATE makes the next generation the write generation and starts the decant, which moves one block at a
time to it; ERASE destroys the keys and ends the threads; DEBUGKEY answers the key; the overwrite ends with the partition open. -/
def Obligations.PartitionsSealAndErase : Prop :=
  (∀ (s : State) (f : Fn) (sess : Nat) (req : List Byte), InSession s f sess →
    let p := leAt req 1 1
    let c := if s.asleep then 2 else s.sealResult f p req
    (c ≠ 0 → Answers (.seal f sess req) s (.spdm f 0x7E [1, BitVec.ofNat 8 p, BitVec.ofNat 8 c])) ∧
    (c = 0 → ∀ r, s.part p = some r → ∃ v k, exec (.seal f sess req) s = .next v ∧ v.pending = s.pending ∧
      v.secState p = 2 ∧ (v.secPart p).keys = [k] ∧ k.gen = 1 ∧ (v.secPart p).base = leAt req 8 8 ∧
      (v.secPart p).len = leAt req 16 8 ∧ (v.secPart p).waitFn = some f ∧
      v.out.getLast? = some (.spdm f 0x7F [0x42]) ∧ (∀ t x, v.thread t = some x → x.m / 64 ≠ p) ∧
      (∀ e ∈ v.cmp.cs, r.bays.getLsbD (bayOfCell (e.1 / 16384)) = true → e.2.valid = false) ∧
      ∀ e ∈ v.cel.frames, ∀ l ∈ e.2.lines, r.base ≤ addrOf e.2.ch e.2.grp l.line →
        addrOf e.2.ch e.2.grp l.line < r.base + r.len → l.st = .filling)) ∧
  (∀ (s : State) (p : Nat), s.on = true →
    (s.sealReady p = false → Idle (.sealComplete p) s) ∧
    (s.sealReady p = true → Acts (.sealComplete p) s ([.sec, .cmp, .cel, .hbm] ++ raisedIn) (fun v =>
      v.secPart p = { s.secPart p with state := 3, writeGen := 1, waitFn := none } ∧
      v.fld (rSecPartEvent p) fSecPartEventSealed = 1 ∧
      ∀ f, (s.secPart p).waitFn = some f →
        v.sec.ready = s.sec.ready ++ [(f, 0x7E, [1, BitVec.ofNat 8 p, 0])]))) ∧
  (∀ (s : State) (f : Fn) (sess p : Nat), InSession s f sess →
    let ans (n r : Nat) : Out := .spdm f 0x7E [BitVec.ofNat 8 n, BitVec.ofNat 8 p, BitVec.ofNat 8 r]
    let q := s.secPart p
    (s.asleep = true ∨ s.sealed p = false → Answers (.rotate f sess p) s (ans 2 2) ∧
      Answers (.erase f sess p) s (ans 3 2) ∧ Answers (.debugkey f sess p) s (ans 4 2)) ∧
    (s.asleep = false → s.sealed p = true →
      (s.mapped p f = false → (s.sec.rngFail = false → Answers (.rotate f sess p) s (ans 2 6)) ∧
        Answers (.erase f sess p) s (ans 3 6) ∧ Answers (.debugkey f sess p) s (ans 4 6)) ∧
      (s.sec.rngFail = true → Answers (.rotate f sess p) s (ans 2 5)) ∧
      (s.mapped p f = true → s.sec.rngFail = false → q.oldGen ≠ 0 → Answers (.rotate f sess p) s (ans 2 7)) ∧
      (s.mapped p f = true → s.sec.rngFail = false → q.oldGen = 0 →
        Acts (.rotate f sess p) s [.sec, .out, .free] (fun v => v.out = s.out ++ [ans 2 0] ∧
          (v.secPart p).oldGen = q.writeGen ∧ (v.secPart p).writeGen = q.writeGen % 3 + 1 ∧
          (v.secPart p).decant.isSome = true ∧
          ∃ k, k.gen = q.writeGen % 3 + 1 ∧ (v.secPart p).keys = q.keys ++ [k])) ∧
      (s.mapped p f = true → Answers (.debugkey f sess p) s (.spdm f 0x7E ([4, BitVec.ofNat 8 p, 0, 0] ++
        toBytes q.debugKey 32))) ∧
      (s.mapped p f = true → ∃ v, exec (.erase f sess p) s = .next v ∧ v.pending = s.pending ∧ v.secState p = 4 ∧
        (v.secPart p).keys = [] ∧ (v.secPart p).importKey = 0 ∧ (v.secPart p).debugKey = 0 ∧
        v.fld (rSecPartEvent p) fSecPartEventErased = 1 ∧ (∀ t x, v.thread t = some x → x.m / 64 ≠ p) ∧
        v.sec.ready = s.sec.ready ++ [(f, 0x7E, [3, BitVec.ofNat 8 p, 0])]))) ∧
  (∀ (s : State) (p a : Nat) (r : Part) (k : DataKey), s.live = true → s.sealed p = true → p < 16 →
    (s.secPart p).decant = some a → (s.secPart p).part = some r → (s.secPart p).key (s.secPart p).writeGen = some k →
    ∃ v, exec (.decantStep p []) s = .next v ∧ v.pending = s.pending ∧ BlocksKept s v a ∧
      ((s.block a).valid = true → (s.block a).keygen = (s.secPart p).oldGen → s.chanFailed a = false →
        (v.block a).keygen = (s.secPart p).writeGen ∧ (v.block a).valid = true) ∧
      (a + 256 < r.base + r.len → v.secPart p = { s.secPart p with decant := some (a + 256) }) ∧
      (r.base + r.len ≤ a + 256 → (v.secPart p).decant = none ∧ (v.secPart p).oldGen = 0 ∧
        (∀ x ∈ (v.secPart p).keys, x.gen ≠ (s.secPart p).oldGen) ∧
        v.fld (rSecPartEvent p) fSecPartEventDecantDone = 1)) ∧
  (∀ (s : State) (p : Nat), s.live = true → (s.secPart p).state = 4 →
    (∀ b l c, s.leftovers p = (b :: l, c) → Acts (.eraseOverwriteStep p) s [.sec, .hbm] (fun v =>
      v.hbm.blocks = smDel s.hbm.blocks b)) ∧
    (∀ c l, s.leftovers p = ([], c :: l) → Acts (.eraseOverwriteStep p) s [.sec, .cmp] (fun v =>
      v.cmp.cs = smDel s.cmp.cs c)) ∧
    (s.leftovers p = ([], []) → Acts (.eraseOverwriteStep p) s [.sec] (fun v =>
      smGet v.sec.parts p = none ∧ v.secState p ≤ 1)))

/-- The operator's gos and IMPORT (R411, R427, R445): a go in S1 to S3 has result 2, one during a compute reset waits for its end; ROTATE and
ERASE act as the tenant's, another op has result 5; an import that is accepted asks for its first chunk, a chunk that is not
there or whose tag is wrong ends it with 5 or 4, and the last one with 1; a failed random source is remembered. -/
def Obligations.OperatorGosAndImports : Prop :=
  (∀ (s : State) (f : Fn) (p op : Nat) (c : Instr), s.canWrite f (rSecPartCtrl p) = true → p < 16 →
    (c = .partCtrlRotate f p ∧ op = 1 ∨ c = .partCtrlErase f p ∧ op = 2 ∨
      (op = 0 ∨ op = 3) ∧ c = .partCtrlBadOp f p op) →
    let ends (r : Nat) : Prop := Acts c s [.regs] (fun v => v.fld (rSecPartCtrl p) fSecPartCtrlResult = r ∧
      v.fld (rSecPartCtrl p) fSecPartCtrlOp = op ∧ RegsKept s v [rSecPartCtrl p])
    (s.asleep = true → ends 2) ∧
    (s.asleep = false → s.bup.cresetRun = true → Acts c s [.regs, .sec] (fun v =>
      v.sec = { s.sec with deferred := s.sec.deferred ++ [(p, op, f)] })) ∧
    (s.asleep = false → s.bup.cresetRun = false →
      (op = 0 ∨ op = 3 → ends 5) ∧
      (op = 1 → (s.rotateResult p = 7 → ends 3) ∧ (s.rotateResult p = 2 ∨ s.rotateResult p = 5 → ends 2) ∧
        (s.rotateResult p = 0 → Acts c s [.regs, .sec, .free] (fun v => v.fld (rSecPartCtrl p) fSecPartCtrlResult = 1 ∧
          (v.secPart p).oldGen = (s.secPart p).writeGen ∧
          (v.secPart p).writeGen = (s.secPart p).writeGen % 3 + 1))) ∧
      (op = 2 → (s.sealed p = false → ends 2) ∧
        (s.sealed p = true → ∃ v, exec c s = .next v ∧ v.pending = s.pending ∧ v.secState p = 4 ∧
          (v.secPart p).keys = [] ∧ v.fld (rSecPartCtrl p) fSecPartCtrlResult = 1)))) ∧
  (∀ (s : State) (f : Fn) (p op : Nat) (rest : List (Nat × Nat × Fn)), s.bup.cresetRun = false → p < 16 →
    s.sec.deferred = (p, op, f) :: rest →
    (op = 2 → s.sealed p = true → ∃ v, exec .secDeferredGo s = .next v ∧ v.pending = s.pending ∧ v.secState p = 4 ∧
      v.fld (rSecPartCtrl p) fSecPartCtrlResult = 1 ∧ v.sec.deferred = rest) ∧
    (op = 4 → s.sealed p = false → (s.secPart p).imp = none → Acts .secDeferredGo s [.regs, .sec] (fun v =>
      v.fld (rSecImpCtrl p) fSecImpCtrlResult = 2 ∧ v.sec = { s.sec with deferred := rest }))) ∧
  (∀ (s : State) (f : Fn) (p : Nat), s.canWrite f (rSecImpCtrl p) = true → p < 16 →
    let dst := 65536 * s.fld (rSecImpDst p) fSecImpDstDst
    let len := 65536 * s.fld (rSecImpLen p) fSecImpLenLen
    let q := s.secPart p
    let inside : Prop := 0 < len ∧ q.base ≤ dst ∧ dst + len ≤ q.base + q.len
    let ends (r : Nat) : Prop := Acts (.importGo f p) s [.regs] (fun v =>
      v.fld (rSecImpCtrl p) fSecImpCtrlResult = r ∧ RegsKept s v [rSecImpCtrl p])
    (s.bup.cresetRun = true → Acts (.importGo f p) s [.sec] (fun v =>
      v.sec = { s.sec with deferred := s.sec.deferred ++ [(p, 4, f)] })) ∧
    (s.bup.cresetRun = false →
      (q.imp.isSome = true → Idle (.importGo f p) s) ∧
      (q.imp = none → s.sealed p = false → ends 2) ∧
      (q.imp = none → s.sealed p = true → ¬ inside → ends 3) ∧
      (q.imp = none → s.sealed p = true → inside → Acts (.importGo f p) s [.regs, .sec, .out] (fun v =>
        v.fld (rSecImpCtrl p) fSecImpCtrlBusy = 1 ∧ v.fld (rSecImpCtrl p) fSecImpCtrlChunks = 0 ∧
        v.secPart p = { q with imp := some (f, 0), impDst := dst, impLen := len } ∧
        v.out = s.out ++ [.hostRead f.port (16 * s.fld (rSecImpSrc p) fSecImpSrcAddr) 65552])))) ∧
  (∀ (s : State) (f : Fn) (p i : Nat) (chunk : ReadData), s.live = true → p < 16 → (s.secPart p).imp = some (f, i) →
    let q := s.secPart p
    let at_ := q.impDst + 65536 * i
    let ends (r : Nat) : Prop := Acts (.importChunk p chunk) s [.regs, .sec] (fun v =>
      v.fld (rSecImpCtrl p) fSecImpCtrlResult = r ∧ v.fld (rSecImpCtrl p) fSecImpCtrlBusy = 0 ∧
      v.secPart p = { q with imp := none } ∧ RegsKept s v [rSecImpCtrl p])
    (chunk.failed = true ∨ chunk.bytes.length ≠ 65552 → ends 5) ∧
    (chunk.failed = false → chunk.bytes.length = 65552 →
      (chunkPlain q.importKey (at_ - q.base) chunk.bytes = none → ends 4) ∧
      (∀ d, chunkPlain q.importKey (at_ - q.base) chunk.bytes = some d →
        ∃ v, exec (.importChunk p chunk) s = .next v ∧ v.pending = s.pending ∧
          v.fld (rSecImpCtrl p) fSecImpCtrlChunks = (i + 1) % 2 ^ 24 ∧
          (q.impLen ≤ 65536 * (i + 1) → (v.secPart p).imp = none ∧ v.fld (rSecImpCtrl p) fSecImpCtrlResult = 1) ∧
          (65536 * (i + 1) < q.impLen → (v.secPart p).imp = some (f, i + 1))))) ∧
  (∀ (s : State), s.on = true → Acts .rngHealthFail s [.sec] (fun v => v.sec = { s.sec with rngFail := true }))

/-! ## The Askala engine, SPDM, IDE and DOE (R363, R364, R409, R416 to R420) -/

/-- The mailboxes (R363, R364, R409, R416 to R420): before the identity key exists every request receives Busy; version, capabilities,
algorithms and unsigned measurements are answered at once, a signed one and a key exchange go to the engine, whose end sends the
answer; sessions are limited, established by FINISH, refreshed and ended; a request that is not supported receives
UnsupportedRequest; IDE keys make a port's stream secure until it fails; a DOE object that is too long is discarded. -/
def Obligations.MailboxesAnswer : Prop :=
  (∀ (s : State) (f : Fn) (c : Instr) (sess slot index code p : Nat) (sig ok : Bool) (nonce : BitVec 256)
      (bytes : List Byte), s.on = true → s.freeze ≠ 2 → s.sec.idReady = false →
    c ∈ [.getVersion f, .getCapabilities f, .negotiateAlgorithms f, .challenge f slot nonce,
      .getMeasurements f index sig nonce, .keyExchange f slot bytes, .finish f sess ok, .heartbeat f sess,
      .keyUpdate f sess, .endSession f sess, .respondIfReady f, .spdmUnsupported f code, .seal f sess bytes,
      .rotate f sess p, .erase f sess p, .debugkey f sess p, .ideKm f sess nonce] →
    Answers c s (.spdm f 0x7F [3])) ∧
  (∀ (s : State) (f : Fn) (code slot index : Nat) (nonce : BitVec 256) (bytes : List Byte), MailOpen s →
    Answers (.getVersion f) s (.spdm f 0x04 [0x00, 0x12]) ∧
    Answers (.getCapabilities f) s (.spdm f 0x61 (natBytes 0x162F4 4)) ∧
    (∃ l, l.length = 21 ∧ Answers (.negotiateAlgorithms f) s (.spdm f 0x63 l)) ∧
    Answers (.spdmUnsupported f code) s (.spdm f 0x7F [7]) ∧
    (slot ≠ 0xFF → Answers (.challenge f slot nonce) s (.spdm f 0x7F [7]) ∧
      Answers (.keyExchange f slot bytes) s (.spdm f 0x7F [7])) ∧
    (index = 0 ∨ 17 < index ∧ index ≠ 0xFF →
      ∀ sig, Answers (.getMeasurements f index sig nonce) s (.spdm f 0x7F [7])) ∧
    (1 ≤ index → index ≤ 17 ∨ index = 0xFF → Answers (.getMeasurements f index false nonce) s
      (.spdm f 0x60 (if index = 0xFF then ((List.range 17).map (· + 1)).flatMap s.measBlock else s.measBlock index))) ∧
    (s.sec.running = none → s.sec.queue = [] →
      Acts (.challenge f 0xFF nonce) s [.sec] (fun v => v.sec = { s.sec with
        running := some ⟨2, f, 1, toBytes nonce 32⟩ }) ∧
      (1 ≤ index → index ≤ 17 ∨ index = 0xFF → Acts (.getMeasurements f index true nonce) s [.sec] (fun v =>
        v.sec = { s.sec with running := some ⟨2, f, 2, natBytes index 1 ++ toBytes nonce 32⟩ })) ∧
      (s.sec.rngFail = false → (s.sec.sessions.filter (fun x => x.f = f)).length < 2 → s.sec.sessions.length < 16 →
        Acts (.keyExchange f 0xFF bytes) s [.sec] (fun v => v.sec = { s.sec with
          sessions := s.sec.sessions ++ [⟨s.sec.nextSess, f, false, false, 0⟩]
          nextSess := s.sec.nextSess % 65535 + 1
          running := some ⟨2, f, 3, natBytes s.sec.nextSess 2 ++ bytes⟩ }))) ∧
    (s.sec.rngFail = false → 2 ≤ (s.sec.sessions.filter (fun x => x.f = f)).length ∨ 16 ≤ s.sec.sessions.length →
      Answers (.keyExchange f 0xFF bytes) s (.spdm f 0x7F [0x0A])) ∧
    (∀ e, s.sec.ready.find? (fun e => e.1 = f) = some e → Acts (.respondIfReady f) s [.sec, .out] (fun v =>
      v.out = s.out ++ [.spdm f e.2.1 e.2.2] ∧ v.sec = { s.sec with ready := s.sec.ready.erase e })) ∧
    ((∀ e ∈ s.sec.ready, e.1 ≠ f) → (∃ e ∈ s.sec.parts, e.2.waitFn = some f) →
      Answers (.respondIfReady f) s (.spdm f 0x7F [0x42])) ∧
    ∀ (sess : Nat) (x : Session), x ∈ s.sec.sessions → x.id = sess → x.f = f → x.established = false → x.keyed = true →
      Acts (.finish f sess true) s [.sec, .out] (fun v => v.out = s.out ++ [.spdm f 0x65 []] ∧
        ∀ y ∈ v.sec.sessions, y.id = sess → y.established = true) ∧
      Acts (.finish f sess false) s [.sec, .out] (fun v => v.out = s.out ++ [.spdm f 0x7F [6]] ∧
        ∀ y ∈ v.sec.sessions, y.id ≠ sess)) ∧
  (∀ (s : State) (f : Fn) (sess : Nat) (key : BitVec 256), InSession s f sess →
    Answers (.heartbeat f sess) s (.spdm f 0x68 []) ∧
    Acts (.keyUpdate f sess) s [.sec, .out] (fun v => v.out = s.out ++ [.spdm f 0x69 []] ∧
      v.sec.sessions = s.sec.sessions.map (fun x => if x.id = sess then { x with key := nextSecret x.key } else x)) ∧
    Acts (.endSession f sess) s [.sec, .out] (fun v => v.out = s.out ++ [.spdm f 0x6C []] ∧
      v.sec.sessions = s.sec.sessions.filter (fun x => x.id ≠ sess)) ∧
    (f.vf ≠ 0 → Answers (.ideKm f sess key) s (.spdm f 0x7F [7])) ∧
    (f.vf = 0 → f.port < 2 → Acts (.ideKm f sess key) s [.regs, .pci, .out] (fun v =>
      v.fld (rPciLink f.port) fPciLinkIde = 2 ∧ RegsKept s v [rPciLink f.port] ∧
      (f.port < s.pci.ideKey.length → v.pci.ideKey[f.port]? = some key)))) ∧
  (∀ (s : State) (o : AskOp), s.on = true → s.sec.running = some o → s.sec.queue = [] → o.cls = 2 → 1 ≤ o.code →
    o.code ≤ 3 → ∃ v r n, exec .askalaOperationDone s = .next v ∧ Only [.sec, .out, .free] s v ∧ v.sec.running = none ∧
      r = toBytes ((Config.drbg s.free).extractLsb' 0 256) 32 ∧
      (o.code = 1 → v.out = s.out ++ [.spdm o.f 0x03 (sha256 (toBytes s.sec.pk 32) ++ r ++
        Config.slhSign s.sec.seed (o.data ++ (sha256 (toBytes s.sec.pk 32) ++ r)) n)]) ∧
      (o.code = 2 → v.out = s.out ++ [.spdm o.f 0x60 (s.report (leAt o.data 0 1) ++ r ++
        Config.slhSign s.sec.seed (o.data ++ (s.report (leAt o.data 0 1) ++ r)) n)]) ∧
      (o.code = 3 → ∃ x, v.out.length = s.out.length + 1 ∧
        ∀ e ∈ v.sec.sessions, e.id = leAt o.data 0 2 → e.f = o.f → e.keyed = true ∧
          e.key = Config.ecdhShared x (o.data.drop 2))) ∧
  (∀ (s : State) (port len : Nat) (f : Fn) (index : Nat), s.on = true →
    (port < 2 → s.ide port ≠ 0 → Acts (.ideInsecure port) s raisedIn (fun v =>
      v.fld (rPciLink port) fPciLinkIde = 3 ∧ v.fld rPciEvent (fPciEventIdeInsecureN.bit port) = 1)) ∧
    (65536 < len → Acts (.doeOversize f len) s [.pci] (fun v => f ∈ v.pci.doeErr ∧ v.out = s.out)) ∧
    (index < 3 → Answers (.doeDiscovery f index) s (.doe f 1 index (if index = 2 then 0 else index + 1))) ∧
    (3 ≤ index → Answers (.doeDiscovery f index) s (.doe f 0xFFFF 0 0)))

/-! ## Raloth links (R368 to R391) -/

/-- Training (R380 to R382, R384): a block parses to its code and mask; the 16th valid block in a row takes a port from DETECT
to EQUALISE; EQUALISE, ALIGN and SYNC end as R380 says, with the lanes that failed out of service and the width that the rest
allows; a state that lasts too long, or a port without a lane, fails, and FAILED ends in DETECT; RECOVER keeps keys and
counters and replays from the oldest frame not acknowledged. -/
def Obligations.PortsTrain : Prop :=
  (∀ l code mask, l < 8 → code < 16 → mask < 256 → trainParse l (trainBlock l code mask) = some (code, mask)) ∧
  (∀ (s : State) (n : Nat) (bs : List (List Nat)) (code mask : Nat), PortRuns s n → BlocksSay bs code mask →
    let p := s.port n
    let c := Instr.trainingBlockReceive n bs
    (p.state = 1 → code ≠ 6 → p.blocksIn < 15 → Acts c s portIn (fun v =>
      PortIs s v n { p with blocksIn := p.blocksIn + 1, peerMask := BitVec.ofNat 8 mask })) ∧
    (p.state = 1 → code ≠ 6 → 15 ≤ p.blocksIn → Acts c s portIn (fun v =>
      PortIs s v n { p with state := 2, blocksIn := 0, peerMask := BitVec.ofNat 8 mask } ∧
      v.out.getLast? = some (.ralBlock n 2 (v.usable n)))) ∧
    (p.state = 4 ∨ p.state = 7 → code = 4 → Acts c s portIn (fun v =>
      PortIs s v n { p with blocksIn := p.blocksIn + 1 })) ∧
    (p.state = 1 ∨ p.state = 9 → code = 6 → s.fld (rRalPortCtrl n) fRalPortCtrlAllowFar = 1 →
      Acts c s portIn (fun v => (v.port n).state = 8 ∧ (v.port n).loop = 4)) ∧
    (p.framing = true → code = 5 → Acts c s portIn (fun v =>
      PortIs s v n { p with rxSleep := false, sleepSeen := false }))) ∧
  (∀ (s : State) (n : Nat) (bs : List (List Nat)), PortRuns s n → (s.port n).state = 8 →
    Acts (.trainingBlockReceive n bs) s [.regs] (fun v => ∀ l b, l < 8 → bs[l]? = some b →
      let want := trainBlock l (if (s.port n).loop = 3 then 6 else 1) (s.usable n)
      v.fld (rRalLane n l) fRalLaneErrors = Nat.min (s.fld (rRalLane n l) fRalLaneErrors +
        ((List.range 48).filter (fun i => b.getD (16 + i) 9 ≠ want.getD (16 + i) 9)).length) (2 ^ 24 - 1))) ∧
  (∀ (s : State) (n : Nat) (bad peer : BitVec 8), PortRuns s n →
    let p := s.port n
    (p.state = 2 → LaneLeft s n bad 0xFF → Acts (.equaliseDone n bad) s ([.bup, .pci] ++ portIn) (fun v =>
      PortIs s v n { p with state := 3 } ∧ LanesLost s v n bad 2 ∧
      v.out.getLast? = some (.ralBlock n 3 (v.usable n)) ∧
      (s.fld (rRalPortCtrl n) fRalPortCtrlManual = 1 → ∀ l, l < 8 → (v.usable n).testBit l = true →
        v.fld (rRalLane n l) fRalLaneLock = b2n (s.locked n l)))) ∧
    (p.state = 2 → (∀ l, l < 8 → (s.usable n).testBit l = true → bad.getLsbD l = true) → NoneAbroad s →
      ∃ v, exec (.equaliseDone n bad) s = .next v ∧ v.pending = s.pending ∧ PortFailed s v n) ∧
    (p.state = 3 → LaneLeft s n bad peer → s.fld (rRalPortCtrl n) fRalPortCtrlManual = 0 →
      Acts (.alignDone n bad peer) s ([.bup, .pci] ++ portIn) (fun v => LanesLost s v n bad 2 ∧
        PortIs s v n { p with
          state := 4
          width := widthOf (v.usable n &&& peer.toNat)
          blocksIn := 0
          peerMask := peer } ∧
        (∀ l, l < 8 → (v.usable n).testBit l = true → v.fld (rRalLane n l) fRalLaneLock = 1) ∧
        v.out.getLast? = some (.ralBlock n 4 (v.usable n)))) ∧
    (p.state = 3 → LaneLeft s n bad peer → s.fld (rRalPortCtrl n) fRalPortCtrlManual = 1 →
      Acts (.alignDone n bad peer) s ([.bup, .pci] ++ portIn) (fun v => LanesLost s v n bad 2 ∧
        PortIs s v n { p with
          width := widthOf (v.usable n &&& peer.toNat)
          blocksIn := 0
          peerMask := peer })) ∧
    (p.state = 7 → LaneLeft s n bad peer → Acts (.recoverDone n bad peer) s ([.bup, .pci] ++ portIn) (fun v =>
      LanesLost s v n bad 3 ∧ (v.port n).state = (if p.txEpoch = 0 then 5 else 6) ∧
      (v.port n).width = widthOf (v.usable n &&& peer.toNat) ∧ (v.port n).txKey = p.txKey ∧
      (v.port n).rxKey = p.rxKey ∧ (v.port n).txCtr = p.txCtr ∧ (v.port n).rxCtr = p.rxCtr ∧
      (v.port n).replay = p.replay ∧ (∀ e l, p.replay = e :: l → (v.port n).replayFrom = some e.1) ∧
      ∀ k, k ≠ n → v.port k = s.port k))) ∧
  (∀ (s : State) (n : Nat), PortRuns s n →
    let p := s.port n
    (p.state = 4 → 16 ≤ p.blocksIn → s.bup.step9 = false → Acts (.syncDone n) s portIn (fun v =>
      (v.port n).state = 5 ∧ (v.port n).txCtr = 0 ∧ (v.port n).rxCtr = 0 ∧ (v.port n).replay = [] ∧
      (v.port n).txCredits = [256, 256, 256, 256] ∧ (v.port n).txEpoch = 0 ∧ (v.port n).rxEpoch = 0 ∧
      (v.port n).txScr = (List.range 8).map (0x1D8700 + ·) ∧ (v.port n).rxScr = (List.range 8).map (0x1D8700 + ·) ∧
      (v.port n).txq = p.txq ++ (if s.fld rRalEnum fRalEnumHasId = 1 then
        [ctlMsg s 0x13 0 (BitVec.ofNat 128 (s.stackId + 256 * n + 2 ^ 32 * s.ral.enumTag)) []] else []) ∧
      v.fld (rRalPortEvent n) fRalPortEventUp = 1 ∧ ∀ k, k ≠ n → v.port k = s.port k)) ∧
    (p.state = 4 → 16 ≤ p.blocksIn → s.bup.step9 = true → s.sec.rngFail = false →
      Acts (.syncDone n) s portIn (fun v => (v.port n).state = 5 ∧ (v.port n).kx.phase = 1)) ∧
    (p.state = 2 ∨ p.state = 4 ∨ p.state = 3 ∧ s.fld (rRalPortCtrl n) fRalPortCtrlManual = 0 → NoneAbroad s →
      ∃ v, exec (.trainingTimeout n) s = .next v ∧ v.pending = s.pending ∧ PortFailed s v n) ∧
    (p.state = 3 → s.fld (rRalPortCtrl n) fRalPortCtrlManual = 1 → Idle (.trainingTimeout n) s) ∧
    (p.state = 9 → Acts (.failedRetry n) s portIn (fun v =>
      PortIs s v n { portClear p 1 with txq := p.txq.filter (fun m => endToEnd m.typ) } ∧
      v.out.getLast? = some (.ralBlock n 1 (v.usable n)))) ∧
    (p.state = 7 → NoneAbroad s →
      ∃ v, exec (.recoverTimeout n) s = .next v ∧ v.pending = s.pending ∧ PortFailed s v n) ∧
    (p.state = 8 → p.loop = 4 → Acts (.farLoopbackExit n) s portIn (fun v => (v.port n).state = 1)) ∧
    (p.framing = true → Acts (.deskewLoss n) s portIn (fun v =>
      PortIs s v n { p with state := 7, badInRow := 0, blocksIn := 0 } ∧
      v.fld (rRalPortEvent n) fRalPortEventRecover = 1)) ∧
    ∀ l, p.framing = true →
      (p.sleepSeen = false → l ∈ s.lanesUsed n → Acts (.laneLossOfSignal n l) s portIn (fun v =>
        PortIs s v n { p with state := 7, badInRow := 0, blocksIn := 0 } ∧
        v.fld (rRalPortEvent n) fRalPortEventRecover = 1)) ∧
      (p.sleepSeen = true → Idle (.laneLossOfSignal n l) s))

/-- A port's register operations (R368, R383, R384): retrain discards what the port holds and goes to DETECT; with manual set
a slip delays a lane's word by one UI, with lock read as the skew then stands, and proceed takes ALIGN to SYNC; a loopback
starts in OFF, DETECT and FAILED, ends in DETECT, and is refused elsewhere with result 2. -/
def Obligations.PortsObeyTheirRegister : Prop :=
  ∀ (s : State) (f : Fn) (n : Nat), n < 8 →
    let p := s.port n
    (s.canWrite f (rRalPortCtrl n) = true →
      (p.off = false → Acts (.retrain f n) s portIn (fun v =>
        PortIs s v n { portClear p 1 with txq := p.txq.filter (fun m => endToEnd m.typ) } ∧
        v.fld (rRalPortCtrl n) fRalPortCtrlResult = 1 ∧ ∀ l, l < 8 → v.fld (rRalLane n l) fRalLaneErrors = 0)) ∧
      (p.off = true → Acts (.retrain f n) s [.regs] (fun v => v.fld (rRalPortCtrl n) fRalPortCtrlResult = 2)) ∧
      (p.state = 3 → s.fld (rRalPortCtrl n) fRalPortCtrlManual = 1 → LaneLeft s n 0 p.peerMask →
        Acts (.proceed f n) s portIn (fun v =>
          PortIs s v n { p with state := 4, width := widthOf (s.usable n &&& p.peerMask.toNat), blocksIn := 0 } ∧
          v.fld (rRalPortCtrl n) fRalPortCtrlResult = 1)) ∧
      (p.state ≠ 3 ∨ s.fld (rRalPortCtrl n) fRalPortCtrlManual = 0 →
        Acts (.proceed f n) s [.regs] (fun v => v.fld (rRalPortCtrl n) fRalPortCtrlResult = 2)) ∧
      (∀ mode, mode < 4 → mode ≠ 0 → p.state = 0 ∨ p.state = 1 ∨ p.state = 9 → Acts (.loopGo f n mode) s portIn (fun v =>
        PortIs s v n { portClear p 8 with loop := mode } ∧ v.fld (rRalPortCtrl n) fRalPortCtrlResult = 1 ∧
        v.fld (rRalPortCtrl n) fRalPortCtrlLoop = mode ∧ ∀ l, l < 8 → v.fld (rRalLane n l) fRalLaneErrors = 0)) ∧
      (p.state = 8 → Acts (.loopGo f n 0) s portIn (fun v => (v.port n).state = 1 ∧
        v.fld (rRalPortCtrl n) fRalPortCtrlResult = 1)) ∧
      (∀ mode, mode < 4 → 2 ≤ p.state → p.state ≤ 7 → Acts (.loopGo f n mode) s [.regs] (fun v =>
        v.fld (rRalPortCtrl n) fRalPortCtrlResult = 2 ∧ RegsKept s v [rRalPortCtrl n]))) ∧
    ∀ l, l < 8 → l < p.slips.length → s.canWrite f (rRalLane n l) = true →
      p.state = 3 ∧ s.fld (rRalPortCtrl n) fRalPortCtrlManual = 1 ∨ p.state = 8 →
      Acts (.laneSlip f n l) s [.regs, .ral] (fun v =>
        PortIs s v n { p with slips := p.slips.set l ((p.slips.getD l 0 + 1) % 64) } ∧
        v.fld (rRalLane n l) fRalLaneLock =
          if (Config.laneSkew (8 * n + l) + (p.slips.getD l 0 + 1) % 64) % 64 = 0 then 1 else 0)

/-- Frames (R370 to R379): the line code and the layout of messages are undone by the receiver; a frame takes messages in the
order of R379 within its slots and credits; a counted frame is accepted in order under its key, acknowledges, returns credits
and delivers its messages; any other is discarded and sets nak; a replay resends what was sent, and a transmitter with
nothing to say sends filler. -/
def Obligations.FramesComeAndGo : Prop :=
  (∀ bs scr run, let e := lineEncode bs scr run
    lineDecode e.1 scr run = (bs, false, e.2.1, e.2.2)) ∧
  (∀ ms : List RMsg, (ms.map msgSlots).sum ≤ 32 → (∀ m ∈ ms, 0 < m.typ ∧ m.typ < 256 ∧ m.vc < 4 ∧ m.tag < 65536 ∧
    m.srcT < 1024 ∧ m.srcS < 16 ∧ m.hint < 4 ∧ m.op < 8 ∧ m.part < 16 ∧ m.addr < 2 ^ 57) →
    bodyMsgs 32 (bodyOf ms) = ms) ∧
  (∀ st q cr ms l c, fillFrame st q cr = (ms, l, c) → cr.length = 4 →
    (ms.map msgSlots).sum ≤ 32 ∧ List.Perm (ms ++ l) q ∧ ms.Pairwise (fun a b => sendRank a ≤ sendRank b) ∧
    (st ≠ 6 → ∀ m ∈ ms, plainType m.typ = true) ∧
    ∀ v, v < 4 → ((ms.filter (fun m => !isResponse m.typ && m.vc % 4 = v)).map msgSlots).sum + c.getD v 0 =
      cr.getD v 0) ∧
  (∀ (s : State) (n : Nat) (sy : List (List Nat)), PortRuns s n → (s.port n).framing = true →
    let p := s.port n
    let c := Instr.ralothFrameReceive n sy
    ((lineReceive p (s.lanesUsed n) sy).1 = none → Acts c s portIn (fun v => (v.port n).nak = true ∧
      (v.port n).rxCtr = p.rxCtr ∧ (v.port n).rxq = p.rxq ∧ (v.port n).replay = p.replay ∧
      (v.port n).state = if p.badInRow < 7 then p.state else 7)) ∧
    ∀ b, (lineReceive p (s.lanesUsed n) sy).1 = some b →
      let mode := leAt b 4 1 % 4
      let seq := leAt b 0 2
      (mode = 3 → Acts c s portIn (fun v => (v.port n).rxCtr = p.rxCtr ∧ (v.port n).rxq = p.rxq ∧
        (v.port n).replay = p.replay ∧ (v.port n).nak = p.nak ∧ (v.port n).state = p.state)) ∧
      ∀ key init, mode ≠ 3 → rxKeyOf p mode = some (key, init) →
        let nonce := frameNonce mode (!init) (p.rxCtr / 65536 * 65536 + seq)
        let tagOk := gcmTag (keyBytes key) nonce (b.take 8) (sliceB b 8 1024) = sliceB b 1032 16
        let ms := bodyMsgs 32 (gcmCrypt (keyBytes key) nonce (sliceB b 8 1024))
        (¬ tagOk → p.tagFailsRound < 3 → Acts c s portIn (fun v => (v.port n).nak = true ∧
          (v.port n).rxCtr = p.rxCtr ∧ (v.port n).rxq = p.rxq ∧ (v.port n).state = p.state ∧
          (v.port n).tagFailsRound = p.tagFailsRound + 1 ∧ v.fld (rRalPortEvent n) fRalPortEventTagFail = 1)) ∧
        (¬ tagOk → 3 ≤ p.tagFailsRound → NoneAbroad s →
          ∃ v, exec c s = .next v ∧ v.pending = s.pending ∧ PortFailed s v n) ∧
        (tagOk → seq ≠ p.rxCtr % 65536 → Acts c s portIn (fun v => (v.port n).nak = true ∧
          (v.port n).rxCtr = p.rxCtr ∧ (v.port n).rxq = p.rxq ∧ (v.port n).state = p.state)) ∧
        (tagOk → seq = p.rxCtr % 65536 → Acts c s portIn (fun v => (v.port n).nak = false ∧
          (v.port n).rxCtr = p.rxCtr + 1 ∧ (v.port n).state = p.state ∧
          (v.port n).rxq = p.rxq ++ ms.filter (fun m => mode ≠ 0 || plainType m.typ) ∧
          (∀ e, p.replay.find? (fun e => e.1 % 65536 = leAt b 2 2) = some e →
            (v.port n).replay = p.replay.filter (fun x => e.1 < x.1)) ∧
          ((∀ e ∈ p.replay, e.1 % 65536 ≠ leAt b 2 2) → (v.port n).replay = p.replay) ∧
          (∀ vc, vc < 4 → (v.port n).txCredits.getD vc 0 = p.txCredits.getD vc 0 + leAt b 5 3 / 2 ^ (6 * vc) % 64) ∧
          (v.port n).owesAck = (p.owesAck || !nbit (leAt b 4 1) 4) ∧ (v.port n).sleepSeen = nbit (leAt b 4 1) 3 ∧
          (v.port n).rxEpoch = mode ∧ (mode ≠ p.rxEpoch → (v.port n).rxKey = p.newRx.getD 0 ∧ (v.port n).newRx = none) ∧
          (nbit (leAt b 4 1) 2 = true → ∀ e l, (v.port n).replay = e :: l → (v.port n).replayFrom = some e.1)))) ∧
  (∀ (s : State) (n : Nat), PortRuns s n → (s.port n).framing = true →
    let p := s.port n
    let line := fun b => Out.ralFrame n (lineSend p (s.lanesUsed n) b).1
    let ret := (List.range 4).map (fun v => Nat.min 63 (p.rxReturn.getD v 0))
    let counted := fun sleep ms => frameContent
      (frameHeader p.txCtr (p.rxCtr + 65535) p.txEpoch p.nak sleep (ms = []) ret) (bodyOf ms)
      (if p.txEpoch = 0 then 0 else p.txKey) (frameNonce p.txEpoch p.txInit p.txCtr)
    let sent := fun (v : State) sleep ms => (v.port n).txCtr = p.txCtr + 1 ∧
      (v.port n).replay = p.replay ++ [(p.txCtr, counted sleep ms)] ∧ (v.port n).owesAck = false ∧
      (v.port n).state = p.state ∧ ∀ k, k ≠ n → v.port k = s.port k
    (p.txSleep = false → p.waking = false →
      (∀ k e, p.replayFrom = some k → p.replay.find? (fun e => k ≤ e.1) = some e →
        Acts (.ralothFrameSend n) s [.ral, .out] (fun v => v.out = s.out ++ [line e.2] ∧ (v.port n).txCtr = p.txCtr ∧
          (v.port n).replay = p.replay ∧ (v.port n).replayFrom =
            if p.replay.any (fun x => e.1 < x.1) = true then some (e.1 + 1) else none)) ∧
      (∀ ms q cr, p.replayFrom = none → p.replay.length < 256 → p.newTx = none →
        fillFrame p.state p.txq p.txCredits = (ms, q, cr) →
        (ms ≠ [] → Acts (.ralothFrameSend n) s [.ral, .out] (fun v => sent v false ms ∧
          v.out = s.out ++ [line (counted false ms)] ∧ (v.port n).txq = q ∧ (v.port n).txCredits = cr)) ∧
        (ms = [] → p.owesAck = true ∨ p.nak = true ∨ p.rxReturn.any (· ≠ 0) = true →
          Acts (.ralothFrameSend n) s [.ral, .out] (fun v => sent v false [] ∧
            v.out = s.out ++ [line (counted false [])])) ∧
        (ms = [] → p.owesAck = false → p.nak = false → p.rxReturn.any (· ≠ 0) = false →
          Acts (.ralothFrameSend n) s [.ral, .out] (fun v => v.out = s.out ++ [line fillerContent] ∧
            (v.port n).txCtr = p.txCtr ∧ (v.port n).replay = p.replay ∧ (v.port n).txq = p.txq))) ∧
      (∀ k, p.replayFrom = none → p.replay.length < 256 → p.newTx = some k →
        Acts (.ralothFrameSend n) s (.bup :: portIn) (fun v => (v.port n).state = 6 ∧ (v.port n).txKey = k ∧
          (v.port n).newTx = none ∧ (v.port n).txEpoch = (if p.txEpoch = 1 then 2 else 1) ∧
          v.fld (rRalPortEvent n) fRalPortEventSecure = 1))) ∧
    (∀ e l, p.replay = e :: l → Acts (.ralothReplayTimeout n) s [.regs, .ral] (fun v =>
      PortIs s v n { p with replayFrom := some e.1 } ∧ RegsKept s v [rRalPortCnt n] ∧
      v.fld (rRalPortCnt n) fRalPortCntReplays =
        Nat.min (s.fld (rRalPortCnt n) fRalPortCntReplays + 1) (2 ^ 16 - 1))) ∧
    (p.txMaySleep = true → p.txSleep = false → p.txq = [] → p.replay = [] → p.owesAck = false →
      Acts (.txSleep n) s [.ral, .out] (fun v => sent v true [] ∧ (v.port n).txSleep = true ∧
        v.out = s.out ++ [line (counted true []), .ralIdle n])) ∧
    (p.rxMaySleep = true → p.sleepSeen = true → Acts (.rxSleep n) s [.ral] (fun v =>
      PortIs s v n { p with rxSleep := true })) ∧
    (p.rxSleep = true → Acts (.rxSignalDetect n) s [.ral] (fun v =>
      PortIs s v n { p with rxSleep := false, sleepSeen := false })) ∧
    (p.txSleep = true → p.txq ≠ [] ∨ p.owesAck = true → Acts (.txWake n) s [.pwr] (fun v =>
      ∃ w ∈ v.pwr.wakes ++ v.pwr.rails, w.unit = n ∧ w.kind = 3 ∧ w.high = true)) ∧
    Acts (.txWakeDone n) s [.ral] (fun v => PortIs s v n { p with waking := false }))

/-! ## Raloth keys (R388 to R391) -/

/-- Key establishment: after PLAIN, or a rekey, both ends send a nonce and their key; the end with the smaller nonce initiates
and sends an encapsulation key, the other answers with a ciphertext; both derive keys from the transcript and exchange
signatures; with both exchanged the new keys wait for the switch; a bad signature, a wrong key, a bad ciphertext or 250 ms
end the attempt with its cause, and the mode and keys stay. -/
def Obligations.KeysAreEstablished : Prop :=
  (∀ (s : State) (f : Fn) (n : Nat), n < 8 → s.canWrite f (rRalPortCtrl n) = true →
    ((s.port n).framing = true → s.bup.step9 = true → s.sec.rngFail = false → Acts (.rekey f n) s [.regs, .ral, .free]
      (fun v => (v.port n).kx.phase = 1 ∧ v.fld (rRalPortCtrl n) fRalPortCtrlResult = 1 ∧
        (v.port n).kx.myNonce = (Config.drbg s.free).extractLsb' 0 256 ∧
        (v.port n).txq = (s.port n).txq ++
          [kxMsg s 0 0 64 (toBytes ((Config.drbg s.free).extractLsb' 0 256) 32 ++ toBytes s.sec.pk 32)] ∧
        (v.port n).state = (s.port n).state ∧ (v.port n).txKey = (s.port n).txKey)) ∧
    ((s.port n).framing = false → Acts (.rekey f n) s [.regs] (fun v =>
      v.fld (rRalPortCtrl n) fRalPortCtrlResult = 2)) ∧
    ((s.port n).framing = true → s.bup.step9 = false → Acts (.rekey f n) s [.regs] (fun v =>
      v.fld (rRalPortCtrl n) fRalPortCtrlResult = 3))) ∧
  (∀ (s : State) (n : Nat) (nonce pk : BitVec 256), PortRuns s n →
    let p := s.port n
    let k := p.kx
    let mine := beNat (toBytes k.myNonce 32)
    let keep := fun (v : State) => (v.port n).state = p.state ∧ (v.port n).txKey = p.txKey ∧ (v.port n).rxKey = p.rxKey
    let failed := fun (c : Instr) => ∃ v, exec c s = .next v ∧ v.pending = s.pending ∧ keep v ∧
      (v.port n).kx.phase = 0 ∧ (v.port n).newTx = none ∧ (v.port n).newRx = none ∧
      v.fld (rRalPortEvent n) fRalPortEventKeyFail = 1
    (p.framing = true → s.bup.step9 = true → k.phase = 1 →
      (mine < beNat (toBytes nonce 32) → Acts (.keyxHello n nonce pk) s [.ral, .free] (fun v => keep v ∧
        (v.port n).kx.initiator = true ∧ (v.port n).kx.phase = 2 ∧ (v.port n).kx.peerPk = pk ∧
        (v.port n).kx.peerNonce = nonce ∧ (v.port n).kx.ek = Config.mlkemKey (Config.drbg s.free))) ∧
      (beNat (toBytes nonce 32) < mine → Acts (.keyxHello n nonce pk) s [.ral] (fun v => keep v ∧
        (v.port n).kx.initiator = false ∧ (v.port n).kx.phase = 2 ∧ (v.port n).kx.peerPk = pk ∧
        (v.port n).kx.peerNonce = nonce ∧ (v.port n).txq = p.txq))) ∧
    (∀ ek, k.phase = 2 → k.initiator = false →
      let ct := Config.mlkemCipher ek (Config.drbg s.free)
      let secret := Config.mlkemSecret ek (Config.drbg s.free)
      let t := sha256 (toBytes k.peerNonce 32 ++ toBytes k.peerPk 32 ++ toBytes k.myNonce 32 ++ toBytes s.sec.pk 32 ++
        ek ++ ct)
      Acts (.keyxKey n ek) s [.ral, .sec, .free] (fun v => keep v ∧ (v.port n).kx.phase = 3 ∧
        (v.port n).kx.i2r = BitVec.ofNat 256 (leNat (hkdf t (toBytes secret 32) (ascii "RALOTH-I2R") 32)) ∧
        (v.port n).kx.r2i = BitVec.ofNat 256 (leNat (hkdf t (toBytes secret 32) (ascii "RALOTH-R2I") 32)) ∧
        (s.sec.running = none → s.sec.queue = [] → v.sec.running = some ⟨1, ⟨n, 0⟩, 1, t ++ [2]⟩))) ∧
    (∀ ct, k.phase = 2 → k.initiator = true →
      let secret := Config.mlkemDecaps (BitVec.ofNat 512 (leNat k.ct)) ct
      let t := sha256 (toBytes k.myNonce 32 ++ toBytes s.sec.pk 32 ++ toBytes k.peerNonce 32 ++ toBytes k.peerPk 32 ++
        k.ek ++ ct)
      Acts (.keyxCiphertext n ct true) s [.ral, .sec] (fun v => keep v ∧ (v.port n).kx.phase = 3 ∧
        (v.port n).kx.i2r = BitVec.ofNat 256 (leNat (hkdf t (toBytes secret 32) (ascii "RALOTH-I2R") 32)) ∧
        (v.port n).kx.r2i = BitVec.ofNat 256 (leNat (hkdf t (toBytes secret 32) (ascii "RALOTH-R2I") 32)) ∧
        (s.sec.running = none → s.sec.queue = [] → v.sec.running = some ⟨1, ⟨n, 0⟩, 1, t ++ [1]⟩)) ∧
      failed (.keyxCiphertext n ct false)) ∧
    (∀ sig, k.phase = 3 →
      (s.peerDig n = 0 ∨ s.peerDig n = (digest (toBytes k.peerPk 32)).toNat →
        (k.sigSent = false → Acts (.keyxSignature n sig true) s [.ral] (fun v => keep v ∧ (v.port n).kx.sigOk = true ∧
          (v.port n).kx.phase = 3)) ∧
        (k.sigSent = true → Acts (.keyxSignature n sig true) s [.ral] (fun v => keep v ∧ (v.port n).kx.phase = 0 ∧
          (v.port n).newTx = some (if k.initiator = true then k.i2r else k.r2i) ∧
          (v.port n).newRx = some (if k.initiator = true then k.r2i else k.i2r)))) ∧
      (s.peerDig n ≠ 0 → s.peerDig n ≠ (digest (toBytes k.peerPk 32)).toNat → failed (.keyxSignature n sig true)) ∧
      failed (.keyxSignature n sig false)) ∧
    (k.phase ≠ 0 → failed (.keyxTimeout n)))

/-! ## Raloth messages (R392 to R405) -/

/-- Messages on their way and at their target (R388, R393 to R395, R404, R456): a message for another stack goes on towards it;
READ, WRITE, ACCUM and FLAG enter the crossbar as their sender's request, with the bytes and the operands that they carry,
and their slots come back as credits; a stack that sleeps, or holds too long, answers retry-later, one that holds keeps the
request and answers hold; a port in PLAIN discards all but the messages of R388. -/
def Obligations.RequestsReachTheirHome : Prop :=
  (∀ (s u : State) (c : Instr) (n code q : Nat) (m : RMsg), endToEndOf c = some (n, m, code) → Takes s n m code u →
    s.own m = false → s.routePort m.addr = some q →
    Acts c s [.ral] (fun v => (v.port q).txq = (s.port q).txq ++ [m])) ∧
  (∀ (m : RMsg) (i : Nat), i < 4 → m.arg.extractLsb' (32 * i) 32 ≠ 0 → (wrLine m).extractLsb' (256 * i) 256 =
    m.data.getD ((List.range i).filter (fun j => m.arg.extractLsb' (32 * j) 32 ≠ 0)).length 0) ∧
  (∀ (s u : State) (n : Nat) (m : RMsg), s.own m = true → s.asleep = false → s.holds = false →
    let goes := fun (c : Instr) (op : SliceOp) => Takes s n m m.typ u → Acts c s [.cel, .ral] (fun v =>
      v.cel = { s.cel with xbar := s.cel.xbar ++
        [⟨.raloth n m.srcT m.srcS m.part m.tag (m.arg.toNat % 16), m.addr % 2 ^ 43, m.hint, op⟩] } ∧
      (m.vc % 4 < (s.port n).rxReturn.length → (v.port n).rxReturn.getD (m.vc % 4) 0 =
        (s.port n).rxReturn.getD (m.vc % 4) 0 + (1 + m.data.length)))
    (m.typ = 1 → goes (.read n m) (.read m.hint)) ∧
    (m.typ = 3 → goes (.write n m) (.write m.arg (wrLine m) m.poison)) ∧
    (m.typ = 4 → goes (.accum n m)
      (.accum m.op (BitVec.ofNat 16 m.arg.toNat) (m.data.getD 0 0) (decide (m.poison ≠ 0)))) ∧
    (m.typ = 5 →
      (m.op = 0 → goes (.flag n m) (.flagSet (BitVec.ofNat 64 m.arg.toNat))) ∧
      (m.op = 1 → goes (.flag n m) (.flagAdd (BitVec.ofNat 64 m.arg.toNat))) ∧
      (m.op = 2 → goes (.flag n m)
        (.flagWait (m.arg.toNat / 2 ^ 64 % 4) (BitVec.ofNat 64 m.arg.toNat))))) ∧
  (∀ (s u : State) (c : Instr) (n code : Nat) (m : RMsg), endToEndOf c = some (n, m, code) → code ∈ [1, 3, 4, 5, 6, 0xA] →
    Takes s n m code u → s.own m = true →
    let typ := if code = 1 then 2 else if code = 0xA then 0xB else 7
    let data : List Sector := if code = 1 then [0] else []
    (s.asleep = true ∨ s.holds = true ∧ s.bup.holdOver = true → Acts c s [.ral] (fun v =>
      Replies s v m typ (if code = 0xA then 1 else 3) data ∧ v.ral.kept = s.ral.kept)) ∧
    (s.asleep = false → s.holds = true → s.bup.holdOver = false → Acts c s [.ral] (fun v =>
      v.ral.kept = s.ral.kept ++ [⟨n, m⟩] ∧ (code ≠ 0xA → Replies s v m typ 2 data)))) ∧
  (∀ (s : State) (c : Instr) (n code : Nat) (m : RMsg), endToEndOf c = some (n, m, code) → PortRuns s n → m.typ = code →
    m ∉ (s.port n).rxq → (s.port n).state = 5 → plainType code = false →
    Acts c s portIn (fun v => RalRecord s v (7 + 256 * n + 2 ^ 24 * code) ∧ (v.port n).rxq = (s.port n).rxq)) ∧
  (∀ (s : State) (n : Nat) (m : RMsg), PortRuns s n → m ∉ (s.port n).rxq → (s.port n).framing = true →
    m.typ = 0x0E ∨ m.typ = 0x0F ∨ 0x19 < m.typ →
    Acts (.reservedMessage n m) s portIn (fun v => RalRecord s v (7 + 256 * n + 2 ^ 24 * m.typ)))

/-- Synchronisation and replicas between stacks (R143, R258, R260, R261, R393, R402): CANCEL ends its WAIT and is acknowledged;
a release frees the counter that awaits it; the head counts a listed member's arrival, releases every member with the last
one, and reports an arrival that is not listed; a home stack grants a replica of a region that its partition shares and
refuses others; an invalidation drops the replicas and is acknowledged, and an acknowledgement clears its sharer. -/
def Obligations.StacksSynchronise : Prop :=
  (∀ (s u : State) (n : Nat) (m : RMsg), Takes s n m 6 u → s.own m = true → s.asleep = false → s.holds = false →
    (s.cel.slices.flatMap (fun e => e.2.waits.filter (fun w => isWaitOf m w.who)) = [] →
      (∀ e ∈ s.cel.slices, ∀ h ∈ e.2.waiting ++ e.2.side ++ e.2.victim ++ e.2.held, isWaitOf m h.who = false) →
      (∀ h ∈ s.cel.xbar, isWaitOf m h.who = false) →
      Acts (.cancel n m) s [.cel, .ral] (fun v => v.cel = s.cel ∧ Replies s v m 7 0 [])) ∧
    (∀ k w, s.cel.slices.flatMap (fun e => e.2.waits.filter (fun w => isWaitOf m w.who)) = [w] → k < 192 →
      w ∈ (s.slice k).waits → s.server (lineAddr w.addr) = some k →
      (∀ e ∈ s.cel.slices, ∀ h ∈ e.2.waiting ++ e.2.side ++ e.2.victim ++ e.2.held, isWaitOf m h.who = false) →
      (∀ h ∈ s.cel.xbar, isWaitOf m h.who = false) →
      Acts (.cancel n m) s [.cel, .ral] (fun v => (v.slice k).waits = (s.slice k).waits.erase w ∧
        Replies s v m 7 0 []))) ∧
  (∀ (s u : State) (n : Nat) (m : RMsg),
    let c := m.arg.toNat % 256
    let ph : Bool := m.arg.toNat / 256 % 2 = 1
    (Takes s n m 9 u → s.own m = true → s.asleep = false → s.holds = false → m.srcT = s.trellisId →
      (s.bar (1024 + c)).awaiting = true → (s.bar (1024 + c)).phase ≠ ph → s.barHolders (1024 + c) = [] →
      ∃ v, exec (.barRelease n m) s = .next v ∧ v.pending = s.pending ∧
        v.bar (1024 + c) = ⟨(s.bar (1024 + c)).target, 0, ph, false⟩ ∧
        ∀ k, k ≠ 1024 + c → v.bar k = s.bar k) ∧
    (Takes s n m 8 u → s.own m = true → s.stackId = 0 → c < 64 → m.srcT = s.trellisId →
      let members := s.fld (rRalTbar c) fRalTbarMembers
      let here := fun (e : Nat × Bool × BitVec 16) => decide (e.1 = c ∧ e.2.1 = ph)
      let old := match s.ral.arrivals.find? here with | some e => e.2.2 | none => 0
      let all := old ||| BitVec.ofNat 16 (2 ^ m.srcS)
      (nbit members m.srcS = true → all.toNat &&& members ≠ members → Acts (.barArrive n m) s [.ral] (fun v =>
        v.ral.arrivals = s.ral.arrivals.filter (fun e => !here e) ++ [(c, ph, all)])) ∧
      (nbit members m.srcS = true → all.toNat &&& members = members → nbit members 0 = false →
        s.fld (rRalTbar c) fRalTbarMaster = 0 → s.fld (rRalTbar c) fRalTbarEstate = 0 →
        Acts (.barArrive n m) s [.ral] (fun v => v.ral.arrivals = s.ral.arrivals.filter (fun e => !here e) ∧
          ∀ q, (v.port q).txq = (s.port q).txq ++
            ((ones members 16).filter (fun k => s.routePort (s.stackAddr k) = some q)).map (fun k =>
              ctlMsg s 0x09 (s.stackAddr k) (BitVec.ofNat 128 (c + 256 * b2n (!ph))) []))) ∧
      (nbit members m.srcS = false → Acts (.barArrive n m) s portIn (fun v =>
        RalRecord s v (7 + 256 * 0xFF + 2 ^ 24 * 8) ∧ v.ral.arrivals = s.ral.arrivals)))) ∧
  (∀ (s u : State) (n : Nat) (m : RMsg), Takes s n m 0xA u → s.own m = true → s.asleep = false → s.holds = false →
    let r := m.addr % 2 ^ 43 / 65536
    (m.srcT = s.trellisId → m.srcS ≠ s.stackId → s.backed (m.addr % 2 ^ 43) = true → s.adviceOf r / 4 % 2 = 1 →
      (∀ p, s.partOfAddr (m.addr % 2 ^ 43) = some p → s.sealed p = false ∧ s.secState p ≠ 2) →
      (s.sharersOf r = none → s.plc.dir.length < 16384 → Acts (.replReq n m) s [.plc, .ral] (fun v =>
        v.plc.dir = s.plc.dir ++ [⟨r, 0, BitVec.ofNat 16 (2 ^ m.srcS), 0, []⟩] ∧ Replies s v m 0xB 0 [])) ∧
      (∀ d, s.sharersOf r = some d → d.held = [] → Acts (.replReq n m) s [.plc, .ral] (fun v =>
        (∀ x ∈ v.plc.dir, x.region = r → x.sharers.getLsbD m.srcS = decide (m.srcS < 16)) ∧
        Replies s v m 0xB 0 []))) ∧
    (m.srcT ≠ s.trellisId ∨ s.adviceOf r / 4 % 2 = 0 → Acts (.replReq n m) s [.ral] (fun v =>
      Replies s v m 0xB 1 []))) ∧
  (∀ (s u : State) (n : Nat) (m : RMsg), s.own m = true →
    (Takes s n m 0xC u → ∃ v, exec (.replInval n m) s = .next v ∧ v.pending = s.pending ∧
      (∀ r ∈ v.plc.replicas, r ∈ s.plc.replicas ∧ r.home ≠ m.addr / 65536) ∧
      ((∀ r ∈ s.plc.replicas, r.home ≠ m.addr / 65536) → v.cel = s.cel ∧ Replies s v m 0xD 0 [])) ∧
    (∀ d, Takes s n m 0xD u → m.srcT = s.trellisId → m.srcS < 16 →
      s.plc.dir.find? (fun d => d.tag = m.tag && nbit d.waiting.toNat m.srcS) = some d → s.sharersOf d.region = some d →
      let gone := ~~~ BitVec.ofNat 16 (2 ^ m.srcS)
      (d.held ≠ [] → d.waiting &&& gone ≠ 0 → Acts (.invalAck n m) s [.plc, .ral] (fun v =>
        v.plc.dir = s.plc.dir.map (fun x => if x.region = d.region then
          { d with sharers := d.sharers &&& gone, waiting := d.waiting &&& gone } else x))) ∧
      (d.held ≠ [] → d.waiting &&& gone = 0 → exec (.invalAck n m) s = .next
        (foldS d.held { u with plc := { u.plc with dir := u.plc.dir.filter (fun x => x.region ≠ d.region) } }
          (fun w h => sliceReq w h [])))))

/-- Requests of this stack (R394, R400, R405): a hold is noted, retry-later asks for a new request with a new tag, and a final
response ends the request: a read's line or a flag's status and word reach the thread that asked; a request that is lost ends
with a record of kind 6, a read as poison; a granted replica begins to copy; at the end of the hold window every request kept is
answered retry-later. -/
def Obligations.ResponsesEndRequests : Prop :=
  (∀ (s u : State) (c : Instr) (n code : Nat) (m : RMsg) (r : RalReq),
    code = 2 ∧ c = .readRsp n m ∨ code = 7 ∧ c = .ack n m → Takes s n m code u → s.own m = true →
    s.reqOf m.tag = some r → (r.msg.typ = 1 ↔ code = 2) →
    let others := s.ral.reqs.filter (fun r => r.tag ≠ m.tag)
    let st := m.arg.toNat % 256
    (st = 2 → Acts c s [.ral] (fun v => v.ral.reqs =
      s.ral.reqs.map (fun r => if r.tag = m.tag then { r with hold := true } else r))) ∧
    (st = 3 → ¬ (r.msg.typ = 5 ∧ r.msg.op = 2) → Acts c s [.ral] (fun v => v.ral.reqs =
      s.ral.reqs.map (fun r => if r.tag = m.tag then { r with hold := false, retry := true } else r))) ∧
    (∀ k, st ≠ 2 → st ≠ 3 → st ≠ 4 → r.who = .thread k →
      (code = 2 → Acts c s [.cmp, .ral] (fun v => v.ral.reqs = others ∧ v.cmp = { s.cmp with
        replies := s.cmp.replies ++ [⟨k, r.msg.addr, rspLine m (r.msg.arg.toNat % 16), m.poison, st, 0, 1⟩] })) ∧
      (r.msg.typ = 5 → Acts c s [.cmp, .ral] (fun v => v.ral.reqs = others ∧ v.cmp = { s.cmp with
        replies := s.cmp.replies ++
          [⟨k, r.msg.addr, 0, 0, st, BitVec.ofNat 64 (m.arg.toNat / 2 ^ 64), 1⟩] })) ∧
      (r.msg.typ = 3 ∨ r.msg.typ = 4 → ∀ x e, s.thread k = some x →
        x.stores.find? (fun e => inRemoteLine r.msg.addr e.target) = some e → Acts c s [.cmp, .ral] (fun v =>
          v.ral.reqs = others ∧ ∃ y, v.thread k = some y ∧ y.stores = x.stores.erase e ∧ y.regs = x.regs))) ∧
    (∀ k, st = 4 → code = 2 → r.who = .thread k → Acts c s (.cmp :: portIn) (fun v => v.ral.reqs = others ∧
      RalRecord s v (6 + 256 * r.port + 2 ^ 64 * r.msg.addr) ∧
      v.cmp.replies = s.cmp.replies ++ [⟨k, r.msg.addr, 0, 0xF, 0, 0, 1⟩]))) ∧
  (∀ (m : RMsg) (mask i : Nat), i < 4 → nbit mask i = true → (rspLine m mask).extractLsb' (256 * i) 256 =
    m.data.getD ((List.range i).filter (nbit mask)).length 0) ∧
  (∀ (s : State) (tag : Nat) (r : RalReq), s.on = true → s.thawed = true → s.reqOf tag = some r →
    (r.retry = false → r.msg.typ = 1 → ∀ k, r.who = .thread k → Acts (.requestLost tag) s (.cmp :: portIn) (fun v =>
      v.ral.reqs = s.ral.reqs.filter (fun r => r.tag ≠ tag) ∧
      RalRecord s v (6 + 256 * r.port + 2 ^ 64 * r.msg.addr) ∧
      v.cmp.replies = s.cmp.replies ++ [⟨k, r.msg.addr, 0, 0xF, 0, 0, 1⟩])) ∧
    (r.msg.typ = 5 → r.msg.op = 2 → Idle (.requestLost tag) s) ∧
    (∀ q, r.retry = true → s.routePort r.msg.addr = some q → Acts (.requestReissue tag) s [.ral] (fun v =>
      let m := { r.msg with tag := s.ral.nextTag % 65536, srcT := s.trellisId, srcS := s.stackId }
      v.ral.reqs = s.ral.reqs.filter (fun r => r.tag ≠ tag) ++ [⟨s.ral.nextTag % 65536, r.who, m, q, false, false⟩] ∧
      (v.port q).txq = (s.port q).txq ++ [m] ∧ v.ral.nextTag = s.ral.nextTag % 65536 + 1))) ∧
  (∀ (s u : State) (n q : Nat) (m : RMsg) (r : RalReq) (x : Replica), Takes s n m 0xB u → s.own m = true →
    s.reqOf m.tag = some r → r.msg.typ = 0xA →
    s.plc.replicas.find? (fun x => x.home = r.msg.addr / 65536 ∧ ¬ x.granted) = some x →
    let others := s.plc.replicas.filter (fun y => y ≠ x)
    (m.arg.toNat % 256 = 0 → s.routePort (r.msg.addr / 65536 * 65536) = some q →
      (∀ i, i < 512 → s.routePort (r.msg.addr / 65536 * 65536 + 128 * i) = some q) →
      Acts (.replRsp n m) s [.plc, .ral] (fun v => v.plc.replicas = others ++ [{ x with granted := true }] ∧
        v.ral.reqs.length = (s.ral.reqs.filter (fun r => r.tag ≠ m.tag)).length + 512)) ∧
    (m.arg.toNat % 256 ≠ 0 → Acts (.replRsp n m) s [.plc, .ral] (fun v => v.plc.replicas = others ∧
      smGet v.plc.refused (r.msg.addr / 65536) = some x.heat ∧
      v.ral.reqs = s.ral.reqs.filter (fun r => r.tag ≠ m.tag)))) ∧
  (∀ (s : State), s.on = true → s.freeze ≠ 2 → s.holds = true → s.bup.holdOver = false →
    Acts .holdWindowExpire s [.bup, .ral] (fun v => v.bup = { s.bup with holdOver := true } ∧
      v.ral.kept = s.ral.kept.filter (fun k => k.msg.typ = 0x09) ∧
      ∀ k, s.ral.kept = [k] → k.msg.typ = 1 → Replies s v k.msg 2 3 [0]))

/-! ## Enumeration, map and health (R396 to R401, R406) -/

/-- Enumeration (R396): go takes stack id 0 under a random tag and sends ENUM, or counts one stack; a stack without an id takes
the next one and passes ENUM on or ends it; ENUM at an id that is taken, on port 1 or past 15 ends with its result; ENUM_END
travels to the head, which collects the map, or fails; a head that is still busy at 20 ms reports result 6. -/
def Obligations.StacksAreNumbered : Prop :=
  (∀ (s : State) (f : Fn), s.canWrite f rRalEnum = true →
    (s.fld rRalEnum fRalEnumHasId = 1 → Acts (.enumStart f) s [.regs] (fun v => v.fld rRalEnum fRalEnumResult = 5 ∧
      v.stackId = s.stackId)) ∧
    (s.fld rRalEnum fRalEnumHasId = 0 →
      let tag := (Config.drbg s.free).toNat % 2 ^ 32
      let taken := fun (v : State) => v.stackId = 0 ∧ v.fld rRalEnum fRalEnumHasId = 1 ∧ v.fld rRalEnum fRalEnumHead = 1 ∧
        v.ral.enumTag = tag
      ((s.port 1).framing = true → Acts (.enumStart f) s [.regs, .ral, .free] (fun v => taken v ∧
        v.fld rRalEnum fRalEnumBusy = 1 ∧ (v.port 1).txq = (s.port 1).txq ++
          [⟨0x10, 0, true, 0, s.trellisId, 0, 0, 0, 0, 0, 0, BitVec.ofNat 128 (1 + 2 ^ 32 * tag), []⟩] ∧
        ∀ n ∈ s.chords, (v.port n).txq = (s.port n).txq ++
          [⟨0x13, 0, true, 0, s.trellisId, 0, 0, 0, 0, 0, 0, BitVec.ofNat 128 (256 * n + 2 ^ 32 * tag), []⟩])) ∧
      ((s.port 1).framing = false → s.chords = [] → NoneAbroad s →
        ∃ v, exec (.enumStart f) s = .next v ∧ v.pending = s.pending ∧ taken v ∧ v.fld rRalEnum fRalEnumBusy = 0 ∧
          v.fld rRalEnum fRalEnumResult = 1 ∧ v.fld rRalEnum fRalEnumCount = 1 ∧ v.fld rRalEnum fRalEnumClosed = 0 ∧
          v.ral.map = List.replicate 80 0xFF))) ∧
  (∀ (s u : State) (n : Nat) (m : RMsg), Takes s n m 0x10 u →
    let next := m.arg.toNat % 256
    let tag := m.arg.toNat / 2 ^ 32 % 2 ^ 32
    let ends := fun port count res => Acts (.enum n m) s [.ral] (fun v => (v.port port).txq = (s.port port).txq ++
      [ctlMsg s 0x11 0 (BitVec.ofNat 128 (count + 256 * res)) []])
    (n = 1 → ends 1 next 4) ∧
    (n = 0 → s.fld rRalEnum fRalEnumHasId = 1 → s.fld rRalEnum fRalEnumHead = 0 ∨ tag ≠ s.ral.enumTag →
      ends 0 next 3) ∧
    (n = 0 → s.fld rRalEnum fRalEnumHasId = 0 → 16 ≤ next → ends 0 16 2) ∧
    (n = 0 → s.fld rRalEnum fRalEnumHasId = 0 → next < 16 → Acts (.enum n m) s [.regs, .ral] (fun v =>
      v.stackId = next ∧ v.fld rRalEnum fRalEnumHasId = 1 ∧ v.ral.enumTag = tag ∧
      ((s.port 1).framing = true → (v.port 1).txq = (s.port 1).txq ++
        [⟨0x10, 0, true, 0, s.trellisId, next, 0, 0, 0, 0, 0, BitVec.ofNat 128 (next + 1 + 2 ^ 32 * tag), []⟩]) ∧
      ((s.port 1).framing = false → (v.port 0).txq = (s.port 0).txq ++
        [⟨0x11, 0, true, 0, s.trellisId, next, 0, 0, 0, 0, 0, BitVec.ofNat 128 (next + 1 + 256), []⟩]))) ∧
    (n = 0 → s.fld rRalEnum fRalEnumHasId = 1 → s.fld rRalEnum fRalEnumHead = 1 → tag = s.ral.enumTag →
      s.fld rRalEnum fRalEnumBusy = 1 → next < 32 → Acts (.enum n m) s [.regs, .ral] (fun v =>
        v.fld rRalEnum fRalEnumClosed = 1 ∧ v.fld rRalEnum fRalEnumCount = next ∧
        (s.mapReady = true → (v.port 1).txq.length = (s.port 1).txq.length + 1 ∧ v.ral.pendingMap = none) ∧
        (s.mapReady = false → v.ral.pendingMap.isSome = true))) ∧
    (1 < n → Acts (.enum n m) s portIn (fun v => RalRecord s v (7 + 256 * n + 2 ^ 24 * 0x10)))) ∧
  (∀ (s u : State) (m : RMsg), Takes s 1 m 0x11 u →
    let count := m.arg.toNat % 256
    let res := m.arg.toNat / 256 % 256
    (s.fld rRalEnum fRalEnumHead = 0 → Acts (.enumEnd 1 m) s [.ral] (fun v =>
      (v.port 0).txq = (s.port 0).txq ++ [m])) ∧
    (s.fld rRalEnum fRalEnumHead = 1 → s.fld rRalEnum fRalEnumBusy = 1 → count < 32 →
      (res ≠ 1 → res < 8 → Acts (.enumEnd 1 m) s portIn (fun v => v.fld rRalEnum fRalEnumResult = res ∧
        v.fld rRalEnum fRalEnumBusy = 0 ∧ v.fld rRalEnum fRalEnumCount = count ∧
        RalRecord s v (8 + 256 * 0xFF + 2 ^ 16 * res))) ∧
      (res = 1 → 1 < count → Acts (.enumEnd 1 m) s [.regs, .ral] (fun v => v.fld rRalEnum fRalEnumCount = count ∧
        v.fld rRalEnum fRalEnumClosed = 0 ∧
        (s.mapReady = true → s.stackId + 1 ≠ count → (v.port 1).txq.length = (s.port 1).txq.length + 1) ∧
        (s.mapReady = false → v.ral.pendingMap.isSome = true))))) ∧
  (∀ s : State, s.on = true → s.freeze ≠ 2 → s.fld rRalEnum fRalEnumBusy = 1 → Acts .enumTimeout s portIn (fun v =>
    v.fld rRalEnum fRalEnumResult = 6 ∧ v.fld rRalEnum fRalEnumBusy = 0 ∧ v.ral.pendingMap = none ∧
    RalRecord s v (8 + 256 * 0xFF + 2 ^ 16 * 6)))

/-- Map, identity and estate (R396 to R400): a MAP collect waits for the chords, takes this stack's bytes and goes on, and
comes back to the head, which stores it, computes the routes and distributes it; each stack stores the map that is distributed
once; LINKID of this enumeration names a port's peer, and a chord whose peer changes goes down; adopt takes an id that the
neighbours confirm; ESTATE gives every member the trellis id, once. -/
def Obligations.MapAndIdentityTravel : Prop :=
  (∀ (s : State) (count : Nat) (closed : Bool) (b : List Nat), b.length = 80 → s.stackId < 16 →
    let w := writeMap s count closed b
    w.length = 80 ∧
    (∀ c, c < 4 → w.getD (4 * s.stackId + c) 0 = match s.linkPeer (2 + c) with
      | some k => if (s.port (2 + c)).framing = true then k % 16 + 16 * Nat.log2 (s.port (2 + c)).width else 0xFF
      | none => 0xFF) ∧
    (w.getD (64 + s.stackId) 0 = if (s.port 1).framing = true ∧ (s.stackId + 1 < count ∨ closed = true) then
      (if s.stackId + 1 < count then (s.stackId + 1) % 16 else 0) + 16 * Nat.log2 (s.port 1).width else 0xFF) ∧
    ∀ i, (i < 4 * s.stackId ∨ 4 * s.stackId + 4 ≤ i) → i ≠ 64 + s.stackId → w.getD i 0 = b.getD i 0) ∧
  (∀ b : List Nat, b.length = 80 → (∀ x ∈ b, x < 256) → ∀ m : RMsg, m.data = mapData b → mapBytes m = b) ∧
  (∀ (s u : State) (n : Nat) (m : RMsg), Takes s n m 0x12 u → n < 2 →
    let kind := m.arg.toNat % 256
    let count := m.arg.toNat / 256 % 256
    let closed : Bool := m.arg.toNat / 2 ^ 16 % 2 = 1
    let on := if closed = false ∧ s.stackId + 1 = count then 0 else 1
    (kind = 0 → s.fld rRalEnum fRalEnumHead = 0 →
      (n = 1 → Acts (.mapCollect n m) s [.ral] (fun v => (v.port 0).txq = (s.port 0).txq ++ [m])) ∧
      (n = 0 → s.mapReady = true → Acts (.mapCollect n m) s [.ral] (fun v => v.ral.pendingMap = none ∧
        ∃ x, (v.port on).txq = (s.port on).txq ++ [x] ∧ x.typ = 0x12 ∧ x.srcS = m.srcS ∧
          x.arg = BitVec.ofNat 128 (256 * count + 65536 * b2n closed) ∧
          x.data = mapData (writeMap s count closed (mapBytes m)))) ∧
      (n = 0 → s.mapReady = false → Acts (.mapCollect n m) s [.ral] (fun v => v.ral.pendingMap = some m))) ∧
    (kind = 0 → s.fld rRalEnum fRalEnumHead = 1 → s.fld rRalEnum fRalEnumBusy = 1 → count ≤ 16 →
      1 < count ∨ closed = true → NoneAbroad s →
      ∃ v, exec (.mapCollect n m) s = .next v ∧ v.pending = s.pending ∧ v.ral.map = mapBytes m ∧
        v.fld rRalEnum fRalEnumCount = count ∧ v.fld rRalEnum fRalEnumClosed = b2n closed ∧
        ∃ x, (v.port 1).txq.getLast? = some x ∧ x.typ = 0x12 ∧ x.data = mapData (mapBytes m) ∧
          x.arg = BitVec.ofNat 128 (1 + 256 * count + 65536 * b2n closed)) ∧
    (kind = 1 → s.fld rRalEnum fRalEnumHead = 1 → s.fld rRalEnum fRalEnumBusy = 1 →
      Acts (.mapDistribute n m) s [.regs, .ral] (fun v => v.fld rRalEnum fRalEnumResult = 1 ∧
        v.fld rRalEnum fRalEnumBusy = 0)) ∧
    (kind = 1 → s.fld rRalEnum fRalEnumHead = 0 → s.ral.adopting = false → n = 0 → s.ral.map = [] →
      s.fld rRalEnum fRalEnumHasId = 1 → count ≤ 16 → NoneAbroad s →
      ∃ v, exec (.mapDistribute n m) s = .next v ∧ v.pending = s.pending ∧ v.ral.map = mapBytes m ∧
        v.fld rRalEnum fRalEnumCount = count ∧ (v.port on).txq.getLast? = some m ∧
        ∀ k, k ∈ v.ral.pings ↔ k < count ∧ k ≠ s.stackId ∧ (v.peer k).reach = true)) ∧
  (∀ (s : State) (m : RMsg), s.on = true → s.freeze ≠ 2 → s.ral.pendingMap = some m →
    s.fld rRalEnum fRalEnumHead = 0 → Acts .mapWaitTimeout s [.ral] (fun v => v.ral.pendingMap = none ∧
      ∃ q x, (v.port q).txq = (s.port q).txq ++ [x] ∧
        x.data = mapData (writeMap s (m.arg.toNat / 256 % 256) (m.arg.toNat / 2 ^ 16 % 2 = 1) (mapBytes m)))) ∧
  (∀ (s u : State) (n : Nat) (m : RMsg), Takes s n m 0x13 u →
    let tag := m.arg.toNat / 2 ^ 32 % 2 ^ 32
    let peer := m.arg.toNat % 16
    let port := m.arg.toNat / 256 % 8
    let named := fun (v : State) => v.fld (rRalPortStat n) fRalPortStatPeerStack = peer ∧
      v.fld (rRalPortStat n) fRalPortStatPeerPort = port ∧ v.fld (rRalPortStat n) fRalPortStatPeerValid = 1 ∧
      smGet v.ral.linkTag n = some tag
    (s.fld rRalEnum fRalEnumHasId = 1 → tag ≠ s.ral.enumTag → Acts (.linkid n m) s [.ral] (fun v =>
      v.ral.linkTag = s.ral.linkTag)) ∧
    (s.fld rRalEnum fRalEnumHasId = 0 ∨ tag = s.ral.enumTag → s.ral.map = [] → s.ral.pendingMap = none →
      Acts (.linkid n m) s [.regs, .ral] named) ∧
    (tag = s.ral.enumTag → s.ral.map ≠ [] → s.ral.pendingMap = none → 2 ≤ n → n ≤ 5 → NoneAbroad s →
      s.fld (rRalPortStat n) fRalPortStatPeerValid = 1 → s.fld (rRalPortStat n) fRalPortStatPeerStack ≠ peer →
      (s.stackId, n) ∉ s.ral.downs → ∃ v, exec (.linkid n m) s = .next v ∧ v.pending = s.pending ∧ named v ∧
        v.ral.downs = s.ral.downs ++ [(s.stackId, n)])) ∧
  (∀ (s : State) (f : Fn), s.canWrite f rRalEnum = true →
    let id := s.fld rRalEnum fRalEnumAdoptId
    let count := s.fld rRalEnum fRalEnumAdoptCount
    (s.fld rRalEnum fRalEnumHasId = 1 ∨ count ≤ id ∨ 16 < count ∨
        (s.port 0).framing = false ∧ (s.port 1).framing = false →
      Acts (.adopt f) s [.regs] (fun v => v.fld rRalEnum fRalEnumResult = 7 ∧ v.stackId = s.stackId)) ∧
    (s.fld rRalEnum fRalEnumHasId = 0 → id < count → count ≤ 16 → (s.port 0).framing = true →
      (s.port 1).framing = false → s.fld (rRalPortStat 0) fRalPortStatPeerValid = 1 →
      s.fld (rRalPortStat 0) fRalPortStatPeerStack = (id + count - 1) % count →
      Acts (.adopt f) s [.regs, .ral] (fun v => v.fld rRalEnum fRalEnumResult = 1 ∧ v.stackId = id ∧
        v.fld rRalEnum fRalEnumHasId = 1 ∧ v.fld rRalEnum fRalEnumCount = count ∧
        v.ral.enumTag = smGetD s.ral.linkTag 0 0 ∧ v.ral.adopting = true))) ∧
  (∀ (s : State) (f : Fn), s.canWrite f rRalEstate = true →
    (s.fld rRalEnum fRalEnumHead = 0 ∨ s.fld rRalEstate fRalEstateSet = 1 → Idle (.estateSet f) s) ∧
    (s.fld rRalEnum fRalEnumHead = 1 → s.fld rRalEstate fRalEstateSet = 0 → Acts (.estateSet f) s [.regs, .ral] (fun v =>
      v.fld rRalEstate fRalEstateSet = 1 ∧ v.fld rRalEstate fRalEstateTrellis = s.fld rRalEstate fRalEstateTrellis ∧
      ∀ k, k < s.peerCount → k ≠ s.stackId → (s.peer k).reach = true →
        ∃ x ∈ (v.port (s.peer k).port).txq, x.typ = 0x19 ∧ x.addr = s.stackAddr k ∧
          x.arg = BitVec.ofNat 128 (s.fld rRalEstate fRalEstateTrellis)))) ∧
  (∀ (s u : State) (n : Nat) (m : RMsg), Takes s n m 0x19 u →
    let k := m.addr / 2 ^ 43 % 16
    (k = s.stackId → s.fld rRalEstate fRalEstateSet = 0 → Acts (.estate n m) s [.regs, .ral] (fun v =>
      v.trellisId = m.arg.toNat % 1024 ∧ v.fld rRalEstate fRalEstateSet = 1)) ∧
    (k = s.stackId → s.fld rRalEstate fRalEstateSet = 1 → Acts (.estate n m) s [.ral] (fun v =>
      v.trellisId = s.trellisId)) ∧
    (k ≠ s.stackId → (s.peer k).reach = true → Acts (.estate n m) s [.ral] (fun v =>
      (v.port (s.peer k).port).txq = (s.port (s.peer k).port).txq ++ [m])))

/-- Health, latency and lost links (R262, R398, R401, R402, R406): LINKDOWN takes a link out of the map, and every peer record
is computed anew; a member's HEALTH gives the head its word and its state and, in a compute reset, discards its arrivals; the
head's gives a member the trellis health word; a member silent for 4 rounds counts as absent; a PING is answered on its link,
and a PONG gives the latency of its peer, half the round-trip time rounded up. -/
def Obligations.HealthTravels : Prop :=
  (∀ (s u : State) (n : Nat) (m : RMsg), Takes s n m 0x14 u → s.own m = true → s.ral.map ≠ [] → NoneAbroad s →
    let k := m.arg.toNat % 16
    let p := m.arg.toNat / 256 % 8
    (k, p) ∉ s.ral.downs → ∃ v, exec (.linkdown n m) s = .next v ∧ v.pending = s.pending ∧
      v.ral.downs = s.ral.downs ++ [(k, p)] ∧
      (s.bup.enabledOnce = true → v.plc.gen = s.plc.gen + 1) ∧
      ∀ j, j < s.peerCount → v.peer j =
        ({ s with ral := { s.ral with downs := s.ral.downs ++ [(k, p)] } } : State).computePeer j (s.peer j)) ∧
  (∀ (s : State) (k : Nat) (old : Peer), k ≠ s.stackId → (s.computePeer k old).reach = true →
    ∃ l, s.mapLink s.stackId (s.computePeer k old).port = some l ∧
      s.hops l.1 k = some ((s.computePeer k old).hops - 1) ∧ s.hops s.stackId k = some (s.computePeer k old).hops ∧
      ∀ p, p < (s.computePeer k old).port → ∀ l', s.mapLink s.stackId p = some l' →
        s.hops l'.1 k ≠ some ((s.computePeer k old).hops - 1)) ∧
  (∀ (s u : State) (n : Nat) (m : RMsg), Takes s n m 0x15 u → s.own m = true → s.plc.dir = [] → s.plc.replicas = [] →
    let st := m.arg.toNat % 16
    (s.fld rRalEnum fRalEnumHead = 1 → m.srcS < 16 → Acts (.health n m) s [.ral] (fun v =>
      smGet v.ral.mHealth m.srcS = some (BitVec.ofNat 64 m.arg.toNat) ∧ smGet v.ral.mRounds m.srcS = some 0 ∧
      nbits v.ral.mStates.toNat (4 * m.srcS) 4 = st ∧
      (∀ k, k < 16 → k ≠ m.srcS → nbits v.ral.mStates.toNat (4 * k) 4 = nbits s.ral.mStates.toNat (4 * k) 4) ∧
      (st = 4 → ∀ e ∈ v.ral.arrivals, e.2.2.getLsbD m.srcS = false) ∧ (st ≠ 4 → v.ral.arrivals = s.ral.arrivals))) ∧
    (s.fld rRalEnum fRalEnumHead = 0 → s.peerCount ≤ 16 → Acts (.health n m) s [.regs, .ral] (fun v =>
      v.reg rRalTrellisHealth = BitVec.ofNat 64 m.arg.toNat ∧
      ∀ k, k < s.peerCount → k ≠ s.stackId → v.memberState k = m.arg.toNat / 2 ^ (64 + 4 * k) % 16))) ∧
  (∀ (s : State) (k : Nat), s.on = true → s.freeze ≠ 2 → s.fld rRalEnum fRalEnumHead = 1 → k ≠ s.stackId →
    k < s.peerCount → 4 ≤ smGetD s.ral.mRounds k 0 → s.plc.dir = [] → s.plc.replicas = [] → s.peerCount ≤ 16 →
    Acts (.memberHealthLost k) s [.regs, .ral] (fun v => v.memberWord k = 0 ∧
      (v.reg rRalTrellisHealth).toNat % 2 ^ 48 = v.trellisWord ∧ v.memberState k = 0)) ∧
  (∀ (s u : State) (n : Nat) (m : RMsg), Takes s n m 0x17 u → Acts (.ping n m) s [.ral] (fun v =>
    (v.port n).txq = (s.port n).txq ++ [{ ctlMsg s 0x18 0 0 [] with tag := m.tag }])) ∧
  (∀ (s u : State) (n rtt : Nat) (m : RMsg), Takes s n m 0x18 u →
    (m.tag ∈ s.ral.pings → Acts (.pong n m rtt) s [.regs, .fns, .plc, .ral, .out] (fun v =>
      v.peer m.tag = { s.peer m.tag with latency := Nat.min ((rtt + 1) / 2) 65535 } ∧
      v.ral.pings = s.ral.pings.erase m.tag)) ∧
    (m.tag ∉ s.ral.pings → Acts (.pong n m rtt) s [.ral] (fun v => v.ral.peers = s.ral.peers)))

/-! ## Debug (R488 to R507) -/

/-- Levels, counters and trace (R488 to R495): below D3 the level follows a request but for a frozen stack, D3 is not left, and
it takes effect only once no partition is sealing, sealed or erasing; a selection clears its counter; trace starts on ways
that no partition holds at D1 or above, and a marker becomes the next record, four of which fill the frame of R493. -/
def Obligations.LevelsAndTrace : Prop :=
  (∀ (s : State) (f : Fn) (t : Nat), s.canWrite f rDbgLevel = true → s.fld rDbgLevel fDbgLevelBusy = 0 →
    let l := s.fld rDbgLevel fDbgLevelLevel
    let ends := fun c r k => Acts c s [.regs] (fun v => v.fld rDbgLevel fDbgLevelResult = r ∧
      v.fld rDbgLevel fDbgLevelLevel = k ∧ RegsKept s v [rDbgLevel])
    (t < 3 → (l = 3 → ends (.dbgLevelChange f t) 3 3) ∧ (t = l → ends (.dbgLevelChange f t) 2 l) ∧
      (l < 3 → t ≠ l → t < 2 → s.thawed = false → ends (.dbgLevelChange f t) 4 l) ∧
      (l < 3 → t ≠ l → t = 2 ∨ s.thawed = true → ends (.dbgLevelChange f t) 1 t)) ∧
    (l = 3 → ends (.dbgEnterD3 f) 2 3) ∧
    (l < 3 → (∀ p, p < 16 → s.sealed p = false) → Acts (.dbgEnterD3 f) s [.regs, .sec, .dbg] (fun v =>
      v.fld rDbgLevel fDbgLevelBusy = 1 ∧ v.fld rDbgLevel fDbgLevelLevel = l ∧ v.dbg.d3Wait = true ∧ v.sec = s.sec)) ∧
    (l < 3 → ∃ v, exec (.dbgEnterD3 f) s = .next v ∧ v.pending = s.pending ∧ v.dbg.d3Wait = true ∧
      ∀ p, p < 16 → s.sealed p = true → v.secState p = 4)) ∧
  (∀ s : State, s.on = true → s.dbg.d3Wait = true →
    ((∀ p, p < 16 → s.secState p < 2) → Acts .d3Effect s [.regs, .dbg] (fun v => v.fld rDbgLevel fDbgLevelLevel = 3 ∧
      v.fld rDbgLevel fDbgLevelD3Entered = 1 ∧ v.fld rDbgLevel fDbgLevelBusy = 0 ∧
      v.fld rDbgLevel fDbgLevelResult = 1 ∧ v.dbg = { s.dbg with d3Wait := false })) ∧
    ((∀ p, p < 16 → s.sealed p = false) → (∃ p, p < 16 ∧ 2 ≤ s.secState p) → Idle .d3Effect s)) ∧
  (∀ (s : State) (f : Fn) (k : Nat) (x : Word), k < 16 → s.canWrite f (rDbgCnt k) = true →
    Acts (.dbgCntSelect f k x) s [.regs] (fun v => RegsKept s v [rDbgCnt k] ∧ v.fld (rDbgCnt k) fDbgCntCount = 0 ∧
      ∀ g, g ∈ [fDbgCntEvent, fDbgCntBay, fDbgCntBayAll, fDbgCntPartition, fDbgCntPartEn] →
        v.fld (rDbgCnt k) g = g.get x)) ∧
  (∀ (s : State) (f : Fn) (x : Word), s.canWrite f rDbgTraceCfg = true → s.fld rDbgTraceCfg fDbgTraceCfgEn = 0 →
    fDbgTraceCfgEn.get x = 1 →
    let ways := fDbgTraceCfgWays.get x
    let overlap := ∃ p, p < 16 ∧ ∃ r, s.part p = some r ∧ r.ways.toNat &&& ways ≠ 0
    let refused := fun r => Acts (.traceEnable f x) s [.regs] (fun v => v.fld rDbgTraceCfg fDbgTraceCfgEn = 0 ∧
      v.fld rDbgTraceStat fDbgTraceStatResult = r)
    (s.level = 0 → refused 4) ∧ (1 ≤ s.level → ways = 0 → refused 3) ∧
    (1 ≤ s.level → ways ≠ 0 → overlap → refused 2) ∧
    (1 ≤ s.level → ways ≠ 0 → ¬ overlap → Acts (.traceEnable f x) s [.regs, .dbg] (fun v =>
      v.fld rDbgTraceCfg fDbgTraceCfgEn = 1 ∧ v.fld rDbgTraceCfg fDbgTraceCfgWays = ways ∧
      v.fld rDbgTraceCfg fDbgTraceCfgEvents = fDbgTraceCfgEvents.get x ∧
      v.fld rDbgTraceStat fDbgTraceStatResult = 1 ∧ v.fld rDbgTraceStat fDbgTraceStatNext = 0 ∧
      v.dbg = { s.dbg with trSlices := (List.range 192).filter (fun n => (s.slice n).state = 0), trBuf := [] }))) ∧
  (∀ (s : State) (f : Fn) (x : BitVec 32), s.canWrite f rDbgTraceMark = true →
    s.fld rDbgTraceCfg fDbgTraceCfgEn = 1 → s.fld rDbgTraceStat fDbgTraceStatFull = 0 → s.thawed = true →
    s.pwr.state = 0 → nbit (s.fld rDbgTraceCfg fDbgTraceCfgEvents) 15 = true →
    s.fld rDbgTraceCfg fDbgTraceCfgPartEn = 0 → s.sealed 0xFF = false →
    let next := s.fld rDbgTraceStat fDbgTraceStatNext
    (s.dbg.trBuf.length < 3 → next + 1 < 2 ^ 40 → Acts (.traceMark f x) s [.regs, .dbg, .free] (fun v =>
      v.fld rDbgTraceStat fDbgTraceStatNext = next + 1 ∧ ∃ r : BitVec 256, v.dbg = { s.dbg with trBuf := s.dbg.trBuf ++ [r] } ∧
        r.extractLsb' 0 48 = BitVec.ofNat 48 s.pwr.aon ∧ r.extractLsb' 64 32 = 0xFFFFFF0F ∧ r.extractLsb' 96 32 = x ∧
        r.extractLsb' 128 128 = 0)) ∧
    (∀ i, s.dbg.trBuf.length = 3 → next = 4 * i + 3 → next + 1 < 2 ^ 40 →
      let ws := ones (s.fld rDbgTraceCfg fDbgTraceCfgWays) 16
      let as := s.dbg.trSlices
      let q := i / as.length
      i + 1 < as.length * ws.length * 32768 → (s.slice (as.getD (i % as.length) 0)).state ≠ 2 →
      Acts (.traceMark f x) s [.regs, .dbg, .free] (fun v => v.dbg.trBuf = [] ∧ ∀ j (r : BitVec 256),
        s.dbg.trBuf[j]? = some r →
        (smGetD v.dbg.trace (frameKey (as.getD (i % as.length) 0) (q / ws.length) (ws.getD (q % ws.length) 0)) 0
          ).extractLsb' (256 * j) 256 = r)))

/-- Freeze and thaw (R499 to R503): a request at D2 or above after enable freezes to the wider scope, or waits for a transit,
a compute reset or a thaw; others are refused; the end of an entry drops the replicas, asserts FROZEN and counts, and a full
freeze puts HBM into self-refresh and takes the links down; a thaw starts once neither pin nor register holds the freeze, and
its end serves what was kept, releases FROZEN and, after a full freeze, trains every port again. -/
def Obligations.FreezesAndThaws : Prop :=
  (∀ s : State, s.on = true →
    let scope := s.fld rDbgFreeze fDbgFreezePinScope
    let fits := (scope = 1 ∨ scope = 2) ∧ 2 ≤ s.level ∧ s.stepDone 10 = true
    (fits → s.freezeWaits = false → Acts .freezePin s [.pci, .bup, .dbg] (fun v => v.pci.freezeLow = true ∧
      v.dbg.frozen = Nat.max s.dbg.frozen scope ∧ v.dbg.pinFreeze = Nat.max s.dbg.pinFreeze scope ∧
      (s.dbg.frozen < scope → v.dbg.entering = true))) ∧
    (fits → s.freezeWaits = true → Acts .freezePin s [.regs, .pci, .dbg] (fun v => v.dbg.frozen = s.dbg.frozen ∧
      v.dbg.heldPin = Nat.max s.dbg.heldPin scope ∧ v.fld rDbgFreeze fDbgFreezePending = 1)) ∧
    (¬ fits → Acts .freezePin s (.pci :: raisedIn) (fun v => v.pci.freezeLow = true ∧
      v.fld rDbgEvent fDbgEventPinIgnored = 1))) ∧
  (∀ (s : State) (f : Fn) (scope : Nat) (drive : Bool), s.canWrite f rDbgFreeze = true → scope = 1 ∨ scope = 2 →
    let c := Instr.freezeRequest f scope drive
    let ends := fun r => Acts c s [.regs] (fun v => v.fld rDbgFreeze fDbgFreezeResult = r ∧ RegsKept s v [rDbgFreeze])
    (s.level < 2 → ends 2) ∧ (2 ≤ s.level → s.stepDone 10 = false → ends 3) ∧
    (2 ≤ s.level → s.stepDone 10 = true → scope < s.dbg.frozen → ends 4) ∧
    (2 ≤ s.level → s.stepDone 10 = true → s.dbg.frozen ≤ scope →
      (s.freezeWaits = true → Acts c s [.regs, .dbg] (fun v => v.dbg.frozen = s.dbg.frozen ∧
        v.dbg.heldReg = Nat.max s.dbg.heldReg scope ∧ v.fld rDbgFreeze fDbgFreezePending = 1)) ∧
      (s.freezeWaits = false → Acts c s [.regs, .bup, .dbg] (fun v => v.dbg.frozen = scope ∧
        v.dbg.driving = (s.dbg.driving || drive) ∧ v.dbg.regFreeze = Nat.max s.dbg.regFreeze scope ∧
        v.fld rDbgFreeze fDbgFreezeResult = 1 ∧ (s.dbg.frozen < scope → v.dbg.entering = true))))) ∧
  (∀ (s : State) (scope : Nat), s.on = true → s.freezeWaits = false → scope = 1 ∨ scope = 2 → 2 ≤ s.level →
    s.stepDone 10 = true → s.dbg.frozen ≤ scope →
    s.dbg.heldReg = scope ∧ s.dbg.heldPin = 0 ∨
      s.dbg.heldReg = 0 ∧ s.dbg.heldPin ≠ 0 ∧ s.fld rDbgFreeze fDbgFreezePinScope = scope →
    Acts .freezeHeldStart s [.regs, .bup, .dbg] (fun v => v.dbg.frozen = scope ∧ v.dbg.heldReg = 0 ∧ v.dbg.heldPin = 0 ∧
      v.fld rDbgFreeze fDbgFreezePending = 0)) ∧
  (∀ s : State, s.on = true → s.dbg.entering = true → s.dbg.frozen = 1 ∨ s.dbg.frozen = 2 →
    (∃ v, exec .freezeEntryDone s = .next v ∧ v.pending = s.pending ∧ v.plc.replicas = [] ∧ v.pci.frozenPin = true ∧
      v.dbg.entering = false ∧ v.fld rDbgFreeze fDbgFreezeState = s.dbg.frozen ∧
      v.fld rDbgFreeze fDbgFreezeSeq = (s.fld rDbgFreeze fDbgFreezeSeq + 1) % 65536 ∧
      v.fld rDbgEvent fDbgEventFrozen = 1 ∧
      (s.dbg.frozen = 2 → v.hbm.selfRefresh = true ∧ v.pci.up = 0 ∧ v.pci.training = 0)) ∧
    (s.dbg.frozen = 1 → s.plc.replicas = [] → Acts .freezeEntryDone s ([.pci, .dbg] ++ raisedIn) (fun v =>
      v.pci = { s.pci with frozenPin := true } ∧ v.dbg = { s.dbg with entering := false }))) ∧
  (∀ (s : State) (f : Fn), s.canWrite f rDbgFreeze = true →
    (s.pci.freezeLow = true ∨ s.dbg.driving = true → Acts (.thaw f) s [.regs, .pci, .dbg] (fun v =>
      v.fld rDbgFreeze fDbgFreezeResult = 5 ∧ v.dbg.driving = false ∧ v.dbg.regFreeze = 0 ∧
      v.dbg.frozen = s.dbg.frozen ∧ v.dbg.thawing = s.dbg.thawing)) ∧
    (s.pci.freezeLow = false → s.dbg.driving = false → s.dbg.frozen ≠ 0 → s.dbg.thawing = false →
      Acts (.thaw f) s [.regs, .pci, .dbg, .pwr] (fun v => v.fld rDbgFreeze fDbgFreezeResult = 1 ∧
        v.dbg.thawing = true ∧ v.dbg.frozen = s.dbg.frozen ∧ v.dbg.regFreeze = 0 ∧ v.dbg.pinFreeze = 0 ∧
        (s.pwr.state = 0 → ∃ w ∈ v.pwr.wakes ++ v.pwr.rails, w.kind = 0 ∧ w.unit = 0 ∧ w.high = true)))) ∧
  (∀ s : State,
    (s.dbg.driving = true → Idle .freezePinRelease s) ∧
    (s.dbg.driving = false → s.on = true → s.dbg.regFreeze = 0 → s.dbg.frozen ≠ 0 → s.dbg.thawing = false →
      Acts .freezePinRelease s [.regs, .pci, .dbg, .pwr] (fun v => v.pci.freezeLow = false ∧ v.dbg.thawing = true)) ∧
    (s.dbg.driving = false → s.on = true → s.dbg.regFreeze ≠ 0 → Acts .freezePinRelease s [.regs, .pci, .dbg] (fun v =>
      v.pci.freezeLow = false ∧ v.dbg.pinFreeze = 0 ∧ v.dbg.thawing = s.dbg.thawing)) ∧
    (s.on = true → s.dbg.thawing = true → s.dbg.entering = false → s.thawPending = false → s.dbg.keptInv = [] →
      (s.dbg.frozen = 1 → s.ral.kept = [] → Acts .thawDone s ([.pci, .bup, .ral, .dbg] ++ raisedIn) (fun v =>
        v.dbg = { s.dbg with frozen := 0, thawing := false } ∧ v.pci.frozenPin = false ∧
        v.bup = { s.bup with holdOver := false } ∧
        v.fld rDbgFreeze fDbgFreezeState = 0 ∧ v.fld rDbgEvent fDbgEventThawed = 1)) ∧
      (∀ n m, s.dbg.frozen = 1 → s.ral.kept = [⟨n, m⟩] → m.typ = 1 →
        Acts .thawDone s ([.pci, .bup, .ral, .cel, .dbg] ++ raisedIn) (fun v => v.ral.kept = [] ∧
          v.cel = { s.cel with xbar := s.cel.xbar ++ [⟨.raloth n m.srcT m.srcS m.part m.tag (m.arg.toNat % 16),
            m.addr % 2 ^ 43, m.hint, .read m.hint⟩] })) ∧
      (s.dbg.frozen = 2 → s.ral.kept = [] → ∃ v, exec .thawDone s = .next v ∧ v.pending = s.pending ∧
        v.dbg.frozen = 0 ∧ v.pci.frozenPin = false ∧ v.pci.training = ~~~ s.pci.perstLow ∧
        (s.pwr.state ≤ 1 → v.hbm.selfRefresh = false) ∧
        ∀ n, n < 8 → (s.port n).off = false → (s.port n).state ≠ 0 → (v.port n).state = 1)))

/-- Read-out and scan (R490, R505 to R507): an access that names no unit, is not permitted, or meets a unit that is down or out
of service completes with status 3, 5, 4 with zeros, or 6; else the unit's 64 bytes are returned, in the clear with status 1,
of a sealed partition enciphered with status 2; a scan shift at D3 in full freeze leaves nothing known but the pins. -/
def Obligations.ReadOutAndScan : Prop :=
  (∀ (s : State) (f : Fn) (space addr : Nat) (errs : List SymErr), s.canWrite f rDbgRo = true → space < 16 →
    addr < 2 ^ 34 →
    let c := Instr.readOut f space addr errs
    let kept := fun v => RegsKept s v (rDbgRo :: (List.range 8).map rDbgRoData)
    let ends := fun st => Acts c s [.regs, .free] (fun v => v.fld rDbgRo fDbgRoStatus = st ∧ RegsKept s v [rDbgRo])
    let gives := fun st p (d : BitVec 512) => Acts c s [.regs, .free] (fun v => v.fld rDbgRo fDbgRoStatus = st ∧
      v.fld rDbgRo fDbgRoPartition = p ∧ kept v ∧ ∀ k, k < 8 → v.reg (rDbgRoData k) = d.extractLsb' (64 * k) 64)
    (space = 0 ∨ 4 < space → ends 3) ∧
    (roValid space addr = true →
      (s.thawed = false → s.level < 2 → ends 5) ∧ (s.thawed = true → space ≠ 3 ∨ s.level = 0 → ends 5) ∧
      (s.thawed = true → space = 3 → 1 ≤ s.level → s.pwr.state = 0 → s.pwr.target = none → errs = [] →
        let key := frameKey (nbits addr 26 8) (nbits addr 7 17 / 4) (4 * nbits addr 24 2 + nbits addr 7 17 % 4)
        s.traceWay (key % 16) = true → s.roOut space addr = false →
          gives 1 0 ((s.roRow key).extractLsb' (512 * nbits addr 6 1) 512)) ∧
      (s.thawed = false → 2 ≤ s.level →
        (s.roDown space addr = true → gives 4 0 0) ∧
        (s.roDown space addr = false → s.roOut space addr = true → ends 6) ∧
        (s.roDown space addr = false → s.roOut space addr = false → errs = [] →
          let plain : BitVec 512 → Prop := fun d => match s.roSealed space addr with
            | none => gives 1 0 d
            | some p => p < 16 → gives 2 p (d ^^^ BitVec.ofNat 512 (leNat ((List.range 4).flatMap (fun j =>
                aesEncrypt (toBytes (s.secPart p).debugKey 32) (natBytes (space * 2 ^ 60 + addr) 8 ++
                  natBytes (s.fld rDbgFreeze fDbgFreezeSeq) 4 ++ beBytes j 4)))))
          let cell := cellOf (nbits addr 20 5) (nbits addr 15 5)
          (space = 1 → s.role cell ≠ 1 → plain (match smGet s.cmp.cs (16384 * cell + 512 * nbits addr 10 5 + addr % 512) with
            | some w => if w.valid = true then w.data else 0
            | none => 0)) ∧
          (∀ x, space = 2 → addr % 16 < 8 → s.thread (128 * cell + nbits addr 8 7) = some x →
            plain (BitVec.ofNat 512 (leNat ((List.range 8).flatMap (fun i =>
              toBytes (x.reg (8 * (addr % 16) + i)) 8))))) ∧
          (∀ x, space = 2 → addr % 16 = 8 → s.thread (128 * cell + nbits addr 8 7) = some x →
            plain (BitVec.ofNat 512 (leNat (natBytes x.pc 8 ++ natBytes x.issue 8 ++ [1] ++ natBytes x.part 1 ++
              natBytes x.ctx 1 ++ [0] ++ natBytes x.idx 4)))) ∧
          (space = 3 → plain ((s.roRow (frameKey (nbits addr 26 8) (nbits addr 7 17 / 4)
            (4 * nbits addr 24 2 + nbits addr 7 17 % 4))).extractLsb' (512 * nbits addr 6 1) 512)) ∧
          (space = 4 → plain (s.roTagEntry (frameKey (nbits addr 26 8) (nbits addr 11 15) (nbits addr 7 4)))))))) ∧
  (∀ (s : State) (key : Nat) (r : BitVec 1024), smGet s.cel.frames key = none → smGet s.dbg.trace key = some r →
    s.roRow key = r) ∧
  (∀ (s : State) (key : Nat) (x : Frame) (l : LineEnt), smGet s.cel.frames key = some x → l ∈ x.lines →
    l.quarter < 4 → l.cls ∈ [32, 64, 96, 128] → 32 * l.quarter + l.cls ≤ 128 →
    (s.roRow key).extractLsb' (256 * l.quarter) (8 * l.cls) = x.row.extractLsb' (256 * l.quarter) (8 * l.cls)) ∧
  (∀ (s : State) (bits : List Bool),
    (s.on = true → s.level = 3 → s.dbg.frozen = 2 → s.dbg.entering = false →
      ∃ v, exec (.scanShift bits) s = .next v ∧ v.pending = s.pending ∧ v.out = s.out ∧ v.pci.pwrgood = s.pci.pwrgood ∧
        v.pci.resetLow = s.pci.resetLow ∧ v.pci.freezeLow = s.pci.freezeLow ∧ v.pci.perstLow = s.pci.perstLow) ∧
    (s.level ≠ 3 ∨ s.dbg.frozen ≠ 2 → Idle (.scanShift bits) s))

/-! ## The whole machine -/

/-- Every step keeps the two memories in canonical form: the HBM tier and the cellar list their entries by rising key, and no
frame without a line; the one exception is a scan shift, after which nothing is known (R490). -/
def Obligations.MemoryStaysCanonical : Prop :=
  ∀ s v : State, MemoryCanonical s → (∀ bits l, s.pending ≠ .scanShift bits :: l) → step s = .next v → MemoryCanonical v

/-- What power-up leaves (R18, R350, R384, R412, R446, R489, R499): every register at its reset value, no owner, no Blend, no
session, no error record, debug level 0, no freeze, power state S0, every port OFF, storage that lists nothing, and nothing
waiting. The HBM and cellar contents are the model's choice where the spec gives none. -/
def Obligations.ResetIsClean : Prop :=
  (∀ off, State.reset.reg off = regReset 0 off) ∧ State.reset.pci.owner = none ∧ State.reset.bup.blend = none ∧
  State.reset.sec.sessions = [] ∧ State.reset.dbg.errq = [] ∧ State.reset.level = 0 ∧ State.reset.dbg.frozen = 0 ∧
  State.reset.pwr.state = 0 ∧ State.reset.on = false ∧ (∀ n, (State.reset.port n).state = 0) ∧
  State.reset.cel.frames = [] ∧ State.reset.hbm.blocks = [] ∧ MemoryCanonical State.reset ∧
  State.reset.pending = [] ∧ step State.reset = .next State.reset
end

