-- ==== Sys2Proof/Laws/Maps.lean ====
section
/-! SUPPORT. Sparse maps: what a read gives after a write, and that every operation keeps the keys strictly rising. The
reads hold for any list, canonical or not. -/

namespace Sys2Proof.Machine

open Sys2Proof

variable {α : Type}

theorem lookup_cons_ite (i j : Nat) (w : α) (m : SMap α) :
    List.lookup j ((i, w) :: m) = if j = i then some w else List.lookup j m := by
  by_cases h : j = i
  · simp [List.lookup, h]
  · simp [List.lookup, beq_eq_false_iff_ne.2 h, h]

@[simp] theorem smGet_smSet (m : SMap α) (k j : Nat) (v : α) :
    smGet (smSet m k v) j = if j = k then some v else smGet m j := by
  unfold smGet
  induction m with
  | nil => simp [smSet, lookup_cons_ite]
  | cons e m ih =>
    obtain ⟨i, w⟩ := e
    simp only [smSet]
    split
    · simp [lookup_cons_ite]
    · split
      · subst_vars; simp only [lookup_cons_ite]; split <;> rfl
      · simp only [lookup_cons_ite, ih]
        by_cases h : j = i
        · have hk : j ≠ k := fun e => ‹¬k = i› (e ▸ h)
          simp [h, show i ≠ k from h ▸ hk]
        · simp [h]

@[simp] theorem smGet_smDel (m : SMap α) (k j : Nat) : smGet (smDel m k) j = if j = k then none else smGet m j := by
  unfold smGet smDel
  induction m with
  | nil => simp
  | cons e m ih =>
    obtain ⟨i, w⟩ := e
    by_cases hi : i = k
    · rw [List.filter_cons_of_neg (by simpa using hi), ih, lookup_cons_ite, hi]
      split <;> rfl
    · rw [List.filter_cons_of_pos (by simpa using hi), lookup_cons_ite, lookup_cons_ite, ih]
      by_cases h : j = i
      · have hk : j ≠ k := fun e => hi (h ▸ e)
        simp [h, show i ≠ k from hi]
      · simp [h]

theorem smGetD_eq (m : SMap α) (k : Nat) (d : α) : smGetD m k d = (smGet m k).getD d := rfl

@[simp] theorem smGetD_smSet (m : SMap α) (k j : Nat) (v d : α) :
    smGetD (smSet m k v) j d = if j = k then v else smGetD m j d := by
  simp only [smGetD_eq, smGet_smSet]; split <;> rfl

theorem smGet_smPut [DecidableEq α] (m : SMap α) (k j : Nat) (v d : α) :
    smGet (smPut m k v d) j = if j = k then (if v = d then none else some v) else smGet m j := by
  unfold smPut; split <;> simp_all

@[simp] theorem smGetD_smPut [DecidableEq α] (m : SMap α) (k j : Nat) (v d : α) :
    smGetD (smPut m k v d) j d = if j = k then v else smGetD m j d := by
  simp only [smGetD_eq, smGet_smPut]
  split
  · split <;> simp_all
  · rfl

@[simp] theorem smSet_smSet (m : SMap α) (k : Nat) (v w : α) : smSet (smSet m k v) k w = smSet m k w := by
  induction m with
  | nil => simp [smSet]
  | cons e m ih =>
    obtain ⟨i, a⟩ := e
    by_cases h1 : k < i
    · simp [smSet, h1]
    · by_cases h2 : k = i
      · simp [smSet, h2]
      · simp [smSet, h1, h2, ih]

/-! ### Canonical form -/

theorem smWf_cons {a : Nat × α} {m : SMap α} : smWf (a :: m) = true ↔ smWf m = true ∧ ∀ e ∈ m, a.1 < e.1 := by
  induction m generalizing a with
  | nil => simp [smWf]
  | cons b m ih =>
    simp only [smWf, Bool.and_eq_true, decide_eq_true_eq, List.mem_cons, forall_eq_or_imp]
    constructor
    · rintro ⟨h1, h2⟩
      exact ⟨h2, h1, fun e he => Nat.lt_trans h1 ((ih.1 h2).2 e he)⟩
    · rintro ⟨h1, h2, _⟩
      exact ⟨h2, h1⟩

theorem smWf_filter {m : SMap α} (h : smWf m = true) (p : Nat × α → Bool) : smWf (m.filter p) = true := by
  induction m with
  | nil => rfl
  | cons a m ih =>
    obtain ⟨h1, h2⟩ := smWf_cons.1 h
    by_cases hp : p a = true
    · rw [List.filter_cons_of_pos hp]
      exact smWf_cons.2 ⟨ih h1, fun e he => h2 e (List.mem_of_mem_filter he)⟩
    · rw [List.filter_cons_of_neg hp]
      exact ih h1

theorem mem_smSet {m : SMap α} {k : Nat} {v : α} {e : Nat × α} (h : e ∈ smSet m k v) : e = (k, v) ∨ e ∈ m := by
  induction m with
  | nil => simpa [smSet] using h
  | cons a m ih =>
    obtain ⟨j, w⟩ := a
    simp only [smSet] at h
    split at h
    · simpa using h
    · split at h
      · rcases List.mem_cons.1 h with h | h
        · exact .inl h
        · exact .inr (List.mem_cons_of_mem _ h)
      · rcases List.mem_cons.1 h with h | h
        · exact .inr (h ▸ List.mem_cons_self)
        · exact (ih h).imp id (List.mem_cons_of_mem _)

theorem smWf_smSet {m : SMap α} (h : smWf m = true) (k : Nat) (v : α) : smWf (smSet m k v) = true := by
  induction m with
  | nil => rfl
  | cons a m ih =>
    obtain ⟨j, w⟩ := a
    obtain ⟨h1, h2⟩ := smWf_cons.1 h
    simp only [smSet]
    split
    · refine smWf_cons.2 ⟨h, fun e he => ?_⟩
      rcases List.mem_cons.1 he with rfl | he
      · assumption
      · exact Nat.lt_trans ‹_› (h2 e he)
    · split
      · exact smWf_cons.2 ⟨h1, fun e he => by have := h2 e he; simp_all⟩
      · refine smWf_cons.2 ⟨ih h1, fun e he => ?_⟩
        rcases mem_smSet he with rfl | he
        · show j < k; omega
        · exact h2 e he

theorem smWf_smDel {m : SMap α} (h : smWf m = true) (k : Nat) : smWf (smDel m k) = true := smWf_filter h _

theorem smWf_smKeep {m : SMap α} (h : smWf m = true) (p : Nat → Bool) : smWf (smKeep m p) = true := smWf_filter h _

theorem smWf_smPut [DecidableEq α] {m : SMap α} (h : smWf m = true) (k : Nat) (v d : α) :
    smWf (smPut m k v d) = true := by
  unfold smPut; split
  · exact smWf_smDel h k
  · exact smWf_smSet h k v

@[simp] theorem foldS_nil {σ β : Type} (s : σ) (f : σ → β → σ) : foldS [] s f = s := rfl

@[simp] theorem foldS_cons {σ β : Type} (b : β) (l : List β) (s : σ) (f : σ → β → σ) :
    foldS (b :: l) s f = foldS l (f s b) f := rfl

/-- What every step of a fold keeps, the fold keeps. -/
theorem foldS_keeps {σ β : Type} {P : σ → Prop} (l : List β) {s : σ} (f : σ → β → σ) (h : ∀ u b, P u → P (f u b))
    (hs : P s) : P (foldS l s f) := by
  induction l generalizing s with
  | nil => exact hs
  | cons b l ih => exact ih (h s b hs)

end Sys2Proof.Machine
end

