-- ==== Sys2Proof/Laws/State.lean ====
section
/-! SUPPORT. The state as a record: each update leaves every other field as it was. One lemma per field and update, so
that no proof unfolds a record update. -/

namespace Sys2Proof.Machine

open Sys2Proof

/-! `State.setReg` -/

@[simp] theorem State.setReg_fns (s : State) (o : Nat) (v : Word) : (s.setReg o v).fns = s.fns := rfl
@[simp] theorem State.setReg_pci (s : State) (o : Nat) (v : Word) : (s.setReg o v).pci = s.pci := rfl
@[simp] theorem State.setReg_sec (s : State) (o : Nat) (v : Word) : (s.setReg o v).sec = s.sec := rfl
@[simp] theorem State.setReg_bup (s : State) (o : Nat) (v : Word) : (s.setReg o v).bup = s.bup := rfl
@[simp] theorem State.setReg_cmp (s : State) (o : Nat) (v : Word) : (s.setReg o v).cmp = s.cmp := rfl
@[simp] theorem State.setReg_xlt (s : State) (o : Nat) (v : Word) : (s.setReg o v).xlt = s.xlt := rfl
@[simp] theorem State.setReg_cel (s : State) (o : Nat) (v : Word) : (s.setReg o v).cel = s.cel := rfl
@[simp] theorem State.setReg_hbm (s : State) (o : Nat) (v : Word) : (s.setReg o v).hbm = s.hbm := rfl
@[simp] theorem State.setReg_plc (s : State) (o : Nat) (v : Word) : (s.setReg o v).plc = s.plc := rfl
@[simp] theorem State.setReg_ral (s : State) (o : Nat) (v : Word) : (s.setReg o v).ral = s.ral := rfl
@[simp] theorem State.setReg_pwr (s : State) (o : Nat) (v : Word) : (s.setReg o v).pwr = s.pwr := rfl
@[simp] theorem State.setReg_dbg (s : State) (o : Nat) (v : Word) : (s.setReg o v).dbg = s.dbg := rfl
@[simp] theorem State.setReg_out (s : State) (o : Nat) (v : Word) : (s.setReg o v).out = s.out := rfl
@[simp] theorem State.setReg_free (s : State) (o : Nat) (v : Word) : (s.setReg o v).free = s.free := rfl
@[simp] theorem State.setReg_pending (s : State) (o : Nat) (v : Word) : (s.setReg o v).pending = s.pending := rfl

/-! `State.setFld` -/

@[simp] theorem State.setFld_fns (s : State) (o : Nat) (f : Fld) (n : Nat) : (s.setFld o f n).fns = s.fns := rfl
@[simp] theorem State.setFld_pci (s : State) (o : Nat) (f : Fld) (n : Nat) : (s.setFld o f n).pci = s.pci := rfl
@[simp] theorem State.setFld_sec (s : State) (o : Nat) (f : Fld) (n : Nat) : (s.setFld o f n).sec = s.sec := rfl
@[simp] theorem State.setFld_bup (s : State) (o : Nat) (f : Fld) (n : Nat) : (s.setFld o f n).bup = s.bup := rfl
@[simp] theorem State.setFld_cmp (s : State) (o : Nat) (f : Fld) (n : Nat) : (s.setFld o f n).cmp = s.cmp := rfl
@[simp] theorem State.setFld_xlt (s : State) (o : Nat) (f : Fld) (n : Nat) : (s.setFld o f n).xlt = s.xlt := rfl
@[simp] theorem State.setFld_cel (s : State) (o : Nat) (f : Fld) (n : Nat) : (s.setFld o f n).cel = s.cel := rfl
@[simp] theorem State.setFld_hbm (s : State) (o : Nat) (f : Fld) (n : Nat) : (s.setFld o f n).hbm = s.hbm := rfl
@[simp] theorem State.setFld_plc (s : State) (o : Nat) (f : Fld) (n : Nat) : (s.setFld o f n).plc = s.plc := rfl
@[simp] theorem State.setFld_ral (s : State) (o : Nat) (f : Fld) (n : Nat) : (s.setFld o f n).ral = s.ral := rfl
@[simp] theorem State.setFld_pwr (s : State) (o : Nat) (f : Fld) (n : Nat) : (s.setFld o f n).pwr = s.pwr := rfl
@[simp] theorem State.setFld_dbg (s : State) (o : Nat) (f : Fld) (n : Nat) : (s.setFld o f n).dbg = s.dbg := rfl
@[simp] theorem State.setFld_out (s : State) (o : Nat) (f : Fld) (n : Nat) : (s.setFld o f n).out = s.out := rfl
@[simp] theorem State.setFld_free (s : State) (o : Nat) (f : Fld) (n : Nat) : (s.setFld o f n).free = s.free := rfl
@[simp] theorem State.setFld_pending (s : State) (o : Nat) (f : Fld) (n : Nat) : (s.setFld o f n).pending = s.pending := rfl

/-! `State.resetRegs` -/

@[simp] theorem State.resetRegs_fns (s : State) (p : Nat → Bool) : (s.resetRegs p).fns = s.fns := rfl
@[simp] theorem State.resetRegs_pci (s : State) (p : Nat → Bool) : (s.resetRegs p).pci = s.pci := rfl
@[simp] theorem State.resetRegs_sec (s : State) (p : Nat → Bool) : (s.resetRegs p).sec = s.sec := rfl
@[simp] theorem State.resetRegs_bup (s : State) (p : Nat → Bool) : (s.resetRegs p).bup = s.bup := rfl
@[simp] theorem State.resetRegs_cmp (s : State) (p : Nat → Bool) : (s.resetRegs p).cmp = s.cmp := rfl
@[simp] theorem State.resetRegs_xlt (s : State) (p : Nat → Bool) : (s.resetRegs p).xlt = s.xlt := rfl
@[simp] theorem State.resetRegs_cel (s : State) (p : Nat → Bool) : (s.resetRegs p).cel = s.cel := rfl
@[simp] theorem State.resetRegs_hbm (s : State) (p : Nat → Bool) : (s.resetRegs p).hbm = s.hbm := rfl
@[simp] theorem State.resetRegs_plc (s : State) (p : Nat → Bool) : (s.resetRegs p).plc = s.plc := rfl
@[simp] theorem State.resetRegs_ral (s : State) (p : Nat → Bool) : (s.resetRegs p).ral = s.ral := rfl
@[simp] theorem State.resetRegs_pwr (s : State) (p : Nat → Bool) : (s.resetRegs p).pwr = s.pwr := rfl
@[simp] theorem State.resetRegs_dbg (s : State) (p : Nat → Bool) : (s.resetRegs p).dbg = s.dbg := rfl
@[simp] theorem State.resetRegs_out (s : State) (p : Nat → Bool) : (s.resetRegs p).out = s.out := rfl
@[simp] theorem State.resetRegs_free (s : State) (p : Nat → Bool) : (s.resetRegs p).free = s.free := rfl
@[simp] theorem State.resetRegs_pending (s : State) (p : Nat → Bool) : (s.resetRegs p).pending = s.pending := rfl

/-! `State.addSat` -/

@[simp] theorem State.addSat_fns (s : State) (o : Nat) (f : Fld) (n : Nat) : (s.addSat o f n).fns = s.fns := rfl
@[simp] theorem State.addSat_pci (s : State) (o : Nat) (f : Fld) (n : Nat) : (s.addSat o f n).pci = s.pci := rfl
@[simp] theorem State.addSat_sec (s : State) (o : Nat) (f : Fld) (n : Nat) : (s.addSat o f n).sec = s.sec := rfl
@[simp] theorem State.addSat_bup (s : State) (o : Nat) (f : Fld) (n : Nat) : (s.addSat o f n).bup = s.bup := rfl
@[simp] theorem State.addSat_cmp (s : State) (o : Nat) (f : Fld) (n : Nat) : (s.addSat o f n).cmp = s.cmp := rfl
@[simp] theorem State.addSat_xlt (s : State) (o : Nat) (f : Fld) (n : Nat) : (s.addSat o f n).xlt = s.xlt := rfl
@[simp] theorem State.addSat_cel (s : State) (o : Nat) (f : Fld) (n : Nat) : (s.addSat o f n).cel = s.cel := rfl
@[simp] theorem State.addSat_hbm (s : State) (o : Nat) (f : Fld) (n : Nat) : (s.addSat o f n).hbm = s.hbm := rfl
@[simp] theorem State.addSat_plc (s : State) (o : Nat) (f : Fld) (n : Nat) : (s.addSat o f n).plc = s.plc := rfl
@[simp] theorem State.addSat_ral (s : State) (o : Nat) (f : Fld) (n : Nat) : (s.addSat o f n).ral = s.ral := rfl
@[simp] theorem State.addSat_pwr (s : State) (o : Nat) (f : Fld) (n : Nat) : (s.addSat o f n).pwr = s.pwr := rfl
@[simp] theorem State.addSat_dbg (s : State) (o : Nat) (f : Fld) (n : Nat) : (s.addSat o f n).dbg = s.dbg := rfl
@[simp] theorem State.addSat_out (s : State) (o : Nat) (f : Fld) (n : Nat) : (s.addSat o f n).out = s.out := rfl
@[simp] theorem State.addSat_free (s : State) (o : Nat) (f : Fld) (n : Nat) : (s.addSat o f n).free = s.free := rfl
@[simp] theorem State.addSat_pending (s : State) (o : Nat) (f : Fld) (n : Nat) : (s.addSat o f n).pending = s.pending := rfl

/-! `State.addMod` -/

@[simp] theorem State.addMod_fns (s : State) (o : Nat) (f : Fld) (n : Nat) : (s.addMod o f n).fns = s.fns := rfl
@[simp] theorem State.addMod_pci (s : State) (o : Nat) (f : Fld) (n : Nat) : (s.addMod o f n).pci = s.pci := rfl
@[simp] theorem State.addMod_sec (s : State) (o : Nat) (f : Fld) (n : Nat) : (s.addMod o f n).sec = s.sec := rfl
@[simp] theorem State.addMod_bup (s : State) (o : Nat) (f : Fld) (n : Nat) : (s.addMod o f n).bup = s.bup := rfl
@[simp] theorem State.addMod_cmp (s : State) (o : Nat) (f : Fld) (n : Nat) : (s.addMod o f n).cmp = s.cmp := rfl
@[simp] theorem State.addMod_xlt (s : State) (o : Nat) (f : Fld) (n : Nat) : (s.addMod o f n).xlt = s.xlt := rfl
@[simp] theorem State.addMod_cel (s : State) (o : Nat) (f : Fld) (n : Nat) : (s.addMod o f n).cel = s.cel := rfl
@[simp] theorem State.addMod_hbm (s : State) (o : Nat) (f : Fld) (n : Nat) : (s.addMod o f n).hbm = s.hbm := rfl
@[simp] theorem State.addMod_plc (s : State) (o : Nat) (f : Fld) (n : Nat) : (s.addMod o f n).plc = s.plc := rfl
@[simp] theorem State.addMod_ral (s : State) (o : Nat) (f : Fld) (n : Nat) : (s.addMod o f n).ral = s.ral := rfl
@[simp] theorem State.addMod_pwr (s : State) (o : Nat) (f : Fld) (n : Nat) : (s.addMod o f n).pwr = s.pwr := rfl
@[simp] theorem State.addMod_dbg (s : State) (o : Nat) (f : Fld) (n : Nat) : (s.addMod o f n).dbg = s.dbg := rfl
@[simp] theorem State.addMod_out (s : State) (o : Nat) (f : Fld) (n : Nat) : (s.addMod o f n).out = s.out := rfl
@[simp] theorem State.addMod_free (s : State) (o : Nat) (f : Fld) (n : Nat) : (s.addMod o f n).free = s.free := rfl
@[simp] theorem State.addMod_pending (s : State) (o : Nat) (f : Fld) (n : Nat) : (s.addMod o f n).pending = s.pending := rfl

/-! `State.emit` -/

@[simp] theorem State.emit_regs (s : State) (o : Out) : (s.emit o).regs = s.regs := rfl
@[simp] theorem State.emit_fns (s : State) (o : Out) : (s.emit o).fns = s.fns := rfl
@[simp] theorem State.emit_pci (s : State) (o : Out) : (s.emit o).pci = s.pci := rfl
@[simp] theorem State.emit_sec (s : State) (o : Out) : (s.emit o).sec = s.sec := rfl
@[simp] theorem State.emit_bup (s : State) (o : Out) : (s.emit o).bup = s.bup := rfl
@[simp] theorem State.emit_cmp (s : State) (o : Out) : (s.emit o).cmp = s.cmp := rfl
@[simp] theorem State.emit_xlt (s : State) (o : Out) : (s.emit o).xlt = s.xlt := rfl
@[simp] theorem State.emit_cel (s : State) (o : Out) : (s.emit o).cel = s.cel := rfl
@[simp] theorem State.emit_hbm (s : State) (o : Out) : (s.emit o).hbm = s.hbm := rfl
@[simp] theorem State.emit_plc (s : State) (o : Out) : (s.emit o).plc = s.plc := rfl
@[simp] theorem State.emit_ral (s : State) (o : Out) : (s.emit o).ral = s.ral := rfl
@[simp] theorem State.emit_pwr (s : State) (o : Out) : (s.emit o).pwr = s.pwr := rfl
@[simp] theorem State.emit_dbg (s : State) (o : Out) : (s.emit o).dbg = s.dbg := rfl
@[simp] theorem State.emit_free (s : State) (o : Out) : (s.emit o).free = s.free := rfl
@[simp] theorem State.emit_pending (s : State) (o : Out) : (s.emit o).pending = s.pending := rfl

/-! `State.tick` -/

@[simp] theorem State.tick_regs (s : State) : (s.tick).regs = s.regs := rfl
@[simp] theorem State.tick_fns (s : State) : (s.tick).fns = s.fns := rfl
@[simp] theorem State.tick_pci (s : State) : (s.tick).pci = s.pci := rfl
@[simp] theorem State.tick_sec (s : State) : (s.tick).sec = s.sec := rfl
@[simp] theorem State.tick_bup (s : State) : (s.tick).bup = s.bup := rfl
@[simp] theorem State.tick_cmp (s : State) : (s.tick).cmp = s.cmp := rfl
@[simp] theorem State.tick_xlt (s : State) : (s.tick).xlt = s.xlt := rfl
@[simp] theorem State.tick_cel (s : State) : (s.tick).cel = s.cel := rfl
@[simp] theorem State.tick_hbm (s : State) : (s.tick).hbm = s.hbm := rfl
@[simp] theorem State.tick_plc (s : State) : (s.tick).plc = s.plc := rfl
@[simp] theorem State.tick_ral (s : State) : (s.tick).ral = s.ral := rfl
@[simp] theorem State.tick_pwr (s : State) : (s.tick).pwr = s.pwr := rfl
@[simp] theorem State.tick_dbg (s : State) : (s.tick).dbg = s.dbg := rfl
@[simp] theorem State.tick_out (s : State) : (s.tick).out = s.out := rfl
@[simp] theorem State.tick_pending (s : State) : (s.tick).pending = s.pending := rfl

/-! `State.setFn` -/

@[simp] theorem State.setFn_regs (s : State) (f : Fn) (c : FnCfg) : (s.setFn f c).regs = s.regs := rfl
@[simp] theorem State.setFn_pci (s : State) (f : Fn) (c : FnCfg) : (s.setFn f c).pci = s.pci := rfl
@[simp] theorem State.setFn_sec (s : State) (f : Fn) (c : FnCfg) : (s.setFn f c).sec = s.sec := rfl
@[simp] theorem State.setFn_bup (s : State) (f : Fn) (c : FnCfg) : (s.setFn f c).bup = s.bup := rfl
@[simp] theorem State.setFn_cmp (s : State) (f : Fn) (c : FnCfg) : (s.setFn f c).cmp = s.cmp := rfl
@[simp] theorem State.setFn_xlt (s : State) (f : Fn) (c : FnCfg) : (s.setFn f c).xlt = s.xlt := rfl
@[simp] theorem State.setFn_cel (s : State) (f : Fn) (c : FnCfg) : (s.setFn f c).cel = s.cel := rfl
@[simp] theorem State.setFn_hbm (s : State) (f : Fn) (c : FnCfg) : (s.setFn f c).hbm = s.hbm := rfl
@[simp] theorem State.setFn_plc (s : State) (f : Fn) (c : FnCfg) : (s.setFn f c).plc = s.plc := rfl
@[simp] theorem State.setFn_ral (s : State) (f : Fn) (c : FnCfg) : (s.setFn f c).ral = s.ral := rfl
@[simp] theorem State.setFn_pwr (s : State) (f : Fn) (c : FnCfg) : (s.setFn f c).pwr = s.pwr := rfl
@[simp] theorem State.setFn_dbg (s : State) (f : Fn) (c : FnCfg) : (s.setFn f c).dbg = s.dbg := rfl
@[simp] theorem State.setFn_out (s : State) (f : Fn) (c : FnCfg) : (s.setFn f c).out = s.out := rfl
@[simp] theorem State.setFn_free (s : State) (f : Fn) (c : FnCfg) : (s.setFn f c).free = s.free := rfl
@[simp] theorem State.setFn_pending (s : State) (f : Fn) (c : FnCfg) : (s.setFn f c).pending = s.pending := rfl

/-! `State.setSlice` -/

@[simp] theorem State.setSlice_regs (s : State) (n : Nat) (x : Slice) : (s.setSlice n x).regs = s.regs := rfl
@[simp] theorem State.setSlice_fns (s : State) (n : Nat) (x : Slice) : (s.setSlice n x).fns = s.fns := rfl
@[simp] theorem State.setSlice_pci (s : State) (n : Nat) (x : Slice) : (s.setSlice n x).pci = s.pci := rfl
@[simp] theorem State.setSlice_sec (s : State) (n : Nat) (x : Slice) : (s.setSlice n x).sec = s.sec := rfl
@[simp] theorem State.setSlice_bup (s : State) (n : Nat) (x : Slice) : (s.setSlice n x).bup = s.bup := rfl
@[simp] theorem State.setSlice_cmp (s : State) (n : Nat) (x : Slice) : (s.setSlice n x).cmp = s.cmp := rfl
@[simp] theorem State.setSlice_xlt (s : State) (n : Nat) (x : Slice) : (s.setSlice n x).xlt = s.xlt := rfl
@[simp] theorem State.setSlice_hbm (s : State) (n : Nat) (x : Slice) : (s.setSlice n x).hbm = s.hbm := rfl
@[simp] theorem State.setSlice_plc (s : State) (n : Nat) (x : Slice) : (s.setSlice n x).plc = s.plc := rfl
@[simp] theorem State.setSlice_ral (s : State) (n : Nat) (x : Slice) : (s.setSlice n x).ral = s.ral := rfl
@[simp] theorem State.setSlice_pwr (s : State) (n : Nat) (x : Slice) : (s.setSlice n x).pwr = s.pwr := rfl
@[simp] theorem State.setSlice_dbg (s : State) (n : Nat) (x : Slice) : (s.setSlice n x).dbg = s.dbg := rfl
@[simp] theorem State.setSlice_out (s : State) (n : Nat) (x : Slice) : (s.setSlice n x).out = s.out := rfl
@[simp] theorem State.setSlice_free (s : State) (n : Nat) (x : Slice) : (s.setSlice n x).free = s.free := rfl
@[simp] theorem State.setSlice_pending (s : State) (n : Nat) (x : Slice) : (s.setSlice n x).pending = s.pending := rfl

/-! `State.putFrame` -/

@[simp] theorem State.putFrame_regs (s : State) (n i w : Nat) (f : Frame) : (s.putFrame n i w f).regs = s.regs := rfl
@[simp] theorem State.putFrame_fns (s : State) (n i w : Nat) (f : Frame) : (s.putFrame n i w f).fns = s.fns := rfl
@[simp] theorem State.putFrame_pci (s : State) (n i w : Nat) (f : Frame) : (s.putFrame n i w f).pci = s.pci := rfl
@[simp] theorem State.putFrame_sec (s : State) (n i w : Nat) (f : Frame) : (s.putFrame n i w f).sec = s.sec := rfl
@[simp] theorem State.putFrame_bup (s : State) (n i w : Nat) (f : Frame) : (s.putFrame n i w f).bup = s.bup := rfl
@[simp] theorem State.putFrame_cmp (s : State) (n i w : Nat) (f : Frame) : (s.putFrame n i w f).cmp = s.cmp := rfl
@[simp] theorem State.putFrame_xlt (s : State) (n i w : Nat) (f : Frame) : (s.putFrame n i w f).xlt = s.xlt := rfl
@[simp] theorem State.putFrame_hbm (s : State) (n i w : Nat) (f : Frame) : (s.putFrame n i w f).hbm = s.hbm := rfl
@[simp] theorem State.putFrame_plc (s : State) (n i w : Nat) (f : Frame) : (s.putFrame n i w f).plc = s.plc := rfl
@[simp] theorem State.putFrame_ral (s : State) (n i w : Nat) (f : Frame) : (s.putFrame n i w f).ral = s.ral := rfl
@[simp] theorem State.putFrame_pwr (s : State) (n i w : Nat) (f : Frame) : (s.putFrame n i w f).pwr = s.pwr := rfl
@[simp] theorem State.putFrame_dbg (s : State) (n i w : Nat) (f : Frame) : (s.putFrame n i w f).dbg = s.dbg := rfl
@[simp] theorem State.putFrame_out (s : State) (n i w : Nat) (f : Frame) : (s.putFrame n i w f).out = s.out := rfl
@[simp] theorem State.putFrame_free (s : State) (n i w : Nat) (f : Frame) : (s.putFrame n i w f).free = s.free := rfl
@[simp] theorem State.putFrame_pending (s : State) (n i w : Nat) (f : Frame) : (s.putFrame n i w f).pending = s.pending := rfl

/-! `State.putBlock` -/

@[simp] theorem State.putBlock_regs (s : State) (a : Nat) (b : Block) : (s.putBlock a b).regs = s.regs := rfl
@[simp] theorem State.putBlock_fns (s : State) (a : Nat) (b : Block) : (s.putBlock a b).fns = s.fns := rfl
@[simp] theorem State.putBlock_pci (s : State) (a : Nat) (b : Block) : (s.putBlock a b).pci = s.pci := rfl
@[simp] theorem State.putBlock_sec (s : State) (a : Nat) (b : Block) : (s.putBlock a b).sec = s.sec := rfl
@[simp] theorem State.putBlock_bup (s : State) (a : Nat) (b : Block) : (s.putBlock a b).bup = s.bup := rfl
@[simp] theorem State.putBlock_cmp (s : State) (a : Nat) (b : Block) : (s.putBlock a b).cmp = s.cmp := rfl
@[simp] theorem State.putBlock_xlt (s : State) (a : Nat) (b : Block) : (s.putBlock a b).xlt = s.xlt := rfl
@[simp] theorem State.putBlock_cel (s : State) (a : Nat) (b : Block) : (s.putBlock a b).cel = s.cel := rfl
@[simp] theorem State.putBlock_plc (s : State) (a : Nat) (b : Block) : (s.putBlock a b).plc = s.plc := rfl
@[simp] theorem State.putBlock_ral (s : State) (a : Nat) (b : Block) : (s.putBlock a b).ral = s.ral := rfl
@[simp] theorem State.putBlock_pwr (s : State) (a : Nat) (b : Block) : (s.putBlock a b).pwr = s.pwr := rfl
@[simp] theorem State.putBlock_dbg (s : State) (a : Nat) (b : Block) : (s.putBlock a b).dbg = s.dbg := rfl
@[simp] theorem State.putBlock_out (s : State) (a : Nat) (b : Block) : (s.putBlock a b).out = s.out := rfl
@[simp] theorem State.putBlock_free (s : State) (a : Nat) (b : Block) : (s.putBlock a b).free = s.free := rfl
@[simp] theorem State.putBlock_pending (s : State) (a : Nat) (b : Block) : (s.putBlock a b).pending = s.pending := rfl

/-! `State.setChan` -/

@[simp] theorem State.setChan_regs (s : State) (d : Nat) (c : Channel) : (s.setChan d c).regs = s.regs := rfl
@[simp] theorem State.setChan_fns (s : State) (d : Nat) (c : Channel) : (s.setChan d c).fns = s.fns := rfl
@[simp] theorem State.setChan_pci (s : State) (d : Nat) (c : Channel) : (s.setChan d c).pci = s.pci := rfl
@[simp] theorem State.setChan_sec (s : State) (d : Nat) (c : Channel) : (s.setChan d c).sec = s.sec := rfl
@[simp] theorem State.setChan_bup (s : State) (d : Nat) (c : Channel) : (s.setChan d c).bup = s.bup := rfl
@[simp] theorem State.setChan_cmp (s : State) (d : Nat) (c : Channel) : (s.setChan d c).cmp = s.cmp := rfl
@[simp] theorem State.setChan_xlt (s : State) (d : Nat) (c : Channel) : (s.setChan d c).xlt = s.xlt := rfl
@[simp] theorem State.setChan_cel (s : State) (d : Nat) (c : Channel) : (s.setChan d c).cel = s.cel := rfl
@[simp] theorem State.setChan_plc (s : State) (d : Nat) (c : Channel) : (s.setChan d c).plc = s.plc := rfl
@[simp] theorem State.setChan_ral (s : State) (d : Nat) (c : Channel) : (s.setChan d c).ral = s.ral := rfl
@[simp] theorem State.setChan_pwr (s : State) (d : Nat) (c : Channel) : (s.setChan d c).pwr = s.pwr := rfl
@[simp] theorem State.setChan_dbg (s : State) (d : Nat) (c : Channel) : (s.setChan d c).dbg = s.dbg := rfl
@[simp] theorem State.setChan_out (s : State) (d : Nat) (c : Channel) : (s.setChan d c).out = s.out := rfl
@[simp] theorem State.setChan_free (s : State) (d : Nat) (c : Channel) : (s.setChan d c).free = s.free := rfl
@[simp] theorem State.setChan_pending (s : State) (d : Nat) (c : Channel) : (s.setChan d c).pending = s.pending := rfl

/-! `State.setSecPart` -/

@[simp] theorem State.setSecPart_regs (s : State) (p : Nat) (q : SecPart) : (s.setSecPart p q).regs = s.regs := rfl
@[simp] theorem State.setSecPart_fns (s : State) (p : Nat) (q : SecPart) : (s.setSecPart p q).fns = s.fns := rfl
@[simp] theorem State.setSecPart_pci (s : State) (p : Nat) (q : SecPart) : (s.setSecPart p q).pci = s.pci := rfl
@[simp] theorem State.setSecPart_bup (s : State) (p : Nat) (q : SecPart) : (s.setSecPart p q).bup = s.bup := rfl
@[simp] theorem State.setSecPart_cmp (s : State) (p : Nat) (q : SecPart) : (s.setSecPart p q).cmp = s.cmp := rfl
@[simp] theorem State.setSecPart_xlt (s : State) (p : Nat) (q : SecPart) : (s.setSecPart p q).xlt = s.xlt := rfl
@[simp] theorem State.setSecPart_cel (s : State) (p : Nat) (q : SecPart) : (s.setSecPart p q).cel = s.cel := rfl
@[simp] theorem State.setSecPart_hbm (s : State) (p : Nat) (q : SecPart) : (s.setSecPart p q).hbm = s.hbm := rfl
@[simp] theorem State.setSecPart_plc (s : State) (p : Nat) (q : SecPart) : (s.setSecPart p q).plc = s.plc := rfl
@[simp] theorem State.setSecPart_ral (s : State) (p : Nat) (q : SecPart) : (s.setSecPart p q).ral = s.ral := rfl
@[simp] theorem State.setSecPart_pwr (s : State) (p : Nat) (q : SecPart) : (s.setSecPart p q).pwr = s.pwr := rfl
@[simp] theorem State.setSecPart_dbg (s : State) (p : Nat) (q : SecPart) : (s.setSecPart p q).dbg = s.dbg := rfl
@[simp] theorem State.setSecPart_out (s : State) (p : Nat) (q : SecPart) : (s.setSecPart p q).out = s.out := rfl
@[simp] theorem State.setSecPart_free (s : State) (p : Nat) (q : SecPart) : (s.setSecPart p q).free = s.free := rfl
@[simp] theorem State.setSecPart_pending (s : State) (p : Nat) (q : SecPart) : (s.setSecPart p q).pending = s.pending := rfl

/-! `State.setThread` -/

@[simp] theorem State.setThread_regs (s : State) (t : Nat) (x : Thread) : (s.setThread t x).regs = s.regs := rfl
@[simp] theorem State.setThread_fns (s : State) (t : Nat) (x : Thread) : (s.setThread t x).fns = s.fns := rfl
@[simp] theorem State.setThread_pci (s : State) (t : Nat) (x : Thread) : (s.setThread t x).pci = s.pci := rfl
@[simp] theorem State.setThread_sec (s : State) (t : Nat) (x : Thread) : (s.setThread t x).sec = s.sec := rfl
@[simp] theorem State.setThread_bup (s : State) (t : Nat) (x : Thread) : (s.setThread t x).bup = s.bup := rfl
@[simp] theorem State.setThread_xlt (s : State) (t : Nat) (x : Thread) : (s.setThread t x).xlt = s.xlt := rfl
@[simp] theorem State.setThread_cel (s : State) (t : Nat) (x : Thread) : (s.setThread t x).cel = s.cel := rfl
@[simp] theorem State.setThread_hbm (s : State) (t : Nat) (x : Thread) : (s.setThread t x).hbm = s.hbm := rfl
@[simp] theorem State.setThread_plc (s : State) (t : Nat) (x : Thread) : (s.setThread t x).plc = s.plc := rfl
@[simp] theorem State.setThread_ral (s : State) (t : Nat) (x : Thread) : (s.setThread t x).ral = s.ral := rfl
@[simp] theorem State.setThread_pwr (s : State) (t : Nat) (x : Thread) : (s.setThread t x).pwr = s.pwr := rfl
@[simp] theorem State.setThread_dbg (s : State) (t : Nat) (x : Thread) : (s.setThread t x).dbg = s.dbg := rfl
@[simp] theorem State.setThread_out (s : State) (t : Nat) (x : Thread) : (s.setThread t x).out = s.out := rfl
@[simp] theorem State.setThread_free (s : State) (t : Nat) (x : Thread) : (s.setThread t x).free = s.free := rfl
@[simp] theorem State.setThread_pending (s : State) (t : Nat) (x : Thread) : (s.setThread t x).pending = s.pending := rfl

/-! `State.setL1` -/

@[simp] theorem State.setL1_regs (s : State) (c : Nat) (l : List L1Line) : (s.setL1 c l).regs = s.regs := rfl
@[simp] theorem State.setL1_fns (s : State) (c : Nat) (l : List L1Line) : (s.setL1 c l).fns = s.fns := rfl
@[simp] theorem State.setL1_pci (s : State) (c : Nat) (l : List L1Line) : (s.setL1 c l).pci = s.pci := rfl
@[simp] theorem State.setL1_sec (s : State) (c : Nat) (l : List L1Line) : (s.setL1 c l).sec = s.sec := rfl
@[simp] theorem State.setL1_bup (s : State) (c : Nat) (l : List L1Line) : (s.setL1 c l).bup = s.bup := rfl
@[simp] theorem State.setL1_xlt (s : State) (c : Nat) (l : List L1Line) : (s.setL1 c l).xlt = s.xlt := rfl
@[simp] theorem State.setL1_cel (s : State) (c : Nat) (l : List L1Line) : (s.setL1 c l).cel = s.cel := rfl
@[simp] theorem State.setL1_hbm (s : State) (c : Nat) (l : List L1Line) : (s.setL1 c l).hbm = s.hbm := rfl
@[simp] theorem State.setL1_plc (s : State) (c : Nat) (l : List L1Line) : (s.setL1 c l).plc = s.plc := rfl
@[simp] theorem State.setL1_ral (s : State) (c : Nat) (l : List L1Line) : (s.setL1 c l).ral = s.ral := rfl
@[simp] theorem State.setL1_pwr (s : State) (c : Nat) (l : List L1Line) : (s.setL1 c l).pwr = s.pwr := rfl
@[simp] theorem State.setL1_dbg (s : State) (c : Nat) (l : List L1Line) : (s.setL1 c l).dbg = s.dbg := rfl
@[simp] theorem State.setL1_out (s : State) (c : Nat) (l : List L1Line) : (s.setL1 c l).out = s.out := rfl
@[simp] theorem State.setL1_free (s : State) (c : Nat) (l : List L1Line) : (s.setL1 c l).free = s.free := rfl
@[simp] theorem State.setL1_pending (s : State) (c : Nat) (l : List L1Line) : (s.setL1 c l).pending = s.pending := rfl

/-! `State.setContext` -/

@[simp] theorem State.setContext_regs (s : State) (m : Nat) (c : Ctx) : (s.setContext m c).regs = s.regs := rfl
@[simp] theorem State.setContext_fns (s : State) (m : Nat) (c : Ctx) : (s.setContext m c).fns = s.fns := rfl
@[simp] theorem State.setContext_pci (s : State) (m : Nat) (c : Ctx) : (s.setContext m c).pci = s.pci := rfl
@[simp] theorem State.setContext_sec (s : State) (m : Nat) (c : Ctx) : (s.setContext m c).sec = s.sec := rfl
@[simp] theorem State.setContext_bup (s : State) (m : Nat) (c : Ctx) : (s.setContext m c).bup = s.bup := rfl
@[simp] theorem State.setContext_xlt (s : State) (m : Nat) (c : Ctx) : (s.setContext m c).xlt = s.xlt := rfl
@[simp] theorem State.setContext_cel (s : State) (m : Nat) (c : Ctx) : (s.setContext m c).cel = s.cel := rfl
@[simp] theorem State.setContext_hbm (s : State) (m : Nat) (c : Ctx) : (s.setContext m c).hbm = s.hbm := rfl
@[simp] theorem State.setContext_plc (s : State) (m : Nat) (c : Ctx) : (s.setContext m c).plc = s.plc := rfl
@[simp] theorem State.setContext_ral (s : State) (m : Nat) (c : Ctx) : (s.setContext m c).ral = s.ral := rfl
@[simp] theorem State.setContext_pwr (s : State) (m : Nat) (c : Ctx) : (s.setContext m c).pwr = s.pwr := rfl
@[simp] theorem State.setContext_dbg (s : State) (m : Nat) (c : Ctx) : (s.setContext m c).dbg = s.dbg := rfl
@[simp] theorem State.setContext_out (s : State) (m : Nat) (c : Ctx) : (s.setContext m c).out = s.out := rfl
@[simp] theorem State.setContext_free (s : State) (m : Nat) (c : Ctx) : (s.setContext m c).free = s.free := rfl
@[simp] theorem State.setContext_pending (s : State) (m : Nat) (c : Ctx) : (s.setContext m c).pending = s.pending := rfl

/-! `State.setBar` -/

@[simp] theorem State.setBar_regs (s : State) (k : Nat) (b : Bar) : (s.setBar k b).regs = s.regs := rfl
@[simp] theorem State.setBar_fns (s : State) (k : Nat) (b : Bar) : (s.setBar k b).fns = s.fns := rfl
@[simp] theorem State.setBar_pci (s : State) (k : Nat) (b : Bar) : (s.setBar k b).pci = s.pci := rfl
@[simp] theorem State.setBar_sec (s : State) (k : Nat) (b : Bar) : (s.setBar k b).sec = s.sec := rfl
@[simp] theorem State.setBar_bup (s : State) (k : Nat) (b : Bar) : (s.setBar k b).bup = s.bup := rfl
@[simp] theorem State.setBar_xlt (s : State) (k : Nat) (b : Bar) : (s.setBar k b).xlt = s.xlt := rfl
@[simp] theorem State.setBar_cel (s : State) (k : Nat) (b : Bar) : (s.setBar k b).cel = s.cel := rfl
@[simp] theorem State.setBar_hbm (s : State) (k : Nat) (b : Bar) : (s.setBar k b).hbm = s.hbm := rfl
@[simp] theorem State.setBar_plc (s : State) (k : Nat) (b : Bar) : (s.setBar k b).plc = s.plc := rfl
@[simp] theorem State.setBar_ral (s : State) (k : Nat) (b : Bar) : (s.setBar k b).ral = s.ral := rfl
@[simp] theorem State.setBar_pwr (s : State) (k : Nat) (b : Bar) : (s.setBar k b).pwr = s.pwr := rfl
@[simp] theorem State.setBar_dbg (s : State) (k : Nat) (b : Bar) : (s.setBar k b).dbg = s.dbg := rfl
@[simp] theorem State.setBar_out (s : State) (k : Nat) (b : Bar) : (s.setBar k b).out = s.out := rfl
@[simp] theorem State.setBar_free (s : State) (k : Nat) (b : Bar) : (s.setBar k b).free = s.free := rfl
@[simp] theorem State.setBar_pending (s : State) (k : Nat) (b : Bar) : (s.setBar k b).pending = s.pending := rfl

/-! `State.setOpq` -/

@[simp] theorem State.setOpq_regs (s : State) (q : Nat) (l : List Tile) : (s.setOpq q l).regs = s.regs := rfl
@[simp] theorem State.setOpq_fns (s : State) (q : Nat) (l : List Tile) : (s.setOpq q l).fns = s.fns := rfl
@[simp] theorem State.setOpq_pci (s : State) (q : Nat) (l : List Tile) : (s.setOpq q l).pci = s.pci := rfl
@[simp] theorem State.setOpq_sec (s : State) (q : Nat) (l : List Tile) : (s.setOpq q l).sec = s.sec := rfl
@[simp] theorem State.setOpq_bup (s : State) (q : Nat) (l : List Tile) : (s.setOpq q l).bup = s.bup := rfl
@[simp] theorem State.setOpq_xlt (s : State) (q : Nat) (l : List Tile) : (s.setOpq q l).xlt = s.xlt := rfl
@[simp] theorem State.setOpq_cel (s : State) (q : Nat) (l : List Tile) : (s.setOpq q l).cel = s.cel := rfl
@[simp] theorem State.setOpq_hbm (s : State) (q : Nat) (l : List Tile) : (s.setOpq q l).hbm = s.hbm := rfl
@[simp] theorem State.setOpq_plc (s : State) (q : Nat) (l : List Tile) : (s.setOpq q l).plc = s.plc := rfl
@[simp] theorem State.setOpq_ral (s : State) (q : Nat) (l : List Tile) : (s.setOpq q l).ral = s.ral := rfl
@[simp] theorem State.setOpq_pwr (s : State) (q : Nat) (l : List Tile) : (s.setOpq q l).pwr = s.pwr := rfl
@[simp] theorem State.setOpq_dbg (s : State) (q : Nat) (l : List Tile) : (s.setOpq q l).dbg = s.dbg := rfl
@[simp] theorem State.setOpq_out (s : State) (q : Nat) (l : List Tile) : (s.setOpq q l).out = s.out := rfl
@[simp] theorem State.setOpq_free (s : State) (q : Nat) (l : List Tile) : (s.setOpq q l).free = s.free := rfl
@[simp] theorem State.setOpq_pending (s : State) (q : Nat) (l : List Tile) : (s.setOpq q l).pending = s.pending := rfl

/-! `State.setCmdq` -/

@[simp] theorem State.setCmdq_regs (s : State) (m : Nat) (x : CmdQ) : (s.setCmdq m x).regs = s.regs := rfl
@[simp] theorem State.setCmdq_fns (s : State) (m : Nat) (x : CmdQ) : (s.setCmdq m x).fns = s.fns := rfl
@[simp] theorem State.setCmdq_pci (s : State) (m : Nat) (x : CmdQ) : (s.setCmdq m x).pci = s.pci := rfl
@[simp] theorem State.setCmdq_sec (s : State) (m : Nat) (x : CmdQ) : (s.setCmdq m x).sec = s.sec := rfl
@[simp] theorem State.setCmdq_bup (s : State) (m : Nat) (x : CmdQ) : (s.setCmdq m x).bup = s.bup := rfl
@[simp] theorem State.setCmdq_cmp (s : State) (m : Nat) (x : CmdQ) : (s.setCmdq m x).cmp = s.cmp := rfl
@[simp] theorem State.setCmdq_cel (s : State) (m : Nat) (x : CmdQ) : (s.setCmdq m x).cel = s.cel := rfl
@[simp] theorem State.setCmdq_hbm (s : State) (m : Nat) (x : CmdQ) : (s.setCmdq m x).hbm = s.hbm := rfl
@[simp] theorem State.setCmdq_plc (s : State) (m : Nat) (x : CmdQ) : (s.setCmdq m x).plc = s.plc := rfl
@[simp] theorem State.setCmdq_ral (s : State) (m : Nat) (x : CmdQ) : (s.setCmdq m x).ral = s.ral := rfl
@[simp] theorem State.setCmdq_pwr (s : State) (m : Nat) (x : CmdQ) : (s.setCmdq m x).pwr = s.pwr := rfl
@[simp] theorem State.setCmdq_dbg (s : State) (m : Nat) (x : CmdQ) : (s.setCmdq m x).dbg = s.dbg := rfl
@[simp] theorem State.setCmdq_out (s : State) (m : Nat) (x : CmdQ) : (s.setCmdq m x).out = s.out := rfl
@[simp] theorem State.setCmdq_free (s : State) (m : Nat) (x : CmdQ) : (s.setCmdq m x).free = s.free := rfl
@[simp] theorem State.setCmdq_pending (s : State) (m : Nat) (x : CmdQ) : (s.setCmdq m x).pending = s.pending := rfl

/-! What an update writes is what is read afterwards. -/

@[simp] theorem State.thread_setThread (s : State) (t k : Nat) (x : Thread) :
    (s.setThread t x).thread k = if k = t then some x else s.thread k := by
  simp [State.thread, State.setThread]

@[simp] theorem State.setThread_setThread (s : State) (t : Nat) (x y : Thread) :
    (s.setThread t x).setThread t y = s.setThread t y := by
  simp [State.setThread]

@[simp] theorem State.context_setContext (s : State) (m k : Nat) (c : Ctx) :
    (s.setContext m c).context k = if k = m then c else s.context k := by
  simp [State.context, State.setContext]

@[simp] theorem State.bar_setBar (s : State) (k j : Nat) (b : Bar) :
    (s.setBar k b).bar j = if j = k then b else s.bar j := by
  simp [State.bar, State.setBar]

@[simp] theorem State.slice_setSlice (s : State) (n k : Nat) (x : Slice) :
    (s.setSlice n x).slice k = if k = n then x else s.slice k := by
  by_cases h : k = n
  · subst h; simp [State.slice, State.setSlice]
  · simp [State.slice, State.setSlice, smGetD_eq, smGet_smPut, h]

@[simp] theorem State.l1_setL1 (s : State) (c k : Nat) (l : List L1Line) :
    (s.setL1 c l).l1 k = if k = c then l else s.l1 k := by
  simp [State.l1, State.setL1]

@[simp] theorem State.fn_setFn (s : State) (f : Fn) (c : FnCfg) : (s.setFn f c).fn f = c := by
  simp [State.fn, State.setFn]

end Sys2Proof.Machine
end

