-- ==== Sys2Proof/Laws/Memory.lean ====
section
/-! SUPPORT. The two memories of the block, the HBM tier and the cellar: what a read gives after a write, and that every
operation that writes them keeps their canonical form. -/

namespace Sys2Proof.Machine

open Sys2Proof

theorem memoryCanonical_reset : MemoryCanonical State.reset := by
  refine ⟨rfl, rfl, ?_⟩
  intro e he
  cases he

/-- A change elsewhere keeps the form. -/
theorem memoryCanonical_congr {s t : State} (h : MemoryCanonical s) (hb : t.hbm.blocks = s.hbm.blocks)
    (hf : t.cel.frames = s.cel.frames) : MemoryCanonical t := by
  unfold MemoryCanonical
  rw [hb, hf]
  exact h

/-! ### HBM blocks -/

theorem State.keyOf_congr {s t : State} (h : ∀ a, t.placeOf a = s.placeOf a) (a : Nat) : t.keyOf a = s.keyOf a := by
  simp [State.keyOf, h]

/-- A block reads as it was stored; every block at another place reads as before. -/
theorem State.block_putBlock (s : State) (a c : Nat) (b : Block) (h : ∀ x, (s.putBlock a b).placeOf x = s.placeOf x) :
    (s.putBlock a b).block c = if s.keyOf c = s.keyOf a then (if b = Block.blank a then Block.blank c else b)
      else s.block c := by
  simp only [State.block, State.keyOf_congr h]
  simp only [State.putBlock, smGetD_eq, smGet_smPut]
  split
  · split <;> rfl
  · rfl

theorem putBlock_canonical {s : State} (h : MemoryCanonical s) (a : Nat) (b : Block) :
    MemoryCanonical (s.putBlock a b) :=
  ⟨smWf_smPut h.1 _ _ _, h.2⟩

/-! ### Cellar frames -/

/-- The frame stored is read back, and every other frame is as it was. -/
theorem State.frame_putFrame (s : State) (n set way k : Nat) (f : Frame) :
    smGet (s.putFrame n set way f).cel.frames k =
      if k = frameKey n set way then (if f.lines = [] then none else some f) else smGet s.cel.frames k := by
  unfold State.putFrame
  simp only
  split <;> simp

theorem putFrame_canonical {s : State} (h : MemoryCanonical s) (n set way : Nat) (f : Frame) :
    MemoryCanonical (s.putFrame n set way f) := by
  obtain ⟨h1, h2, h3⟩ := h
  refine ⟨h1, ?_, ?_⟩
  · show smWf (if f.lines = [] then _ else _) = true
    split
    · exact smWf_smDel h2 _
    · exact smWf_smSet h2 _ _
  · intro e he
    change e ∈ (if f.lines = [] then _ else _) at he
    split at he
    · exact h3 e (List.mem_of_mem_filter he)
    · rcases mem_smSet he with rfl | he
      · assumption
      · exact h3 e he

/-- What a filter of every frame's lines leaves is canonical: a frame left without a line is not listed. -/
theorem framesFilter_canonical {m : SMap Frame} (h : smWf m = true) (p : Frame → LineEnt → Bool) :
    let r := m.filterMap (fun e =>
      let f : Frame := { e.2 with lines := e.2.lines.filter (p e.2) }
      if f.lines = [] then none else some (e.1, f))
    smWf r = true ∧ (∀ e ∈ r, e.2.lines ≠ []) ∧ ∀ e ∈ r, ∃ x ∈ m, x.1 = e.1 := by
  induction m with
  | nil => exact ⟨rfl, by simp, by simp⟩
  | cons a m ih =>
    obtain ⟨h1, h2⟩ := smWf_cons.1 h
    obtain ⟨i1, i2, i3⟩ := ih h1
    simp only [List.filterMap_cons]
    by_cases hl : a.2.lines.filter (p a.2) = []
    · simp only [hl, if_true]
      exact ⟨i1, i2, fun e he => by
        obtain ⟨x, hx, hk⟩ := i3 e he
        exact ⟨x, List.mem_cons_of_mem _ hx, hk⟩⟩
    · simp only [hl, if_false]
      refine ⟨smWf_cons.2 ⟨i1, fun e he => ?_⟩, fun e he => ?_, fun e he => ?_⟩
      · obtain ⟨x, hx, hk⟩ := i3 e he
        rw [← hk]
        exact h2 x hx
      · rcases List.mem_cons.1 he with rfl | he
        · exact hl
        · exact i2 e he
      · rcases List.mem_cons.1 he with rfl | he
        · exact ⟨a, List.mem_cons_self, rfl⟩
        · obtain ⟨x, hx, hk⟩ := i3 e he
          exact ⟨x, List.mem_cons_of_mem _ hx, hk⟩

theorem dropLines_canonical {s : State} (h : MemoryCanonical s) (base len : Nat) :
    MemoryCanonical (dropLines s base len) := by
  obtain ⟨r1, r2, _⟩ := framesFilter_canonical h.2.1 (fun f l =>
    !(let a := addrOf f.ch f.grp l.line
      decide (base ≤ a) && decide (a < base + len) && decide (l.st ≠ .filling)))
  exact ⟨h.1, r1, r2⟩

theorem clearBlocks_canonical {s : State} (h : MemoryCanonical s) (base len : Nat) (mac : Nat → Block → BitVec 56) :
    MemoryCanonical (clearBlocks s base len mac) :=
  foldS_keeps (P := MemoryCanonical) _ _ (fun _ _ hu => putBlock_canonical hu _ _) h

end Sys2Proof.Machine
end

