-- ==== Sys2Proof/Laws/PerInstr.lean ====
section
/-! SUPPORT. The family `roundTrip`, one lemma per command: the word of every well-formed thread instruction decodes to that
instruction, with every operand at every value that its field admits (R129 to R131). Commands that are no instruction have
no word. -/

namespace Sys2Proof.Machine

open Sys2Proof

theorem isaDecode_wordR (t : Nat) (r : ReadData) (op d a b fn : Nat) (ho : op < 64) (hd : d < 64) (ha : a < 64)
    (hb : b < 64) (hf : fn < 256) :
    isaDecode t r (wordR op d a b fn)
      = decodeMajor t r (op * 2 ^ 26 + d * 2 ^ 20 + a * 2 ^ 14 + b * 2 ^ 8 + fn) d a b fn op := by
  have e : (wordR op d a b fn).toNat = op * 2 ^ 26 + d * 2 ^ 20 + a * 2 ^ 14 + b * 2 ^ 8 + fn := by
    simp only [wordR, BitVec.toNat_ofNat]; omega
  have hs : (op * 2 ^ 26 + d * 2 ^ 20 + a * 2 ^ 14 + b * 2 ^ 8 + fn) / 2 ^ 20 % 64 = d ∧ (op * 2 ^ 26 + d * 2 ^ 20 + a * 2 ^ 14 + b * 2 ^ 8 + fn) / 2 ^ 14 % 64 = a ∧ (op * 2 ^ 26 + d * 2 ^ 20 + a * 2 ^ 14 + b * 2 ^ 8 + fn) / 2 ^ 8 % 64 = b ∧ (op * 2 ^ 26 + d * 2 ^ 20 + a * 2 ^ 14 + b * 2 ^ 8 + fn) % 256 = fn ∧ (op * 2 ^ 26 + d * 2 ^ 20 + a * 2 ^ 14 + b * 2 ^ 8 + fn) / 2 ^ 26 = op := by
    refine ⟨?_, ?_, ?_, ?_, ?_⟩ <;> omega
  simp only [isaDecode, e, hs]

theorem isaDecode_wordK (t : Nat) (r : ReadData) (op d a v : Nat) (ho : op < 64) (hd : d < 64) (ha : a < 64)
    (hv : v < 2 ^ 14) :
    isaDecode t r (wordK op d a v)
      = decodeMajor t r (op * 2 ^ 26 + d * 2 ^ 20 + a * 2 ^ 14 + v) d a (v / 2 ^ 8) (v % 256) op := by
  have e : (wordK op d a v).toNat = op * 2 ^ 26 + d * 2 ^ 20 + a * 2 ^ 14 + v := by
    simp only [wordK, BitVec.toNat_ofNat]; omega
  have hs : (op * 2 ^ 26 + d * 2 ^ 20 + a * 2 ^ 14 + v) / 2 ^ 20 % 64 = d ∧ (op * 2 ^ 26 + d * 2 ^ 20 + a * 2 ^ 14 + v) / 2 ^ 14 % 64 = a ∧ (op * 2 ^ 26 + d * 2 ^ 20 + a * 2 ^ 14 + v) / 2 ^ 8 % 64 = v / 2 ^ 8 ∧ (op * 2 ^ 26 + d * 2 ^ 20 + a * 2 ^ 14 + v) % 256 = v % 256 ∧ (op * 2 ^ 26 + d * 2 ^ 20 + a * 2 ^ 14 + v) / 2 ^ 26 = op := by
    refine ⟨?_, ?_, ?_, ?_, ?_⟩ <;> omega
  simp only [isaDecode, e, hs]

theorem isaDecode_wordL (t : Nat) (r : ReadData) (op d v : Nat) (ho : op < 64) (hd : d < 64) (hv : v < 2 ^ 20) :
    isaDecode t r (wordL op d v)
      = decodeMajor t r (op * 2 ^ 26 + d * 2 ^ 20 + v) d (v / 2 ^ 14) (v / 2 ^ 8 % 64) (v % 256) op := by
  have e : (wordL op d v).toNat = op * 2 ^ 26 + d * 2 ^ 20 + v := by
    simp only [wordL, BitVec.toNat_ofNat]; omega
  have hs : (op * 2 ^ 26 + d * 2 ^ 20 + v) / 2 ^ 20 % 64 = d ∧ (op * 2 ^ 26 + d * 2 ^ 20 + v) / 2 ^ 14 % 64 = v / 2 ^ 14 ∧ (op * 2 ^ 26 + d * 2 ^ 20 + v) / 2 ^ 8 % 64 = v / 2 ^ 8 % 64 ∧ (op * 2 ^ 26 + d * 2 ^ 20 + v) % 256 = v % 256 ∧ (op * 2 ^ 26 + d * 2 ^ 20 + v) / 2 ^ 26 = op := by
    refine ⟨?_, ?_, ?_, ?_, ?_⟩ <;> omega
  simp only [isaDecode, e, hs]

theorem isaDecode_wordJ (t : Nat) (r : ReadData) (op v : Nat) (ho : op < 64) (hv : v < 2 ^ 26) :
    isaDecode t r (wordJ op v)
      = decodeMajor t r (op * 2 ^ 26 + v) (v / 2 ^ 20) (v / 2 ^ 14 % 64) (v / 2 ^ 8 % 64) (v % 256) op := by
  have e : (wordJ op v).toNat = op * 2 ^ 26 + v := by simp only [wordJ, BitVec.toNat_ofNat]; omega
  have hs : (op * 2 ^ 26 + v) / 2 ^ 20 % 64 = v / 2 ^ 20 ∧ (op * 2 ^ 26 + v) / 2 ^ 14 % 64 = v / 2 ^ 14 % 64 ∧ (op * 2 ^ 26 + v) / 2 ^ 8 % 64 = v / 2 ^ 8 % 64 ∧ (op * 2 ^ 26 + v) % 256 = v % 256 ∧ (op * 2 ^ 26 + v) / 2 ^ 26 = op := by
    refine ⟨?_, ?_, ?_, ?_, ?_⟩ <;> omega
  simp only [isaDecode, e, hs]

theorem isaDecode_wordM (t : Nat) (r : ReadData) (op d a h v : Nat) (ho : op < 64) (hd : d < 64) (ha : a < 64)
    (hh : h < 4) (hv : v < 2 ^ 12) :
    isaDecode t r (wordM op d a h v) = decodeMajor t r (op * 2 ^ 26 + d * 2 ^ 20 + a * 2 ^ 14 + (h * 2 ^ 12 + v)) d a
      ((h * 2 ^ 12 + v) / 2 ^ 8) ((h * 2 ^ 12 + v) % 256) op := by
  have e : wordM op d a h v = wordK op d a (h * 2 ^ 12 + v) := by
    rw [wordM, show h % 4 * 2 ^ 12 + v % 2 ^ 12 = h * 2 ^ 12 + v by omega]
  rw [e]
  exact isaDecode_wordK t r op d a _ ho hd ha (by omega)

/-- The low bits of a word that ends in an immediate field are the field. -/
theorem imm_ofNat {w : Nat} (n : Nat) (v : BitVec w) (h : n % 2 ^ w = 0) : BitVec.ofNat w (n + v.toNat) = v := by
  apply BitVec.eq_of_toNat_eq
  have := v.isLt
  rw [BitVec.toNat_ofNat, Nat.add_mod, h, Nat.zero_add, Nat.mod_mod, Nat.mod_eq_of_lt this]

theorem hint_field (n h v : Nat) (hh : h < 4) (hv : v < 2 ^ 12) (hn : n % 2 ^ 14 = 0) :
    (n + (h * 2 ^ 12 + v)) / 2 ^ 12 % 4 = h := by omega

end Sys2Proof.Machine

namespace Sys2Proof.Laws

section

-- Many small theorems: checked one after another, so that few threads are needed.
set_option Elab.async false

open Sys2Proof Sys2Proof.Machine

/-- The word of a well-formed thread instruction decodes to it, at its own thread. -/
def roundTrip.Statement (i : Instr) : Prop :=
  i.wf = true → ∀ w, isaWord i = some w → isaDecode (slotOf i) (descOf i) w = some i

/-- A command without a word. -/
theorem roundTrip_of_none {i : Instr} (h : isaWord i = none) : roundTrip.Statement i := fun _ w hw => by
  rw [h] at hw; cases hw

theorem roundTrip.powerUp : roundTrip.Statement (.powerUp) := roundTrip_of_none rfl

theorem roundTrip.powerOff : roundTrip.Statement (.powerOff) := roundTrip_of_none rfl

theorem roundTrip.sysReset (low : Bool) : roundTrip.Statement (.sysReset low) := roundTrip_of_none rfl

theorem roundTrip.supplyFault : roundTrip.Statement (.supplyFault) := roundTrip_of_none rfl

theorem roundTrip.ownerElect : roundTrip.Statement (.ownerElect) := roundTrip_of_none rfl

theorem roundTrip.pcieLinkUp (port speed width : Nat) (flit : Bool) : roundTrip.Statement (.pcieLinkUp port speed width flit) := roundTrip_of_none rfl

theorem roundTrip.pcieLinkDown (port : Nat) : roundTrip.Statement (.pcieLinkDown port) := roundTrip_of_none rfl

theorem roundTrip.pciePortReset (port : Nat) (perst : Bool) : roundTrip.Statement (.pciePortReset port perst) := roundTrip_of_none rfl

theorem roundTrip.flr (f : Fn) : roundTrip.Statement (.flr f) := roundTrip_of_none rfl

theorem roundTrip.priReset (f : Fn) : roundTrip.Statement (.priReset f) := roundTrip_of_none rfl

theorem roundTrip.bar0BadAccess (f : Fn) (isRead : Bool) (off size : Nat) : roundTrip.Statement (.bar0BadAccess f isRead off size) := roundTrip_of_none rfl

theorem roundTrip.registerWrite (f : Fn) (tgt : RegTarget) (value hwSet : Word) : roundTrip.Statement (.registerWrite f tgt value hwSet) := roundTrip_of_none rfl

theorem roundTrip.bar2Read (f : Fn) (off len tag : Nat) : roundTrip.Statement (.bar2Read f off len tag) := roundTrip_of_none rfl

theorem roundTrip.bar2Write (f : Fn) (off : Nat) (bytes : List (Option Byte)) (ep : Bool) : roundTrip.Statement (.bar2Write f off bytes ep) := roundTrip_of_none rfl

theorem roundTrip.bar2Atomic (f : Fn) (tag : Nat) : roundTrip.Statement (.bar2Atomic f tag) := roundTrip_of_none rfl

theorem roundTrip.ideKm (f : Fn) (sess : Nat) (key : BitVec 256) : roundTrip.Statement (.ideKm f sess key) := roundTrip_of_none rfl

theorem roundTrip.ideInsecure (port : Nat) : roundTrip.Statement (.ideInsecure port) := roundTrip_of_none rfl

theorem roundTrip.doeOversize (f : Fn) (len : Nat) : roundTrip.Statement (.doeOversize f len) := roundTrip_of_none rfl

theorem roundTrip.i3cEntdaa (addr : BitVec 7) : roundTrip.Statement (.i3cEntdaa addr) := roundTrip_of_none rfl

theorem roundTrip.i3cRstdaa : roundTrip.Statement (.i3cRstdaa) := roundTrip_of_none rfl

theorem roundTrip.i3cGetpid : roundTrip.Statement (.i3cGetpid) := roundTrip_of_none rfl

theorem roundTrip.i3cGetbcr : roundTrip.Statement (.i3cGetbcr) := roundTrip_of_none rfl

theorem roundTrip.i3cGetdcr : roundTrip.Statement (.i3cGetdcr) := roundTrip_of_none rfl

theorem roundTrip.i3cGetstatus : roundTrip.Statement (.i3cGetstatus) := roundTrip_of_none rfl

theorem roundTrip.i3cPrivateWrite (bytes : List Byte) : roundTrip.Statement (.i3cPrivateWrite bytes) := roundTrip_of_none rfl

theorem roundTrip.i3cPrivateRead (words : Nat) : roundTrip.Statement (.i3cPrivateRead words) := roundTrip_of_none rfl

theorem roundTrip.getVersion (f : Fn) : roundTrip.Statement (.getVersion f) := roundTrip_of_none rfl

theorem roundTrip.getCapabilities (f : Fn) : roundTrip.Statement (.getCapabilities f) := roundTrip_of_none rfl

theorem roundTrip.negotiateAlgorithms (f : Fn) : roundTrip.Statement (.negotiateAlgorithms f) := roundTrip_of_none rfl

theorem roundTrip.challenge (f : Fn) (slotId : Nat) (nonce : BitVec 256) : roundTrip.Statement (.challenge f slotId nonce) := roundTrip_of_none rfl

theorem roundTrip.getMeasurements (f : Fn) (index : Nat) (sig : Bool) (nonce : BitVec 256) : roundTrip.Statement (.getMeasurements f index sig nonce) := roundTrip_of_none rfl

theorem roundTrip.keyExchange (f : Fn) (slotId : Nat) (exchange : List Byte) : roundTrip.Statement (.keyExchange f slotId exchange) := roundTrip_of_none rfl

theorem roundTrip.finish (f : Fn) (sess : Nat) (ok : Bool) : roundTrip.Statement (.finish f sess ok) := roundTrip_of_none rfl

theorem roundTrip.heartbeat (f : Fn) (sess : Nat) : roundTrip.Statement (.heartbeat f sess) := roundTrip_of_none rfl

theorem roundTrip.keyUpdate (f : Fn) (sess : Nat) : roundTrip.Statement (.keyUpdate f sess) := roundTrip_of_none rfl

theorem roundTrip.endSession (f : Fn) (sess : Nat) : roundTrip.Statement (.endSession f sess) := roundTrip_of_none rfl

theorem roundTrip.respondIfReady (f : Fn) : roundTrip.Statement (.respondIfReady f) := roundTrip_of_none rfl

theorem roundTrip.spdmUnsupported (f : Fn) (code : Nat) : roundTrip.Statement (.spdmUnsupported f code) := roundTrip_of_none rfl

theorem roundTrip.seal (f : Fn) (sess : Nat) (req : List Byte) : roundTrip.Statement (.seal f sess req) := roundTrip_of_none rfl

theorem roundTrip.sealComplete (p : Nat) : roundTrip.Statement (.sealComplete p) := roundTrip_of_none rfl

theorem roundTrip.rotate (f : Fn) (sess p : Nat) : roundTrip.Statement (.rotate f sess p) := roundTrip_of_none rfl

theorem roundTrip.erase (f : Fn) (sess p : Nat) : roundTrip.Statement (.erase f sess p) := roundTrip_of_none rfl

theorem roundTrip.debugkey (f : Fn) (sess p : Nat) : roundTrip.Statement (.debugkey f sess p) := roundTrip_of_none rfl

theorem roundTrip.partCtrlRotate (f : Fn) (p : Nat) : roundTrip.Statement (.partCtrlRotate f p) := roundTrip_of_none rfl

theorem roundTrip.partCtrlErase (f : Fn) (p : Nat) : roundTrip.Statement (.partCtrlErase f p) := roundTrip_of_none rfl

theorem roundTrip.partCtrlBadOp (f : Fn) (p op : Nat) : roundTrip.Statement (.partCtrlBadOp f p op) := roundTrip_of_none rfl

theorem roundTrip.secDeferredGo : roundTrip.Statement (.secDeferredGo) := roundTrip_of_none rfl

theorem roundTrip.eraseOverwriteStep (p : Nat) : roundTrip.Statement (.eraseOverwriteStep p) := roundTrip_of_none rfl

theorem roundTrip.importGo (f : Fn) (p : Nat) : roundTrip.Statement (.importGo f p) := roundTrip_of_none rfl

theorem roundTrip.importChunk (p : Nat) (chunk : ReadData) : roundTrip.Statement (.importChunk p chunk) := roundTrip_of_none rfl

theorem roundTrip.decantStep (p : Nat) (errs : List SymErr) : roundTrip.Statement (.decantStep p errs) := roundTrip_of_none rfl

theorem roundTrip.rngHealthFail : roundTrip.Statement (.rngHealthFail) := roundTrip_of_none rfl

theorem roundTrip.bupVintage (f : Fn) (copies : List (Word × Word × Word)) (pkg : ThermPkg) (diodes : List (Option Int)) : roundTrip.Statement (.bupVintage f copies pkg diodes) := roundTrip_of_none rfl

theorem roundTrip.bupClocksPower (f : Fn) : roundTrip.Statement (.bupClocksPower f) := roundTrip_of_none rfl

theorem roundTrip.bupVertical (f : Fn) (bad : List Word) : roundTrip.Statement (.bupVertical f bad) := roundTrip_of_none rfl

theorem roundTrip.bupTraining (f : Fn) (bad : List Word) : roundTrip.Statement (.bupTraining f bad) := roundTrip_of_none rfl

theorem roundTrip.bupMemoryTest (f : Fn) (quick : Bool) (bad : List Word) : roundTrip.Statement (.bupMemoryTest f quick bad) := roundTrip_of_none rfl

theorem roundTrip.bupCells (f : Fn) (quick : Bool) (bad : List Word) : roundTrip.Statement (.bupCells f quick bad) := roundTrip_of_none rfl

theorem roundTrip.bupReconciliation (f : Fn) : roundTrip.Statement (.bupReconciliation f) := roundTrip_of_none rfl

theorem roundTrip.bupBlendLoad (f : Fn) : roundTrip.Statement (.bupBlendLoad f) := roundTrip_of_none rfl

theorem roundTrip.bupSecurity (f : Fn) : roundTrip.Statement (.bupSecurity f) := roundTrip_of_none rfl

theorem roundTrip.bupEnable (f : Fn) : roundTrip.Statement (.bupEnable f) := roundTrip_of_none rfl

theorem roundTrip.bupStepInvalid (f : Fn) (step : Nat) (quick : Bool) : roundTrip.Statement (.bupStepInvalid f step quick) := roundTrip_of_none rfl

theorem roundTrip.bupStepEnd (cause : Nat) : roundTrip.Statement (.bupStepEnd cause) := roundTrip_of_none rfl

theorem roundTrip.borsumRegionStart (test region : Nat) : roundTrip.Statement (.borsumRegionStart test region) := roundTrip_of_none rfl

theorem roundTrip.computeReset (f : Fn) : roundTrip.Statement (.computeReset f) := roundTrip_of_none rfl

theorem roundTrip.cresetDeferredStart : roundTrip.Statement (.cresetDeferredStart) := roundTrip_of_none rfl

theorem roundTrip.computeResetDone : roundTrip.Statement (.computeResetDone) := roundTrip_of_none rfl

theorem roundTrip.inserviceTest : roundTrip.Statement (.inserviceTest) := roundTrip_of_none rfl

theorem roundTrip.inserviceTestDone (bad : List Nat) : roundTrip.Statement (.inserviceTestDone bad) := roundTrip_of_none rfl

theorem roundTrip.blendStage (f : Fn) : roundTrip.Statement (.blendStage f) := roundTrip_of_none rfl

theorem roundTrip.blendStageDone (img : Image) : roundTrip.Statement (.blendStageDone img) := roundTrip_of_none rfl

theorem roundTrip.blendLoadDone (img : Image) (sigOk : Bool) : roundTrip.Statement (.blendLoadDone img sigOk) := roundTrip_of_none rfl

theorem roundTrip.verticalCrcMismatch (iface bundle : Nat) (bumps : List Nat) : roundTrip.Statement (.verticalCrcMismatch iface bundle bumps) := roundTrip_of_none rfl

theorem roundTrip.verticalReplayEnd (iface bundle : Nat) : roundTrip.Statement (.verticalReplayEnd iface bundle) := roundTrip_of_none rfl

theorem roundTrip.powerViaOpen (iface idx : Nat) : roundTrip.Statement (.powerViaOpen iface idx) := roundTrip_of_none rfl

theorem roundTrip.distFetch (f : Fn) : roundTrip.Statement (.distFetch f) := roundTrip_of_none rfl

theorem roundTrip.distFetchDone (ok : Bool) : roundTrip.Statement (.distFetchDone ok) := roundTrip_of_none rfl

theorem roundTrip.cellLinkParityError (row col link : Nat) : roundTrip.Statement (.cellLinkParityError row col link) := roundTrip_of_none rfl

theorem roundTrip.cellRetireRequest (f : Fn) (bay cell : Nat) (hw : Bool) : roundTrip.Statement (.cellRetireRequest f bay cell hw) := roundTrip_of_none rfl

theorem roundTrip.illegalInstruction (t : Nat) (w : BitVec 32) : roundTrip.Statement (.illegalInstruction t w) := roundTrip_of_none rfl

theorem roundTrip.add (t d a b : Nat) : roundTrip.Statement (.add t d a b) := by
  intro hw w e
  have hw : (slotOk t && regOk d && regOk a && regOk b) = true := hw
  simp only [slotOk, regOk, Bool.and_eq_true, decide_eq_true_eq] at hw
  injection e with e
  subst e
  show isaDecode t ⟨[], false⟩ _ = _
  rw [isaDecode_wordR _ _ _ _ _ _ _ (by omega) (by omega) (by omega) (by omega) (by omega)]
  simp [decodeMajor, decodeInt]

theorem roundTrip.sub (t d a b : Nat) : roundTrip.Statement (.sub t d a b) := by
  intro hw w e
  have hw : (slotOk t && regOk d && regOk a && regOk b) = true := hw
  simp only [slotOk, regOk, Bool.and_eq_true, decide_eq_true_eq] at hw
  injection e with e
  subst e
  show isaDecode t ⟨[], false⟩ _ = _
  rw [isaDecode_wordR _ _ _ _ _ _ _ (by omega) (by omega) (by omega) (by omega) (by omega)]
  simp [decodeMajor, decodeInt]

theorem roundTrip.and (t d a b : Nat) : roundTrip.Statement (.and t d a b) := by
  intro hw w e
  have hw : (slotOk t && regOk d && regOk a && regOk b) = true := hw
  simp only [slotOk, regOk, Bool.and_eq_true, decide_eq_true_eq] at hw
  injection e with e
  subst e
  show isaDecode t ⟨[], false⟩ _ = _
  rw [isaDecode_wordR _ _ _ _ _ _ _ (by omega) (by omega) (by omega) (by omega) (by omega)]
  simp [decodeMajor, decodeInt]

theorem roundTrip.or (t d a b : Nat) : roundTrip.Statement (.or t d a b) := by
  intro hw w e
  have hw : (slotOk t && regOk d && regOk a && regOk b) = true := hw
  simp only [slotOk, regOk, Bool.and_eq_true, decide_eq_true_eq] at hw
  injection e with e
  subst e
  show isaDecode t ⟨[], false⟩ _ = _
  rw [isaDecode_wordR _ _ _ _ _ _ _ (by omega) (by omega) (by omega) (by omega) (by omega)]
  simp [decodeMajor, decodeInt]

theorem roundTrip.xor (t d a b : Nat) : roundTrip.Statement (.xor t d a b) := by
  intro hw w e
  have hw : (slotOk t && regOk d && regOk a && regOk b) = true := hw
  simp only [slotOk, regOk, Bool.and_eq_true, decide_eq_true_eq] at hw
  injection e with e
  subst e
  show isaDecode t ⟨[], false⟩ _ = _
  rw [isaDecode_wordR _ _ _ _ _ _ _ (by omega) (by omega) (by omega) (by omega) (by omega)]
  simp [decodeMajor, decodeInt]

theorem roundTrip.andn (t d a b : Nat) : roundTrip.Statement (.andn t d a b) := by
  intro hw w e
  have hw : (slotOk t && regOk d && regOk a && regOk b) = true := hw
  simp only [slotOk, regOk, Bool.and_eq_true, decide_eq_true_eq] at hw
  injection e with e
  subst e
  show isaDecode t ⟨[], false⟩ _ = _
  rw [isaDecode_wordR _ _ _ _ _ _ _ (by omega) (by omega) (by omega) (by omega) (by omega)]
  simp [decodeMajor, decodeInt]

theorem roundTrip.shl (t d a b : Nat) : roundTrip.Statement (.shl t d a b) := by
  intro hw w e
  have hw : (slotOk t && regOk d && regOk a && regOk b) = true := hw
  simp only [slotOk, regOk, Bool.and_eq_true, decide_eq_true_eq] at hw
  injection e with e
  subst e
  show isaDecode t ⟨[], false⟩ _ = _
  rw [isaDecode_wordR _ _ _ _ _ _ _ (by omega) (by omega) (by omega) (by omega) (by omega)]
  simp [decodeMajor, decodeInt]

theorem roundTrip.shr (t d a b : Nat) : roundTrip.Statement (.shr t d a b) := by
  intro hw w e
  have hw : (slotOk t && regOk d && regOk a && regOk b) = true := hw
  simp only [slotOk, regOk, Bool.and_eq_true, decide_eq_true_eq] at hw
  injection e with e
  subst e
  show isaDecode t ⟨[], false⟩ _ = _
  rw [isaDecode_wordR _ _ _ _ _ _ _ (by omega) (by omega) (by omega) (by omega) (by omega)]
  simp [decodeMajor, decodeInt]

theorem roundTrip.sar (t d a b : Nat) : roundTrip.Statement (.sar t d a b) := by
  intro hw w e
  have hw : (slotOk t && regOk d && regOk a && regOk b) = true := hw
  simp only [slotOk, regOk, Bool.and_eq_true, decide_eq_true_eq] at hw
  injection e with e
  subst e
  show isaDecode t ⟨[], false⟩ _ = _
  rw [isaDecode_wordR _ _ _ _ _ _ _ (by omega) (by omega) (by omega) (by omega) (by omega)]
  simp [decodeMajor, decodeInt]

theorem roundTrip.min (t d a b : Nat) : roundTrip.Statement (.min t d a b) := by
  intro hw w e
  have hw : (slotOk t && regOk d && regOk a && regOk b) = true := hw
  simp only [slotOk, regOk, Bool.and_eq_true, decide_eq_true_eq] at hw
  injection e with e
  subst e
  show isaDecode t ⟨[], false⟩ _ = _
  rw [isaDecode_wordR _ _ _ _ _ _ _ (by omega) (by omega) (by omega) (by omega) (by omega)]
  simp [decodeMajor, decodeInt]

theorem roundTrip.max (t d a b : Nat) : roundTrip.Statement (.max t d a b) := by
  intro hw w e
  have hw : (slotOk t && regOk d && regOk a && regOk b) = true := hw
  simp only [slotOk, regOk, Bool.and_eq_true, decide_eq_true_eq] at hw
  injection e with e
  subst e
  show isaDecode t ⟨[], false⟩ _ = _
  rw [isaDecode_wordR _ _ _ _ _ _ _ (by omega) (by omega) (by omega) (by omega) (by omega)]
  simp [decodeMajor, decodeInt]

theorem roundTrip.minu (t d a b : Nat) : roundTrip.Statement (.minu t d a b) := by
  intro hw w e
  have hw : (slotOk t && regOk d && regOk a && regOk b) = true := hw
  simp only [slotOk, regOk, Bool.and_eq_true, decide_eq_true_eq] at hw
  injection e with e
  subst e
  show isaDecode t ⟨[], false⟩ _ = _
  rw [isaDecode_wordR _ _ _ _ _ _ _ (by omega) (by omega) (by omega) (by omega) (by omega)]
  simp [decodeMajor, decodeInt]

theorem roundTrip.maxu (t d a b : Nat) : roundTrip.Statement (.maxu t d a b) := by
  intro hw w e
  have hw : (slotOk t && regOk d && regOk a && regOk b) = true := hw
  simp only [slotOk, regOk, Bool.and_eq_true, decide_eq_true_eq] at hw
  injection e with e
  subst e
  show isaDecode t ⟨[], false⟩ _ = _
  rw [isaDecode_wordR _ _ _ _ _ _ _ (by omega) (by omega) (by omega) (by omega) (by omega)]
  simp [decodeMajor, decodeInt]

theorem roundTrip.mul (t d a b : Nat) : roundTrip.Statement (.mul t d a b) := by
  intro hw w e
  have hw : (slotOk t && regOk d && regOk a && regOk b) = true := hw
  simp only [slotOk, regOk, Bool.and_eq_true, decide_eq_true_eq] at hw
  injection e with e
  subst e
  show isaDecode t ⟨[], false⟩ _ = _
  rw [isaDecode_wordR _ _ _ _ _ _ _ (by omega) (by omega) (by omega) (by omega) (by omega)]
  simp [decodeMajor, decodeInt]

theorem roundTrip.mulhs (t d a b : Nat) : roundTrip.Statement (.mulhs t d a b) := by
  intro hw w e
  have hw : (slotOk t && regOk d && regOk a && regOk b) = true := hw
  simp only [slotOk, regOk, Bool.and_eq_true, decide_eq_true_eq] at hw
  injection e with e
  subst e
  show isaDecode t ⟨[], false⟩ _ = _
  rw [isaDecode_wordR _ _ _ _ _ _ _ (by omega) (by omega) (by omega) (by omega) (by omega)]
  simp [decodeMajor, decodeInt]

theorem roundTrip.mulhu (t d a b : Nat) : roundTrip.Statement (.mulhu t d a b) := by
  intro hw w e
  have hw : (slotOk t && regOk d && regOk a && regOk b) = true := hw
  simp only [slotOk, regOk, Bool.and_eq_true, decide_eq_true_eq] at hw
  injection e with e
  subst e
  show isaDecode t ⟨[], false⟩ _ = _
  rw [isaDecode_wordR _ _ _ _ _ _ _ (by omega) (by omega) (by omega) (by omega) (by omega)]
  simp [decodeMajor, decodeInt]

theorem roundTrip.divs (t d a b : Nat) : roundTrip.Statement (.divs t d a b) := by
  intro hw w e
  have hw : (slotOk t && regOk d && regOk a && regOk b) = true := hw
  simp only [slotOk, regOk, Bool.and_eq_true, decide_eq_true_eq] at hw
  injection e with e
  subst e
  show isaDecode t ⟨[], false⟩ _ = _
  rw [isaDecode_wordR _ _ _ _ _ _ _ (by omega) (by omega) (by omega) (by omega) (by omega)]
  simp [decodeMajor, decodeInt]

theorem roundTrip.divu (t d a b : Nat) : roundTrip.Statement (.divu t d a b) := by
  intro hw w e
  have hw : (slotOk t && regOk d && regOk a && regOk b) = true := hw
  simp only [slotOk, regOk, Bool.and_eq_true, decide_eq_true_eq] at hw
  injection e with e
  subst e
  show isaDecode t ⟨[], false⟩ _ = _
  rw [isaDecode_wordR _ _ _ _ _ _ _ (by omega) (by omega) (by omega) (by omega) (by omega)]
  simp [decodeMajor, decodeInt]

theorem roundTrip.rmds (t d a b : Nat) : roundTrip.Statement (.rmds t d a b) := by
  intro hw w e
  have hw : (slotOk t && regOk d && regOk a && regOk b) = true := hw
  simp only [slotOk, regOk, Bool.and_eq_true, decide_eq_true_eq] at hw
  injection e with e
  subst e
  show isaDecode t ⟨[], false⟩ _ = _
  rw [isaDecode_wordR _ _ _ _ _ _ _ (by omega) (by omega) (by omega) (by omega) (by omega)]
  simp [decodeMajor, decodeInt]

theorem roundTrip.rmdu (t d a b : Nat) : roundTrip.Statement (.rmdu t d a b) := by
  intro hw w e
  have hw : (slotOk t && regOk d && regOk a && regOk b) = true := hw
  simp only [slotOk, regOk, Bool.and_eq_true, decide_eq_true_eq] at hw
  injection e with e
  subst e
  show isaDecode t ⟨[], false⟩ _ = _
  rw [isaDecode_wordR _ _ _ _ _ _ _ (by omega) (by omega) (by omega) (by omega) (by omega)]
  simp [decodeMajor, decodeInt]

theorem roundTrip.clz (t d a : Nat) : roundTrip.Statement (.clz t d a) := by
  intro hw w e
  have hw : (slotOk t && regOk d && regOk a) = true := hw
  simp only [slotOk, regOk, Bool.and_eq_true, decide_eq_true_eq] at hw
  injection e with e
  subst e
  show isaDecode t ⟨[], false⟩ _ = _
  rw [isaDecode_wordR _ _ _ _ _ _ _ (by omega) (by omega) (by omega) (by omega) (by omega)]
  simp [decodeMajor, decodeInt]

theorem roundTrip.ctz (t d a : Nat) : roundTrip.Statement (.ctz t d a) := by
  intro hw w e
  have hw : (slotOk t && regOk d && regOk a) = true := hw
  simp only [slotOk, regOk, Bool.and_eq_true, decide_eq_true_eq] at hw
  injection e with e
  subst e
  show isaDecode t ⟨[], false⟩ _ = _
  rw [isaDecode_wordR _ _ _ _ _ _ _ (by omega) (by omega) (by omega) (by omega) (by omega)]
  simp [decodeMajor, decodeInt]

theorem roundTrip.popc (t d a : Nat) : roundTrip.Statement (.popc t d a) := by
  intro hw w e
  have hw : (slotOk t && regOk d && regOk a) = true := hw
  simp only [slotOk, regOk, Bool.and_eq_true, decide_eq_true_eq] at hw
  injection e with e
  subst e
  show isaDecode t ⟨[], false⟩ _ = _
  rw [isaDecode_wordR _ _ _ _ _ _ _ (by omega) (by omega) (by omega) (by omega) (by omega)]
  simp [decodeMajor, decodeInt]

theorem roundTrip.sel (t d a b : Nat) : roundTrip.Statement (.sel t d a b) := by
  intro hw w e
  have hw : (slotOk t && regOk d && regOk a && regOk b) = true := hw
  simp only [slotOk, regOk, Bool.and_eq_true, decide_eq_true_eq] at hw
  injection e with e
  subst e
  show isaDecode t ⟨[], false⟩ _ = _
  rw [isaDecode_wordR _ _ _ _ _ _ _ (by omega) (by omega) (by omega) (by omega) (by omega)]
  simp [decodeMajor, decodeInt]

theorem roundTrip.fadd (t fmt d a b : Nat) : roundTrip.Statement (.fadd t fmt d a b) := by
  intro hw w e
  have hw : (slotOk t && fmt < 3 && regOk d && regOk a && regOk b) = true := hw
  simp only [slotOk, regOk, Bool.and_eq_true, decide_eq_true_eq] at hw
  injection e with e
  subst e
  show isaDecode t ⟨[], false⟩ _ = _
  rw [isaDecode_wordR _ _ _ _ _ _ _ (by omega) (by omega) (by omega) (by omega) (by omega)]
  simp [decodeMajor, decodeFp]
  omega

theorem roundTrip.fsub (t fmt d a b : Nat) : roundTrip.Statement (.fsub t fmt d a b) := by
  intro hw w e
  have hw : (slotOk t && fmt < 3 && regOk d && regOk a && regOk b) = true := hw
  simp only [slotOk, regOk, Bool.and_eq_true, decide_eq_true_eq] at hw
  injection e with e
  subst e
  show isaDecode t ⟨[], false⟩ _ = _
  rw [isaDecode_wordR _ _ _ _ _ _ _ (by omega) (by omega) (by omega) (by omega) (by omega)]
  simp [decodeMajor, decodeFp]
  omega

theorem roundTrip.fmul (t fmt d a b : Nat) : roundTrip.Statement (.fmul t fmt d a b) := by
  intro hw w e
  have hw : (slotOk t && fmt < 3 && regOk d && regOk a && regOk b) = true := hw
  simp only [slotOk, regOk, Bool.and_eq_true, decide_eq_true_eq] at hw
  injection e with e
  subst e
  show isaDecode t ⟨[], false⟩ _ = _
  rw [isaDecode_wordR _ _ _ _ _ _ _ (by omega) (by omega) (by omega) (by omega) (by omega)]
  simp [decodeMajor, decodeFp]
  omega

theorem roundTrip.fmac (t fmt d a b : Nat) : roundTrip.Statement (.fmac t fmt d a b) := by
  intro hw w e
  have hw : (slotOk t && fmt < 3 && regOk d && regOk a && regOk b) = true := hw
  simp only [slotOk, regOk, Bool.and_eq_true, decide_eq_true_eq] at hw
  injection e with e
  subst e
  show isaDecode t ⟨[], false⟩ _ = _
  rw [isaDecode_wordR _ _ _ _ _ _ _ (by omega) (by omega) (by omega) (by omega) (by omega)]
  simp [decodeMajor, decodeFp]
  omega

theorem roundTrip.fmin (t fmt d a b : Nat) : roundTrip.Statement (.fmin t fmt d a b) := by
  intro hw w e
  have hw : (slotOk t && fmt < 3 && regOk d && regOk a && regOk b) = true := hw
  simp only [slotOk, regOk, Bool.and_eq_true, decide_eq_true_eq] at hw
  injection e with e
  subst e
  show isaDecode t ⟨[], false⟩ _ = _
  rw [isaDecode_wordR _ _ _ _ _ _ _ (by omega) (by omega) (by omega) (by omega) (by omega)]
  simp [decodeMajor, decodeFp]
  omega

theorem roundTrip.fmax (t fmt d a b : Nat) : roundTrip.Statement (.fmax t fmt d a b) := by
  intro hw w e
  have hw : (slotOk t && fmt < 3 && regOk d && regOk a && regOk b) = true := hw
  simp only [slotOk, regOk, Bool.and_eq_true, decide_eq_true_eq] at hw
  injection e with e
  subst e
  show isaDecode t ⟨[], false⟩ _ = _
  rw [isaDecode_wordR _ _ _ _ _ _ _ (by omega) (by omega) (by omega) (by omega) (by omega)]
  simp [decodeMajor, decodeFp]
  omega

theorem roundTrip.feq (t fmt d a b : Nat) : roundTrip.Statement (.feq t fmt d a b) := by
  intro hw w e
  have hw : (slotOk t && fmt < 3 && regOk d && regOk a && regOk b) = true := hw
  simp only [slotOk, regOk, Bool.and_eq_true, decide_eq_true_eq] at hw
  injection e with e
  subst e
  show isaDecode t ⟨[], false⟩ _ = _
  rw [isaDecode_wordR _ _ _ _ _ _ _ (by omega) (by omega) (by omega) (by omega) (by omega)]
  simp [decodeMajor, decodeFp]
  omega

theorem roundTrip.flt (t fmt d a b : Nat) : roundTrip.Statement (.flt t fmt d a b) := by
  intro hw w e
  have hw : (slotOk t && fmt < 3 && regOk d && regOk a && regOk b) = true := hw
  simp only [slotOk, regOk, Bool.and_eq_true, decide_eq_true_eq] at hw
  injection e with e
  subst e
  show isaDecode t ⟨[], false⟩ _ = _
  rw [isaDecode_wordR _ _ _ _ _ _ _ (by omega) (by omega) (by omega) (by omega) (by omega)]
  simp [decodeMajor, decodeFp]
  omega

theorem roundTrip.fle (t fmt d a b : Nat) : roundTrip.Statement (.fle t fmt d a b) := by
  intro hw w e
  have hw : (slotOk t && fmt < 3 && regOk d && regOk a && regOk b) = true := hw
  simp only [slotOk, regOk, Bool.and_eq_true, decide_eq_true_eq] at hw
  injection e with e
  subst e
  show isaDecode t ⟨[], false⟩ _ = _
  rw [isaDecode_wordR _ _ _ _ _ _ _ (by omega) (by omega) (by omega) (by omega) (by omega)]
  simp [decodeMajor, decodeFp]
  omega

theorem roundTrip.fabs (t fmt d a : Nat) : roundTrip.Statement (.fabs t fmt d a) := by
  intro hw w e
  have hw : (slotOk t && fmt < 3 && regOk d && regOk a) = true := hw
  simp only [slotOk, regOk, Bool.and_eq_true, decide_eq_true_eq] at hw
  injection e with e
  subst e
  show isaDecode t ⟨[], false⟩ _ = _
  rw [isaDecode_wordR _ _ _ _ _ _ _ (by omega) (by omega) (by omega) (by omega) (by omega)]
  simp [decodeMajor, decodeFp]
  omega

theorem roundTrip.fneg (t fmt d a : Nat) : roundTrip.Statement (.fneg t fmt d a) := by
  intro hw w e
  have hw : (slotOk t && fmt < 3 && regOk d && regOk a) = true := hw
  simp only [slotOk, regOk, Bool.and_eq_true, decide_eq_true_eq] at hw
  injection e with e
  subst e
  show isaDecode t ⟨[], false⟩ _ = _
  rw [isaDecode_wordR _ _ _ _ _ _ _ (by omega) (by omega) (by omega) (by omega) (by omega)]
  simp [decodeMajor, decodeFp]
  omega

theorem roundTrip.frcp (t fmt d a : Nat) : roundTrip.Statement (.frcp t fmt d a) := by
  intro hw w e
  have hw : (slotOk t && fmt < 3 && regOk d && regOk a) = true := hw
  simp only [slotOk, regOk, Bool.and_eq_true, decide_eq_true_eq] at hw
  injection e with e
  subst e
  show isaDecode t ⟨[], false⟩ _ = _
  rw [isaDecode_wordR _ _ _ _ _ _ _ (by omega) (by omega) (by omega) (by omega) (by omega)]
  simp [decodeMajor, decodeFp]
  omega

theorem roundTrip.frsq (t fmt d a : Nat) : roundTrip.Statement (.frsq t fmt d a) := by
  intro hw w e
  have hw : (slotOk t && fmt < 3 && regOk d && regOk a) = true := hw
  simp only [slotOk, regOk, Bool.and_eq_true, decide_eq_true_eq] at hw
  injection e with e
  subst e
  show isaDecode t ⟨[], false⟩ _ = _
  rw [isaDecode_wordR _ _ _ _ _ _ _ (by omega) (by omega) (by omega) (by omega) (by omega)]
  simp [decodeMajor, decodeFp]
  omega

theorem roundTrip.fexp2 (t fmt d a : Nat) : roundTrip.Statement (.fexp2 t fmt d a) := by
  intro hw w e
  have hw : (slotOk t && fmt < 3 && regOk d && regOk a) = true := hw
  simp only [slotOk, regOk, Bool.and_eq_true, decide_eq_true_eq] at hw
  injection e with e
  subst e
  show isaDecode t ⟨[], false⟩ _ = _
  rw [isaDecode_wordR _ _ _ _ _ _ _ (by omega) (by omega) (by omega) (by omega) (by omega)]
  simp [decodeMajor, decodeFp]
  omega

theorem roundTrip.flog2 (t fmt d a : Nat) : roundTrip.Statement (.flog2 t fmt d a) := by
  intro hw w e
  have hw : (slotOk t && fmt < 3 && regOk d && regOk a) = true := hw
  simp only [slotOk, regOk, Bool.and_eq_true, decide_eq_true_eq] at hw
  injection e with e
  subst e
  show isaDecode t ⟨[], false⟩ _ = _
  rw [isaDecode_wordR _ _ _ _ _ _ _ (by omega) (by omega) (by omega) (by omega) (by omega)]
  simp [decodeMajor, decodeFp]
  omega

theorem roundTrip.cvt (t d a src target : Nat) (sat : Bool) : roundTrip.Statement (.cvt t d a src target sat) := by
  intro hw w e
  have hw : (slotOk t && regOk d && regOk a && fmtOk src && fmtOk target) = true := hw
  simp only [slotOk, regOk, fmtOk, Bool.and_eq_true, Bool.or_eq_true, decide_eq_true_eq] at hw
  injection e with e
  subst e
  show isaDecode t ⟨[], false⟩ _ = _
  have hb : b2n sat ≤ 1 := by cases sat <;> decide
  rw [isaDecode_wordR _ _ _ _ _ _ _ (by omega) (by omega) (by omega) (by omega) (by omega)]
  cases sat
  all_goals simp [decodeMajor, b2n]
  all_goals omega

theorem roundTrip.cmp (t cond d a b : Nat) : roundTrip.Statement (.cmp t cond d a b) := by
  intro hw w e
  have hw : (slotOk t && cond < 6 && regOk d && regOk a && regOk b) = true := hw
  simp only [slotOk, regOk, Bool.and_eq_true, decide_eq_true_eq] at hw
  injection e with e
  subst e
  show isaDecode t ⟨[], false⟩ _ = _
  rw [isaDecode_wordR _ _ _ _ _ _ _ (by omega) (by omega) (by omega) (by omega) (by omega)]
  simp [decodeMajor]
  omega

theorem roundTrip.addk (t d a : Nat) (imm : BitVec 14) : roundTrip.Statement (.addk t d a imm) := by
  intro hw w e
  have hw : (slotOk t && regOk d && regOk a) = true := hw
  simp only [slotOk, regOk, Bool.and_eq_true, decide_eq_true_eq] at hw
  injection e with e
  subst e
  show isaDecode t ⟨[], false⟩ _ = _
  have hi := imm.isLt
  rw [isaDecode_wordK _ _ _ _ _ _ (by omega) (by omega) (by omega) (by omega)]
  simp [decodeMajor]
  apply BitVec.eq_of_toNat_eq
  rw [BitVec.toNat_ofNat]
  omega

theorem roundTrip.andk (t d a : Nat) (imm : BitVec 14) : roundTrip.Statement (.andk t d a imm) := by
  intro hw w e
  have hw : (slotOk t && regOk d && regOk a) = true := hw
  simp only [slotOk, regOk, Bool.and_eq_true, decide_eq_true_eq] at hw
  injection e with e
  subst e
  show isaDecode t ⟨[], false⟩ _ = _
  have hi := imm.isLt
  rw [isaDecode_wordK _ _ _ _ _ _ (by omega) (by omega) (by omega) (by omega)]
  simp [decodeMajor]
  apply BitVec.eq_of_toNat_eq
  rw [BitVec.toNat_ofNat]
  omega

theorem roundTrip.ork (t d a : Nat) (imm : BitVec 14) : roundTrip.Statement (.ork t d a imm) := by
  intro hw w e
  have hw : (slotOk t && regOk d && regOk a) = true := hw
  simp only [slotOk, regOk, Bool.and_eq_true, decide_eq_true_eq] at hw
  injection e with e
  subst e
  show isaDecode t ⟨[], false⟩ _ = _
  have hi := imm.isLt
  rw [isaDecode_wordK _ _ _ _ _ _ (by omega) (by omega) (by omega) (by omega)]
  simp [decodeMajor]
  apply BitVec.eq_of_toNat_eq
  rw [BitVec.toNat_ofNat]
  omega

theorem roundTrip.xork (t d a : Nat) (imm : BitVec 14) : roundTrip.Statement (.xork t d a imm) := by
  intro hw w e
  have hw : (slotOk t && regOk d && regOk a) = true := hw
  simp only [slotOk, regOk, Bool.and_eq_true, decide_eq_true_eq] at hw
  injection e with e
  subst e
  show isaDecode t ⟨[], false⟩ _ = _
  have hi := imm.isLt
  rw [isaDecode_wordK _ _ _ _ _ _ (by omega) (by omega) (by omega) (by omega)]
  simp [decodeMajor]
  apply BitVec.eq_of_toNat_eq
  rw [BitVec.toNat_ofNat]
  omega

theorem roundTrip.cmpkLt (t d a : Nat) (imm : BitVec 14) : roundTrip.Statement (.cmpkLt t d a imm) := by
  intro hw w e
  have hw : (slotOk t && regOk d && regOk a) = true := hw
  simp only [slotOk, regOk, Bool.and_eq_true, decide_eq_true_eq] at hw
  injection e with e
  subst e
  show isaDecode t ⟨[], false⟩ _ = _
  have hi := imm.isLt
  rw [isaDecode_wordK _ _ _ _ _ _ (by omega) (by omega) (by omega) (by omega)]
  simp [decodeMajor]
  apply BitVec.eq_of_toNat_eq
  rw [BitVec.toNat_ofNat]
  omega

theorem roundTrip.cmpkUlt (t d a : Nat) (imm : BitVec 14) : roundTrip.Statement (.cmpkUlt t d a imm) := by
  intro hw w e
  have hw : (slotOk t && regOk d && regOk a) = true := hw
  simp only [slotOk, regOk, Bool.and_eq_true, decide_eq_true_eq] at hw
  injection e with e
  subst e
  show isaDecode t ⟨[], false⟩ _ = _
  have hi := imm.isLt
  rw [isaDecode_wordK _ _ _ _ _ _ (by omega) (by omega) (by omega) (by omega)]
  simp [decodeMajor]
  apply BitVec.eq_of_toNat_eq
  rw [BitVec.toNat_ofNat]
  omega

theorem roundTrip.shlk (t d a : Nat) (imm : BitVec 6) : roundTrip.Statement (.shlk t d a imm) := by
  intro hw w e
  have hw : (slotOk t && regOk d && regOk a) = true := hw
  simp only [slotOk, regOk, Bool.and_eq_true, decide_eq_true_eq] at hw
  injection e with e
  subst e
  show isaDecode t ⟨[], false⟩ _ = _
  have hi := imm.isLt
  rw [isaDecode_wordK _ _ _ _ _ _ (by omega) (by omega) (by omega) (by omega)]
  simp [decodeMajor, shiftImm]
  refine ⟨by omega, ?_⟩
  apply BitVec.eq_of_toNat_eq
  rw [BitVec.toNat_ofNat]
  omega

theorem roundTrip.shrk (t d a : Nat) (imm : BitVec 6) : roundTrip.Statement (.shrk t d a imm) := by
  intro hw w e
  have hw : (slotOk t && regOk d && regOk a) = true := hw
  simp only [slotOk, regOk, Bool.and_eq_true, decide_eq_true_eq] at hw
  injection e with e
  subst e
  show isaDecode t ⟨[], false⟩ _ = _
  have hi := imm.isLt
  rw [isaDecode_wordK _ _ _ _ _ _ (by omega) (by omega) (by omega) (by omega)]
  simp [decodeMajor, shiftImm]
  refine ⟨by omega, ?_⟩
  apply BitVec.eq_of_toNat_eq
  rw [BitVec.toNat_ofNat]
  omega

theorem roundTrip.sark (t d a : Nat) (imm : BitVec 6) : roundTrip.Statement (.sark t d a imm) := by
  intro hw w e
  have hw : (slotOk t && regOk d && regOk a) = true := hw
  simp only [slotOk, regOk, Bool.and_eq_true, decide_eq_true_eq] at hw
  injection e with e
  subst e
  show isaDecode t ⟨[], false⟩ _ = _
  have hi := imm.isLt
  rw [isaDecode_wordK _ _ _ _ _ _ (by omega) (by omega) (by omega) (by omega)]
  simp [decodeMajor, shiftImm]
  refine ⟨by omega, ?_⟩
  apply BitVec.eq_of_toNat_eq
  rw [BitVec.toNat_ofNat]
  omega

theorem roundTrip.seti (t d : Nat) (imm : BitVec 20) : roundTrip.Statement (.seti t d imm) := by
  intro hw w e
  have hw : (slotOk t && regOk d) = true := hw
  simp only [slotOk, regOk, Bool.and_eq_true, decide_eq_true_eq] at hw
  injection e with e
  subst e
  show isaDecode t ⟨[], false⟩ _ = _
  have hi := imm.isLt
  rw [isaDecode_wordL _ _ _ _ _ (by omega) (by omega) (by omega)]
  simp [decodeMajor]
  apply BitVec.eq_of_toNat_eq
  rw [BitVec.toNat_ofNat]
  omega

theorem roundTrip.shin (t d : Nat) (imm : BitVec 20) : roundTrip.Statement (.shin t d imm) := by
  intro hw w e
  have hw : (slotOk t && regOk d) = true := hw
  simp only [slotOk, regOk, Bool.and_eq_true, decide_eq_true_eq] at hw
  injection e with e
  subst e
  show isaDecode t ⟨[], false⟩ _ = _
  have hi := imm.isLt
  rw [isaDecode_wordL _ _ _ _ _ (by omega) (by omega) (by omega)]
  simp [decodeMajor]
  apply BitVec.eq_of_toNat_eq
  rw [BitVec.toNat_ofNat]
  omega

theorem roundTrip.pca (t d : Nat) (imm : BitVec 20) : roundTrip.Statement (.pca t d imm) := by
  intro hw w e
  have hw : (slotOk t && regOk d) = true := hw
  simp only [slotOk, regOk, Bool.and_eq_true, decide_eq_true_eq] at hw
  injection e with e
  subst e
  show isaDecode t ⟨[], false⟩ _ = _
  have hi := imm.isLt
  rw [isaDecode_wordL _ _ _ _ _ (by omega) (by omega) (by omega)]
  simp [decodeMajor]
  apply BitVec.eq_of_toNat_eq
  rw [BitVec.toNat_ofNat]
  omega

theorem roundTrip.cbrEq (t a b : Nat) (imm : BitVec 14) : roundTrip.Statement (.cbrEq t a b imm) := by
  intro hw w e
  have hw : (slotOk t && regOk a && regOk b) = true := hw
  simp only [slotOk, regOk, Bool.and_eq_true, decide_eq_true_eq] at hw
  injection e with e
  subst e
  show isaDecode t ⟨[], false⟩ _ = _
  have hi := imm.isLt
  rw [isaDecode_wordK _ _ _ _ _ _ (by omega) (by omega) (by omega) (by omega)]
  simp [decodeMajor]
  apply BitVec.eq_of_toNat_eq
  rw [BitVec.toNat_ofNat]
  omega

theorem roundTrip.cbrNe (t a b : Nat) (imm : BitVec 14) : roundTrip.Statement (.cbrNe t a b imm) := by
  intro hw w e
  have hw : (slotOk t && regOk a && regOk b) = true := hw
  simp only [slotOk, regOk, Bool.and_eq_true, decide_eq_true_eq] at hw
  injection e with e
  subst e
  show isaDecode t ⟨[], false⟩ _ = _
  have hi := imm.isLt
  rw [isaDecode_wordK _ _ _ _ _ _ (by omega) (by omega) (by omega) (by omega)]
  simp [decodeMajor]
  apply BitVec.eq_of_toNat_eq
  rw [BitVec.toNat_ofNat]
  omega

theorem roundTrip.cbrLt (t a b : Nat) (imm : BitVec 14) : roundTrip.Statement (.cbrLt t a b imm) := by
  intro hw w e
  have hw : (slotOk t && regOk a && regOk b) = true := hw
  simp only [slotOk, regOk, Bool.and_eq_true, decide_eq_true_eq] at hw
  injection e with e
  subst e
  show isaDecode t ⟨[], false⟩ _ = _
  have hi := imm.isLt
  rw [isaDecode_wordK _ _ _ _ _ _ (by omega) (by omega) (by omega) (by omega)]
  simp [decodeMajor]
  apply BitVec.eq_of_toNat_eq
  rw [BitVec.toNat_ofNat]
  omega

theorem roundTrip.cbrGe (t a b : Nat) (imm : BitVec 14) : roundTrip.Statement (.cbrGe t a b imm) := by
  intro hw w e
  have hw : (slotOk t && regOk a && regOk b) = true := hw
  simp only [slotOk, regOk, Bool.and_eq_true, decide_eq_true_eq] at hw
  injection e with e
  subst e
  show isaDecode t ⟨[], false⟩ _ = _
  have hi := imm.isLt
  rw [isaDecode_wordK _ _ _ _ _ _ (by omega) (by omega) (by omega) (by omega)]
  simp [decodeMajor]
  apply BitVec.eq_of_toNat_eq
  rw [BitVec.toNat_ofNat]
  omega

theorem roundTrip.cbrUlt (t a b : Nat) (imm : BitVec 14) : roundTrip.Statement (.cbrUlt t a b imm) := by
  intro hw w e
  have hw : (slotOk t && regOk a && regOk b) = true := hw
  simp only [slotOk, regOk, Bool.and_eq_true, decide_eq_true_eq] at hw
  injection e with e
  subst e
  show isaDecode t ⟨[], false⟩ _ = _
  have hi := imm.isLt
  rw [isaDecode_wordK _ _ _ _ _ _ (by omega) (by omega) (by omega) (by omega)]
  simp [decodeMajor]
  apply BitVec.eq_of_toNat_eq
  rw [BitVec.toNat_ofNat]
  omega

theorem roundTrip.cbrUge (t a b : Nat) (imm : BitVec 14) : roundTrip.Statement (.cbrUge t a b imm) := by
  intro hw w e
  have hw : (slotOk t && regOk a && regOk b) = true := hw
  simp only [slotOk, regOk, Bool.and_eq_true, decide_eq_true_eq] at hw
  injection e with e
  subst e
  show isaDecode t ⟨[], false⟩ _ = _
  have hi := imm.isLt
  rw [isaDecode_wordK _ _ _ _ _ _ (by omega) (by omega) (by omega) (by omega)]
  simp [decodeMajor]
  apply BitVec.eq_of_toNat_eq
  rw [BitVec.toNat_ofNat]
  omega

theorem roundTrip.jmp (t : Nat) (imm : BitVec 26) : roundTrip.Statement (.jmp t imm) := by
  intro hw w e
  have hw : (slotOk t) = true := hw
  simp only [slotOk, decide_eq_true_eq] at hw
  injection e with e
  subst e
  show isaDecode t ⟨[], false⟩ _ = _
  have hi := imm.isLt
  rw [isaDecode_wordJ _ _ _ _ (by omega) (by omega)]
  simp [decodeMajor]
  apply BitVec.eq_of_toNat_eq
  rw [BitVec.toNat_ofNat]
  omega

theorem roundTrip.call (t : Nat) (imm : BitVec 26) : roundTrip.Statement (.call t imm) := by
  intro hw w e
  have hw : (slotOk t) = true := hw
  simp only [slotOk, decide_eq_true_eq] at hw
  injection e with e
  subst e
  show isaDecode t ⟨[], false⟩ _ = _
  have hi := imm.isLt
  rw [isaDecode_wordJ _ _ _ _ (by omega) (by omega)]
  simp [decodeMajor]
  apply BitVec.eq_of_toNat_eq
  rw [BitVec.toNat_ofNat]
  omega

theorem roundTrip.jmpr (t a : Nat) (imm : BitVec 14) : roundTrip.Statement (.jmpr t a imm) := by
  intro hw w e
  have hw : (slotOk t && regOk a) = true := hw
  simp only [slotOk, regOk, Bool.and_eq_true, decide_eq_true_eq] at hw
  injection e with e
  subst e
  show isaDecode t ⟨[], false⟩ _ = _
  have hi := imm.isLt
  rw [isaDecode_wordK _ _ _ _ _ _ (by omega) (by omega) (by omega) (by omega)]
  simp [decodeMajor]
  apply BitVec.eq_of_toNat_eq
  rw [BitVec.toNat_ofNat]
  omega

theorem roundTrip.callr (t a : Nat) (imm : BitVec 14) : roundTrip.Statement (.callr t a imm) := by
  intro hw w e
  have hw : (slotOk t && regOk a) = true := hw
  simp only [slotOk, regOk, Bool.and_eq_true, decide_eq_true_eq] at hw
  injection e with e
  subst e
  show isaDecode t ⟨[], false⟩ _ = _
  have hi := imm.isLt
  rw [isaDecode_wordK _ _ _ _ _ _ (by omega) (by omega) (by omega) (by omega)]
  simp [decodeMajor]
  apply BitVec.eq_of_toNat_eq
  rw [BitVec.toNat_ofNat]
  omega

theorem roundTrip.ldl (t d : Nat) (imm : BitVec 20) : roundTrip.Statement (.ldl t d imm) := by
  intro hw w e
  have hw : (slotOk t && regOk d) = true := hw
  simp only [slotOk, regOk, Bool.and_eq_true, decide_eq_true_eq] at hw
  injection e with e
  subst e
  show isaDecode t ⟨[], false⟩ _ = _
  have hi := imm.isLt
  rw [isaDecode_wordL _ _ _ _ _ (by omega) (by omega) (by omega)]
  simp [decodeMajor]
  apply BitVec.eq_of_toNat_eq
  rw [BitVec.toNat_ofNat]
  omega

theorem roundTrip.ldu8 (t d a hint : Nat) (imm : BitVec 12) : roundTrip.Statement (.ldu8 t d a hint imm) := by
  intro hw w e
  have hw : (slotOk t && regOk d && regOk a && hint < 4) = true := hw
  simp only [slotOk, regOk, Bool.and_eq_true, decide_eq_true_eq] at hw
  injection e with e
  subst e
  show isaDecode t ⟨[], false⟩ _ = _
  have hi := imm.isLt
  rw [isaDecode_wordM _ _ _ _ _ _ _ (by omega) (by omega) (by omega) (by omega) (by omega)]
  simp [decodeMajor]
  refine ⟨by omega, ?_⟩
  apply BitVec.eq_of_toNat_eq
  rw [BitVec.toNat_ofNat]
  omega

theorem roundTrip.lds8 (t d a hint : Nat) (imm : BitVec 12) : roundTrip.Statement (.lds8 t d a hint imm) := by
  intro hw w e
  have hw : (slotOk t && regOk d && regOk a && hint < 4) = true := hw
  simp only [slotOk, regOk, Bool.and_eq_true, decide_eq_true_eq] at hw
  injection e with e
  subst e
  show isaDecode t ⟨[], false⟩ _ = _
  have hi := imm.isLt
  rw [isaDecode_wordM _ _ _ _ _ _ _ (by omega) (by omega) (by omega) (by omega) (by omega)]
  simp [decodeMajor]
  refine ⟨by omega, ?_⟩
  apply BitVec.eq_of_toNat_eq
  rw [BitVec.toNat_ofNat]
  omega

theorem roundTrip.ldu16 (t d a hint : Nat) (imm : BitVec 12) : roundTrip.Statement (.ldu16 t d a hint imm) := by
  intro hw w e
  have hw : (slotOk t && regOk d && regOk a && hint < 4) = true := hw
  simp only [slotOk, regOk, Bool.and_eq_true, decide_eq_true_eq] at hw
  injection e with e
  subst e
  show isaDecode t ⟨[], false⟩ _ = _
  have hi := imm.isLt
  rw [isaDecode_wordM _ _ _ _ _ _ _ (by omega) (by omega) (by omega) (by omega) (by omega)]
  simp [decodeMajor]
  refine ⟨by omega, ?_⟩
  apply BitVec.eq_of_toNat_eq
  rw [BitVec.toNat_ofNat]
  omega

theorem roundTrip.lds16 (t d a hint : Nat) (imm : BitVec 12) : roundTrip.Statement (.lds16 t d a hint imm) := by
  intro hw w e
  have hw : (slotOk t && regOk d && regOk a && hint < 4) = true := hw
  simp only [slotOk, regOk, Bool.and_eq_true, decide_eq_true_eq] at hw
  injection e with e
  subst e
  show isaDecode t ⟨[], false⟩ _ = _
  have hi := imm.isLt
  rw [isaDecode_wordM _ _ _ _ _ _ _ (by omega) (by omega) (by omega) (by omega) (by omega)]
  simp [decodeMajor]
  refine ⟨by omega, ?_⟩
  apply BitVec.eq_of_toNat_eq
  rw [BitVec.toNat_ofNat]
  omega

theorem roundTrip.ldu32 (t d a hint : Nat) (imm : BitVec 12) : roundTrip.Statement (.ldu32 t d a hint imm) := by
  intro hw w e
  have hw : (slotOk t && regOk d && regOk a && hint < 4) = true := hw
  simp only [slotOk, regOk, Bool.and_eq_true, decide_eq_true_eq] at hw
  injection e with e
  subst e
  show isaDecode t ⟨[], false⟩ _ = _
  have hi := imm.isLt
  rw [isaDecode_wordM _ _ _ _ _ _ _ (by omega) (by omega) (by omega) (by omega) (by omega)]
  simp [decodeMajor]
  refine ⟨by omega, ?_⟩
  apply BitVec.eq_of_toNat_eq
  rw [BitVec.toNat_ofNat]
  omega

theorem roundTrip.lds32 (t d a hint : Nat) (imm : BitVec 12) : roundTrip.Statement (.lds32 t d a hint imm) := by
  intro hw w e
  have hw : (slotOk t && regOk d && regOk a && hint < 4) = true := hw
  simp only [slotOk, regOk, Bool.and_eq_true, decide_eq_true_eq] at hw
  injection e with e
  subst e
  show isaDecode t ⟨[], false⟩ _ = _
  have hi := imm.isLt
  rw [isaDecode_wordM _ _ _ _ _ _ _ (by omega) (by omega) (by omega) (by omega) (by omega)]
  simp [decodeMajor]
  refine ⟨by omega, ?_⟩
  apply BitVec.eq_of_toNat_eq
  rw [BitVec.toNat_ofNat]
  omega

theorem roundTrip.ld64 (t d a hint : Nat) (imm : BitVec 12) : roundTrip.Statement (.ld64 t d a hint imm) := by
  intro hw w e
  have hw : (slotOk t && regOk d && regOk a && hint < 4) = true := hw
  simp only [slotOk, regOk, Bool.and_eq_true, decide_eq_true_eq] at hw
  injection e with e
  subst e
  show isaDecode t ⟨[], false⟩ _ = _
  have hi := imm.isLt
  rw [isaDecode_wordM _ _ _ _ _ _ _ (by omega) (by omega) (by omega) (by omega) (by omega)]
  simp [decodeMajor]
  refine ⟨by omega, ?_⟩
  apply BitVec.eq_of_toNat_eq
  rw [BitVec.toNat_ofNat]
  omega

theorem roundTrip.st8 (t v a hint : Nat) (imm : BitVec 12) : roundTrip.Statement (.st8 t v a hint imm) := by
  intro hw w e
  have hw : (slotOk t && regOk v && regOk a && hint < 3) = true := hw
  simp only [slotOk, regOk, Bool.and_eq_true, decide_eq_true_eq] at hw
  injection e with e
  subst e
  show isaDecode t ⟨[], false⟩ _ = _
  have hi := imm.isLt
  rw [isaDecode_wordM _ _ _ _ _ _ _ (by omega) (by omega) (by omega) (by omega) (by omega)]
  simp [decodeMajor]
  refine ⟨by omega, by omega, ?_⟩
  apply BitVec.eq_of_toNat_eq
  rw [BitVec.toNat_ofNat]
  omega

theorem roundTrip.st16 (t v a hint : Nat) (imm : BitVec 12) : roundTrip.Statement (.st16 t v a hint imm) := by
  intro hw w e
  have hw : (slotOk t && regOk v && regOk a && hint < 3) = true := hw
  simp only [slotOk, regOk, Bool.and_eq_true, decide_eq_true_eq] at hw
  injection e with e
  subst e
  show isaDecode t ⟨[], false⟩ _ = _
  have hi := imm.isLt
  rw [isaDecode_wordM _ _ _ _ _ _ _ (by omega) (by omega) (by omega) (by omega) (by omega)]
  simp [decodeMajor]
  refine ⟨by omega, by omega, ?_⟩
  apply BitVec.eq_of_toNat_eq
  rw [BitVec.toNat_ofNat]
  omega

theorem roundTrip.st32 (t v a hint : Nat) (imm : BitVec 12) : roundTrip.Statement (.st32 t v a hint imm) := by
  intro hw w e
  have hw : (slotOk t && regOk v && regOk a && hint < 3) = true := hw
  simp only [slotOk, regOk, Bool.and_eq_true, decide_eq_true_eq] at hw
  injection e with e
  subst e
  show isaDecode t ⟨[], false⟩ _ = _
  have hi := imm.isLt
  rw [isaDecode_wordM _ _ _ _ _ _ _ (by omega) (by omega) (by omega) (by omega) (by omega)]
  simp [decodeMajor]
  refine ⟨by omega, by omega, ?_⟩
  apply BitVec.eq_of_toNat_eq
  rw [BitVec.toNat_ofNat]
  omega

theorem roundTrip.st64 (t v a hint : Nat) (imm : BitVec 12) : roundTrip.Statement (.st64 t v a hint imm) := by
  intro hw w e
  have hw : (slotOk t && regOk v && regOk a && hint < 3) = true := hw
  simp only [slotOk, regOk, Bool.and_eq_true, decide_eq_true_eq] at hw
  injection e with e
  subst e
  show isaDecode t ⟨[], false⟩ _ = _
  have hi := imm.isLt
  rw [isaDecode_wordM _ _ _ _ _ _ _ (by omega) (by omega) (by omega) (by omega) (by omega)]
  simp [decodeMajor]
  refine ⟨by omega, by omega, ?_⟩
  apply BitVec.eq_of_toNat_eq
  rw [BitVec.toNat_ofNat]
  omega

theorem roundTrip.sacc (t op d a b : Nat) : roundTrip.Statement (.sacc t op d a b) := by
  intro hw w e
  have hw : (slotOk t && (1 ≤ op && op ≤ 6) && (regOk d && d % 4 = 0) && regOk a && regOk b) = true := hw
  simp only [slotOk, regOk, Bool.and_eq_true, decide_eq_true_eq] at hw
  injection e with e
  subst e
  show isaDecode t ⟨[], false⟩ _ = _
  rw [isaDecode_wordR _ _ _ _ _ _ _ (by omega) (by omega) (by omega) (by omega) (by omega)]
  simp [decodeMajor]
  omega

theorem roundTrip.pref (t d a hint : Nat) (imm : BitVec 12) : roundTrip.Statement (.pref t d a hint imm) := by
  intro hw w e
  have hw : (slotOk t && d ≤ 1 && regOk a && hint < 4) = true := hw
  simp only [slotOk, regOk, Bool.and_eq_true, decide_eq_true_eq] at hw
  injection e with e
  subst e
  show isaDecode t ⟨[], false⟩ _ = _
  have hi := imm.isLt
  rw [isaDecode_wordM _ _ _ _ _ _ _ (by omega) (by omega) (by omega) (by omega) (by omega)]
  simp [decodeMajor]
  refine ⟨by omega, by omega, ?_⟩
  apply BitVec.eq_of_toNat_eq
  rw [BitVec.toNat_ofNat]
  omega

theorem roundTrip.cinv (t a : Nat) (imm : BitVec 12) : roundTrip.Statement (.cinv t a imm) := by
  intro hw w e
  have hw : (slotOk t && regOk a) = true := hw
  simp only [slotOk, regOk, Bool.and_eq_true, decide_eq_true_eq] at hw
  injection e with e
  subst e
  show isaDecode t ⟨[], false⟩ _ = _
  have hi := imm.isLt
  rw [isaDecode_wordM _ _ _ _ _ _ _ (by omega) (by omega) (by omega) (by omega) (by omega)]
  simp [decodeMajor]
  refine ⟨by omega, ?_⟩
  apply BitVec.eq_of_toNat_eq
  rw [BitVec.toNat_ofNat]
  omega

theorem roundTrip.fenceRelease (t : Nat) : roundTrip.Statement (.fenceRelease t) := by
  intro hw w e
  have hw : (slotOk t) = true := hw
  simp only [slotOk, decide_eq_true_eq] at hw
  injection e with e
  subst e
  show isaDecode t ⟨[], false⟩ _ = _
  rw [isaDecode_wordR _ _ _ _ _ _ _ (by omega) (by omega) (by omega) (by omega) (by omega)]
  simp [decodeMajor, decodeFence]

theorem roundTrip.fenceAcquire (t : Nat) : roundTrip.Statement (.fenceAcquire t) := by
  intro hw w e
  have hw : (slotOk t) = true := hw
  simp only [slotOk, decide_eq_true_eq] at hw
  injection e with e
  subst e
  show isaDecode t ⟨[], false⟩ _ = _
  rw [isaDecode_wordR _ _ _ _ _ _ _ (by omega) (by omega) (by omega) (by omega) (by omega)]
  simp [decodeMajor, decodeFence]

theorem roundTrip.fenceFull (t : Nat) : roundTrip.Statement (.fenceFull t) := by
  intro hw w e
  have hw : (slotOk t) = true := hw
  simp only [slotOk, decide_eq_true_eq] at hw
  injection e with e
  subst e
  show isaDecode t ⟨[], false⟩ _ = _
  rw [isaDecode_wordR _ _ _ _ _ _ _ (by omega) (by omega) (by omega) (by omega) (by omega)]
  simp [decodeMajor, decodeFence]

theorem roundTrip.barrierInit (t scope d a ctr : Nat) : roundTrip.Statement (.barrierInit t scope d a ctr) := by
  intro hw w e
  have hw : (slotOk t && scope < 2 && regOk d && regOk a && ctr < 64) = true := hw
  simp only [slotOk, regOk, Bool.and_eq_true, decide_eq_true_eq] at hw
  injection e with e
  subst e
  show isaDecode t ⟨[], false⟩ _ = _
  rw [isaDecode_wordR _ _ _ _ _ _ _ (by omega) (by omega) (by omega) (by omega) (by omega)]
  obtain rfl | rfl : scope = 0 ∨ scope = 1 := by omega
  all_goals simp [decodeMajor, decodeBar]

theorem roundTrip.barrierArrive (t scope d ctr : Nat) : roundTrip.Statement (.barrierArrive t scope d ctr) := by
  intro hw w e
  have hw : (slotOk t && scope < 2 && regOk d && ctr < 64) = true := hw
  simp only [slotOk, regOk, Bool.and_eq_true, decide_eq_true_eq] at hw
  injection e with e
  subst e
  show isaDecode t ⟨[], false⟩ _ = _
  rw [isaDecode_wordR _ _ _ _ _ _ _ (by omega) (by omega) (by omega) (by omega) (by omega)]
  obtain rfl | rfl : scope = 0 ∨ scope = 1 := by omega
  all_goals simp [decodeMajor, decodeBar]

theorem roundTrip.barrierWait (t scope a ctr : Nat) : roundTrip.Statement (.barrierWait t scope a ctr) := by
  intro hw w e
  have hw : (slotOk t && scope < 2 && regOk a && ctr < 64) = true := hw
  simp only [slotOk, regOk, Bool.and_eq_true, decide_eq_true_eq] at hw
  injection e with e
  subst e
  show isaDecode t ⟨[], false⟩ _ = _
  rw [isaDecode_wordR _ _ _ _ _ _ _ (by omega) (by omega) (by omega) (by omega) (by omega)]
  obtain rfl | rfl : scope = 0 ∨ scope = 1 := by omega
  all_goals simp [decodeMajor, decodeBar]

theorem roundTrip.barrierQuery (t scope d ctr : Nat) : roundTrip.Statement (.barrierQuery t scope d ctr) := by
  intro hw w e
  have hw : (slotOk t && scope < 2 && regOk d && ctr < 64) = true := hw
  simp only [slotOk, regOk, Bool.and_eq_true, decide_eq_true_eq] at hw
  injection e with e
  subst e
  show isaDecode t ⟨[], false⟩ _ = _
  rw [isaDecode_wordR _ _ _ _ _ _ _ (by omega) (by omega) (by omega) (by omega) (by omega)]
  obtain rfl | rfl : scope = 0 ∨ scope = 1 := by omega
  all_goals simp [decodeMajor, decodeBar]

theorem roundTrip.flagSet (t d a b : Nat) (rel : Bool) : roundTrip.Statement (.flagSet t d a b rel) := by
  intro hw w e
  have hw : (slotOk t && regOk d && regOk a && regOk b) = true := hw
  simp only [slotOk, regOk, Bool.and_eq_true, decide_eq_true_eq] at hw
  injection e with e
  subst e
  show isaDecode t ⟨[], false⟩ _ = _
  have hb : b2n rel ≤ 1 := by cases rel <;> decide
  rw [isaDecode_wordR _ _ _ _ _ _ _ (by omega) (by omega) (by omega) (by omega) (by omega)]
  cases rel
  all_goals simp [decodeMajor, decodeFlag, b2n]

theorem roundTrip.flagAdd (t d a b : Nat) (rel : Bool) : roundTrip.Statement (.flagAdd t d a b rel) := by
  intro hw w e
  have hw : (slotOk t && regOk d && regOk a && regOk b) = true := hw
  simp only [slotOk, regOk, Bool.and_eq_true, decide_eq_true_eq] at hw
  injection e with e
  subst e
  show isaDecode t ⟨[], false⟩ _ = _
  have hb : b2n rel ≤ 1 := by cases rel <;> decide
  rw [isaDecode_wordR _ _ _ _ _ _ _ (by omega) (by omega) (by omega) (by omega) (by omega)]
  cases rel
  all_goals simp [decodeMajor, decodeFlag, b2n]

theorem roundTrip.flagWait (t d a b cond : Nat) : roundTrip.Statement (.flagWait t d a b cond) := by
  intro hw w e
  have hw : (slotOk t && regOk d && regOk a && regOk b && cond < 4) = true := hw
  simp only [slotOk, regOk, Bool.and_eq_true, decide_eq_true_eq] at hw
  injection e with e
  subst e
  show isaDecode t ⟨[], false⟩ _ = _
  rw [isaDecode_wordR _ _ _ _ _ _ _ (by omega) (by omega) (by omega) (by omega) (by omega)]
  simp [decodeMajor, decodeFlag]
  omega

theorem roundTrip.opcall (t d a q : Nat) : roundTrip.Statement (.opcall t d a q) := by
  intro hw w e
  have hw : (slotOk t && regOk d && (regOk a && a % 8 = 0) && q < 4) = true := hw
  simp only [slotOk, regOk, Bool.and_eq_true, decide_eq_true_eq] at hw
  injection e with e
  subst e
  show isaDecode t ⟨[], false⟩ _ = _
  rw [isaDecode_wordR _ _ _ _ _ _ _ (by omega) (by omega) (by omega) (by omega) (by omega)]
  simp [decodeMajor]
  omega

theorem roundTrip.spawn (t d a : Nat) (desc : ReadData) : roundTrip.Statement (.spawn t d a desc) := by
  intro hw w e
  have hw : (slotOk t && regOk d && regOk a) = true := hw
  simp only [slotOk, regOk, Bool.and_eq_true, decide_eq_true_eq] at hw
  injection e with e
  subst e
  show isaDecode t desc _ = _
  rw [isaDecode_wordR _ _ _ _ _ _ _ (by omega) (by omega) (by omega) (by omega) (by omega)]
  simp [decodeMajor]

theorem roundTrip.nop (t : Nat) : roundTrip.Statement (.nop t) := by
  intro hw w e
  have hw : (slotOk t) = true := hw
  simp only [slotOk, decide_eq_true_eq] at hw
  injection e with e
  subst e
  show isaDecode t ⟨[], false⟩ _ = _
  rw [isaDecode_wordR _ _ _ _ _ _ _ (by omega) (by omega) (by omega) (by omega) (by omega)]
  simp [decodeMajor, decodeSys]

theorem roundTrip.exit (t : Nat) : roundTrip.Statement (.exit t) := by
  intro hw w e
  have hw : (slotOk t) = true := hw
  simp only [slotOk, decide_eq_true_eq] at hw
  injection e with e
  subst e
  show isaDecode t ⟨[], false⟩ _ = _
  rw [isaDecode_wordR _ _ _ _ _ _ _ (by omega) (by omega) (by omega) (by omega) (by omega)]
  simp [decodeMajor, decodeSys]

theorem roundTrip.brk (t : Nat) : roundTrip.Statement (.brk t) := by
  intro hw w e
  have hw : (slotOk t) = true := hw
  simp only [slotOk, decide_eq_true_eq] at hw
  injection e with e
  subst e
  show isaDecode t ⟨[], false⟩ _ = _
  rw [isaDecode_wordR _ _ _ _ _ _ _ (by omega) (by omega) (by omega) (by omega) (by omega)]
  simp [decodeMajor, decodeSys]

theorem roundTrip.rds (t d b : Nat) : roundTrip.Statement (.rds t d b) := by
  intro hw w e
  have hw : (slotOk t && regOk d && b ≤ 8) = true := hw
  simp only [slotOk, regOk, Bool.and_eq_true, decide_eq_true_eq] at hw
  injection e with e
  subst e
  show isaDecode t ⟨[], false⟩ _ = _
  rw [isaDecode_wordR _ _ _ _ _ _ _ (by omega) (by omega) (by omega) (by omega) (by omega)]
  simp [decodeMajor, decodeSys]
  omega

theorem roundTrip.threadMemoryReply (t : Nat) (src : ReplySrc) : roundTrip.Statement (.threadMemoryReply t src) := roundTrip_of_none rfl

theorem roundTrip.flagWaitTimeout (t : Nat) : roundTrip.Statement (.flagWaitTimeout t) := roundTrip_of_none rfl

theorem roundTrip.flagWaitRetry (t : Nat) : roundTrip.Statement (.flagWaitRetry t) := roundTrip_of_none rfl

theorem roundTrip.taskDoorbell (f : Fn) (m : Nat) (desc : Word) : roundTrip.Statement (.taskDoorbell f m desc) := roundTrip_of_none rfl

theorem roundTrip.taskDescReadDone (m : Nat) (desc : ReadData) : roundTrip.Statement (.taskDescReadDone m desc) := roundTrip_of_none rfl

theorem roundTrip.taskStart (p : Nat) : roundTrip.Statement (.taskStart p) := roundTrip_of_none rfl

theorem roundTrip.ctxSuspend (f : Fn) (p c : Nat) : roundTrip.Statement (.ctxSuspend f p c) := roundTrip_of_none rfl

theorem roundTrip.ctxSuspendDone (m : Nat) : roundTrip.Statement (.ctxSuspendDone m) := roundTrip_of_none rfl

theorem roundTrip.ctxResume (f : Fn) (p c : Nat) : roundTrip.Statement (.ctxResume f p c) := roundTrip_of_none rfl

theorem roundTrip.ctxResumeStart (m : Nat) : roundTrip.Statement (.ctxResumeStart m) := roundTrip_of_none rfl

theorem roundTrip.ctxAbort (f : Fn) (p c : Nat) : roundTrip.Statement (.ctxAbort f p c) := roundTrip_of_none rfl

theorem roundTrip.ctxNoOp (f : Fn) (p c : Nat) : roundTrip.Statement (.ctxNoOp f p c) := roundTrip_of_none rfl

theorem roundTrip.pieceDispatch (bay : Nat) : roundTrip.Statement (.pieceDispatch bay) := roundTrip_of_none rfl

theorem roundTrip.piecePlace (bay q tile idx : Nat) : roundTrip.Statement (.piecePlace bay q tile idx) := roundTrip_of_none rfl

theorem roundTrip.pieceEnd (bay q tile idx : Nat) (host : List HostLine) : roundTrip.Statement (.pieceEnd bay q tile idx host) := roundTrip_of_none rfl

theorem roundTrip.sliceRead (r : SReq) (errs : List SymErr) : roundTrip.Statement (.sliceRead r errs) := roundTrip_of_none rfl

theorem roundTrip.sliceWrite (r : SReq) (data : Line) (poison : BitVec 4) (errs : List SymErr) : roundTrip.Statement (.sliceWrite r data poison errs) := roundTrip_of_none rfl

theorem roundTrip.slicePartialWrite (r : SReq) (be : BitVec 128) (data : Line) (poison : BitVec 4) (errs : List SymErr) : roundTrip.Statement (.slicePartialWrite r be data poison errs) := roundTrip_of_none rfl

theorem roundTrip.sliceAccumulate (r : SReq) (op : Nat) (mask : BitVec 16) (data : Sector) (poison : Bool) (errs : List SymErr) : roundTrip.Statement (.sliceAccumulate r op mask data poison errs) := roundTrip_of_none rfl

theorem roundTrip.sliceFlagSet (r : SReq) (v : Word) (errs : List SymErr) : roundTrip.Statement (.sliceFlagSet r v errs) := roundTrip_of_none rfl

theorem roundTrip.sliceFlagAdd (r : SReq) (v : Word) (errs : List SymErr) : roundTrip.Statement (.sliceFlagAdd r v errs) := roundTrip_of_none rfl

theorem roundTrip.sliceFlagWait (r : SReq) (cond : Nat) (v : Word) (errs : List SymErr) : roundTrip.Statement (.sliceFlagWait r cond v errs) := roundTrip_of_none rfl

theorem roundTrip.sliceFlagCancel (r : SReq) : roundTrip.Statement (.sliceFlagCancel r) := roundTrip_of_none rfl

theorem roundTrip.fillArrive (addr : Nat) : roundTrip.Statement (.fillArrive addr) := roundTrip_of_none rfl

theorem roundTrip.mergeEntryExpire (slice addr : Nat) : roundTrip.Statement (.mergeEntryExpire slice addr) := roundTrip_of_none rfl

theorem roundTrip.sideQueueResume (slice : Nat) : roundTrip.Statement (.sideQueueResume slice) := roundTrip_of_none rfl

theorem roundTrip.victimWaitResume (slice : Nat) : roundTrip.Statement (.victimWaitResume slice) := roundTrip_of_none rfl

theorem roundTrip.rangePin (f : Fn) (p : Nat) : roundTrip.Statement (.rangePin f p) := roundTrip_of_none rfl

theorem roundTrip.rangeUnpin (f : Fn) (p : Nat) : roundTrip.Statement (.rangeUnpin f p) := roundTrip_of_none rfl

theorem roundTrip.rangeClean (f : Fn) (p : Nat) : roundTrip.Statement (.rangeClean f p) := roundTrip_of_none rfl

theorem roundTrip.rangeFlush (f : Fn) (p : Nat) : roundTrip.Statement (.rangeFlush f p) := roundTrip_of_none rfl

theorem roundTrip.rangeKill (f : Fn) (p : Nat) : roundTrip.Statement (.rangeKill f p) := roundTrip_of_none rfl

theorem roundTrip.rangeBadOp (f : Fn) (p op : Nat) : roundTrip.Statement (.rangeBadOp f p op) := roundTrip_of_none rfl

theorem roundTrip.rangeDone (p : Nat) : roundTrip.Statement (.rangeDone p) := roundTrip_of_none rfl

theorem roundTrip.thrashDetect (slice set : Nat) : roundTrip.Statement (.thrashDetect slice set) := roundTrip_of_none rfl

theorem roundTrip.sliceDrainDone (slice : Nat) : roundTrip.Statement (.sliceDrainDone slice) := roundTrip_of_none rfl

theorem roundTrip.rackLine (region line : Nat) : roundTrip.Statement (.rackLine region line) := roundTrip_of_none rfl

theorem roundTrip.hbmFill (addr : Nat) (errs : List SymErr) : roundTrip.Statement (.hbmFill addr errs) := roundTrip_of_none rfl

theorem roundTrip.hbmWriteBack (addr : Nat) (data : Line) (poison : BitVec 4) (errs : List SymErr) : roundTrip.Statement (.hbmWriteBack addr data poison errs) := roundTrip_of_none rfl

theorem roundTrip.hbmKill (addr : Nat) (errs : List SymErr) : roundTrip.Statement (.hbmKill addr errs) := roundTrip_of_none rfl

theorem roundTrip.hbmSidecarUpdate (addr : Nat) : roundTrip.Statement (.hbmSidecarUpdate addr) := roundTrip_of_none rfl

theorem roundTrip.hbmUncachedRead (r : SReq) (errs : List SymErr) : roundTrip.Statement (.hbmUncachedRead r errs) := roundTrip_of_none rfl

theorem roundTrip.hbmUncachedWrite (r : SReq) (u : UWrite) (errs : List SymErr) : roundTrip.Statement (.hbmUncachedWrite r u errs) := roundTrip_of_none rfl

theorem roundTrip.hbmRefresh (ch pc bank : Nat) : roundTrip.Statement (.hbmRefresh ch pc bank) := roundTrip_of_none rfl

theorem roundTrip.hbmRecalibrate (ch pc : Nat) : roundTrip.Statement (.hbmRecalibrate ch pc) := roundTrip_of_none rfl

theorem roundTrip.hbmRecalDone (ch pc : Nat) (ok : Bool) : roundTrip.Statement (.hbmRecalDone ch pc ok) := roundTrip_of_none rfl

theorem roundTrip.hbmParityError (ch : Nat) : roundTrip.Statement (.hbmParityError ch) := roundTrip_of_none rfl

theorem roundTrip.hbmParityRetry (ch : Nat) (ok : Bool) : roundTrip.Statement (.hbmParityRetry ch ok) := roundTrip_of_none rfl

theorem roundTrip.hbmUeRateFail (ch : Nat) : roundTrip.Statement (.hbmUeRateFail ch) := roundTrip_of_none rfl

theorem roundTrip.hbmPowerDown (ch pc : Nat) : roundTrip.Statement (.hbmPowerDown ch pc) := roundTrip_of_none rfl

theorem roundTrip.hbmRegApply (f : Fn) : roundTrip.Statement (.hbmRegApply f) := roundTrip_of_none rfl

theorem roundTrip.housekeepingRound (tel : RoundTel) : roundTrip.Statement (.housekeepingRound tel) := roundTrip_of_none rfl

theorem roundTrip.pwrFloorHit : roundTrip.Statement (.pwrFloorHit) := roundTrip_of_none rfl

theorem roundTrip.plcQuery (f : Fn) (region : Nat) : roundTrip.Statement (.plcQuery f region) := roundTrip_of_none rfl

theorem roundTrip.replCopyDone (region : Nat) : roundTrip.Statement (.replCopyDone region) := roundTrip_of_none rfl

theorem roundTrip.ctxBindWrite (f : Fn) (m : Nat) (value : Word) : roundTrip.Statement (.ctxBindWrite f m value) := roundTrip_of_none rfl

theorem roundTrip.atsCompletion (f : Fn) (pasid va : Nat) (c : AtsCpl) : roundTrip.Statement (.atsCompletion f pasid va c) := roundTrip_of_none rfl

theorem roundTrip.atsCompletionTimeout (f : Fn) (pasid va : Nat) : roundTrip.Statement (.atsCompletionTimeout f pasid va) := roundTrip_of_none rfl

theorem roundTrip.pageRequestSend (f : Fn) : roundTrip.Statement (.pageRequestSend f) := roundTrip_of_none rfl

theorem roundTrip.prgSuccess (f : Fn) (group : Nat) : roundTrip.Statement (.prgSuccess f group) := roundTrip_of_none rfl

theorem roundTrip.prgInvalidRequest (f : Fn) (group : Nat) : roundTrip.Statement (.prgInvalidRequest f group) := roundTrip_of_none rfl

theorem roundTrip.prgResponseFailure (f : Fn) (group : Nat) : roundTrip.Statement (.prgResponseFailure f group) := roundTrip_of_none rfl

theorem roundTrip.priTimeout (f : Fn) (group : Nat) : roundTrip.Statement (.priTimeout f group) := roundTrip_of_none rfl

theorem roundTrip.atsInvalidate (f : Fn) (pasid : Option Nat) (base size itag : Nat) : roundTrip.Statement (.atsInvalidate f pasid base size itag) := roundTrip_of_none rfl

theorem roundTrip.invalidateCompletion (f : Fn) (itag : Nat) : roundTrip.Statement (.invalidateCompletion f itag) := roundTrip_of_none rfl

theorem roundTrip.cmdDoorbell (f : Fn) (m : Nat) (desc : Word) : roundTrip.Statement (.cmdDoorbell f m desc) := roundTrip_of_none rfl

theorem roundTrip.cmdDescReadDone (m : Nat) (desc : ReadData) : roundTrip.Statement (.cmdDescReadDone m desc) := roundTrip_of_none rfl

theorem roundTrip.xlat (m : Nat) : roundTrip.Statement (.xlat m) := roundTrip_of_none rfl

theorem roundTrip.copy (m : Nat) (src : Line) (ep : Bool) : roundTrip.Statement (.copy m src ep) := roundTrip_of_none rfl

theorem roundTrip.advise (m : Nat) : roundTrip.Statement (.advise m) := roundTrip_of_none rfl

theorem roundTrip.cmdEnd (m : Nat) : roundTrip.Statement (.cmdEnd m) := roundTrip_of_none rfl

theorem roundTrip.flogBaseWrite (f : Fn) (p : Nat) (value : Word) : roundTrip.Statement (.flogBaseWrite f p value) := roundTrip_of_none rfl

theorem roundTrip.errPop (f : Fn) : roundTrip.Statement (.errPop f) := roundTrip_of_none rfl

theorem roundTrip.scrubHbm (f : Fn) : roundTrip.Statement (.scrubHbm f) := roundTrip_of_none rfl

theorem roundTrip.scrubCellar (f : Fn) (unit : Nat) : roundTrip.Statement (.scrubCellar f unit) := roundTrip_of_none rfl

theorem roundTrip.scrubCellStore (f : Fn) (unit : Nat) : roundTrip.Statement (.scrubCellStore f unit) := roundTrip_of_none rfl

theorem roundTrip.scrubNoTarget (f : Fn) : roundTrip.Statement (.scrubNoTarget f) := roundTrip_of_none rfl

theorem roundTrip.scrubStep (errs : List SymErr) : roundTrip.Statement (.scrubStep errs) := roundTrip_of_none rfl

theorem roundTrip.scrubDone : roundTrip.Statement (.scrubDone) := roundTrip_of_none rfl

theorem roundTrip.ralothFrameReceive (port : Nat) (lanes : List (List Nat)) : roundTrip.Statement (.ralothFrameReceive port lanes) := roundTrip_of_none rfl

theorem roundTrip.ralothFrameSend (port : Nat) : roundTrip.Statement (.ralothFrameSend port) := roundTrip_of_none rfl

theorem roundTrip.ralothReplayTimeout (port : Nat) : roundTrip.Statement (.ralothReplayTimeout port) := roundTrip_of_none rfl

theorem roundTrip.trainingBlockReceive (port : Nat) (blocks : List (List Nat)) : roundTrip.Statement (.trainingBlockReceive port blocks) := roundTrip_of_none rfl

theorem roundTrip.equaliseDone (port : Nat) (badLanes : BitVec 8) : roundTrip.Statement (.equaliseDone port badLanes) := roundTrip_of_none rfl

theorem roundTrip.alignDone (port : Nat) (badLanes peerMask : BitVec 8) : roundTrip.Statement (.alignDone port badLanes peerMask) := roundTrip_of_none rfl

theorem roundTrip.syncDone (port : Nat) : roundTrip.Statement (.syncDone port) := roundTrip_of_none rfl

theorem roundTrip.trainingTimeout (port : Nat) : roundTrip.Statement (.trainingTimeout port) := roundTrip_of_none rfl

theorem roundTrip.failedRetry (port : Nat) : roundTrip.Statement (.failedRetry port) := roundTrip_of_none rfl

theorem roundTrip.laneLossOfSignal (port lane : Nat) : roundTrip.Statement (.laneLossOfSignal port lane) := roundTrip_of_none rfl

theorem roundTrip.deskewLoss (port : Nat) : roundTrip.Statement (.deskewLoss port) := roundTrip_of_none rfl

theorem roundTrip.recoverDone (port : Nat) (badLanes peerMask : BitVec 8) : roundTrip.Statement (.recoverDone port badLanes peerMask) := roundTrip_of_none rfl

theorem roundTrip.recoverTimeout (port : Nat) : roundTrip.Statement (.recoverTimeout port) := roundTrip_of_none rfl

theorem roundTrip.retrain (f : Fn) (port : Nat) : roundTrip.Statement (.retrain f port) := roundTrip_of_none rfl

theorem roundTrip.laneSlip (f : Fn) (port lane : Nat) : roundTrip.Statement (.laneSlip f port lane) := roundTrip_of_none rfl

theorem roundTrip.proceed (f : Fn) (port : Nat) : roundTrip.Statement (.proceed f port) := roundTrip_of_none rfl

theorem roundTrip.loopGo (f : Fn) (port mode : Nat) : roundTrip.Statement (.loopGo f port mode) := roundTrip_of_none rfl

theorem roundTrip.farLoopbackExit (port : Nat) : roundTrip.Statement (.farLoopbackExit port) := roundTrip_of_none rfl

theorem roundTrip.txSleep (port : Nat) : roundTrip.Statement (.txSleep port) := roundTrip_of_none rfl

theorem roundTrip.rxSleep (port : Nat) : roundTrip.Statement (.rxSleep port) := roundTrip_of_none rfl

theorem roundTrip.rxSignalDetect (port : Nat) : roundTrip.Statement (.rxSignalDetect port) := roundTrip_of_none rfl

theorem roundTrip.txWake (port : Nat) : roundTrip.Statement (.txWake port) := roundTrip_of_none rfl

theorem roundTrip.txWakeDone (port : Nat) : roundTrip.Statement (.txWakeDone port) := roundTrip_of_none rfl

theorem roundTrip.rekey (f : Fn) (port : Nat) : roundTrip.Statement (.rekey f port) := roundTrip_of_none rfl

theorem roundTrip.keyxHello (port : Nat) (nonce pk : BitVec 256) : roundTrip.Statement (.keyxHello port nonce pk) := roundTrip_of_none rfl

theorem roundTrip.keyxKey (port : Nat) (ek : List Byte) : roundTrip.Statement (.keyxKey port ek) := roundTrip_of_none rfl

theorem roundTrip.keyxCiphertext (port : Nat) (ct : List Byte) (ok : Bool) : roundTrip.Statement (.keyxCiphertext port ct ok) := roundTrip_of_none rfl

theorem roundTrip.keyxSignature (port : Nat) (sig : List Byte) (ok : Bool) : roundTrip.Statement (.keyxSignature port sig ok) := roundTrip_of_none rfl

theorem roundTrip.keyxTimeout (port : Nat) : roundTrip.Statement (.keyxTimeout port) := roundTrip_of_none rfl

theorem roundTrip.read (port : Nat) (m : RMsg) : roundTrip.Statement (.read port m) := roundTrip_of_none rfl

theorem roundTrip.readRsp (port : Nat) (m : RMsg) : roundTrip.Statement (.readRsp port m) := roundTrip_of_none rfl

theorem roundTrip.write (port : Nat) (m : RMsg) : roundTrip.Statement (.write port m) := roundTrip_of_none rfl

theorem roundTrip.accum (port : Nat) (m : RMsg) : roundTrip.Statement (.accum port m) := roundTrip_of_none rfl

theorem roundTrip.flag (port : Nat) (m : RMsg) : roundTrip.Statement (.flag port m) := roundTrip_of_none rfl

theorem roundTrip.cancel (port : Nat) (m : RMsg) : roundTrip.Statement (.cancel port m) := roundTrip_of_none rfl

theorem roundTrip.ack (port : Nat) (m : RMsg) : roundTrip.Statement (.ack port m) := roundTrip_of_none rfl

theorem roundTrip.barArrive (port : Nat) (m : RMsg) : roundTrip.Statement (.barArrive port m) := roundTrip_of_none rfl

theorem roundTrip.barRelease (port : Nat) (m : RMsg) : roundTrip.Statement (.barRelease port m) := roundTrip_of_none rfl

theorem roundTrip.replReq (port : Nat) (m : RMsg) : roundTrip.Statement (.replReq port m) := roundTrip_of_none rfl

theorem roundTrip.replRsp (port : Nat) (m : RMsg) : roundTrip.Statement (.replRsp port m) := roundTrip_of_none rfl

theorem roundTrip.replInval (port : Nat) (m : RMsg) : roundTrip.Statement (.replInval port m) := roundTrip_of_none rfl

theorem roundTrip.invalAck (port : Nat) (m : RMsg) : roundTrip.Statement (.invalAck port m) := roundTrip_of_none rfl

theorem roundTrip.enumStart (f : Fn) : roundTrip.Statement (.enumStart f) := roundTrip_of_none rfl

theorem roundTrip.enum (port : Nat) (m : RMsg) : roundTrip.Statement (.enum port m) := roundTrip_of_none rfl

theorem roundTrip.enumEnd (port : Nat) (m : RMsg) : roundTrip.Statement (.enumEnd port m) := roundTrip_of_none rfl

theorem roundTrip.mapCollect (port : Nat) (m : RMsg) : roundTrip.Statement (.mapCollect port m) := roundTrip_of_none rfl

theorem roundTrip.mapDistribute (port : Nat) (m : RMsg) : roundTrip.Statement (.mapDistribute port m) := roundTrip_of_none rfl

theorem roundTrip.mapWaitTimeout : roundTrip.Statement (.mapWaitTimeout) := roundTrip_of_none rfl

theorem roundTrip.enumTimeout : roundTrip.Statement (.enumTimeout) := roundTrip_of_none rfl

theorem roundTrip.adopt (f : Fn) : roundTrip.Statement (.adopt f) := roundTrip_of_none rfl

theorem roundTrip.linkid (port : Nat) (m : RMsg) : roundTrip.Statement (.linkid port m) := roundTrip_of_none rfl

theorem roundTrip.linkdown (port : Nat) (m : RMsg) : roundTrip.Statement (.linkdown port m) := roundTrip_of_none rfl

theorem roundTrip.health (port : Nat) (m : RMsg) : roundTrip.Statement (.health port m) := roundTrip_of_none rfl

theorem roundTrip.memberHealthLost (stack : Nat) : roundTrip.Statement (.memberHealthLost stack) := roundTrip_of_none rfl

theorem roundTrip.ping (port : Nat) (m : RMsg) : roundTrip.Statement (.ping port m) := roundTrip_of_none rfl

theorem roundTrip.pong (port : Nat) (m : RMsg) (rttNs : Nat) : roundTrip.Statement (.pong port m rttNs) := roundTrip_of_none rfl

theorem roundTrip.estate (port : Nat) (m : RMsg) : roundTrip.Statement (.estate port m) := roundTrip_of_none rfl

theorem roundTrip.reservedMessage (port : Nat) (m : RMsg) : roundTrip.Statement (.reservedMessage port m) := roundTrip_of_none rfl

theorem roundTrip.estateSet (f : Fn) : roundTrip.Statement (.estateSet f) := roundTrip_of_none rfl

theorem roundTrip.requestLost (tag : Nat) : roundTrip.Statement (.requestLost tag) := roundTrip_of_none rfl

theorem roundTrip.requestReissue (tag : Nat) : roundTrip.Statement (.requestReissue tag) := roundTrip_of_none rfl

theorem roundTrip.holdWindowExpire : roundTrip.Statement (.holdWindowExpire) := roundTrip_of_none rfl

theorem roundTrip.pwrEnterS1 (f : Fn) : roundTrip.Statement (.pwrEnterS1 f) := roundTrip_of_none rfl

theorem roundTrip.pwrEnterS2 (f : Fn) : roundTrip.Statement (.pwrEnterS2 f) := roundTrip_of_none rfl

theorem roundTrip.pwrEnterS3 (f : Fn) : roundTrip.Statement (.pwrEnterS3 f) := roundTrip_of_none rfl

theorem roundTrip.pwrExitS0 (f : Fn) : roundTrip.Statement (.pwrExitS0 f) := roundTrip_of_none rfl

theorem roundTrip.pwrTargetInvalid (f : Fn) (target : Nat) : roundTrip.Statement (.pwrTargetInvalid f target) := roundTrip_of_none rfl

theorem roundTrip.pwrTransitionDone : roundTrip.Statement (.pwrTransitionDone) := roundTrip_of_none rfl

theorem roundTrip.bayClockGate (bay : Nat) : roundTrip.Statement (.bayClockGate bay) := roundTrip_of_none rfl

theorem roundTrip.bayPowerGate (bay : Nat) : roundTrip.Statement (.bayPowerGate bay) := roundTrip_of_none rfl

theorem roundTrip.wakeAdmit : roundTrip.Statement (.wakeAdmit) := roundTrip_of_none rfl

theorem roundTrip.wakeRailUp (kind unit : Nat) : roundTrip.Statement (.wakeRailUp kind unit) := roundTrip_of_none rfl

theorem roundTrip.thermalSubstep (parityOk : Bool) : roundTrip.Statement (.thermalSubstep parityOk) := roundTrip_of_none rfl

theorem roundTrip.thermalSolveEnd (diodes : List (Option Int)) : roundTrip.Statement (.thermalSolveEnd diodes) := roundTrip_of_none rfl

theorem roundTrip.thermalShutdown : roundTrip.Statement (.thermalShutdown) := roundTrip_of_none rfl

theorem roundTrip.thermalRestart : roundTrip.Statement (.thermalRestart) := roundTrip_of_none rfl

theorem roundTrip.dbgLevelChange (f : Fn) (target : Nat) : roundTrip.Statement (.dbgLevelChange f target) := roundTrip_of_none rfl

theorem roundTrip.dbgEnterD3 (f : Fn) : roundTrip.Statement (.dbgEnterD3 f) := roundTrip_of_none rfl

theorem roundTrip.d3Effect : roundTrip.Statement (.d3Effect) := roundTrip_of_none rfl

theorem roundTrip.dbgCntSelect (f : Fn) (k : Nat) (value : Word) : roundTrip.Statement (.dbgCntSelect f k value) := roundTrip_of_none rfl

theorem roundTrip.traceEnable (f : Fn) (value : Word) : roundTrip.Statement (.traceEnable f value) := roundTrip_of_none rfl

theorem roundTrip.traceMark (f : Fn) (value : BitVec 32) : roundTrip.Statement (.traceMark f value) := roundTrip_of_none rfl

theorem roundTrip.brkResume (f : Fn) : roundTrip.Statement (.brkResume f) := roundTrip_of_none rfl

theorem roundTrip.freezePin : roundTrip.Statement (.freezePin) := roundTrip_of_none rfl

theorem roundTrip.freezeRequest (f : Fn) (scope : Nat) (drive : Bool) : roundTrip.Statement (.freezeRequest f scope drive) := roundTrip_of_none rfl

theorem roundTrip.freezeHeldStart : roundTrip.Statement (.freezeHeldStart) := roundTrip_of_none rfl

theorem roundTrip.freezeEntryDone : roundTrip.Statement (.freezeEntryDone) := roundTrip_of_none rfl

theorem roundTrip.thaw (f : Fn) : roundTrip.Statement (.thaw f) := roundTrip_of_none rfl

theorem roundTrip.freezePinRelease : roundTrip.Statement (.freezePinRelease) := roundTrip_of_none rfl

theorem roundTrip.thawDone : roundTrip.Statement (.thawDone) := roundTrip_of_none rfl

theorem roundTrip.readOut (f : Fn) (space addr : Nat) (errs : List SymErr) : roundTrip.Statement (.readOut f space addr errs) := roundTrip_of_none rfl

theorem roundTrip.scanShift (bits : List Bool) : roundTrip.Statement (.scanShift bits) := roundTrip_of_none rfl

theorem roundTrip.tapAccess (op : TapOp) : roundTrip.Statement (.tapAccess op) := roundTrip_of_none rfl

theorem roundTrip.askalaOperationDone : roundTrip.Statement (.askalaOperationDone) := roundTrip_of_none rfl

theorem roundTrip.testRegionEnd (test region : Nat) : roundTrip.Statement (.testRegionEnd test region) := roundTrip_of_none rfl

theorem roundTrip.rcFieldRead (f : Fn) (event : Option Nat) : roundTrip.Statement (.rcFieldRead f event) := roundTrip_of_none rfl

theorem roundTrip.pwrAlreadyInTarget (f : Fn) : roundTrip.Statement (.pwrAlreadyInTarget f) := roundTrip_of_none rfl

theorem roundTrip.doeDiscovery (f : Fn) (index : Nat) : roundTrip.Statement (.doeDiscovery f index) := roundTrip_of_none rfl

theorem roundTrip.perstRelease (port : Nat) : roundTrip.Statement (.perstRelease port) := roundTrip_of_none rfl


end

end Sys2Proof.Laws
end

