-- ==== Sys2Proof/Laws/Regs.lean ====
section
/-! SUPPORT. The register store: fields of a word, reads after writes, and which registers an operation leaves alone. -/

namespace Sys2Proof.Machine

open Sys2Proof

/-! ### Fields of a word -/

theorem Fld.get_extract (f : Fld) (v : Word) : f.get v = (v.extractLsb' f.lo f.w).toNat := by
  simp [Fld.get, BitVec.extractLsb'_toNat, Nat.shiftRight_eq_div_pow]

theorem testBit_shifted (x lo i : Nat) : (x * 2 ^ lo).testBit i = (decide (lo ≤ i) && x.testBit (i - lo)) := by
  rw [Nat.testBit_mul_two_pow]

theorem Fld.mask_bit (f : Fld) (i : Nat) :
    f.mask.getLsbD i = (decide (i < 64) && decide (f.lo ≤ i) && decide (i < f.lo + f.w)) := by
  simp only [Fld.mask, BitVec.getLsbD_ofNat, testBit_shifted, Nat.testBit_two_pow_sub_one]
  by_cases h : f.lo ≤ i
  · simp [h, show (i - f.lo < f.w) = (i < f.lo + f.w) from by rw [eq_iff_iff]; omega]
  · simp [h]

theorem Fld.put_bit (f : Fld) (v : Word) (x i : Nat) :
    (f.put v x).getLsbD i =
      if f.lo ≤ i ∧ i < f.lo + f.w then (decide (i < 64) && x.testBit (i - f.lo)) else v.getLsbD i := by
  simp only [Fld.put, BitVec.getLsbD_or, BitVec.getLsbD_and, BitVec.getLsbD_not, Fld.mask_bit, BitVec.getLsbD_ofNat,
    testBit_shifted, Nat.testBit_mod_two_pow]
  by_cases h64 : i < 64
  · by_cases h1 : f.lo ≤ i <;> by_cases h2 : i < f.lo + f.w
    · simp [h64, h1, h2, show i - f.lo < f.w by omega]
    · simp [h64, h1, h2, show ¬ (i - f.lo < f.w) by omega]
    · simp [h64, h1, h2]
    · simp [h64, h1, h2]
  · simp [h64, BitVec.getLsbD_of_ge v i (by omega)]

/-- A field reads what was put into it. -/
theorem Fld.get_put (f : Fld) (v : Word) (x : Nat) (h : f.lo + f.w ≤ 64) : f.get (f.put v x) = x % 2 ^ f.w := by
  rw [Fld.get_extract, ← BitVec.toNat_ofNat x f.w]
  congr 1
  apply BitVec.eq_of_getLsbD_eq
  intro i hi
  rw [BitVec.getLsbD_extractLsb', Fld.put_bit, BitVec.getLsbD_ofNat]
  simp [hi, show f.lo + i < 64 by omega]

/-- A field is unchanged by a write to a field that shares no bit with it. -/
theorem Fld.get_put_other (f g : Fld) (v : Word) (x : Nat) (h : g.lo + g.w ≤ f.lo ∨ f.lo + f.w ≤ g.lo) :
    g.get (f.put v x) = g.get v := by
  rw [Fld.get_extract, Fld.get_extract]
  congr 1
  apply BitVec.eq_of_getLsbD_eq
  intro i hi
  rw [BitVec.getLsbD_extractLsb', BitVec.getLsbD_extractLsb', Fld.put_bit]
  rw [if_neg (by omega)]

/-- A status field of one bit reads 1 once its mask has been set. -/
theorem Fld.get_or_mask (f : Fld) (v : Word) (h : f.lo + f.w ≤ 64) : f.get (v ||| f.mask) = 2 ^ f.w - 1 := by
  rw [Fld.get_extract]
  have : (v ||| f.mask).extractLsb' f.lo f.w = BitVec.allOnes f.w := by
    apply BitVec.eq_of_getLsbD_eq
    intro i hi
    rw [BitVec.getLsbD_extractLsb', BitVec.getLsbD_or, Fld.mask_bit, BitVec.getLsbD_allOnes]
    simp [hi, show f.lo + i < 64 by omega]
  rw [this, BitVec.toNat_allOnes]

theorem Fld.get_or_mask_other (f g : Fld) (v : Word) (h : g.lo + g.w ≤ f.lo ∨ f.lo + f.w ≤ g.lo) :
    g.get (v ||| f.mask) = g.get v := by
  rw [Fld.get_extract, Fld.get_extract]
  congr 1
  apply BitVec.eq_of_getLsbD_eq
  intro i hi
  rw [BitVec.getLsbD_extractLsb', BitVec.getLsbD_extractLsb', BitVec.getLsbD_or, Fld.mask_bit]
  by_cases h64 : g.lo + i < 64
  · simp [hi, h64, show ¬ (f.lo ≤ g.lo + i ∧ g.lo + i < f.lo + f.w) by omega]
  · simp [hi, h64]

/-! ### Reads after writes -/

@[simp] theorem State.reg_setReg (s : State) (o k : Nat) (v : Word) :
    (s.setReg o v).reg k = if k = o then v else s.reg k := by
  simp only [State.reg, State.setReg, smGet_smPut]
  by_cases h : k = o
  · subst h; by_cases hv : v = regReset s.bup.variant k <;> simp [hv]
  · simp [h]

theorem State.reg_setFld (s : State) (o k : Nat) (f : Fld) (n : Nat) :
    (s.setFld o f n).reg k = if k = o then f.put (s.reg o) n else s.reg k := by
  simp [State.setFld]

theorem State.reg_addSat (s : State) (o k : Nat) (f : Fld) (n : Nat) (h : k ≠ o) : (s.addSat o f n).reg k = s.reg k := by
  simp [State.addSat, State.reg_setFld, h]

theorem State.reg_addMod (s : State) (o k : Nat) (f : Fld) (n : Nat) (h : k ≠ o) : (s.addMod o f n).reg k = s.reg k := by
  simp [State.addMod, State.reg_setFld, h]

theorem State.fld_setFld_other (s : State) (o k : Nat) (f g : Fld) (n : Nat) (h : k ≠ o) :
    (s.setFld o f n).fld k g = s.fld k g := by
  simp [State.fld, State.reg_setFld, h]

theorem State.fld_setFld (s : State) (o : Nat) (f : Fld) (n : Nat) (h : f.lo + f.w ≤ 64) :
    (s.setFld o f n).fld o f = n % 2 ^ f.w := by
  simp [State.fld, State.reg_setFld, Fld.get_put f _ _ h]

theorem State.fld_setFld_disj (s : State) (o : Nat) (f g : Fld) (n : Nat)
    (h : g.lo + g.w ≤ f.lo ∨ f.lo + f.w ≤ g.lo) : (s.setFld o f n).fld o g = s.fld o g := by
  simp [State.fld, State.reg_setFld, Fld.get_put_other f g _ _ h]

@[simp] theorem State.reg_emit (s : State) (o : Out) (k : Nat) : (s.emit o).reg k = s.reg k := rfl
@[simp] theorem State.reg_tick (s : State) (k : Nat) : s.tick.reg k = s.reg k := rfl
@[simp] theorem State.reg_setFn (s : State) (f : Fn) (c : FnCfg) (k : Nat) : (s.setFn f c).reg k = s.reg k := rfl

/-! ### Interrupts, status bits, counters, trace -/

theorem SideOnly.of_eq {s t : State} (h : t = { s with regs := t.regs, out := t.out, fns := t.fns, free := t.free }) :
    SideOnly s t := by
  rw [h]; constructor <;> rfl

theorem SideOnly.refl (s : State) : SideOnly s s := .of_eq rfl

theorem SideOnly.trans {s t u : State} (h1 : SideOnly s t) (h2 : SideOnly t u) : SideOnly s u where
  pci := h2.pci.trans h1.pci
  sec := h2.sec.trans h1.sec
  bup := h2.bup.trans h1.bup
  cmp := h2.cmp.trans h1.cmp
  xlt := h2.xlt.trans h1.xlt
  cel := h2.cel.trans h1.cel
  hbm := h2.hbm.trans h1.hbm
  plc := h2.plc.trans h1.plc
  ral := h2.ral.trans h1.ral
  pwr := h2.pwr.trans h1.pwr
  pending := h2.pending.trans h1.pending
  dbg := by
    have a := congrArg (fun d : DbgSt => { d with trBuf := s.dbg.trBuf, trace := s.dbg.trace }) h2.dbg
    exact a.trans h1.dbg

theorem SideOnly.thread {s t : State} (h : SideOnly s t) (k : Nat) : t.thread k = s.thread k := by
  simp [State.thread, h.cmp]

theorem SideOnly.setReg (s : State) (o : Nat) (v : Word) : SideOnly s (s.setReg o v) := .of_eq rfl
theorem SideOnly.setFld (s : State) (o : Nat) (f : Fld) (n : Nat) : SideOnly s (s.setFld o f n) := .of_eq rfl
theorem SideOnly.addSat (s : State) (o : Nat) (f : Fld) (n : Nat) : SideOnly s (s.addSat o f n) := .of_eq rfl
theorem SideOnly.addMod (s : State) (o : Nat) (f : Fld) (n : Nat) : SideOnly s (s.addMod o f n) := .of_eq rfl
theorem SideOnly.emit (s : State) (o : Out) : SideOnly s (s.emit o) := .of_eq rfl
theorem SideOnly.tick (s : State) : SideOnly s s.tick := .of_eq rfl
theorem SideOnly.setFn (s : State) (f : Fn) (c : FnCfg) : SideOnly s (s.setFn f c) := .of_eq rfl

theorem SideOnly.foldS {β : Type} (l : List β) (s : State) (f : State → β → State) (h : ∀ u b, SideOnly u (f u b)) :
    SideOnly s (foldS l s f) :=
  foldS_keeps l f (fun u b hu => hu.trans (h u b)) (SideOnly.refl s)

/-- What reads registers alone is unchanged where the registers are. -/
theorem reg_congr {s t : State} (h : t.regs = s.regs) (hb : t.bup = s.bup) (k : Nat) : t.reg k = s.reg k := by
  simp [State.reg, h, hb]

/-- What both branches satisfy, the choice satisfies. -/
theorem ite_keeps {σ : Type} {P : σ → Prop} {c : Prop} [Decidable c] {a b : σ} (ha : P a) (hb : P b) :
    P (if c then a else b) := by
  split <;> assumption

/-- A message changes no register. -/
theorem sendMsix_spec (s : State) (f : Fn) (v : Nat) : SideOnly s (sendMsix s f v) ∧ (sendMsix s f v).regs = s.regs := by
  unfold sendMsix
  dsimp only
  split
  · exact ⟨.refl s, rfl⟩
  · split
    · exact ⟨.setFn _ _ _, rfl⟩
    · exact ⟨.emit _ _, rfl⟩

theorem msixOwner_spec (s : State) (v : Nat) : SideOnly s (msixOwner s v) ∧ (msixOwner s v).regs = s.regs := by
  unfold msixOwner
  split
  · exact ⟨.refl s, rfl⟩
  · exact sendMsix_spec s _ v

theorem msixPart_spec (s : State) (p v : Nat) : SideOnly s (msixPart s p v) ∧ (msixPart s p v).regs = s.regs := by
  unfold msixPart
  exact foldS_keeps (P := fun t => SideOnly s t ∧ t.regs = s.regs) _ _
    (fun u b hu => ⟨hu.1.trans (sendMsix_spec u b _).1, (sendMsix_spec u b _).2.trans hu.2⟩) ⟨.refl s, rfl⟩

theorem msixBay_spec (s : State) (b v : Nat) : SideOnly s (msixBay s b v) ∧ (msixBay s b v).regs = s.regs := by
  unfold msixBay
  split
  · exact msixPart_spec s _ v
  · exact msixOwner_spec s 10

theorem signal_spec (s : State) (r : RegRow) (k : Nat) : SideOnly s (signal s r k) ∧ (signal s r k).regs = s.regs := by
  unfold signal
  repeat' apply ite_keeps (P := fun t => SideOnly s t ∧ t.regs = s.regs)
  all_goals first | exact msixOwner_spec s _ | exact msixBay_spec s _ _ | exact msixPart_spec s _ _

/-- Setting status bits of a register changes that register alone, and may send a message. -/
theorem raiseMask_spec (s : State) (o : Nat) (m : Word) :
    SideOnly s (raiseMask s o m) ∧ ∀ k, (raiseMask s o m).reg k = if k = o then s.reg o ||| m else s.reg k := by
  have base : SideOnly s (s.setReg o (s.reg o ||| m)) ∧
      ∀ k, (s.setReg o (s.reg o ||| m)).reg k = if k = o then s.reg o ||| m else s.reg k :=
    ⟨.setReg _ _ _, fun k => by simp⟩
  unfold raiseMask
  dsimp only
  split
  · exact base
  · split
    · exact base
    · split
      · refine ⟨base.1.trans (signal_spec _ _ _).1, fun k => ?_⟩
        rw [← base.2 k]
        exact reg_congr (signal_spec _ _ _).2 (signal_spec _ _ _).1.bup k
      · exact base

theorem raise_spec (s : State) (o : Nat) (f : Fld) :
    SideOnly s (raise s o f) ∧ ∀ k, (raise s o f).reg k = if k = o then s.reg o ||| f.mask else s.reg k :=
  raiseMask_spec s o f.mask

theorem RegsOnly.refl (s : State) : RegsOnly s s := rfl

theorem RegsOnly.trans {s t u : State} (h1 : RegsOnly s t) (h2 : RegsOnly t u) : RegsOnly s u := by
  unfold RegsOnly at *
  rw [h2, h1]
  rfl

theorem RegsOnly.side {s t : State} (h : RegsOnly s t) : SideOnly s t := by
  rw [h]; exact .of_eq rfl

theorem RegsKept.refl (s : State) (l : List Nat) : RegsKept s s l := fun _ _ => rfl

theorem RegsKept.trans {s t u : State} {l : List Nat} (h1 : RegsKept s t l) (h2 : RegsKept t u l) : RegsKept s u l :=
  fun o ho => (h2 o ho).trans (h1 o ho)

/-- Counting an event changes counters only. -/
theorem countEv_spec (s : State) (ev bay part n : Nat) :
    RegsOnly s (countEv s ev bay part n) ∧ RegsKept s (countEv s ev bay part n) countRegs := by
  unfold countEv foldS
  rw [← List.foldl_attach]
  refine foldS_keeps (P := fun t => RegsOnly s t ∧ RegsKept s t countRegs) _ _ (fun u k hu => ?_) ⟨rfl, fun _ _ => rfl⟩
  dsimp only
  split
  · refine ⟨hu.1.trans rfl, hu.2.trans (fun o ho => ?_)⟩
    exact State.reg_addMod _ _ _ _ _ (fun e => ho (e ▸ List.mem_map.2 ⟨k.1, k.2, rfl⟩))
  · exact hu

theorem traceFlush_spec (s : State) : SideOnly s (traceFlush s) ∧ RegsKept s (traceFlush s) traceRegs := by
  have hset : ∀ {t u : State}, SideOnly s t ∧ RegsKept s t traceRegs → SideOnly t u →
      (∀ o, o ∉ traceRegs → u.reg o = t.reg o) → SideOnly s u ∧ RegsKept s u traceRegs :=
    fun h1 h2 h3 => ⟨h1.1.trans h2, fun o ho => (h3 o ho).trans (h1.2 o ho)⟩
  have notStat : ∀ {o}, o ∉ traceRegs → o ≠ rDbgTraceStat := fun h e => h (e ▸ List.mem_cons_self)
  have notEv : ∀ {o}, o ∉ traceRegs → o ≠ rDbgEvent := fun h e => h (e ▸ List.mem_cons_of_mem _ List.mem_cons_self)
  unfold traceFlush
  extract_lets cfg ws a f q sl key line gone src s1 s2
  have h1 : SideOnly s s1 ∧ RegsKept s s1 traceRegs := ⟨by constructor <;> rfl, fun _ _ => rfl⟩
  have h2 : SideOnly s s2 ∧ RegsKept s s2 traceRegs :=
    ite_keeps (P := fun t => SideOnly s t ∧ RegsKept s t traceRegs) (hset h1 (.addSat _ _ _ _) (fun o ho => State.reg_addSat _ _ _ _ _ (notStat ho))) h1
  have st : ∀ (u : State) (g : Fld) (n o : Nat), o ∉ traceRegs → (u.setFld rDbgTraceStat g n).reg o = u.reg o :=
    fun u g n o ho => by rw [State.reg_setFld, if_neg (notStat ho)]
  split
  · split
    · exact hset (hset h2 (.setFld _ _ _ _) (fun o ho => st _ _ _ o ho)) (raise_spec _ _ _).1
        (fun o ho => by rw [(raise_spec _ _ _).2, if_neg (notEv ho)])
    · exact hset (hset h2 (.setFld _ _ _ _) (fun o ho => st _ _ _ o ho)) (.setFld _ _ _ _) (fun o ho => st _ _ _ o ho)
  · exact h2

/-- Tracing an event changes the trace, its status and DBG_EVENT only. -/
theorem trace_spec (s : State) (k bay part ctx arg32 addr arg64 : Nat) :
    SideOnly s (trace s k bay part ctx arg32 addr arg64) ∧
      RegsKept s (trace s k bay part ctx arg32 addr arg64) traceRegs := by
  unfold trace
  extract_lets cfg hide r s1 src s2
  have h2 : SideOnly s s2 ∧ RegsKept s s2 traceRegs :=
    ⟨by constructor <;> rfl,
      fun o ho => State.reg_addMod s.tick _ _ _ _ (fun e => ho (e ▸ List.mem_cons_self))⟩
  split
  · split
    · exact ⟨h2.1.trans (traceFlush_spec s2).1, fun o ho => ((traceFlush_spec s2).2 o ho).trans (h2.2 o ho)⟩
    · exact h2
  · exact ⟨.refl s, fun _ _ => rfl⟩

/-- What a record adds to the state beside status bits: its place in the queue, its number, ALERT_N (R340, R546). -/
def recorded (s : State) (src sev part payload : Nat) : State :=
  let room : Bool := s.dbg.errq.length < 64
  { s with
    dbg := { s.dbg with
      errSeq := s.dbg.errSeq + 1
      errq := if room then
          s.dbg.errq ++ [errRecord src sev s.dbg.errSeq.toNat part s.pwr.aon (BitVec.ofNat 128 payload)]
        else s.dbg.errq }
    pci := { s.pci with alert := s.pci.alert || (room && decide (sev = 2)) } }

/-- A record enters the queue or is dropped; either way its number is taken. Nothing else of the state but the status
registers, ALERT_N, messages and the trace changes. -/
theorem postErr_spec (s : State) (src sev part payload : Nat) :
    SideOnly (recorded s src sev part payload) (postErr s src sev part payload) ∧
      RegsKept s (postErr s src sev part payload) (rErrStat :: traceRegs) := by
  unfold postErr
  extract_lets r z0 s0 s1 z1 z2 s2
  have h := trace_spec s0 13 0xFF part 0xFF s.dbg.errSeq.toNat 0 0
  have hr : ∀ {u v : State}, RegsKept s0 u traceRegs → (∀ o, o ≠ rErrStat → v.reg o = u.reg o) →
      RegsKept s v (rErrStat :: traceRegs) :=
    fun h1 h2 o ho => (h2 o (fun e => ho (e ▸ List.mem_cons_self))).trans
      (h1 o (fun e => ho (List.mem_cons_of_mem _ e)))
  split
  · rename_i room
    refine ⟨SideOnly.trans ?_ (raise_spec s2 _ _).1, hr h.2 (fun o ho => ?_)⟩
    · have e : recorded s src sev part payload = { s0 with
          dbg := { s0.dbg with errq := s.dbg.errq ++ [r] }
          pci := { s.pci with alert := s.pci.alert || decide (sev = 2) } } := by simp [recorded, room, s0, z0, r]
      rw [e]
      have hd := congrArg (fun d : DbgSt => { d with errq := d.errq ++ [r] }) h.1.dbg
      have hp := congrArg (fun d : PciSt => { d with alert := d.alert || decide (sev = 2) }) h.1.pci
      exact ⟨hp, h.1.sec, h.1.bup, h.1.cmp, h.1.xlt, h.1.cel, h.1.hbm, h.1.plc, h.1.ral, h.1.pwr, h.1.pending, hd⟩
    · rw [(raise_spec _ _ _).2, if_neg ho]
      rfl
  · rename_i room
    refine ⟨SideOnly.trans (SideOnly.trans ?_ (SideOnly.addSat s1 _ _ _)) (raise_spec _ _ _).1, hr h.2 (fun o ho => ?_)⟩
    · have : recorded s src sev part payload = s0 := by simp [recorded, room, s0, z0]
      rw [this]
      exact h.1
    · rw [(raise_spec _ _ _).2, if_neg ho, State.reg_addSat _ _ _ _ _ ho]

end Sys2Proof.Machine
end

