-- ==== Sys2Proof/Laws/Thread.lean ====
section
/-! SUPPORT. Thread instructions: what issuing does when the instruction runs, and what each shared shape (compute a
register, branch) leaves. -/

namespace Sys2Proof.Machine

open Sys2Proof

/-! ### Registers of a thread -/

theorem Thread.reg_setReg (x : Thread) (d r : Nat) (v : Word) (hd : d < 64) (hr : r < 64) :
    (x.setReg d v).reg r = if r = 63 then 0 else if r = d then v else x.reg r := by
  unfold Thread.reg Thread.setReg
  rw [Nat.mod_eq_of_lt hd, Nat.mod_eq_of_lt hr]
  by_cases h : r = 63
  · simp [h]
  · by_cases h2 : d = 63
    · simp [h, h2]
    · simp [h, h2]

theorem Thread.setReg_pc (x : Thread) (d : Nat) (v : Word) : (x.setReg d v).pc = x.pc := by
  unfold Thread.setReg; split <;> rfl

theorem Thread.setReg_eq (x : Thread) (d : Nat) (v : Word) : x.setReg d v = { x with regs := (x.setReg d v).regs } := by
  unfold Thread.setReg; split <;> rfl

/-! ### Issue -/

/-- A well-formed thread instruction spells itself. -/
theorem spelled_legal {i : Instr} (h : Laws.roundTrip.Statement i) (hw : i.wf = true) (hi : (isaWord i).isSome = true) :
    spelled i = .legal := by
  obtain ⟨w, e⟩ := Option.isSome_iff_exists.1 hi
  simp [spelled, e, h hw w e]

/-- An instruction that runs has its own effect. -/
theorem issue_runs {i : Instr} {s u : State} {x : Thread} (hr : Runs i s u x) (h : Laws.roundTrip.Statement i)
    (hi : (isaWord i).isSome = true) (body : State → Thread → State) : issue i s body = body u x := by
  obtain ⟨hw, ht, hg, he, v, hf, hv, rfl⟩ := hr
  have hl := spelled_legal h hw hi
  simp [issue, ht, hg, he, hf, hl, updThread, hv, Thread.issued]

theorem Runs.thread {i : Instr} {s u : State} {x : Thread} (hr : Runs i s u x) :
    u.thread (slotOf i) = some (x.issued i) := by
  obtain ⟨-, -, -, -, v, -, -, rfl⟩ := hr
  simp

/-! ### Completion -/

theorem charge_spec (s : State) (t n : Nat) (x : Thread) (h : s.thread t = some x) :
    charge s t n = { s with
      regs := (charge s t n).regs
      cmp := { s.cmp with thr := smSet s.cmp.thr t { x with issue := x.issue + n } } } ∧
    RegsKept s (charge s t n) countRegs := by
  unfold charge
  rw [h]
  obtain ⟨h1, h2⟩ := countEv_spec (s.setThread t { x with issue := x.issue + n }) 1 (bayOfSlot t) x.part n
  exact ⟨h1, fun o ho => (h2 o ho).trans rfl⟩

/-- An instruction that completes: its thread changes, its slots are counted, and nothing else happens. -/
theorem retire_spec (i : Instr) (s : State) (x : Thread) (h : s.thread (slotOf i) = some x) (f : Thread → Thread) :
    Finished i s (retire i s f) (f { x with issue := x.issue + issueSlots i }) := by
  obtain ⟨h1, h2⟩ := charge_spec s (slotOf i) (issueSlots i) x h
  have ht : (charge s (slotOf i) (issueSlots i)).thread (slotOf i) = some { x with issue := x.issue + issueSlots i } := by
    rw [State.thread, h1]; simp
  have e : retire i s f = (charge s (slotOf i) (issueSlots i)).setThread (slotOf i)
      (f { x with issue := x.issue + issueSlots i }) := by
    simp [retire, updThread, ht]
  rw [e]
  refine ⟨?_, ?_, fun o ho => (h2 o ho)⟩
  · rw [h1]; simp [State.setThread]
  · rw [h1]; rfl

theorem retireReg_spec (i : Instr) (s : State) (x : Thread) (h : s.thread (slotOf i) = some (x.issued i)) (d : Nat)
    (hd : d < 64) (v : Word) :
    ∃ y, Finished i s (retireReg i s d v) y ∧ HasWritten x y d v ∧
      Passed i (issueSlots i) x y ((x.pc + 4) % 2 ^ 64) y.regs := by
  refine ⟨_, retire_spec i s _ h _, fun r hr => ?_, ?_⟩
  · show (({ x.issued i with issue := _ } : Thread).setReg d v).reg r = _
    rw [Thread.reg_setReg _ _ _ _ hd hr]
    rfl
  · rw [Thread.setReg_eq]
    rfl

/-- An instruction that computes a register from registers. -/
theorem alu_spec {i : Instr} {s u : State} {x : Thread} (hr : Runs i s u x) (h : Laws.roundTrip.Statement i)
    (hi : (isaWord i).isSome = true) (d : Nat) (hd : d < 64) (f : Thread → Word) :
    ∃ y, Finished i u (alu i d f s) y ∧ HasWritten x y d (f x) ∧
      Passed i (issueSlots i) x y ((x.pc + 4) % 2 ^ 64) y.regs := by
  rw [alu, issue_runs hr h hi]
  exact retireReg_spec i u x hr.thread d hd (f x)

/-- A branch. -/
theorem branch_spec {i : Instr} {s u : State} {x : Thread} (hr : Runs i s u x) (h : Laws.roundTrip.Statement i)
    (hi : (isaWord i).isSome = true) (hn : issueSlots i = 1) (c : Thread → Bool) (g : Thread → Word) :
    ∃ y, Finished i u (branch i c g s) y ∧
      Passed i 1 x y (if c x then (g x).toNat else (x.pc + 4) % 2 ^ 64) x.regs := by
  rw [branch, issue_runs hr h hi]
  refine ⟨_, retire_spec i u _ hr.thread _, ?_⟩
  have hlt := (g x).isLt
  by_cases hc : c x = true
  · simp [hc, Passed, Thread.goto, Thread.issued, hn, Nat.mod_eq_of_lt hlt]
  · simp [hc, Passed, Thread.goto, Thread.next, Thread.issued, hn]

end Sys2Proof.Machine
end

