-- ==== Sys2Proof/Tests/Slice0.lean ====
section
/-! SUPPORT. The model's own tests: a form that WellFormed refuses for each check, words and numbers that the spec works
out, and for every statement a state and operands that meet its hypotheses. -/

namespace Sys2Proof.Tests

open Sys2Proof Sys2Proof.Machine

-- one proof at a time: the evaluations need much stack
set_option Elab.async false

/-! ### States built for the tests -/

/-- An operator of kind 3 on bay 0, and a Blend whose partition 0 has bay 0 and 64 GiB. -/
def oper0 : Oper := ⟨0, 0, 3, 1, 1, 0, false, false, false, 0, 0, 1, 0xFFFFFF, [], 0xFF, 0xFF, [], []⟩

def part0 : Part := ⟨1, 0xFFFF, 64, 32, false, 1, 1, 0, 0, 0, 2 ^ 36⟩

def blend0 : Blend := ⟨[(0, part0)], [oper0], [], [], [], [(0, true, 8)], [], none, 0, 0, 0⟩

/-- Power is on, port 0 is the owner, every bring-up step is done, 256 GB of HBM are backed. -/
def lit : State :=
  ({ State.reset with pci := { pwrgood := true, perstLow := 0, owner := some 0, deadline := true, wasUp := 1, up := 1 } }
    |>.setReg rBupDone 0x7FE).setFld rHbmCap fHbmCapBackedTop (2 ^ 38) |> fun s =>
    { s with bup := { s.bup with
      blend := some blend0
      roles := 3
      enabledOnce := true } }

/-- Function 0 of port 0: ATS, PRI and PASID enabled, a BAR2 of 8 TiB at bus address 0. -/
def fn0 : Fn := ⟨0, 0⟩

/-- A context bound to function 0 and PASID 5, whose first 64 KiB translate to the first 64 KiB of HBM. -/
def bound : State :=
  { (lit.setFn fn0 { FnCfg.initial with
      ats := true
      pri := true
      pasid := true
      alloc := 64
      bar2Log2 := 43
      bar2Base := some 0 }).setReg (rXltCtxBind 0)
        (fXltCtxBindValid.put (fXltCtxBindPasid.put 0 5) 1) with
    xlt := {
      bay := [(0, [⟨0, 0, 0, 4, 0, 0, true, true, true, false, false⟩])]
      l2 := [⟨0, 0, 0, 4, 0, 0, true, true, true, false, false⟩] } }

/-- A ready thread at PC 0x100 with g1 = 0x1000, g2 = −3, g3 = 2, and in g8 to g15 the descriptor of a tile of 16 FP32
elements from 0x1000 to 0x2000. -/
def thr0 : Thread :=
  ⟨0, 0, 0, 0, 0x100, [(1, 0x1000), (2, 0xFFFFFFFFFFFFFFFD), (3, 2), (8, 0x10000000010000), (10, 0x1000), (13, 0x2000),
    (14, 0x4000000000004)], 0, 0, .ready, [], none, false⟩

/-- The line of its PC in the L1 of cell 0, and the line at 0x1000. -/
def l1Of : List L1Line := [⟨.hbm 0x100, 0, 0, false, 1⟩, ⟨.hbm 0x1000, 0x8877665544332211, 0, false, 1⟩]

/-- Its task, of two threads, at entry 0x100. -/
def run0 : TaskRun := ⟨0, 0, ⟨true, 2, 0x100, 7, 0x8000, 0x400, 0xFF, 0, 0⟩, 2, 0, none, [0]⟩

/-- That thread in slot 0, alone. -/
def ran : State := { bound with cmp := { thr := [(0, thr0)], tasks := [(0, run0)], l1 := [(0, l1Of)] } }

theorem runs_of {i : Instr} {s : State} {x : Thread}
    (h : i.wf = true ∧ s.thread (slotOf i) = some x ∧ s.issues (slotOf i) = true ∧ x.ending = none ∧
      (fetch s (slotOf i) x).2 = true ∧ (fetch s (slotOf i) x).1.thread (slotOf i) = some x) :
    Runs i s ((fetch s (slotOf i) x).1.setThread (slotOf i) (x.issued i)) x :=
  ⟨h.1, h.2.1, h.2.2.1, h.2.2.2.1, (fetch s (slotOf i) x).1,
    Prod.ext rfl h.2.2.2.2.1, h.2.2.2.2.2, rfl⟩

theorem ran_runs (i : Instr) (hw : i.wf = true) (ht : slotOf i = 0) :
    Runs i ran ((fetch ran 0 thr0).1.setThread 0 (thr0.issued i)) thr0 := by
  have h := @runs_of i ran thr0
  rw [ht] at h
  exact h ⟨hw, by decide +kernel, by decide +kernel, by decide +kernel, by decide +kernel, by decide +kernel⟩

/-- The state of `ran` once the instruction in slot 0 has been fetched. -/
def ranAt (i : Instr) : State := (fetch ran 0 thr0).1.setThread 0 (thr0.issued i)

/-- The state that a command leaves. -/
def after (c : Instr) (s : State) : State :=
  match exec c s with
  | .next t => t
  | _ => s

/-- Register `d` of the thread in slot 0 after an instruction. -/
def gives (i : Instr) (d : Nat) : Option Word := ((after i ran).thread 0).map (fun x => x.reg d)

/-! ### Thread instructions -/

theorem test_add : gives (.add 0 4 1 2) 4 = some 0xFFD := by decide +kernel
theorem test_sub : gives (.sub 0 4 3 2) 4 = some 5 := by decide +kernel
theorem test_andn : gives (.andn 0 4 2 3) 4 = some 0xFFFFFFFFFFFFFFFD := by decide +kernel
theorem test_shl_modulo_64 : gives (.shl 0 4 3 2) 4 = some 0x4000000000000000 := by decide +kernel
theorem test_sar : gives (.sar 0 4 2 3) 4 = some 0xFFFFFFFFFFFFFFFF := by decide +kernel
theorem test_min_signed : gives (.min 0 4 1 2) 4 = some 0xFFFFFFFFFFFFFFFD := by decide +kernel
theorem test_minu : gives (.minu 0 4 1 2) 4 = some 0x1000 := by decide +kernel
theorem test_mulhs : gives (.mulhs 0 4 2 3) 4 = some 0xFFFFFFFFFFFFFFFF := by decide +kernel
theorem test_mulhu : gives (.mulhu 0 4 2 3) 4 = some 1 := by decide +kernel
theorem test_divs_towards_zero : gives (.divs 0 4 2 3) 4 = some 0xFFFFFFFFFFFFFFFF := by decide +kernel
theorem test_rmds_sign_of_dividend : gives (.rmds 0 4 2 3) 4 = some 0xFFFFFFFFFFFFFFFF := by decide +kernel
theorem test_divs_by_zero : gives (.divs 0 4 2 63) 4 = some 0 := by decide +kernel
theorem test_rmdu_by_zero : gives (.rmdu 0 4 1 63) 4 = some 0x1000 := by decide +kernel
theorem test_clz_zero : gives (.clz 0 4 63) 4 = some 64 := by decide +kernel
theorem test_ctz : gives (.ctz 0 4 1) 4 = some 12 := by decide +kernel
theorem test_popc : gives (.popc 0 4 2) 4 = some 63 := by decide +kernel
theorem test_g63 : gives (.add 0 63 1 1) 63 = some 0 := by decide +kernel
theorem test_addk_sign : gives (.addk 0 4 1 0x3FFF) 4 = some 0xFFF := by decide +kernel
theorem test_shin : gives (.shin 0 3 0xFFFFF) 3 = some 0x2FFFFF := by decide +kernel
theorem test_pca : gives (.pca 0 4 0xFFFFF) 4 = some 0xFC := by decide +kernel
theorem test_call : gives (.call 0 0x10) 62 = some 0x104 ∧
    ((after (.call 0 0x10) ran).thread 0).map Thread.pc = some 0x140 := by decide +kernel
theorem test_cbr_taken : ((after (.cbrLt 0 2 3 0x3FFF) ran).thread 0).map Thread.pc = some 0xFC := by decide +kernel
theorem test_lds16 : gives (.lds16 0 4 1 0 6) 4 = some 0xFFFFFFFFFFFF8877 := by decide +kernel
theorem test_ldu8 : gives (.ldu8 0 4 1 0 1) 4 = some 0x22 := by decide +kernel

/-- The instructions of IntegerOpsCompute at operands among them a zero divisor and a negative number. -/
def someInt : List Instr :=
  [.add 0 4 1 2, .sub 0 4 1 2, .and 0 4 1 2, .or 0 4 1 2, .xor 0 4 1 2, .andn 0 63 1 2, .shl 0 4 1 2, .shr 0 4 1 2,
    .sar 0 4 2 3, .min 0 4 1 2, .max 0 4 1 2, .minu 0 4 1 2, .maxu 0 4 1 2, .mul 0 4 1 2, .mulhs 0 4 1 2,
    .mulhu 0 4 1 2, .divs 0 4 1 63, .divu 0 4 1 63, .rmds 0 4 1 63, .rmdu 0 4 1 63, .clz 0 4 63, .ctz 0 4 63,
    .popc 0 4 2, .sel 0 4 1 2]

/-- The instructions of ImmediatesCompute at operands among them shifts by 0 and 63 and negative numbers. -/
def someImm : List Instr :=
  [.cmp 0 0 4 1 2, .cmp 0 1 4 1 2, .cmp 0 2 4 1 2, .cmp 0 3 4 1 2, .cmp 0 4 4 1 2, .cmp 0 5 4 1 2, .addk 0 4 1 0x2000,
    .andk 0 4 1 0x3FFF, .ork 0 4 1 0x1FFF, .xork 0 4 1 0, .cmpkLt 0 4 1 0, .cmpkUlt 0 4 1 0x3FFF, .shlk 0 4 1 63,
    .shrk 0 4 1 63, .sark 0 4 1 0, .seti 0 4 0x80000, .shin 0 4 0xFFFFF, .pca 0 4 0x80000]

def someAlu : List Instr := someInt ++ someImm

/-- Branches, jumps, fences and system instructions. -/
def someFlow : List Instr :=
  [.cbrEq 0 1 1 0x2000, .cbrNe 0 1 1 0x1FFF, .cbrLt 0 2 1 0, .cbrGe 0 2 1 0, .cbrUlt 0 2 1 0, .cbrUge 0 2 1 0,
    .jmp 0 0x2000000, .nop 0, .jmpr 0 1 0x3FFC, .call 0 0x1FFFFFF, .callr 0 1 4, .fenceRelease 0, .fenceAcquire 0,
    .fenceFull 0, .rds 0 4 0, .rds 0 4 1, .rds 0 4 2, .rds 0 4 3, .rds 0 4 4, .rds 0 4 5, .rds 0 4 6, .rds 0 4 7,
    .rds 0 4 8, .brk 0, .exit 0, .opcall 0 4 8 0, .spawn 0 4 1 ⟨[], false⟩, .barrierInit 0 0 4 3 0,
    .barrierArrive 0 0 4 15, .barrierWait 0 0 3 0, .barrierQuery 0 0 4 0, .barrierArrive 0 0 4 16,
    .barrierWait 0 0 3 16, .barrierQuery 0 0 4 63]

/-- Floating point in every format. -/
def someFp : List Instr :=
  ([0, 1, 2].flatMap (fun f => [.fadd 0 f 4 1 2, .fsub 0 f 4 1 2, .fmul 0 f 4 1 2, .fmac 0 f 4 1 2, .fmin 0 f 4 1 2,
    .fmax 0 f 4 1 2, .feq 0 f 4 1 2, .flt 0 f 4 1 2, .fle 0 f 4 1 2, .fabs 0 f 4 1, .fneg 0 f 4 1, .frcp 0 f 4 1,
    .frsq 0 f 4 1, .fexp2 0 f 4 1, .flog2 0 f 4 1])) ++ [.cvt 0 4 1 0x3F 0 true, .cvt 0 4 1 0 0x3F false]

/-- IntegerOpsCompute, ImmediatesCompute, BranchesGo, FloatingPointComputes: every instruction runs in `ran`; the targets of
the jumps by register are 4-byte aligned. -/
theorem witness_runs : (∀ i ∈ someAlu ++ someFlow ++ someFp, Runs i ran (ranAt i) thr0) ∧
    ((thr0.reg 1).toInt + (0x3FFC : BitVec 14).toInt) % 4 = 0 ∧ ((thr0.reg 1).toInt + (4 : BitVec 14).toInt) % 4 = 0 := by
  refine ⟨fun i h => ?_, by decide +kernel, by decide +kernel⟩
  have h2 : i.wf = true ∧ slotOf i = 0 :=
    (by decide +kernel : ∀ i ∈ someAlu ++ someFlow ++ someFp, i.wf = true ∧ slotOf i = 0) i h
  exact ran_runs i h2.1 h2.2

/-- FloatsRoundTripAndOrder: a NaN, a number, and the two. -/
theorem witness_floats : fpDec fp32 0x7FC00000 = .nan ∧ fpDec fp16 0x3C00 ≠ .nan ∧ fpDec fp16 0x8000 ≠ .nan := by
  decide +kernel

/-- The state after the translation of an access of the thread in slot 0. -/
def went (i : Instr) (va : Nat) (acc : Acc) : State := (translate (ranAt i) ⟨.thread 0, 0, va, acc, 0, 0⟩ true).1

theorem goes (i : Instr) (va : Nat) (acc : Acc) (p : Phys) (hs : slotOf i = 0)
    (h : (translate (ranAt i) ⟨.thread 0, 0, va, acc, 0, 0⟩ true).2 = .ok p ∧
      (went i va acc).thread 0 = some (thr0.issued i)) : Translates i (ranAt i) (went i va acc) thr0 va acc p := by
  unfold Translates
  rw [hs]
  exact ⟨Prod.ext rfl h.1, h.2⟩

/-- LoadsComplete, first part: a hit for each size at the end of the line's first word, and of the pool. -/
theorem witness_loads_hit : ∀ e ∈ [((.ldl 0 4 0x1E0 : Instr), 8, 0x1000), (.ldu8 0 4 1 0 7, 1, 0x1007),
      (.lds8 0 4 1 2 7, 1, 0x1007), (.ldu16 0 4 1 0 6, 2, 0x1006), (.lds16 0 4 1 0 6, 2, 0x1006), (.ldu32 0 4 1 1 4, 4, 0x1004),
      (.lds32 0 4 1 0 4, 4, 0x1004), (.ld64 0 4 1 0 0, 8, 0x1000)],
    ∃ l, LoadHits e.1 ran (ranAt e.1) (went e.1 e.2.2 .read) thr0 e.2.1 0 e.2.2 (.hbm e.2.2) l := by
  intro e h
  refine ⟨⟨.hbm 0x1000, 0x8877665544332211, 0, false, 1⟩, ran_runs e.1 ?_ ?_, ?_, goes _ _ _ _ ?_ ?_, by simp, by decide,
    ?_, ?_, ?_⟩ <;> revert e <;> decide +kernel

/-- Misses: hint 3, and a line that is not there. -/
theorem witness_loads_miss : ∀ e ∈ [((.ldl 0 4 0x200 : Instr), 8, 0, 0x1100), (.ldu8 0 4 1 3 7, 1, 3, 0x1007),
      (.lds8 0 4 1 3 7, 1, 3, 0x1007), (.ldu16 0 4 1 3 6, 2, 3, 0x1006), (.lds16 0 4 1 3 6, 2, 3, 0x1006),
      (.ldu32 0 4 1 0 0x100, 4, 0, 0x1100), (.lds32 0 4 1 0 0x100, 4, 0, 0x1100), (.ld64 0 4 1 0 0x100, 8, 0, 0x1100)],
    LoadMisses e.1 ran (ranAt e.1) (went e.1 e.2.2.2 .read) thr0 e.2.1 e.2.2.1 e.2.2.2 (.hbm e.2.2.2) := by
  intro e h
  refine ⟨ran_runs e.1 ?_ ?_, ?_, goes _ _ _ _ ?_ ?_, ?_, ?_⟩ <;> revert e <;> decide +kernel

/-! ### Faults, fences, barriers, flags -/

theorem runs_ran {i : Instr} (h : i.wf = true ∧ slotOf i = 0) : Runs i ran (ranAt i) thr0 := ran_runs i h.1 h.2

/-- ThreadFaultsEnd: each cause, at an odd address, a target that is not aligned, a word without an instruction, counter 16
and disabled breakpoints; nothing of the thread waits at a slice, and its task has another thread. -/
theorem witness_faults :
    (∀ i ∈ [(.ldu16 0 4 2 0 0 : Instr), .st64 0 4 2 0 0, .jmpr 0 2 0, .callr 0 2 0, .barrierArrive 0 0 4 16,
        .barrierWait 0 0 2 63, .brk 0], Runs i ran (ranAt i) thr0 ∧ (∀ h ∈ (ranAt i).cel.xbar, h.who ≠ .thread 0) ∧
        (∃ r, smGet (ranAt i).cmp.tasks thr0.task = some r ∧ 1 < r.live ∧ r.desc.abortOnFault = true)) ∧
    (((thr0.reg 2).toInt + (0 : BitVec 12).toInt) % 2 ^ 64).toNat % 2 ≠ 0 ∧
    (((thr0.reg 2).toInt + (0 : BitVec 14).toInt) % 2 ^ 64).toNat % 4 ≠ 0 ∧
    (ranAt (.brk 0)).fld rDbgLevel fDbgLevelBrkEn = 0 ∧
    isaDecode 0 ⟨[], false⟩ 0xFC000000 = none ∧ ran.thread 0 = some thr0 ∧ ran.issues 0 = true ∧
    fetch ran 0 thr0 = ((fetch ran 0 thr0).1, true) ∧ (fetch ran 0 thr0).1.thread 0 = some thr0 := by
  refine ⟨fun i h => ⟨runs_ran ?_, ?_, run0, ?_⟩, by decide +kernel, by decide +kernel, by decide +kernel, by decide +kernel,
    by decide +kernel, by decide +kernel, Prod.ext rfl (by decide +kernel), by decide +kernel⟩ <;> revert i <;> decide +kernel

theorem test_misaligned_load : (after (.ldu16 0 4 2 0 0) ran).thread 0 = none ∧
    ((smGet (after (.ldu16 0 4 2 0 0) ran).cmp.tasks 0).bind TaskRun.fault).map FaultInfo.code = some 2 := by
  decide +kernel

/-- StoresGoToSlices: each size at the end of a 64-byte word. -/
theorem witness_stores : ∀ e ∈ [((.st8 0 2 1 0 63 : Instr), 1, 0x103F), (.st16 0 2 1 1 62, 2, 0x103E),
      (.st32 0 2 1 2 60, 4, 0x103C), (.st64 0 2 1 2 56, 8, 0x1038)],
    StoreMay e.1 ran (ranAt e.1) (went e.1 e.2.2 .write) thr0 e.2.1 e.2.2 e.2.2 := by
  intro e h
  refine ⟨runs_ran ?_, ?_, goes _ _ _ _ ?_ ?_, by decide, ?_⟩ <;> revert e <;> decide +kernel

/-- AccumulateAndHintsGo: SACC, a prefetch and a CINV at 0x1000. -/
theorem witness_accumulate :
    (Runs (.sacc 0 1 4 1 3) ran (ranAt (.sacc 0 1 4 1 3)) thr0 ∧ (thr0.reg 1).toNat % 32 = 0 ∧ thr0.stores.length < 4 ∧
      Translates (.sacc 0 1 4 1 3) (ranAt (.sacc 0 1 4 1 3)) (went (.sacc 0 1 4 1 3) 0x1000 .update) thr0 0x1000 .update
        (.hbm 0x1000) ∧ (went (.sacc 0 1 4 1 3) 0x1000 .update).mayWrite 0 0x1000 = true) ∧
    (Runs (.pref 0 1 1 3 0) ran (ranAt (.pref 0 1 1 3 0)) thr0 ∧
      lookup (ranAt (.pref 0 1 1 3 0)) thr0.m 0x1000 .read (some 0) = some (.hbm 0x1000) ∧
      (ranAt (.pref 0 1 1 3 0)).permits (.thread 0) false 0x1000 = true ∧
      (ranAt (.pref 0 1 1 3 0)).poolAllows (.thread 0) true 0x1000 = true) ∧
    (Runs (.cinv 0 1 0) ran (ranAt (.cinv 0 1 0)) thr0 ∧
      Translates (.cinv 0 1 0) (ranAt (.cinv 0 1 0)) (went (.cinv 0 1 0) 0x1000 .read) thr0 0x1000 .read (.hbm 0x1000)) :=
  ⟨⟨runs_ran (by decide), by decide +kernel, by decide, goes _ _ _ _ rfl (by decide +kernel), by decide +kernel⟩,
    ⟨runs_ran (by decide), by decide +kernel, by decide +kernel, by decide +kernel⟩,
    ⟨runs_ran (by decide), goes _ _ _ _ rfl (by decide +kernel)⟩⟩

/-- A state with thread `x` in slot 0 and counter 0 of bay 0 as given. -/
def withThr (x : Thread) (b : Bar) : State := { ran with cmp := { ran.cmp with thr := [(0, x)], bars := [(0, b)] } }

def atThr (i : Instr) (x : Thread) (b : Bar) : State := (fetch (withThr x b) 0 x).1.setThread 0 (x.issued i)

theorem runs_thr {i : Instr} {x : Thread} {b : Bar} (h : (i.wf = true ∧ slotOf i = 0) ∧
    (withThr x b).thread 0 = some x ∧ (withThr x b).issues 0 = true ∧ x.ending = none ∧
      (fetch (withThr x b) 0 x).2 = true ∧ (fetch (withThr x b) 0 x).1.thread 0 = some x) :
    Runs i (withThr x b) (atThr i x b) x := by
  have h2 := @runs_of i (withThr x b) x
  rw [h.1.2] at h2
  exact h2 ⟨h.1.1, h.2⟩

/-- A thread with a store on its way. -/
def storing : Thread := { thr0 with stores := [⟨.hbm 0x1000, 8, 0⟩] }

/-- FencesAndBarriers: a fence with and without a store on its way; INIT, an ARRIVE that does not complete and one that does,
a WAIT on the other phase and on the same, at the largest target and at target 1. -/
theorem witness_fences :
    (Runs (.fenceRelease 0) (withThr storing ⟨0, 0, false, false⟩) (atThr (.fenceRelease 0) storing ⟨0, 0, false, false⟩)
        storing ∧ storing.stores ≠ []) ∧
    (∀ i ∈ [(.barrierInit 0 0 4 3 0 : Instr)], Runs i ran (ranAt i) thr0 ∧ ((ranAt i).bar 0).count = 0 ∧
      (ranAt i).barWaited 0 = false ∧ ((ranAt i).bar 0).awaiting = false ∧ 1 ≤ (thr0.reg 3).toNat ∧
      (thr0.reg 3).toNat ≤ 131071) ∧
    (∀ e ∈ [((.barrierArrive 0 0 4 0 : Instr), (⟨131071, 131069, false, false⟩ : Bar)), (.barrierArrive 0 0 4 0, ⟨1, 0, true, false⟩),
        (.barrierWait 0 0 3 0, ⟨2, 1, false, false⟩), (.barrierWait 0 0 3 0, ⟨2, 1, true, false⟩)],
      Runs e.1 (withThr thr0 e.2) (atThr e.1 thr0 e.2) thr0 ∧ (atThr e.1 thr0 e.2).bar 0 = e.2 ∧ e.2.target ≠ 0 ∧
        e.2.awaiting = false ∧ (atThr e.1 thr0 e.2).barHolders 0 = []) ∧
    (thr0.reg 3).getLsbD 0 = false := by
  refine ⟨⟨runs_thr (by decide +kernel), by decide⟩, fun i h => ⟨runs_ran ?_, ?_⟩, fun e h => ⟨runs_thr ?_, ?_⟩,
    by decide +kernel⟩
  · revert i; decide +kernel
  · revert i; decide +kernel
  · revert e; decide +kernel
  · revert e; decide +kernel

theorem test_barrier_last_arrival : (after (.barrierArrive 0 0 4 0) (withThr thr0 ⟨2, 1, false, false⟩)).bar 0 = ⟨2, 0, true, false⟩ := by
  decide +kernel

/-- A thread that waits as given, with a reply to it. -/
def waits (w : Wait) : Thread := { thr0 with st := .waiting w }

def answered (w : Wait) (status : Nat) : State :=
  { ran with cmp := { ran.cmp with thr := [(0, waits w)], replies := [⟨0, 0x1000, 0xFF, 0, status, 9, 0⟩] } }

/-- LoadsComplete, third part: a load of 8 bytes waits, and its line is there. -/
theorem witness_load_reply :
    let w := Wait.data 4 8 false 0 0x1000 (.hbm 0x1000) 0
    let s := answered w 0
    s.live = true ∧ s.bayRuns 0 = true ∧ s.thread 0 = some (waits w) ∧
      s.cmp.replies.find? (fun r => r.slot = 0) = some ⟨0, 0x1000, 0xFF, 0, 0, 9, 0⟩ ∧
      answers w ⟨0, 0x1000, 0xFF, 0, 0, 9, 0⟩ = true := by
  decide +kernel

/-- FlagsAskAndAnswer: SET with rel and ADD without, a WAIT; the replies; a timeout in the gap and while it waits; a retry. -/
theorem witness_flags :
    (∀ e ∈ [((.flagSet 0 4 1 3 true : Instr), Acc.update), (.flagAdd 0 4 1 3 false, .update), (.flagWait 0 3 1 3 2, .read)],
      Runs e.1 ran (ranAt e.1) thr0 ∧ (thr0.reg 1).toNat % 8 = 0 ∧ thr0.stores = [] ∧
        Translates e.1 (ranAt e.1) (went e.1 0x1000 e.2) thr0 0x1000 e.2 (.hbm 0x1000) ∧
        (went e.1 0x1000 e.2).mayWrite 0 0x1000 = true) ∧
    (∀ w ∈ [Wait.flagReply 3 (.hbm 0x1000) 0x1000 0, .flagWait 3 2 5 (.hbm 0x1000) 0x1000 false],
      (answered w 0).live = true ∧ (answered w 0).thread 0 = some (waits w) ∧ (answered w 0).bayRuns 0 = true ∧
        (answered w 0).cmp.replies.find? (fun r => r.slot = 0) = some ⟨0, 0x1000, 0xFF, 0, 0, 9, 0⟩ ∧
        answers w ⟨0, 0x1000, 0xFF, 0, 0, 9, 0⟩ = true) ∧
    (answered (.flagRetry 3 2 5 (.hbm 0x1000) 0x1000 1) 6).thread 0 = some (waits (.flagRetry 3 2 5 (.hbm 0x1000) 0x1000 1)) ∧
    thr0.reg 3 ≠ 0 := by
  refine ⟨fun e h => ⟨runs_ran ?_, ?_, ?_, goes _ _ _ _ ?_ ?_, ?_⟩, by decide +kernel, by decide +kernel,
    by decide +kernel⟩ <;> revert e <;> decide +kernel

/-! ### System instructions, tasks, contexts, tiles -/

/-- Breakpoints at D2. -/
def broke : State := (ran.setFld rDbgLevel fDbgLevelLevel 2).setFld rDbgLevel fDbgLevelBrkEn 1

/-- The queue full of tiles, of tasks. -/
def fullQ : State :=
  { ran with cmp := { ran.cmp with
    opq := [(0, List.replicate 64 ⟨0, 0, 0, 0, false, [], []⟩)]
    ctx := [(0, { Ctx.initial with queue := List.replicate 64 run0.desc })] } }

/-- A descriptor of a task of two threads as it stands in memory. -/
def taskBytes : List Byte :=
  [1, 0, 0, 0, 2, 0, 0, 0, 0, 1] ++ List.replicate 54 0

/-- A state whose line at 0x1000 the cellar holds with that descriptor, and a thread that spawns it. -/
def holding (d : Line) : State :=
  { ran with cel := { frames := [(frameKey (sliceOf 0x1000) (setOf 0x1000) 0,
    ⟨sliceOf 0x1000, lidxOf 0x1000, 1, [⟨lineOf 0x1000, 5, 0, .clean, 0, false, false, 0, d⟩]⟩)] } }

def spawnLine : Line := 0x1000000000200000001

/-- The read of the descriptor that it names. -/
def spawned : State × Got :=
  unitRead ((fetch (holding spawnLine) 0 thr0).1.setThread 0 (thr0.issued (.spawn 0 4 1 ⟨[], false⟩)))
    ⟨.thread 0, thr0.m, 0x1000, .read, 0, 0⟩ 64 ⟨[], false⟩

set_option maxRecDepth 20000 in
/-- SystemAndSubmit: each system value, a breakpoint, an EXIT, the end of halts; a tile accepted, refused by its code 2 and
by a full queue; a task refused by a full queue, by its address, and read. -/
theorem witness_system :
    (smGet (ranAt (.rds 0 4 8)).cmp.tasks thr0.task = some run0 ∧ 1 < run0.live ∧ ¬ (∃ h ∈ (ranAt (.exit 0)).cel.xbar, h.who = .thread 0)) ∧
    (let u := (fetch broke 0 thr0).1.setThread 0 (thr0.issued (.brk 0))
     Runs (.brk 0) broke u thr0 ∧ u.level = 2 ∧ u.fld rDbgLevel fDbgLevelBrkEn = 1 ∧
      u.fld rDbgLevel fDbgLevelBrkFreeze = 0 ∧ u.sealed thr0.part = false) ∧
    ran.canWrite fn0 rDbgBrk = true ∧
    ((ranAt (.opcall 0 4 8 0)).enabled = true ∧ ((ranAt (.opcall 0 4 8 0)).opq 0).length < 64 ∧
      (ranAt (.opcall 0 4 8 0)).tileCode 0 (thr0.desc 8) = 0 ∧ (ranAt (.opcall 0 4 0 3)).tileCode 0 (thr0.desc 0) ≠ 0) ∧
    (let u := (fetch fullQ 0 thr0).1.setThread 0 (thr0.issued (.opcall 0 4 8 0))
     Runs (.opcall 0 4 8 0) fullQ u thr0 ∧ 64 ≤ (u.opq 0).length) ∧
    (let u := (fetch fullQ 0 thr0).1.setThread 0 (thr0.issued (.spawn 0 4 1 ⟨[], false⟩))
     Runs (.spawn 0 4 1 ⟨[], false⟩) fullQ u thr0 ∧ 64 ≤ (u.context thr0.m).queue.length) ∧
    (thr0.reg 2).toNat % 64 ≠ 0 ∧
    (let i : Instr := .spawn 0 4 1 ⟨[], false⟩
     let s := holding spawnLine
     let u := (fetch s 0 thr0).1.setThread 0 (thr0.issued i)
     Runs i s u thr0 ∧ (thr0.reg 1).toNat % 64 = 0 ∧
      ∃ w, unitRead u ⟨.thread 0, thr0.m, 0x1000, .read, 0, 0⟩ 64 ⟨[], false⟩ = (w, .bytes taskBytes) ∧
        w.thread 0 = some (thr0.issued i) ∧ w.taskCode thr0.m taskBytes = 0) := by
  refine ⟨by decide +kernel, ⟨?_, by decide +kernel⟩, by decide +kernel, by decide +kernel, ⟨?_, by decide +kernel⟩,
    ⟨?_, by decide +kernel⟩, by decide +kernel, ?_, by decide +kernel,
    spawned.1, Prod.ext rfl ?_, ?_⟩
  · exact @runs_of (.brk 0) broke thr0 (by decide +kernel)
  · exact @runs_of (.opcall 0 4 8 0) fullQ thr0 (by decide +kernel)
  · exact @runs_of (.spawn 0 4 1 ⟨[], false⟩) fullQ thr0 (by decide +kernel)
  · exact @runs_of (.spawn 0 4 1 ⟨[], false⟩) (holding spawnLine) thr0 (by decide +kernel)
  · decide +kernel
  · decide +kernel

/-- `ran` with context 0 and the operator queues as given. -/
def ctxed (c : Ctx) (q : SMap (List Tile)) : State := { ran with cmp := { ran.cmp with ctx := [(0, c)], opq := q } }

/-- The tile of the descriptor in g8 to g15, number 7. -/
def tile0 : Tile := ⟨7, 0, 0, thr0.desc 8, false, [], []⟩

/-- A descriptor being read in a state. -/
def readingTask (d : Line) : State :=
  { holding d with cmp := { ran.cmp with ctx := [(0, { Ctx.initial with reading := [0x1000] })] } }

def taskRead (d : Line) : State × Got := unitRead (readingTask d) (taskWaiter 0 0x1000) 64 ⟨[], false⟩

/-- TasksQueueAndStart: doorbells of the first and the last context and of a full queue; a descriptor that is accepted
and one that is not; a start; queues of both levels; costs with a tie. -/
theorem witness_tasks :
    (ran.canWrite fn0 (rCmpTaskDb 0) = true ∧ ran.canWrite fn0 (rCmpTaskDb 1023) = true ∧ ran.enabled = true ∧
      (ran.context 0).queue.length < 64 ∧ fullQ.canWrite fn0 (rCmpTaskDb 0) = true ∧
      64 ≤ (fullQ.context 0).queue.length) ∧
    (∀ e ∈ [((spawnLine : Line), taskBytes), (0, List.replicate 64 0)],
      (readingTask e.1).live = true ∧ ((readingTask e.1).context 0).reading = [0x1000] ∧
      (taskRead e.1).2 = .bytes e.2 ∧ (taskRead e.1).1.context 0 = (readingTask e.1).context 0) ∧
    ((taskRead spawnLine).1.taskCode 0 taskBytes = 0 ∧ (taskRead 0).1.taskCode 0 (List.replicate 64 0) ≠ 0) ∧
    (let s := ctxed { Ctx.initial with queue := [run0.desc] } []
     s.live = true ∧ s.enabled = true ∧ (s.rotation 0).find? (fun c => (s.startable (64 * 0 + c)).isSome) = some 0 ∧
      s.startable 0 = some run0.desc ∧ (s.slotOrder 0 run0.desc.bayHint).take 2 = [1, 2]) ∧
    (∀ q, q < 4 → (ctxed Ctx.initial [(q, [tile0])]).nextQueue 0 = some q) ∧
    (ctxed Ctx.initial [(0, [tile0]), (1, [tile0]), (2, [tile0])]).nextQueue 0 = some 0 ∧
    (ctxed Ctx.initial []).nextQueue 0 = none ∧
    ran.chooseBay (fun b => b / 2) 0 [0, 1, 2, 31] = some 1 := by
  decide +kernel

/-- ContextsSuspendAndResume: an idle context; a function that is not mapped; running, suspended and suspending contexts, with a
save area and without; the ends of a suspend and of a resume. -/
theorem witness_contexts :
    (ran.canWrite fn0 rCmpCtxCtrl = true ∧ ran.fld rCmpCtxCtrl fCmpCtxCtrlBusy = 0 ∧ ran.mapped 0 fn0 = true) ∧
    (lit.canWrite ⟨0, 1⟩ rCmpCtxCtrl = true ∧ lit.mapped 1 ⟨0, 1⟩ = false) ∧
    (lit.ctxState 0 = 0 ∧ ran.ctxState 0 = 1 ∧ (ctxed { Ctx.initial with state := 2 } []).ctxState 0 = 2 ∧
      (ctxed { Ctx.initial with state := 3 } []).ctxState 0 = 3) ∧
    (ran.saveOk 0 ran.saveReg = true ∧ (ran.setFld rCmpCtxSave fCmpCtxSaveAddr (2 ^ 30)).saveOk 0 (2 ^ 36) = false ∧
      (ran.setFld rCmpCtxSave fCmpCtxSaveAddr (2 ^ 30)).saveReg = 2 ^ 36 ∧ ran.ral.reqs = []) ∧
    (let s := ctxed { Ctx.initial with state := 2, saved := [thr0] } []
     s.saveReg = (s.context 0).saveAddr ∧ (s.context 0).saved.length ≤ s.slotsOf 0) ∧
    (let s := ctxed { Ctx.initial with state := 3, op := 1 } []
     s.live = true ∧ (s.context 0).state = 3 ∧
      ∀ e ∈ s.cmp.thr, e.2.m = 0 → (e.2.st = .ready ∨ e.2.st = .halted) ∧ e.2.stores = []) ∧
    (let s := ctxed { Ctx.initial with state := 2, op := 2, saved := [thr0] } []
     s.live = true ∧ (s.context 0).op = 2 ∧ (s.context 0).saved.length ≤ (s.slotOrder 0 0xFF).length ∧
      (s.slotOrder 0 0xFF).Nodup) := by
  decide +kernel

/-- A state whose queue 0 holds the tile, in a context with and without translations. -/
def queued (l2 : List TlbEnt) : State :=
  { ctxed Ctx.initial [(0, [tile0])] with xlt := { l2 := l2 } }

def piece0 : Piece := Piece.fresh 0 1 0 0 []

/-- The tile with its piece in a phase, and another one unstarted. -/
def tileAt (ph : PiecePh) : Tile := { tile0 with cut := true, pieces := [{ piece0 with ph := ph }, piece0] }

/-- The pages of the piece. -/
def pagesOf (l2 : List TlbEnt) : PageRun :=
  let s := queued l2
  let p := ((cutTile oper0 tile0.desc).getD 0 (Piece.fresh 0 0 0 0 []))
  let t2 : Tile := { tile0 with cut := true, pieces := cutTile oper0 tile0.desc }
  let s2 : State := (updTile s 0 7 (fun _ => t2))
  let s3 : State := { s2 with cmp := { s2.cmp with qTurn := smPut s.cmp.qTurn 0 0 1 } }
  xlatPages (fun va acc => ⟨.piece 0 0 7 0, 0, va, acc, 0, 0⟩) ⟨s3, [], [], [], none⟩ (piecePages s3 0 t2 oper0 p)

/-- PiecesMove: a tile of one piece whose pages are all translated, or all missing; a translated piece; a piece that has run. -/
theorem witness_pieces :
    (∀ l2 ∈ [([] : List TlbEnt), [⟨0, 0, 0, 4, 0, 0, true, true, true, false, false⟩]],
      let s := queued l2
      s.live = true ∧ smGetD s.pwr.bayGate 0 0 = 0 ∧ s.nextQueue 0 = some 0 ∧ (s.opq 0).find? Tile.startable = some tile0 ∧
        ((s.opq 0).map Tile.id).Nodup ∧ s.operOf 0 (td tile0.desc 0 1) = some oper0 ∧
        (opnds 3 tile0.desc).findSome? (wideRow s 0 0 3) = none ∧
        ({ tile0 with cut := true, pieces := cutTile oper0 tile0.desc } : Tile).nextPiece = some 0 ∧
        fitPiece s 0 0 3 (opnds 3 tile0.desc) 40 ((cutTile oper0 tile0.desc).getD 0 (Piece.fresh 0 0 0 0 [])) [] =
          .fits ((cutTile oper0 tile0.desc).getD 0 (Piece.fresh 0 0 0 0 [])) [] ∧ (pagesOf l2).fault = none) ∧
    (pagesOf []).missing ≠ [] ∧
    (let r := pagesOf [⟨0, 0, 0, 4, 0, 0, true, true, true, false, false⟩]
     r.missing = [] ∧ r.places ≠ [] ∧
      ∀ e ∈ r.places, e.2.1 = 4 ∨
        (queued [⟨0, 0, 0, 4, 0, 0, true, true, true, false, false⟩]).placeStatus (.piece 0 0 7 0) (tdAcc tile0.desc) e.1
          e.2.1 = 0) ∧
    (let s := ctxed Ctx.initial [(0, [tileAt .translated])]
     s.live = true ∧ s.tile 0 7 = some (tileAt .translated) ∧ s.operOf 0 (td tile0.desc 0 1) = some oper0 ∧
      (ones oper0.bays.toNat 32).any s.bayOn = true ∧
      s.chooseBay (s.pieceCost 0 (td tile0.desc 13 1)
        ((opnds 3 tile0.desc).filterMap (localLines s 0 3 tile0.desc piece0)))
        (smGetD s.cmp.lastBay 0 31) ((List.range 32).filter (s.eligible oper0)) = some 0) ∧
    (let s := ctxed Ctx.initial [(0, [tileAt (.placed 0 true)])]
     s.live = true ∧ s.tile 0 7 = some (tileAt (.placed 0 true)) ∧ s.bayRuns 0 = true ∧ s.pieceWaits 0 7 0 = false ∧
      (tileAt (.placed 0 true)).pieces[1]? = some piece0 ∧ piece0.status = none) := by
  decide +kernel

/-- No region has a replica where none is held. -/
theorem witness_no_replica (q : SMap (List Tile)) (f : Nat) : (ctxed Ctx.initial q).replicaOf f = none := by
  unfold State.replicaOf
  split
  · rfl
  · rfl

/-! ### The cellar -/

theorem free_of {s : State} {n a : Nat} (h : s.backed a = true ∧ s.server (lineAddr a) = some n ∧ (s.slice n).state = 0 ∧
    s.setUnderTest n (setOf (lineAddr a)) = false ∧ (s.slice n).quarantined.contains (setOf (lineAddr a)) = false ∧
    (∀ y ∈ (s.slice n).victim ++ (s.slice n).side, lineAddr y.addr ≠ lineAddr a) ∧ smWf s.cel.frames = true) :
    Free s n a :=
  ⟨h.1, h.2.1, h.2.2.1, h.2.2.2.1, h.2.2.2.2.1, h.2.2.2.2.2.1, h.2.2.2.2.2.2⟩

theorem serves_of {s : State} {r : SReq} {writes : Bool} {n : Nat} (f : Free s n r.addr)
    (h : s.live = true ∧ s.permits r.who writes r.addr = true ∧ s.poolAllows r.who (!writes) (lineAddr r.addr) = true ∧
      s.sharersOf (regionOf (lineAddr r.addr)) = none ∧
      (∀ h ∈ s.cel.xbar, h.who = r.who → h.addr = r.addr → h.op ≠ .pref)) : Serves s r writes n :=
  ⟨h.1, f, h.2.1, h.2.2.1, h.2.2.2.1, h.2.2.2.2⟩

/-- A frame of one line at 0x1000, and a state that holds it in the slice and set of that address. -/
def ent0 (st : LineSt) (p : BitVec 4) (d : Line) : LineEnt :=
  ⟨lineOf 0x1000, 32, 0, st, 0, false, false, p, d⟩

def frame0 (e : LineEnt) : Frame := ⟨sliceOf 0x1000, lidxOf 0x1000, 1, [e]⟩

def slice0 : Slice := { Slice.initial (sliceOf 0x1000) with waits := [⟨.thread 0, 0x1008, 0, 7⟩] }

def caches (e : LineEnt) : State :=
  { ran with cel := {
      frames := [(frameKey (sliceOf 0x1000) (setOf 0x1000) 0, frame0 e)]
      slices := [(sliceOf 0x1000, slice0)] } }

/-- SlicesServeRequests: a clean line of class 32 and a dirty one with poison in its first sector, their slice free. -/
theorem witness_slices : ∀ e ∈ [ent0 .clean 0 0x11, ent0 .dirty 1 0x11],
    Free (caches e) (sliceOf 0x1000) 0x1008 ∧ Holds (caches e) (sliceOf 0x1000) 0x1008 0 (frame0 e) e ∧
      (e.st = .clean ∨ e.st = .dirty) ∧ (caches e).inSealed 0x1000 = false := by
  intro e h
  refine ⟨free_of ?_, ⟨?_, ?_⟩, ?_, ?_⟩ <;> revert e <;> decide +kernel

/-- Its requests are permitted; the line that each write leaves fits; a condition of each kind holds and fails; a wait entry of
slice 58 waits for a cancel. -/
theorem witness_slice_requests :
    (∀ e ∈ [ent0 .clean 0 0x11, ent0 .dirty 1 0x11],
      (∀ w ∈ [true, false], Serves (caches e) ⟨.thread 0, 0x1008, 3⟩ w (sliceOf 0x1000)) ∧
      (∀ c ∈ [0, 32, 64, 128], Fits (frame0 e) e c) ∧
      ((caches e).slice (sliceOf 0x1000)).waits.find? (fun x => x.who = .thread 0 ∧ x.addr = 0x1008) =
        some ⟨.thread 0, 0x1008, 0, 7⟩) ∧
    (∀ c, c < 4 → flagCond c 5 5 = (c != 1) ∧ flagCond c 4 5 = (c == 1)) ∧ (ent0 .clean 0 0x11).poison.getLsbD 0 = false ∧
    (ent0 .dirty 1 0x11).poison.getLsbD 0 = true ∧ (0xFF : BitVec 128) ≠ BitVec.allOnes 128 := by
  refine ⟨fun e h => ⟨fun w hw => serves_of (witness_slices e h).1 ?_, fun c hc => ?_, ?_⟩, by decide +kernel,
    by decide +kernel, by decide +kernel, by decide +kernel⟩
  · revert w; revert e; decide +kernel
  · unfold Fits; revert c; revert e; decide +kernel
  · revert e; decide +kernel

/-- A state in which the line is absent, and a request of thread 0 for it. -/
def empty0 : State := { ran with cel := {} }

/-- SlicesFillAndResume: a read and a write of an absent line. -/
theorem witness_absent :
    empty0.live = true ∧ empty0.backed 0x1008 = true ∧ empty0.server 0x1000 = some (sliceOf 0x1000) ∧
      empty0.entriesOf (sliceOf 0x1000) 0x1000 = [] ∧
      (joinEntry (empty0.slice (sliceOf 0x1000)) ⟨.thread 0, 0x1008, 3, .read 3⟩).isSome = true ∧
      (place empty0 (sliceOf 0x1000) 0x1000 (LineEnt.fresh 0x1000 .filling 3) none).isSome = true ∧
      (place empty0 (sliceOf 0x1000) 0x1000
        { LineEnt.fresh 0x1000 .dirty 0 with data := 0x11, poison := 1, cls := classFor 0x11 1 } none).isSome = true := by
  decide +kernel

/-- A state in which a fill for the line has arrived, for these requests. -/
def filled (v : Bool) (ws : List Held) : State :=
  { caches (LineEnt.fresh 0x1000 .filling 0) with cel := { (caches (LineEnt.fresh 0x1000 .filling 0)).cel with
    fillq := [⟨0x1000, v, 0x11, 0⟩]
    slices := [(sliceOf 0x1000, { Slice.initial (sliceOf 0x1000) with waiting := ws, merge := [(0x1080, 0)] })] } }

/-- A fill for a line that waits, valid and not, with and without a reader. -/
theorem witness_fills :
    (∀ v ∈ [true, false], ∀ ws ∈ [[], [(⟨.thread 0, 0x1000, 0, .read 0⟩ : Held)]],
      let fd : FillData := ⟨0x1000, v, 0x11, 0⟩
      let s := filled v ws
      let e := LineEnt.fresh 0x1000 .filling 0
      s.live = true ∧ s.findLine (sliceOf 0x1000) 0x1000 = some (0, frame0 e, e) ∧ s.entriesOf (sliceOf 0x1000) 0x1000 = [e] ∧
        s.cel.fillq.find? (fun x => x.addr = fd.addr) = some fd ∧
        (∀ e ∈ (s.slice (sliceOf 0x1000)).merge, e.1 ≠ fd.addr) ∧
        (s.slice (sliceOf 0x1000)).waiting.filter (fun y => lineAddr y.addr = fd.addr) = ws) := by
  decide +kernel

/-- A read at the head of the side queue and of the victim queue. -/
theorem witness_resumes :
    let q : List Held := [⟨.thread 0, 0x1000, 2, .read 2⟩]
    let e := ent0 .clean 0 0x11
    let s : State := { caches e with cel := { (caches e).cel with
      slices := [(sliceOf 0x1000, { Slice.initial (sliceOf 0x1000) with side := q, victim := q })] } }
    s.live = true ∧ (s.slice (sliceOf 0x1000)).side = q ∧ (s.slice (sliceOf 0x1000)).victim = q ∧
      s.findLine (sliceOf 0x1000) 0x1000 = some (0, frame0 e, e) ∧ s.entriesOf (sliceOf 0x1000) 0x1000 = [e] ∧
      smWf s.cel.frames = true := by
  decide +kernel

/-- A range of one line in partition 0, whose cap is 16 pinned frames of a slice. -/
def ranged (e : LineEnt) (len : Nat) : State :=
  (({ caches e with bup := { lit.bup with blend := some { blend0 with cach := [(0, false, 16)] } } }.setReg
    (rCelRangeBase 0) (fCelRangeBaseBase.put 0 (0x1000 / 128))).setReg (rCelRangeLen 0) (fCelRangeLenLen.put 0 len))

/-- RangesAndDrains: each state of the line, pinned and not; a range of one line, and one of none. -/
theorem witness_ranges : ∀ st ∈ [LineSt.clean, .dirty, .zero, .dead], ∀ pin ∈ [true, false],
    let e := { ent0 st 0 0x11 with pinned := pin }
    let s := ranged e 1
    s.canWrite fn0 (rCelRangeCtrl 0) = true ∧ s.fld (rCelRangeCtrl 0) fCelRangeCtrlBusy = 0 ∧
      (∀ op ∈ [1, 2, 3, 4, 5], s.rangeOk 0 op 0x1000 128 = true) ∧ 128 * s.fld (rCelRangeLen 0) fCelRangeLenLen = 128 ∧
      128 * s.fld (rCelRangeBase 0) fCelRangeBaseBase = 0x1000 ∧
      s.findLine (sliceOf 0x1000) 0x1000 = some (0, frame0 e, e) ∧ s.entriesOf (sliceOf 0x1000) 0x1000 = [e] ∧
      s.sharersOf (regionOf 0x1000) = none ∧ e.st ≠ .filling ∧ s.pinFits (sliceOf 0x1000) 0 0x1000 = true := by
  decide +kernel

theorem witness_no_range : (ranged (ent0 .clean 0 0x11) 0).rangeOk 0 5 0x1000 0 = false ∧
    (ranged (ent0 .clean 0 0x11) 0).canWrite fn0 (rCelRangeCtrl 15) = true := by
  decide +kernel

theorem witness_ranges_free : Free (ranged (ent0 .clean 0 0x11) 1) (sliceOf 0x1000) 0x1000 := free_of (by decide +kernel)

/-- The end of a range operation; a set of slice 191 at its threshold; a racking request; a draining slice with nothing in
flight. -/
theorem witness_slice_events :
    (let s : State := { ran with cel := { ranges := [(0, ⟨3, 0x1000, 128⟩)] } }
     s.live = true ∧ smGet s.cel.ranges 0 = some ⟨3, 0x1000, 128⟩ ∧ s.rangeWaits 0x1000 128 = false) ∧
    (let x : Slice := { Slice.initial 191 with misses := [(32767, 5)], missPart := [(32767, 3)] }
     let s : State := { ran with cel := { slices := [(191, x)] } }.setFld (rCelPinCtrl 191) fCelPinCtrlThrashThresh 5
     s.live = true ∧ s.fld (rCelPinCtrl 191) fCelPinCtrlThrashThresh = 5 ∧ smGetD (s.slice 191).misses 32767 0 = 5 ∧
      (s.slice 191).thrashed.contains 32767 = false) ∧
    (let s : State := { caches (ent0 .clean 0 0x11) with plc := { rackReqs := [(0, 32, true)] } }
     s.live = true ∧ s.plc.rackReqs.find? (fun e => e.1 = 0 ∧ e.2.1 = 32) = some (0, 32, true) ∧ 0 * 65536 + 128 * 32 = 0x1000) ∧
    (let s : State := { ran with cel := { slices := [(191, { Slice.initial 191 with state := 1 })] } }
     s.live = true ∧ (s.slice 191).state = 1 ∧ (s.slice 191).waiting = [] ∧ (s.slice 191).side = [] ∧
      (s.slice 191).victim = [] ∧ (s.slice 191).fills = [] ∧ (s.slice 191).subst = 191) := by
  decide +kernel

/-! ### The HBM tier -/

/-- AddressesMapOneToOne: no channel is mapped out, and one is; every place of R185's example lies in range. -/
theorem witness_addresses : 0 < lit.chansOn ∧ (∀ c, c < 192 → lit.chanSt c ≤ 1) ∧
    0x12_3456_7800 < lPrime lit.chansOut.length * 98304 ∧ 0x12_3456_7800 < 2 ^ 38 ∧
    (let s := lit.setFld (rHbmChStat 191) fHbmChStatState 1
     0 < s.chansOn ∧ (∀ c, c < 192 → s.chanSt c ≤ 1) ∧ s.chansOut = [191] ∧ 0 < lPrime 1) := by
  decide +kernel

/-- The example of R185. -/
theorem test_address : sliceOf 0x12_3456_7800 = 58 ∧ setOf 0x12_3456_7800 = 8932 ∧ lidxOf 0x12_3456_7800 / 32768 = 24 := by
  decide +kernel

/-- A block at 0x1000 with its halves and zero flags, and a state that holds it with a channel request. -/
def block0 (z1 : Bool) (h1 : Line) : Block := ⟨0x1000, 0x11, h1, true, 0, false, z1, false, 0⟩

def channel (bs : List Block) (q : List ChanReq) : State :=
  { ran with
    cel := { (caches (LineEnt.fresh 0x1000 .filling 0)).cel with hbmq := q }
    hbm := { blocks := bs.map (fun b => (ran.keyOf 0x1000, b)) } }

/-- The requests of ChannelsServeAndAreKept. -/
def chanReqs : List ChanReq :=
  [.writeBack 0x1000 0x22 0, .kill 0x1000, .uncached ⟨.thread 0, 0x1000, 0, .read 0⟩,
    .uncached ⟨.thread 0, 0x1000, 0, .write (BitVec.allOnes 128) 0x22 1⟩, .sidecar 0x1000]

theorem chan_of {s : State} {a : Nat} {q : ChanReq} (h : s.live = true ∧ s.backed a = true ∧ s.chanHeld a = false ∧
    s.chanFailed a = false ∧ s.sealedAt a = none ∧ (∀ x ∈ s.cel.hbmq, blockAddr x.addr = blockAddr a → x = q)) :
    ChanServes s a q := ⟨h.1, h.2.1, h.2.2.1, h.2.2.2.1, h.2.2.2.2.1, h.2.2.2.2.2⟩

/-- Each is served, on a block that is not valid, on one whose other half is zero or flagged zero, and on one of two halves. -/
theorem witness_channels :
    (∀ bs ∈ [[], [block0 false 0], [block0 true 5], [block0 false 5]], ∀ q ∈ chanReqs,
      ChanServes (channel bs [q]) 0x1000 q ∧ (channel bs [q]).permits (.thread 0) true 0x1000 = true) ∧
    (ChanServes (channel [] []) 0x1000 (.kill 0) ∧ (channel [] []).cel.fillq.any (fun f => f.addr = 0x1000) = false ∧
      (channel [] []).server 0x1000 = some (sliceOf 0x1000) ∧
      (((channel [] []).findLine (sliceOf 0x1000) 0x1000).map (fun e => e.2.2)).map LineEnt.st = some .filling ∧
      (channel [block0 true 5] []).block 0x1000 = block0 true 5 ∧ lineAddr 0x1000 = 0x1000) := by
  refine ⟨fun bs hb q hq => ⟨chan_of ?_, ?_⟩, chan_of (by decide +kernel), by decide +kernel⟩ <;> revert q <;> revert bs <;>
    decide +kernel

/-- A state with channel 191 as given. -/
def chanIs (c : Channel) : State := { lit with hbm := { chans := [(191, c)] } }

def chan0 : Channel := ⟨[], 0, 0, 0, 0, [], [], 0⟩

/-- Channel 191 in service: 8 °C and 4,000 rounds since its last calibration, each attempt, 64 uncorrectable codewords; regulator
values whose sum is 1,024, above it, and with a depth of 0. -/
theorem witness_channel_events :
    (∀ c ∈ [chan0, { chan0 with calRounds := [(1, 4000)] }, { chan0 with recal := 2 }, { chan0 with attempt := 1 },
        { chan0 with attempt := 3 }, { chan0 with ueRound := 64 }],
      (chanIs c).hbmLive = true ∧ (chanIs c).chanSt 191 = 0 ∧ (chanIs c).chan 191 = c ∧ (chanIs c).cel.hbmq = []) ∧
    (let s := (chanIs chan0).setFld (rHbmStkStat 5) fHbmStkStatTemp 8
     8 ≤ s.chanTemp 191 - smGetD (s.chan 191).calTemp 1 0) ∧
    (let s := (chanIs { chan0 with calTemp := [(0, 8)] }).setFld (rHbmStkStat 5) fHbmStkStatTemp 0
     8 ≤ smGetD (s.chan 191).calTemp 0 0 - s.chanTemp 191) ∧
    lit.canWrite fn0 rHbmRegCtrl = true := by
  decide +kernel

theorem witness_regulators :
    let rate (s : State) (p : Nat) := s.fld (rHbmReg p) fHbmRegRate
    let bad (s : State) := (List.range 16).any (fun p => s.fld (rHbmReg p) fHbmRegDepth = 0 ∧ rate s p ≠ 0)
    let z := (List.range 16).foldl (fun s p => (s.setFld (rHbmReg p) fHbmRegRate 64).setFld (rHbmReg p) fHbmRegDepth 32) lit
    let more := z.setFld (rHbmReg 15) fHbmRegRate 65
    let none_ := z.setFld (rHbmReg 15) fHbmRegDepth 0
    (((List.range 16).map (rate z)).sum = 1024 ∧ bad z = false) ∧ ((List.range 16).map (rate more)).sum = 1025 ∧
      (((List.range 16).map (rate none_)).sum = 1024 ∧ bad none_ = true) := by
  decide +kernel

/-- The example of R242: slot 2,594,766 of channel 40. -/
theorem test_mapped_out : (lit.setFld (rHbmChStat 58) fHbmChStatState 1).placeOf 0x12_3456_7800 = (40, 2594766) ∧
    lPrime 1 = 2590602 := by decide +kernel

/-! ### Power and heat -/

/-- A stack whose thermal model runs, before its sub-step `k`. -/
def modelled (k : Nat) (down : Bool) : State :=
  { lit with pwr := {
      modelOn := true
      substep := k
      shutdown := down
      tripRounds := 4000
      temps := (List.range 384).map (fun n => (n, 40))
      trig := some (3, 383, 95, 105 * 16) } }

/-- PowerCapFollowsExcess, ThermalCapsFollowTemperature, RoundsAndThermalModel: a limit of 1 W and more; the model before its last
sub-step, at its solve, at a shutdown with the last node and diode, and at a restart below 70 °C; a tracked region. -/
theorem witness_rounds :
    (lit.on = true ∧ 0 < (lit.setFld rPwrLimit fPwrLimitLimit 1).fld rPwrLimit fPwrLimitLimit) ∧
    ((modelled 7 false).modelRuns = true ∧ (modelled 7 false).pwr.substep = 7 ∧ (modelled 8 false).pwr.substep = 8 ∧
      (modelled 8 false).pwr.shutdown = false ∧ (modelled 8 false).pci.supplyFault = false ∧
      (modelled 8 false).pwr.trig = some (3, 383, 95, 1680)) ∧
    (let s : State := { lit with plc := { heat := [(5, ⟨65535, 3, false, 0⟩)] } }
     s.live = true ∧ s.plc.replicas = [] ∧ s.plc.dir = [] ∧ smGet s.plc.heat 5 = some ⟨65535, 3, false, 0⟩ ∧
      ∀ p, p < 16 → s.plcFld (rPlcWorkCfg p) fPlcWorkCfgReplEn = 0) ∧
    (badReading none = true ∧ badReading (some (40 * 16)) = false) := by
  decide +kernel

theorem witness_restart : (modelled 0 true).modelRuns = true ∧ (modelled 0 true).pwr.shutdown = true ∧
    4000 ≤ (modelled 0 true).pwr.tripRounds ∧ (∀ n, n < 384 → (modelled 0 true).nodeEst n < 70) ∧
    (∀ m, m < 96 → m ∉ (modelled 0 true).pwr.diodeBad → (modelled 0 true).diodeTemp m < 70) := by
  decide +kernel

/-- PowerStatesAndGating: S0 with nothing running, with a blocker, and before step 10; S1 to S3; the ends of an entry and of an
exit. -/
theorem witness_states :
    (lit.canWrite fn0 rPwrStateCtrl = true ∧ lit.fld rPwrStateCtrl fPwrStateCtrlBusy = 0 ∧ lit.pwr.state = 0 ∧ lit.thawed = true ∧
      lit.stepDone 10 = true ∧ lit.blockers.any id = false ∧ lit.anyPinned = false) ∧
    (ran.canWrite fn0 rPwrStateCtrl = true ∧ ran.stepDone 10 = true ∧ ran.blockers.any id = true) ∧
    (lit.setReg rBupDone 0x3FE).stepDone 10 = false ∧ (lit.setReg rBupDone 0x3FE).canWrite fn0 rPwrStateCtrl = true ∧
    (∀ k ∈ [1, 2, 3], let s : State := { lit with pwr := { state := k } }
      s.canWrite fn0 rPwrStateCtrl = true ∧ s.thawed = true ∧ s.pwr.wakes = [] ∧ s.pwr.rails = []) ∧
    (∀ t ∈ [0, 1, 2, 3], let s : State := { lit with pwr := { target := some t } }
      s.on = true ∧ s.pwr.target = some t ∧ s.starting = false) := by
  decide +kernel

/-- Bays 0 and 31 idle; a gated bay without threads; wakes within the slew limit; rails of a bay and of a slice; four rounds of
excess power. -/
theorem witness_bays :
    (∀ b ∈ [0, 31], lit.live = true ∧ lit.bayIdle b = true ∧ smGetD lit.pwr.bayGate b 0 = 0 ∧
      (∀ e ∈ lit.cmp.thr, bayOfCell (e.1 / 128) ≠ b) ∧ ∀ q, q < 4 → smGetD lit.cmp.opq (4 * b + q) [] = []) ∧
    (let s : State := { lit with pwr := { bayGate := [(31, 1)] } }
     s.live = true ∧ s.bayIdle 31 = true ∧ smGetD s.pwr.bayGate 31 0 = 1 ∧ 0 < s.fld rPwrIdleCfg fPwrIdleCfgPwrIdle) ∧
    (∀ w ∈ [(⟨5, 31, true, 0, 0⟩ : Wake), ⟨2, 191, false, 0, 0⟩],
      let s : State := { lit with pwr := { wakes := [w], bayGate := [(31, 1)] } }
      s.pwr.wakes = [w] ∧ s.bup.tstUnit = none ∧ s.on = true ∧
        wakeStep w.kind w.unit + (s.pwr.recent.take 3).sum ≤ 2 * Nat.max 40 (s.fld rPwrSlewCfg fPwrSlewCfgLimit)) ∧
    (∀ w ∈ [(⟨4, 31, true, 0, 0⟩ : Wake), ⟨1, 191, false, 0, 0⟩],
      let s : State := { lit with pwr := { rails := [w], overRounds := 4 } }
      s.on = true ∧ s.pwr.rails.find? (fun x => x.kind = w.kind ∧ x.unit = w.unit) = some w ∧ 4 ≤ s.pwr.overRounds ∧
        s.pwr.halved = false) := by
  decide +kernel

/-! ### Ports, windows, functions -/

/-- PowerAndResetClear, LinksComeAndGo: before PWRGOOD, in reset, powered; no owner before the deadline and after it, with each
port and none that was up; links up and down; PERST; a function to which a context is bound. -/
theorem witness_ports :
    (State.reset.pci.pwrgood = false ∧ ({ pwrgood := true, resetLow := true } : PciSt).resetLow = true ∧ lit.pci.pwrgood = true ∧
      lit.pci.resetLow = false ∧ lit.pci.thermtrip = false) ∧
    (∀ u ∈ [(0 : BitVec 2), 1, 2, 3], ∀ d ∈ [true, false],
      let s : State := { State.reset with pci := { pwrgood := true, perstLow := 0, wasUp := u, deadline := d } }
      s.pci.owner = none ∧ s.pci.supplyFault = false ∧ s.on = true ∧ s.freeze ≠ 2 ∧ s.pci.perstLow.getLsbD 1 = false) ∧
    (lit.pci.up.getLsbD 0 = true ∧ lit.pci.owner.isSome = true) ∧
    (let s : State := { lit with pci := { lit.pci with perstLow := 3 } }
     s.pci.perstLow.getLsbD 1 = true ∧ s.on = true) ∧
    (bound.on = true ∧ bound.freeze ≠ 2 ∧ (bound.binding 0).map Prod.fst = some fn0) := by
  decide +kernel

/-- WindowAccessesComplete: BAR2 of the owner served, and not before step 10 or by a function that is not mapped; bad BAR0
accesses; register writes, configuration space, the read-clear field, the test access port. -/
theorem witness_windows :
    (bound.bar2Status fn0 = 0 ∧ bound.bar2Place fn0 0x1000 = .hbm 0x1000 ∧ 0x1000 % 128 + 128 ≤ 128 ∧
      (bound.setReg rBupDone 0x3FE).bar2Status fn0 = 2 ∧ bound.bar2Status ⟨1, 3⟩ = 3 ∧ bar0Ok 0 16 = false ∧ bar0Ok 2 4 = false) ∧
    (bound.canWrite fn0 rPwrSlewCfg = true ∧ bound.canWrite fn0 rPwrEvent = true ∧ bound.cfgReached fn0 = true ∧
      (match regAt rPwrWakeStat with | some (r, k) => bound.canRead fn0 r k | none => false) = true) ∧
    (bound.tapOn = true ∧ accessOk 0 8 = true ∧ accessOk 4 4 = true ∧ bound.responds .pwr = true ∧
      (∀ p ∈ accessParts 0 8, p.row.base ≠ rPwrWakeStat)) ∧
    ((partWrite 8 [some 1, none, some 3]).1 ≠ 0 ∧ (partWrite 8 [some 1, none, some 3]).1 ≠ BitVec.allOnes 128 ∧
      (caches (ent0 .dirty 0 0x11)).bar2Status fn0 = 0 ∧ (caches (ent0 .dirty 0 0x11)).bar2Place fn0 0x1008 = .hbm 0x1008) := by
  decide +kernel

theorem witness_bar2_write : Serves (caches (ent0 .dirty 1 0x11)) ⟨.bar2 fn0 0 0, 0x1008, 0⟩ true (sliceOf 0x1000) :=
  serves_of (witness_slices (ent0 .dirty 1 0x11) (.tail _ (.head _))).1 (by decide +kernel)

/-- EarlyWindowResponds: no owner; step 2 not done; an access of another block. -/
theorem witness_early :
    (let s : State := { lit with pci := { lit.pci with owner := none } }
     s.pci.owner = none ∧ s.on = true ∧ s.freeze = 0 ∧ s.asleep = false ∧ s.bup.cresetRun = false) ∧
    (lit.setReg rBupDone 2).stepDone 2 = false ∧ blockOf rPwrEvent ≠ .bup ∧ blockOf rPwrEvent ≠ .err ∧
    blockOf rPwrEvent ≠ .pci ∧ accessOk rPwrEvent 8 = true ∧ accessOk rPwrEvent 4 = true := by
  decide +kernel

/-- FieldsAndSideband: a register with a writable field, a status bit and overlap; the target with and without its address, its index
at the first and the last word. -/
theorem witness_fields :
    ((regAt rPwrEvent).isSome = true ∧
      (match regAt rPwrEvent with
       | some (r, _) => r.writable.getLsbD 8 && r.status.getLsbD 0 && r.overBit.getLsbD 16 && !r.status.getLsbD 63
       | none => false) = true) ∧
    (lit.i3cOn = true ∧ lit.pci.i3cAddr = none) ∧
    (∀ k ∈ [0, 15], let s : State := { lit with pci := { lit.pci with i3cAddr := some 9, i3cIdx := 4 * k } }
      s.i3cOn = true ∧ s.pci.i3cAddr.isSome = true ∧ s.pci.i3cIdx = 4 * k ∧ s.stepDone 1 = true) := by
  decide +kernel

/-! ### Translation and commands -/

/-- A bind word for function 0 and PASID 6, one for a function beyond the last, and one without valid. -/
def bindWord (fn : Nat) (valid : Nat) : Word :=
  fXltCtxBindValid.put (fXltCtxBindPasid.put (fXltCtxBindFunction.put 0 fn) 6) valid

/-- BindingsAndInvalidations: an idle context, one that runs and one that suspends; a function that is mapped and two that are not;
an invalidation of a bound function, and its completion with nothing in flight. -/
theorem witness_bindings :
    (bound.canWrite fn0 (rXltCtxBind 0) = true ∧ bound.canWrite fn0 (rXltCtxBind 1023) = true ∧ bound.ctxState 0 = 0 ∧
      ran.ctxState 0 = 1 ∧ ran.canWrite fn0 (rXltCtxBind 0) = true ∧ bound.mapped 0 fn0 = true ∧ bound.mapped 0 ⟨0, 3⟩ = false) ∧
    (∀ k ∈ [0, 3, 17], fXltCtxBindFunction.get (bindWord k 1) = k ∧ fXltCtxBindValid.get (bindWord k 1) = 1 ∧
      fXltCtxBindValid.get (bindWord k 0) = 0) ∧
    (bound.on = true ∧ bound.freeze = 0 ∧ (bound.binding 0 = some (fn0, 5))) ∧
    (let i : Inval := ⟨fn0, 31, [0], 4, []⟩
     let s : State := { ran with xlt := { invs := [i] } }
     s.xlt.invs.find? (fun i => i.f = fn0 ∧ i.itag = 31) = some i ∧
      ∀ e ∈ s.cmp.thr, e.2.m ∈ i.ctxs → e.2.inFlight i.stamp = false) := by
  decide +kernel

/-- A thread that waits for the translation of its fetch, with a request in flight for it. -/
def asking (stale : Bool) (prs : List PageReq) : State :=
  { ran with
    cmp := { ran.cmp with thr := [(0, waits .xlat)] }
    xlt := { ats := [⟨fn0, 5, 0x20000, [⟨.thread 0, 0, 0x20100, .fetch, 0, 0⟩], stale⟩], prs := prs } }

/-- A completion that is usable, one without permissions, and a failed one. -/
def cpl (status : Nat) (r : Bool) : AtsCpl := ⟨status, 0x20000, 4096, r, false, r, false, false⟩

/-- A page request of that thread, in group 0 or not sent. -/
def pr0 (g : Option Nat) : PageReq := ⟨0, fn0, 5, 0x20000, g, [⟨.thread 0, 0, 0x20100, .fetch, 0, 0⟩], 0, false⟩

/-- TranslationsAndPageRequests: a core freeze; a usable answer, one that is not, one overtaken, a failed one; a page request that
may go out, and one that is answered, its waiter bound and without a usable entry. -/
theorem witness_translations :
    (let s : State := { lit with dbg := { frozen := 1 } }
     s.on = true ∧ s.freeze = 1) ∧
    (∀ st ∈ [true, false], let s := asking st []
      s.on = true ∧ s.freeze = 0 ∧ (s.xlt.ats.find? (fun b => b.is fn0 5 0x20000)).isSome = true ∧
        s.thread 0 = some (waits .xlat) ∧ (waits .xlat).st = .waiting .xlat ∧ s.cel.xbar = [] ∧ (s.fn fn0).stopped = false) ∧
    (let w : Waiter := ⟨.thread 0, 0, 0x20100, .fetch, 0, 0⟩
     cplUsable (cpl 0 true) w = true ∧ cplUsable (cpl 0 false) w = false ∧ w.succ < 4) ∧
    (let s := asking false [pr0 none]
     s.live = true ∧ (s.fn fn0).stopped = false ∧ s.prSent fn0 < (s.fn fn0).alloc ∧ s.xlt.prs = [] ++ pr0 none :: []) ∧
    (let s : State := { asking false [pr0 (some 0)] with xlt := { prs := [pr0 (some 0)] } }
     s.xlt.prs.find? (fun r => r.f = fn0 ∧ r.group = some 0) = some (pr0 (some 0)) ∧ s.canXlate 0 = some (fn0, 5) ∧
      tlbFind s.xlt.l2 0 0x20100 .fetch = none ∧ s.xlt.ats = [] ∧ s.fld rXltCfg fXltCfgPriTimeout ≠ 0) := by
  decide +kernel

/-- A command as given in context 0, whose second 64 KiB are host memory. -/
def cmd0 (kind flags base dst len : Nat) : Cmd := ⟨kind, flags, base, dst, len, 0, 0, 0, none, none⟩

def commanded (c : Cmd) : State :=
  { caches (ent0 .dirty 0 0x11) with xlt := {
      l2 := [⟨0, 0, 0, 4, 0, 0, true, true, true, false, false⟩, ⟨0, 0, 0, 4, 0x10000, 0x10000, true, true, true, true, false⟩]
      cmds := [(0, ⟨[c], []⟩)] } }

/-- A command descriptor as it stands in memory: XLAT of one page, and one whose kind is reserved. -/
def cmdLine (kind : Nat) : Line := BitVec.ofNat 1024 (kind + 2 ^ 192 * 4096)

def cmdReading (k : Nat) : State :=
  { caches (ent0 .clean 0 (cmdLine k)) with xlt := { bound.xlt with cmds := [(0, ⟨[], [0x1000]⟩)] } }

def cmdRead (k : Nat) : State × Got := unitRead (cmdReading k) (cmdWaiter 0 0x1000) 64 ⟨[], false⟩

/-- CommandsRun: doorbells of an empty and a full queue; a descriptor accepted and one refused; each command on each kind of place;
a command that is done, with an error, and with its flag in a line that the cellar holds. -/
theorem witness_commands :
    (ran.canWrite fn0 (rXltCmdDb 0) = true ∧ ran.canWrite fn0 (rXltCmdDb 1023) = true ∧ ran.enabled = true ∧
      ran.stepDone 10 = true) ∧
    (∀ k ∈ [1, 4], (cmdReading k).live = true ∧ ((cmdReading k).cmdq 0).reading = [0x1000] ∧
      (cmdRead k).1.cmdq 0 = (cmdReading k).cmdq 0 ∧ (cmdRead k).2 = .bytes (sliceB (toBytes (cmdLine k) 128) 0 64)) ∧
    ((cmdRead 1).1.cmdCode 0 (sliceB (toBytes (cmdLine 1) 128) 0 64) = 0 ∧
      (cmdRead 4).1.cmdCode 0 (sliceB (toBytes (cmdLine 4) 128) 0 64) = 3) ∧
    (∀ c ∈ [cmd0 1 2 0 0 4096, cmd0 3 8 0 0 4096, cmd0 3 8 0x10000 0 4096, cmd0 2 0 0x10000 0x12000 128, cmd0 2 0 0x10000 0x1000 128],
      (commanded c).live = true ∧ ((commanded c).cmdq 0).queue = [c] ∧ c.ended = 0 ∧ c.pos < c.len ∧
        (commanded c).cmdWaits 0 = false) ∧
    ((translate (commanded (cmd0 1 2 0 0 4096)) ⟨.cmd, 0, 0, .write, 0, 0⟩ false).2 = .ok (.hbm 0) ∧
      (translate (commanded (cmd0 3 8 0 0 4096)) ⟨.cmd, 0, 0, .read, 0, 0⟩ false).2 = .ok (.hbm 0) ∧
      (translate (commanded (cmd0 3 8 0x10000 0 4096)) ⟨.cmd, 0, 0x10000, .read, 0, 0⟩ false).2 =
        .ok (.host 0 0x10000 true false)) := by
  decide +kernel

/-- COPY of a line of host memory to host memory and into the cellar; the completion flag of a command. -/
theorem witness_copy :
    (let s := commanded (cmd0 2 0 0x10000 0x12000 128)
     let u := (translate s ⟨.cmd, 0, 0x10000, .read, 0, 0⟩ false)
     u.2 = .ok (.host 0 0x10000 true false) ∧
      (translate u.1 ⟨.cmd, 0, 0x12000, .write, 0, 0⟩ false).2 = .ok (.host 0 0x12000 true false)) ∧
    (let s := commanded (cmd0 2 0 0x10000 0x1000 128)
     let u := (translate s ⟨.cmd, 0, 0x10000, .read, 0, 0⟩ false)
     u.2 = .ok (.host 0 0x10000 true false) ∧
      (translate u.1 ⟨.cmd, 0, 0x1000, .write, 0, 0⟩ false).2 = .ok (.hbm 0x1000) ∧
      Serves s ⟨.command 0, 0x1000, 0⟩ true (sliceOf 0x1000) ∧
      Holds s (sliceOf 0x1000) 0x1000 0 (frame0 (ent0 .dirty 0 0x11)) (ent0 .dirty 0 0x11) ∧ s.cel.hbmq = [] ∧
      Fits (frame0 (ent0 .dirty 0 0x11)) (ent0 .dirty 0 0x11) (classFor 0 0)) ∧
    (∀ e ∈ [0, 1, 2], let c : Cmd := { cmd0 1 0 0 0 4096 with ended := e, pos := 4096, doneFlag := 0x1008 }
      (commanded c).live = true ∧ ((commanded c).cmdq 0).queue = [c] ∧ (c.ended = 2 ∨ c.len ≤ c.pos) ∧
        (commanded c).ral.reqs = [] ∧
        (translate ((commanded c).setCmdq 0 { (commanded c).cmdq 0 with queue := [] }) (postWaiter 0 0x1008 .update) false).2 =
          .ok (.hbm 0x1008) ∧ Fits (frame0 (ent0 .dirty 0 0x11)) (ent0 .dirty 0 0x11) 32) := by
  refine ⟨by decide +kernel, ⟨by decide +kernel, by decide +kernel, serves_of (free_of (by decide +kernel)) (by decide +kernel),
    ⟨by decide +kernel, by decide +kernel⟩, by decide +kernel, by unfold Fits; decide +kernel⟩, ?_⟩
  unfold Fits
  decide +kernel

/-- LogsAndDistanceTable: the registers are reached; a replica whose copy is done; a fetch before step 10 and after it, and while
one is under way; its end with the same and another generation. -/
theorem witness_logs :
    (lit.canWrite fn0 (rXltFlogBase 0) = true ∧ lit.canWrite fn0 (rXltFlogBase 15) = true ∧ lit.canWrite fn0 rErrPop = true ∧
      lit.canWrite fn0 rPlcQryCtrl = true ∧ lit.canWrite fn0 rPlcDistCtrl = true) ∧
    (let d : DirEnt := ⟨9, 0, 2, 0, []⟩
     let s : State := { lit with plc := { replicas := [⟨0, 2 ^ 27, 7, true, false, 1⟩], dir := [d] } }
     s.live = true ∧ s.ral.reqs = [] ∧ s.sharersOf 9 = some d ∧ (s.health = 2 ∨ s.health = 3)) ∧
    (lit.fld rPlcDistCtrl fPlcDistCtrlBusy = 0 ∧ lit.stepDone 10 = true ∧ (lit.setReg rBupDone 0x3FE).stepDone 10 = false ∧
      (lit.setReg rBupDone 0x3FE).canWrite fn0 rPlcDistCtrl = true ∧
      (lit.setFld rPlcDistCtrl fPlcDistCtrlBusy 1).fld rPlcDistCtrl fPlcDistCtrlBusy = 1) ∧
    (∀ g ∈ [0, 1], let s : State := { lit with plc := { dist := some ([], fn0, 0), gen := BitVec.ofNat 32 g } }
      s.on = true ∧ s.freeze ≠ 2 ∧ s.plc.dist = some ([], fn0, 0) ∧ (s.plc.gen.toNat = 0 ↔ g = 0)) := by
  decide +kernel

/-! ### Units and scrubs -/

/-- UnitsLeaveService: a bundle with no bump lost, with one and with two; vias of the compute die with six and seven open; cells with
two parity errors; a retirement before step 10, of a cell that does not exist, of one retired, and of the last. -/
theorem witness_units :
    (∀ l ∈ [[], [0], [0, 33]], let s : State := { lit with bup := { lit.bup with bumps := [(32768 * 5 + 16895, l)] } }
      s.live = true ∧ s.stepDone 2 = true ∧ bundleReal 5 16895 = true ∧ smGetD s.bup.bumps (32768 * 5 + 16895) [] = l ∧
        12 ∉ l ∧ s.bup.failedB = [] ∧ s.bayOn 31 = true ∧ nbit (smGetD s.bup.half 31 0) (bundleHalf 16895).1 = false) ∧
    (∀ n ∈ [6, 7], let s : State := { lit with bup := { lit.bup with vias := (List.range n).map (fun i => 5 * 1024 + 1008 + i) } }
      s.on = true ∧ 5 * 1024 + 1023 ∉ s.bup.vias ∧ s.openVias 5 (1023 / 16) = n) ∧
    (∀ n ∈ [0, 2], let s : State := { lit with bup := { lit.bup with parity := [(8 * 767 + 7, n)] } }
      s.live = true ∧ s.cellOn (24 * 31 + 23) = true ∧ smGetD s.bup.parity (8 * 767 + 15 % 8) 0 = n) ∧
    (lit.canWrite fn0 (rCmpBayRetire 31) = true ∧ lit.cellOn (cellOf 31 23) = true ∧
      ({ lit with bup := { lit.bup with cells := [(cellOf 31 23, 2)] } } : State).cellOn (cellOf 31 23) = false ∧
      (lit.setReg rBupDone 0x3FE).canWrite fn0 (rCmpBayRetire 31) = true) := by
  decide +kernel

/-- ScrubsRun: ranges of no length, within the window and beyond it; a slice and a bay in service and out; a unit in progress, read in the
clear, corrected and found bad; a scrub with nothing left. -/
theorem witness_scrubs :
    (lit.canWrite fn0 rErrScrubCtrl = true ∧ lit.fld rErrScrubCtrl fErrScrubCtrlBusy = 0 ∧
      lit.fld rErrScrubLen fErrScrubLenLen = 0 ∧ (lit.setFld rErrScrubLen fErrScrubLenLen 1).fld rErrScrubLen fErrScrubLenLen = 1 ∧
      256 ≤ lit.backedTop ∧ (lit.slice 191).state = 0 ∧ lit.bayOn 31 = true ∧
      ({ lit with cel := { slices := [(191, { Slice.initial 191 with state := 2 })] } } : State).slice 191 =
        { Slice.initial 191 with state := 2 } ∧
      ({ lit with bup := { lit.bup with bayOff := [(31, 1)] } } : State).bayOn 31 = false) ∧
    (let s : State := { lit with cmp := { cs := [(5, ⟨0, true, false⟩)] }, dbg := { scrub := some (3, 0, 16384 * 768) } }
     s.live = true ∧ s.scrubUnits 3 (16384 * 768) = [5] ∧ smGet s.cmp.cs 5 = some ⟨0, true, false⟩) ∧
    ((decodeCw [⟨0, 0, 1⟩] 0).fixed = true ∧ (decodeCw [] 0).fixed = false ∧ (decodeCw [] 0).bad = false ∧
      (decodeCw [⟨0, 0, 1⟩, ⟨0, 1, 1⟩, ⟨0, 70, 1⟩] 0).fixed = false ∧ (decodeCw [⟨0, 0, 1⟩, ⟨0, 1, 1⟩, ⟨0, 70, 1⟩] 0).bad = true) ∧
    (let s : State := { lit with dbg := { scrub := some (3, 6, 16384 * 768) } }
     s.dbg.scrub = some (3, 6, 16384 * 768) ∧ s.scrubUnits 3 (16384 * 768) = []) := by
  decide +kernel

/-! ### Bring-up, the Blend, resets and tests -/

/-- The stack with the steps of a mask done, step 2 among them, the step that runs as given. -/
def bringing (done : Word) (step : Option (Nat × Bool)) : State :=
  { lit.setReg rBupDone done with bup := { lit.bup with step := step } }

/-- GosFollowTheOrder, StepsBegin: every step is due once the steps before it are done; it is refused when it is done, out of
order or while another runs. Before step 1 BUP_STEP is reached through port 0. -/
theorem witness_gos :
    (∀ k ∈ [1, 2, 3, 4, 5, 6, 7, 8, 9, 10], (bringing (BitVec.ofNat 64 (2 ^ k - 2)) none).stepResult k = 1 ∧
      (bringing (BitVec.ofNat 64 (2 ^ k - 2)) none).canWrite fn0 rBupStep = true ∧
      (bringing (BitVec.ofNat 64 (2 ^ (k + 1) - 2)) none).stepResult k = 5 ∧
      (bringing (BitVec.ofNat 64 (2 ^ k - 2)) (some (k, false))).stepResult k = 2) ∧
    ((bringing 2 none).stepResult 3 = 2 ∧ (bringing 2 none).stepResult 0 = 4 ∧ (bringing 2 none).stepResult 11 = 4) ∧
    (goOf (.bupCells fn0 true []) = some (fn0, 6, some true) ∧ goOf (.bupEnable fn0) = some (fn0, 10, none)) ∧
    (lit.namedUnits = [] ∧ (lit.port 7).off = false ∧ lit.bup.cellsDone = false ∧ lit.sec.rngFail = false) := by
  decide +kernel

/-- Regions of a test that wait and run, within the budget and beyond it. -/
theorem witness_regions :
    (∀ e ∈ [(1, 0), (4, 7)], let s : State := { lit with bup := { lit.bup with regWait := [e] } }
      s.live = true ∧ e ∈ s.bup.regWait ∧ s.bup.waitStage = false ∧ s.regionFits e.1 = true ∧
        s.regionPowering e.1 e.2 = false) ∧
    (let s : State := { lit with bup := { lit.bup with regWait := [(4, 7)], regRun := [(4, 0)] } }.setReg (rPwrTel 0) 850000
     s.regionFits 4 = false) := by
  decide +kernel

/-- A vintage whose valid words are 1 and whose layers stand in their order, and one of an unknown version. -/
def voted (version : Word) (bad : Nat) : SMap Word :=
  ((List.range 6).flatMap (fun l =>
    [(vintageAt l 1, BitVec.ofNat 64 (layerType (if l = bad then 3 - 3 * (l % 2) else l) + 256 * l)), (vintageAt l 3, version)]))

/-- StepsEnd: every step that waits for nothing, and each that waits; a vintage that is sound, of another version, and in another
order. -/
theorem witness_step_ends :
    (∀ k ∈ [1, 2, 3, 4, 5, 6, 7, 9, 10], (bringing 0x7FE (some (k, false))).on = true ∧ (bringing 0x7FE (some (k, false))).live = true ∧
      (bringing 0x7FE (some (k, false))).stepReady k 0 = true) ∧
    (bringing 0x7FE (some (8, false))).stepReady 8 0 = false ∧
    (let s : State := { lit with bup := { lit.bup with regRun := [(1, 0)], kxPorts := [7] }, pwr := { wakes := [⟨0, 0, true, 0, 0⟩] } }
     s.stepReady 3 0 = false ∧ s.stepReady 5 0 = false ∧ s.stepReady 6 0 = false ∧ s.stepReady 9 0 = false ∧
      s.stepReady 2 0 = false ∧ s.stepReady 2 1 = true ∧ s.stepReady 2 2 = true) ∧
    (({ lit with bup := { lit.bup with vintage := voted 1 6 } } : State).vintageCause = 0 ∧
      ({ lit with bup := { lit.bup with vintage := voted 2 6 } } : State).vintageCause = 1 ∧
      ({ lit with bup := { lit.bup with vintage := voted 1 0 } } : State).vintageCause = 2) := by
  decide +kernel

/-- A Blend image of one partition of no HBM, the default roles, a key and a signature; `excl`: with an empty EXCL section. -/
def image0 : List Byte :=
  ascii "BLND" ++ natBytes 1 2 ++ natBytes 64 2 ++ natBytes 8320 4 ++ natBytes 4 2 ++ [1] ++ List.replicate 49 0 ++
  (ascii "PART" ++ natBytes 0x80 4 ++ natBytes 64 4 ++ natBytes 1 2 ++ [0, 0]) ++
  (ascii "ROLE" ++ natBytes 0xC0 4 ++ natBytes 196 4 ++ natBytes 1 2 ++ [0, 0]) ++
  (ascii "SECU" ++ natBytes 0x190 4 ++ natBytes 36 4 ++ natBytes 1 2 ++ [0, 0]) ++
  (ascii "SIGN" ++ natBytes 0x1C0 4 ++ natBytes 7860 4 ++ natBytes 1 2 ++ [0, 0]) ++
  ([1, 0] ++ natBytes 64 2 ++ natBytes 1 4 ++ List.replicate 56 0) ++
  ([1, 0] ++ natBytes 196 2 ++ List.replicate 204 0) ++
  ([1, 0] ++ natBytes 36 2 ++ List.replicate 44 0) ++
  ([1, 0] ++ natBytes 7860 2 ++ List.replicate 7868 0)

/-- A state that loads or stages an image of that length, before step 3 and in step 8. -/
def loading : State :=
  { ((bringing 0xFE (some (8, false))).setFld rBldLen fBldLenLen 8320).setFld rBldCtrl fBldCtrlBusy 1 with
    bup := { lit.bup with step := some (8, false), loadRunning := true } }

/-- The result of a check holds. -/
def holds {α : Type} (c : Chk α) : Bool :=
  match c with
  | .ok _ => true
  | .error _ => false

/-- BlendsLoadWhole: a stage when idle, busy and after step 3 has started; an image that passes, with a signature that does and does not
verify, and one that was not read. -/
theorem witness_blend :
    (let s := (bringing 6 none)
     s.canWrite fn0 rBldCtrl = true ∧ s.fld rBldCtrl fBldCtrlBusy = 0 ∧ s.step3Started = false ∧
      (s.setFld (rBupStatus 3) fBupStatusOutcome 1).step3Started = true ∧
      (s.setFld rBldCtrl fBldCtrlBusy 1).fld rBldCtrl fBldCtrlBusy = 1) ∧
    (loading.on = true ∧ loading.bup.loadRunning = true ∧ loading.fld rBldCtrl fBldCtrlBusy = 1) ∧
    (holds (stageImg loading ⟨image0, none⟩) = true ∧ holds (stageImg loading ⟨image0, some 0⟩) = false ∧
      holds (imageChk loading ⟨image0, none⟩ false) = false) := by
  decide +kernel

theorem witness_blend_loads : holds (imageChk loading ⟨image0, none⟩ true) = true := by
  decide +kernel

/-- ComputeResetsAndTests: before the first enable; waiting for sleep, a freeze, a step and a test; at once; its end. -/
theorem witness_creset :
    (let s : State := { lit with bup := { lit.bup with enabledOnce := false } }
     s.canWrite fn0 rBupCreset = true ∧ s.bup.enabledOnce = false) ∧
    (lit.bup.enabledOnce = true ∧ lit.cresetWaits = false ∧ lit.canWrite fn0 rBupCreset = true) ∧
    (∀ s ∈ [({ lit with pwr := { target := some 1 } } : State), { lit with dbg := { frozen := 1 } },
        { lit with bup := { lit.bup with step := some (10, false) } }, { lit with bup := { lit.bup with tstUnit := some (1, 0) } }],
      s.cresetWaits = true ∧ s.canWrite fn0 rBupCreset = true ∧ (s.pwr.state = 0 ∨ s.pwr.target.isSome = true)) ∧
    (let s : State := { lit with pwr := { state := 1 } }
     s.canWrite fn0 rBupCreset = true ∧ s.pwr.state ≠ 0 ∧ s.pwr.target = none ∧ s.thawed = true) ∧
    (let s : State := { lit with bup := { lit.bup with cresetPending := true, cresetRun := true } }
     s.on = true ∧ s.bup.cresetPending = true ∧ s.cresetWaits = false ∧ s.bup.cresetRun = true) := by
  decide +kernel

/-- A Blend with a TEST record of every kind, its interval of 10 rounds nearly, and fully, passed. -/
def testing (rounds : Nat) (gate : SMap Nat) (unit : Option (Nat × Nat)) : State :=
  { lit with
    bup := { lit.bup with
      blend := some { blend0 with test := some (7, 10, 2 ^ 30) }
      tstRounds := rounds
      tstNext := [(1, 767)]
      tstUnit := unit }
    pwr := { bayGate := gate } }

theorem witness_tests :
    (∀ e ∈ [(9, ([] : SMap Nat)), (10, []), (10, [(31, 2)])], let s := testing e.1 e.2 none
      s.live = true ∧ s.bup.blend.bind Blend.test = some (7, 10, 2 ^ 30) ∧ s.stepDone 10 = true ∧
        s.bup.cresetPending = false ∧ s.bup.tstUnit = none ∧ s.testKind 7 = some 1 ∧ s.testNext 1 = some 767 ∧
        s.testSkips 1 767 = (e.2 == [])) ∧
    (∀ k ∈ [1, 2, 3], (testing 0 [] (some (k, 767))).live = true ∧ (testing 0 [] (some (k, 767))).bup.tstUnit = some (k, 767)) ∧
    (testing 0 [] (some (1, 767))).cellOn 767 = true := by
  decide +kernel

/-! ### Sealing and the engine -/

/-- Partition 0 in a security state, with its keys, inside a session of function 0. -/
def secured (q : Option SecPart) (waits : Bool) : State :=
  { lit with sec := {
      idReady := true
      sessions := [⟨1, fn0, true, true, 0⟩, ⟨2, ⟨0, 1⟩, false, true, 0⟩]
      parts := match q with | some q => [(0, { q with waitFn := if waits then some fn0 else none })] | none => [] } }

def sec0 (state old : Nat) : SecPart :=
  { SecPart.initial with
    state := state
    writeGen := 3
    oldGen := old
    keys := [⟨3, 0, 0⟩]
    len := 2 ^ 21
    part := some part0
    decant := some (2 ^ 36 - 256) }

/-- A SEAL request for the first 2 MiB of partition 0. -/
def sealReq : List Byte := [1, 0, 0, 0, 0, 0, 0, 0] ++ natBytes 0 8 ++ natBytes (2 ^ 21) 8 ++ List.replicate 32 7 ++ List.replicate 16 0xFF

theorem in_session (q : Option SecPart) (w : Bool) : InSession (secured q w) fn0 1 :=
  ⟨⟨(by decide +kernel : (secured none false).on = true), (by decide : (secured none false).freeze ≠ 2), rfl,
    (by decide : (secured none false).pwr.state ≠ 3)⟩, ⟨1, fn0, true, true, 0⟩, .head _, rfl, rfl, rfl⟩

/-- PartitionsSealAndErase: a request that is accepted, and one that names no range; a partition that seals, is sealed with and without a
generation to decant, at the last block of its share, and erases with a block, a word and nothing left. -/
theorem witness_seal :
    ((secured none false).asleep = false ∧ (secured none false).sealResult fn0 0 sealReq = 0 ∧ leAt sealReq 1 1 = 0 ∧
      (secured none false).part 0 = some part0 ∧ (secured none false).sealResult fn0 0 [] ≠ 0) ∧
    ((secured (some (sec0 2 0)) true).sealReady 0 = true ∧ (secured (some (sec0 3 0)) true).sealReady 0 = false ∧
      ((secured (some (sec0 2 0)) true).secPart 0).waitFn = some fn0) ∧
    (∀ old ∈ [0, 2], let s := secured (some (sec0 3 old)) false
      s.live = true ∧ s.sealed 0 = true ∧ s.mapped 0 fn0 = true ∧ s.mapped 0 ⟨0, 3⟩ = false ∧ s.sec.rngFail = false ∧
        (s.secPart 0).oldGen = old ∧ (s.secPart 0).decant = some (2 ^ 36 - 256) ∧ (s.secPart 0).part = some part0 ∧
        (s.secPart 0).key (s.secPart 0).writeGen = some ⟨3, 0, 0⟩ ∧ s.chanFailed (2 ^ 36 - 256) = false) ∧
    (let s := secured (some (sec0 4 0)) false
     s.live = true ∧ (s.secPart 0).state = 4 ∧ s.leftovers 0 = ([], []) ∧
      ({ s with hbm := { blocks := [(9, Block.blank 0x1000)] } } : State).leftovers 0 = ([9], []) ∧
      ({ s with cmp := { cs := [(5, ⟨0, false, false⟩)] } } : State).leftovers 0 = ([], [5])) := by
  decide +kernel

/-- OperatorGosAndImports: asleep, in a compute reset, and else; each result of ROTATE; what was deferred; an import into the range, outside
it, and in progress. -/
theorem witness_operator :
    (∀ s ∈ [secured (some (sec0 3 0)) false, secured (some (sec0 3 2)) false, secured none false],
      s.canWrite fn0 (rSecPartCtrl 0) = true ∧ s.asleep = false ∧ s.bup.cresetRun = false ∧
        s.canWrite fn0 (rSecImpCtrl 0) = true ∧ s.canWrite fn0 (rSecImpCtrl 15) = true) ∧
    ((secured (some (sec0 3 0)) false).rotateResult 0 = 0 ∧ (secured (some (sec0 3 2)) false).rotateResult 0 = 7 ∧
      (secured none false).rotateResult 0 = 2) ∧
    (({ lit with pwr := { state := 1 } } : State).asleep = true ∧
      ({ lit with pwr := { state := 1 } } : State).canWrite fn0 (rSecPartCtrl 0) = true ∧
      ({ lit with bup := { lit.bup with cresetRun := true } } : State).canWrite fn0 (rSecPartCtrl 0) = true ∧
      ({ lit with bup := { lit.bup with cresetRun := true } } : State).canWrite fn0 (rSecImpCtrl 0) = true) ∧
    (let s := secured (some { sec0 3 0 with imp := some (fn0, 31) }) false
     s.live = true ∧ (s.secPart 0).imp = some (fn0, 31)) ∧
    (let s := (secured (some (sec0 3 0)) false).setFld (rSecImpLen 0) fSecImpLenLen 32
     65536 * s.fld (rSecImpLen 0) fSecImpLenLen = 2 ^ 21 ∧ (s.secPart 0).base + (s.secPart 0).len = 2 ^ 21 ∧
      65536 * s.fld (rSecImpDst 0) fSecImpDstDst = 0) := by
  decide +kernel

/-- A chunk of the right length, with its tag and with another, and one that was not read. -/
theorem witness_chunk (key : BitVec 256) (off : Nat) :
    ∃ l : List Byte, l.length = 65552 ∧ ∃ d, chunkPlain key off l = some d := by
  refine ⟨List.replicate 65536 0 ++ gcmTag (toBytes key 32) (beBytes (off / 65536) 8 ++ natBytes 0 4) (natBytes off 8)
    (List.replicate 65536 0), ?_, gcmCrypt (toBytes key 32) (beBytes (off / 65536) 8 ++ natBytes 0 4)
    (List.replicate 65536 0), ?_⟩
  · simp only [List.length_append, List.length_replicate, gcmTag, xorB, List.length_map, List.length_range, beBytes,
      natBytes, List.length_reverse]
  · unfold chunkPlain
    rw [List.take_left' (by rw [List.length_replicate]), List.drop_left' (by rw [List.length_replicate])]
    exact if_pos rfl

/-- Two tags of one text differ in a chunk, so that one of them is wrong. -/
theorem witness_bad_chunk (key : BitVec 256) (off : Nat) :
    ∃ l : List Byte, l.length = 65552 ∧ chunkPlain key off l = none := by
  by_cases h : gcmTag (toBytes key 32) (beBytes (off / 65536) 8 ++ natBytes 0 4) (natBytes off 8)
      (List.replicate 65536 0) = List.replicate 16 0
  · refine ⟨List.replicate 65536 0 ++ List.replicate 16 1, by simp only [List.length_append, List.length_replicate], ?_⟩
    unfold chunkPlain
    rw [List.take_left' (by rw [List.length_replicate]), List.drop_left' (by rw [List.length_replicate])]
    exact if_neg (fun e => absurd (h.symm.trans e) (by decide))
  · refine ⟨List.replicate 65536 0 ++ List.replicate 16 0, by simp only [List.length_append, List.length_replicate], ?_⟩
    unfold chunkPlain
    rw [List.take_left' (by rw [List.length_replicate]), List.drop_left' (by rw [List.length_replicate])]
    exact if_neg h

/-- MailboxesAnswer: before the identity key, and after it with a free engine, two sessions of a function, a result that waits and one that
does not yet; a session to be established; the engine at each of its operations; the ports' IDE streams. -/
theorem witness_mailboxes :
    (lit.on = true ∧ lit.freeze ≠ 2 ∧ lit.sec.idReady = false) ∧
    ((secured none false).sec.running = none ∧ (secured none false).sec.queue = [] ∧ (secured none false).sec.rngFail = false ∧
      ((secured none false).sec.sessions.filter (fun x => x.f = fn0)).length < 2) ∧
    (let s : State := { lit with sec := { idReady := true, sessions := [⟨1, fn0, true, true, 0⟩, ⟨3, fn0, false, true, 0⟩] } }
     2 ≤ (s.sec.sessions.filter (fun x => x.f = fn0)).length ∧ s.sec.rngFail = false ∧ s.pwr.state ≠ 3) ∧
    (let s : State := { lit with sec := { idReady := true, ready := [(fn0, 0x7E, [1, 0, 0])] } }
     s.sec.ready.find? (fun e => e.1 = fn0) = some (fn0, 0x7E, [1, 0, 0])) ∧
    (∃ e ∈ (secured (some (sec0 2 0)) true).sec.parts, e.2.waitFn = some fn0) ∧
    (∃ x ∈ (secured none false).sec.sessions, x.id = 2 ∧ x.f = ⟨0, 1⟩ ∧ x.established = false ∧ x.keyed = true) ∧
    (∀ c ∈ [1, 2, 3], let s : State := { lit with sec := { idReady := true, running := some ⟨2, fn0, c, [1, 0]⟩ } }
      s.on = true ∧ s.sec.running = some ⟨2, fn0, c, [1, 0]⟩ ∧ s.sec.queue = []) ∧
    ((lit.setFld (rPciLink 1) fPciLinkIde 2).ide 1 ≠ 0) := by
  decide +kernel

/-! ### Raloth ports -/

/-- Power is on; port 0 is in a state, its port record changed. -/
def portAt (st : Nat) (g : RalPort → RalPort) : State := lit.setPort 0 (g { lit.port 0 with state := st })

/-- The same, with RAL_PORT_CTRL_0.manual set. -/
def portBy (st : Nat) (g : RalPort → RalPort) : State := (portAt st g).setFld (rRalPortCtrl 0) fRalPortCtrlManual 1

/-- Valid blocks of lanes 0 and 1 with a code, the one of lane 0 damaged. -/
def blocks0 (code : Nat) : List (List Nat) := [[], trainBlock 1 code 0xFF]

/-- PortsTrain, blocks: every state that takes one, at 14 and 15 blocks in a row. -/
theorem witness_blocks : (∀ c ∈ [1, 4, 5, 6], BlocksSay (blocks0 c) c 0xFF) ∧
    (∀ e ∈ [(1, 0), (1, 14), (1, 15), (4, 0), (7, 0), (8, 0), (5, 0)],
      PortRuns (portAt e.1 (fun p => { p with blocksIn := e.2 })) 0 ∧
      ((portAt e.1 (fun p => { p with blocksIn := e.2 })).port 0).state = e.1 ∧
      ((portAt e.1 (fun p => { p with blocksIn := e.2 })).port 0).blocksIn = e.2) ∧
    ((portAt 5 id).port 0).framing = true ∧
    (∀ st ∈ [1, 9], let s := (portAt st id).setFld (rRalPortCtrl 0) fRalPortCtrlAllowFar 1
      (s.port 0).state = st ∧ s.fld (rRalPortCtrl 0) fRalPortCtrlAllowFar = 1) := by
  unfold BlocksSay PortRuns
  decide +kernel

/-- PortsTrain, ends of its states: lanes that are left and none, before and after step 9, with and without manual, in
PLAIN and SECURE, replay with a frame. -/
theorem witness_training :
    (∀ st ∈ [2, 3, 4, 7, 9], PortRuns (portAt st id) 0 ∧ ((portAt st id).port 0).state = st ∧
      (portAt st id).fld (rRalPortCtrl 0) fRalPortCtrlManual = 0 ∧ ((portBy st id).port 0).state = st ∧
      (portBy st id).fld (rRalPortCtrl 0) fRalPortCtrlManual = 1) ∧
    LaneLeft (portAt 2 id) 0 1 0xFF ∧ LaneLeft (portAt 3 id) 0 0x7F 0x80 ∧ LaneLeft (portBy 3 id) 0 0 1 ∧
    (∀ l ∈ [0, 1, 2, 3, 4, 5, 6, 7], ((portAt 2 id).usable 0).testBit l = true ∧ (0xFF : BitVec 8).getLsbD l = true) ∧
    NoneAbroad (portAt 2 id) ∧
    (let s := portAt 4 (fun p => { p with blocksIn := 16 })
     16 ≤ (s.port 0).blocksIn ∧ s.bup.step9 = false ∧ s.sec.rngFail = false) ∧
    (let s := portAt 4 (fun p => { p with blocksIn := 16 })
     ({ s with bup := { s.bup with step9 := true } } : State).bup.step9 = true) ∧
    (let s := portAt 8 (fun p => { p with loop := 4 })
     (s.port 0).state = 8 ∧ (s.port 0).loop = 4) ∧
    (∀ b ∈ [true, false], let s := portAt 5 (fun p => { p with sleepSeen := b, width := 8, peerMask := 0xFF })
     (s.port 0).framing = true ∧ (s.port 0).sleepSeen = b ∧ 7 ∈ s.lanesUsed 0) := by
  unfold LaneLeft NoneAbroad PortRuns
  refine ⟨by decide +kernel, ⟨1, by decide +kernel⟩, ⟨7, by decide +kernel⟩, ⟨0, by decide +kernel⟩, ?_⟩
  decide +kernel

/-- PortsObeyTheirRegister: every state from OFF to FAILED, a port that is off, manual and not. -/
theorem witness_port_register :
    (∀ st ∈ [0, 1, 2, 3, 4, 5, 6, 7, 8, 9], ((portAt st id).port 0).state = st ∧ ((portAt st id).port 0).off = false ∧
      (portAt st id).canWrite fn0 (rRalPortCtrl 0) = true ∧ (portAt st id).canWrite fn0 (rRalLane 0 7) = true) ∧
    ((portAt 0 (fun p => { p with off := true })).port 0).off = true ∧
    LaneLeft (portBy 3 (fun p => { p with peerMask := 1 })) 0 0 ((portBy 3 (fun p => { p with peerMask := 1 })).port 0).peerMask ∧
    (portBy 3 id).canWrite fn0 (rRalPortCtrl 0) = true ∧ (portBy 3 id).canWrite fn0 (rRalLane 0 0) = true ∧
    7 < ((portBy 3 id).port 0).slips.length := by
  unfold LaneLeft
  exact ⟨by decide +kernel, by decide +kernel, ⟨0, by decide +kernel⟩, by decide +kernel, by decide +kernel, by decide +kernel⟩

/-! ### Raloth frames -/

/-- A READ message and a response, of one slot and of five. -/
def read0 : RMsg := ⟨1, 0, false, 7, 0, 1, 1, 0, 0, 0, 0x1000, 0xF, []⟩
def ack0 : RMsg := ⟨7, 0, true, 7, 0, 1, 0, 0, 0, 0, 0, 2 ^ 127, []⟩

/-- FramesComeAndGo, bodies and choice: messages in the ranges of the fields, and credits for 4 virtual channels. -/
theorem witness_bodies : (([read0, ack0]).map msgSlots).sum ≤ 32 ∧
    (∀ m ∈ [read0, ack0], 0 < m.typ ∧ m.typ < 256 ∧ m.vc < 4 ∧ m.tag < 65536 ∧ m.srcT < 1024 ∧ m.srcS < 16 ∧ m.hint < 4 ∧
      m.op < 8 ∧ m.part < 16 ∧ m.addr < 2 ^ 57) ∧
    fillFrame 6 [read0, ack0] [256, 256, 256, 256] = ([ack0, read0], [], [255, 256, 256, 256]) ∧
    bodyMsgs 32 (bodyOf [read0, ack0]) = [read0, ack0] := by
  decide +kernel

/-- A port in PLAIN on 8 lanes, whose transmitter and receiver stand where synchronisation leaves them. -/
def framing (g : RalPort → RalPort) : State :=
  portAt 5 (fun p => g { p with
    width := 8
    peerMask := 0xFF
    txScr := (List.range 8).map (0x1D8700 + ·)
    rxScr := (List.range 8).map (0x1D8700 + ·)
    txCredits := [256, 256, 256, 256] })

/-- What port 0 of a state receives. -/
def received (s : State) (sy : List (List Nat)) : Option (List Byte) := (lineReceive (s.port 0) (s.lanesUsed 0) sy).1

/-- A counted frame in PLAIN, its counter and body as enciphered all zero, with a tag. -/
def counted0 (tag : List Byte) : List Byte := List.replicate 1032 0 ++ tag

/-- Symbols of two bits each, the first in the lowest bits. -/
def unpack : Nat → Nat → List Nat
  | 0, _ => []
  | k + 1, v => v % 4 :: unpack k (v / 4)

/-- What the line carries of a filler frame, after the eight seeds of R371. -/
def fillerLine : List (List Nat) :=
  [unpack 540 0x1970A6718AD35116DC713700847A6F5F0BC0E1D1C90E6C98A16F7FE64BF079A3977CF0FDD9F823FB3D3829EAF551A088858AB7EB78FC2920978801F0D8B4733CC8F15E866D6879DB0CDA83012725FA148926D522A0FA1A1DD3FE7C7775AA2570ADF6AB025557E22224807542D83E9DA6BCA449E80C99D4E41EA79B81B3FC85BF01C6BE5D819C600,
    unpack 540 0x15F741025722DF6ADEBEF337B0476B21049FE6E4158172231354832501CC3E5D9BF2FB8E1AF0D3FF11FC14C67E63DF0792FD46DECBACA0DD2C3022BA2DFFCF33463939B150993EAB4C1647F507ECCB6BC52556E6940A1610DFADBB4689E106F750CE14011B9BA5D1244D7D31DB325DA29C6074D4439A97241A579B8CBFBF86BFC1C28E5D8D9C601,
    unpack 540 0x18B9DEF4A8918686DA643B48C82963C81F24E99FE8DA4A0126362EE290A0B0F486ABE878DDE563F75C347A8B2D16355CBD03F4A5FC0DF7720E14752A976DE3291EEDE6CE3F2BB15BCDCB8E4D563AB9805923102EEDBA0A0EC30B7435257250B9FEAB3F0683472B66259369C6DC2F9DAACDA81AB8D89D11E413E79B92A33881BE01CAFE5D919C603,
    unpack 540 0x143E3987756008FAD8ABFF7FFC1467B6107BEEAA345554BA940DD221DA9CF70A8A25E30B1EED93F370F047A7A6244AD3AA7405904F5D7E8FB5AC566062265F26902581F902DAF62B8D074AB976F388FF152093EAD94A0603CF58B304D939733E03938005CD8B6C95255E61B5DF235DAEED6C2784979E522417179B9FAF7B82BEC1CECE5D9D9C602,
    unpack 540 0x1A7AC776FD1568E6D74E27DC548E7EA736BCFD06BB32167669808CEB6301665BA544DD32D5DBE3EB8E28DD58D9985EB4D855733DB5BE0ED679688CDB0D9A8302F3D0C25A9AAD641A0FE990D1A4013FE9B928DA32733A2A29E2B160B08486AB6F5914570F6E66FDEE27B4548ED40D9DB63FB4BD193094DBE40D679BB582F089BC01D67E5DB19C606,
    unpack 540 0x17E8DCCD20E4E69AD581E3EB60B37AD939E3FA3367BD08CDDBBB7028293D21A5A9CAD64116D313EFA2ECE07452AA213BCF22820806EE872BC2D0AF91F8D13F0D7D18A56DA75C236A4F25542584C80E96F52B59F647CA2624EEE2A78178CD88E8A42CE80C20AABA1D27795CFDD7015DB21F7080257F97982409979BB88EB38ABCC1D24E5DBD9C605,
    unpack 540 0x1AA6433BDF57BF76D15B2B9418DD72302258F5489AE630EFEED9DDEFB851AF0CB493C5B7D1C6A3E7EF248E3901DFCB60E0DC3073314FD084E0F4F8014243131725CC7A12C8EEAC9ACEF89D9DD51E7C7D692D1F3E3E7A3A3AF24468F2D45EDEA60A49C30BB87634AA26A7480AD01C9DBA4EB8EE49E4901EE400279BA692348DBD01DA3E5DA19C607,
    unpack 540 0x1621A44802A6310AD394EFA32CE0764E2D07F27D46692E545CE2212CF26DE8F2B81DCEC412CE53E3C3E0B3158AEDB4EFF7ABC146821F59795B4CDB4BB708AF18AB041D25F51FEBEA8E345969F5D74D02252E9CFA0A8A3637FE17AFC32815FD21F7717C08F6BA7359266A4079D3105DBE6E7CD375AB935D2404D79BAB9E778EBDC1DE0E5DAD9C606]

/-- What it carries of the counted frame with its tag. -/
def countedLine : List (List Nat) :=
  [unpack 540 0x1802ADDA90CA8116DC713700847A6F5F0BC0E1D1C90E6C98A16F7FE64BF079A3977CF0FDD9F823FB3D3829EAF551A088858AB7EB78FC2920978801F0D8B4733CC8F15E866D6879DB0CDA83012725FA148926D522A0FA1A1DD3FE7C7775AA2570ADF6AB025557E22224807542D83E9DA6BCA449E80C99D4E41EA79B81B3FC85BF01C6BE5D819C600,
    unpack 540 0x121A77F5B56B5F6ADEBEF337B0476B21049FE6E4158172231354832501CC3E5D9BF2FB8E1AF0D3FF11FC14C67E63DF0792FD46DECBACA0DD2C3022BA2DFFCF33463939B150993EAB4C1647F507ECCB6BC52556E6940A1610DFADBB4689E106F750CE14011B9BA5D1244D7D31DB325DA29C6074D4439A97241A579B8CBFBF86BFC1C28E5D8D9C601,
    unpack 540 0x103C54422E062686DA643B48C82963C81F24E99FE8DA4A0126362EE290A0B0F486ABE878DDE563F75C347A8B2D16355CBD03F4A5FC0DF7720E14752A976DE3291EEDE6CE3F2BB15BCDCB8E4D563AB9805923102EEDBA0A0EC30B7435257250B9FEAB3F0683472B66259369C6DC2F9DAACDA81AB8D89D11E413E79B92A33881BE01CAFE5D919C603,
    unpack 540 0x1E39A40BF76E98FAD8ABFF7FFC1467B6107BEEAA345554BA940DD221DA9CF70A8A25E30B1EED93F370F047A7A6244AD3AA7405904F5D7E8FB5AC566062265F26902581F902DAF62B8D074AB976F388FF152093EAD94A0603CF58B304D939733E03938005CD8B6C95255E61B5DF235DAEED6C2784979E522417179B9FAF7B82BEC1CECE5D9D9C602,
    unpack 540 0x1716230E7ADFF8E6D74E27DC548E7EA736BCFD06BB32167669808CEB6301665BA544DD32D5DBE3EB8E28DD58D9985EB4D855733DB5BE0ED679688CDB0D9A8302F3D0C25A9AAD641A0FE990D1A4013FE9B928DA32733A2A29E2B160B08486AB6F5914570F6E66FDEE27B4548ED40D9DB63FB4BD193094DBE40D679BB582F089BC01D67E5DB19C604,
    unpack 540 0x1E3450D22F9DD69AD581E3EB60B37AD939E3FA3367BD08CDDBBB7028293D21A5A9CAD64116D313EFA2ECE07452AA213BCF22820806EE872BC2D0AF91F8D13F0D7D18A56DA75C236A4F25542584C80E96F52B59F647CA2624EEE2A78178CD88E8A42CE80C20AABA1D27795CFDD7015DB21F7080257F97982409979BB88EB38ABCC1D24E5DBD9C605,
    unpack 540 0x18F82E00B270FF76D15B2B9418DD72302258F5489AE630EFEED9DDEFB851AF0CB493C5B7D1C6A3E7EF248E3901DFCB60E0DC3073314FD084E0F4F8014243131725CC7A12C8EEAC9ACEF89D9DD51E7C7D692D1F3E3E7A3A3AF24468F2D45EDEA60A49C30BB87634AA26A7480AD01C9DBA4EB8EE49E4901EE400279BA692348DBD01DA3E5DA19C607,
    unpack 540 0x152B921D7866E10AD394EFA32CE0764E2D07F27D46692E545CE2212CF26DE8F2B81DCEC412CE53E3C3E0B3158AEDB4EFF7ABC146821F59795B4CDB4BB708AF18AB041D25F51FEBEA8E345969F5D74D02252E9CFA0A8A3637FE17AFC32815FD21F7717C08F6BA7359266A4079D3105DBE6E7CD375AB935D2404D79BAB9E778EBDC1DE0E5DAD9C606]

/-- The tag of that frame. -/
def tag0 : List Byte := beBytes 289587046794347181356748717248725029880 16

/-- FramesComeAndGo, received frames: a frame of no symbols, a filler frame and a counted frame. -/
theorem witness_received : PortRuns (framing id) 0 ∧ ((framing id).port 0).framing = true ∧ received (framing id) [] = none := by
  unfold PortRuns
  decide +kernel

theorem witness_filler : (received (framing id) fillerLine).any (fun b => leAt b 4 1 % 4 = 3) = true := by
  decide +kernel

theorem witness_counted : received (framing id) countedLine = some (counted0 tag0) := by
  decide +kernel

/-- What a port receives does not depend on its counter. -/
theorem received_counter (p : RalPort) (c : Nat) (lanes : List Nat) (sy : List (List Nat)) :
    (lineReceive { p with rxCtr := c } lanes sy).1 = (lineReceive p lanes sy).1 := by
  have h : ∀ (f : List (Nat × Option (List Byte × Nat)) × RalPort → Nat × Nat →
      List (Nat × Option (List Byte × Nat)) × RalPort),
      (∀ a q e, f (a, { q with rxCtr := c }) e = ((f (a, q) e).1, { (f (a, q) e).2 with rxCtr := c })) →
      ∀ l a q, List.foldl f (a, { q with rxCtr := c }) l = ((List.foldl f (a, q) l).1, { (List.foldl f (a, q) l).2 with rxCtr := c }) := by
    intro f hf l
    induction l with
    | nil => intro a q; rfl
    | cons e l ih =>
      intro a q
      rw [List.foldl_cons, List.foldl_cons, hf, ih]
  unfold lineReceive
  dsimp only
  rw [h]
  · split <;> rfl
  · intro a q e; rfl

/-- A slice within leading zeros. -/
theorem slice_zeros (n off len : Nat) (last : List Byte) (h : off + len ≤ n) :
    sliceB (List.replicate n 0 ++ last) off len = List.replicate len 0 := by
  refine List.eq_replicate_iff.mpr ⟨by rw [sliceB, List.length_map, List.length_range], fun b hb => ?_⟩
  obtain ⟨i, hi, rfl⟩ := List.mem_map.mp hb
  have hi := List.mem_range.mp hi
  rw [List.getD_eq_getElem?_getD, List.getElem?_append_left (by simp only [List.length_replicate]; omega),
    List.getElem?_replicate]
  split <;> rfl

/-- The product with zero. -/
theorem ghash_zero (h : Nat) : ghashMul 0 h = 0 := by
  have e : ∀ (l : List Nat) (z : Nat × Nat), z.1 = 0 → (l.foldl (fun (zv : Nat × Nat) i =>
      ((if nbit 0 (127 - i) then zv.1 ^^^ zv.2 else zv.1),
       (if zv.2 % 2 = 1 then (zv.2 / 2) ^^^ 0xE1000000000000000000000000000000 else zv.2 / 2))) z).1 = 0 := by
    intro l
    induction l with
    | nil => intro z hz; exact hz
    | cons i l ih =>
      intro z hz
      rw [List.foldl_cons]
      exact ih _ (by simp [nbit, hz])
  exact e _ _ rfl

/-- The hash of 65 blocks of zeros and one of lengths is one product. -/
theorem ghash_zeros (h : Nat) (last : List Byte) (hl : last.length = 16) :
    ghash h (List.replicate 1040 0 ++ last) = ghashMul (beNat last) h := by
  have z : ∀ n, n ≤ 65 → (List.range n).foldl
      (fun y i => ghashMul (y ^^^ beNat (sliceB (List.replicate 1040 0 ++ last) (16 * i) 16)) h) 0 = 0 := by
    intro n
    induction n with
    | zero => intro _; rfl
    | succ n ih =>
      intro hn
      rw [List.range_succ, List.foldl_append, ih (by omega)]
      have e := slice_zeros 1040 (16 * n) 16 last (by omega)
      simp only [List.foldl_cons, List.foldl_nil, e]
      exact ghash_zero h
  unfold ghash
  have e : cdiv (List.replicate 1040 (0 : Byte) ++ last).length 16 = 66 := by
    rw [List.length_append, List.length_replicate, hl]; decide
  rw [e, show (66 : Nat) = 65 + 1 from rfl, List.range_succ, List.foldl_append, z 65 (Nat.le_refl _)]
  have e : sliceB (List.replicate 1040 0 ++ last) (16 * 65) 16 = last := by
    refine List.ext_getElem (by rw [sliceB, List.length_map, List.length_range, hl]) (fun i h1 h2 => ?_)
    simp only [sliceB, List.getElem_map, List.getElem_range]
    rw [List.getD_eq_getElem?_getD, List.getElem?_append_right (by simp only [List.length_replicate]; omega),
      List.length_replicate, Nat.add_sub_cancel_left, List.getElem?_eq_getElem h2]
    rfl
  rw [List.foldl_cons, List.foldl_nil, e, Nat.zero_xor]

theorem tag_zeros (key iv : List Byte) : gcmTag key iv (List.replicate 8 0) (List.replicate 1024 0) =
    xorB (beBytes (ghashMul (beNat (beBytes 64 8 ++ beBytes 8192 8)) (beNat (aesEncryptK (aesKeys key) (List.replicate 16 0)))) 16)
      (aesEncryptK (aesKeys key) (iv ++ [0, 0, 0, 1])) := by
  unfold gcmTag
  have e : pad16 (List.replicate 8 (0 : Byte)) ++ pad16 (List.replicate 1024 0) ++ beBytes (8 * (List.replicate 8 (0 : Byte)).length) 8 ++
      beBytes (8 * (List.replicate 1024 (0 : Byte)).length) 8 = List.replicate 1040 0 ++ (beBytes 64 8 ++ beBytes 8192 8) := by
    decide +kernel
  simp only [e]
  rw [ghash_zeros _ _ (by decide +kernel)]

theorem witness_tag :
    gcmTag (keyBytes 0) (frameNonce 0 true 0) (List.replicate 8 0) (List.replicate 1024 0) = tag0 ∧
    gcmTag (keyBytes 0) (frameNonce 0 true 65536) (List.replicate 8 0) (List.replicate 1024 0) ≠ tag0 := by
  rw [tag_zeros, tag_zeros]
  decide +kernel

/-- The counted frame at a counter of 0: its tag is the one of R377, and it is the next. At 1: it is not the next. At
65536: the nonce, and so the tag, is another. -/
theorem witness_tags : rxKeyOf ((framing id).port 0) 0 = some (0, false) ∧
    sliceB (counted0 tag0) 1032 16 = tag0 ∧ (counted0 tag0).take 8 = List.replicate 8 0 ∧
    sliceB (counted0 tag0) 8 1024 = List.replicate 1024 0 ∧ leAt (counted0 tag0) 0 2 = 0 ∧ leAt (counted0 tag0) 4 1 % 4 = 0 := by
  refine ⟨by decide +kernel, by decide +kernel, by decide +kernel, slice_zeros _ _ _ _ (by decide), ?_⟩
  decide +kernel

theorem received_at {s t : State} {c : Nat} (sy : List (List Nat)) (hp : s.port 0 = { t.port 0 with rxCtr := c })
    (hl : s.lanesUsed 0 = t.lanesUsed 0) : received s sy = received t sy := by
  unfold received
  rw [hp, hl, received_counter]

/-- The counted frame reaches a port whose counter is 0, 1 or 65536. -/
theorem witness_counted_at : ∀ c ∈ [0, 1, 65536],
    received (framing (fun p => { p with rxCtr := c })) countedLine = some (counted0 tag0) := by
  intro c hc
  have h : (framing (fun p => { p with rxCtr := c })).port 0 = { (framing id).port 0 with rxCtr := c } ∧
      (framing (fun p => { p with rxCtr := c })).lanesUsed 0 = (framing id).lanesUsed 0 := by
    revert c
    decide +kernel
  exact (received_at countedLine h.1 h.2).trans witness_counted

/-- FramesComeAndGo, sent frames: a replay, messages, an acknowledgement, nothing to say, new keys; a timeout; sleep and
wake; a round with 2 and 3 tag failures. -/
theorem witness_sent :
    (∀ s ∈ [framing id, framing (fun p => { p with owesAck := true }), framing (fun p => { p with txq := [read0] }),
        framing (fun p => { p with newTx := some 9 })],
      PortRuns s 0 ∧ (s.port 0).framing = true ∧ (s.port 0).txSleep = false ∧ (s.port 0).waking = false ∧
        (s.port 0).replayFrom = none ∧ (s.port 0).replay.length < 256 ∧ (s.port 0).rxReturn.any (· ≠ 0) = false ∧
        (s.port 0).nak = false) ∧
    (let p := (framing (fun p => { p with replay := [(3, []), (4, [])], replayFrom := some 4 })).port 0
     p.framing = true ∧ p.replayFrom = some 4 ∧ p.replay.find? (fun e => 4 ≤ e.1) = some (4, [])) ∧
    (let p := (framing (fun p => { p with txMaySleep := true, rxMaySleep := true, sleepSeen := true })).port 0
     p.framing = true ∧ p.txMaySleep = true ∧ p.txSleep = false ∧ p.txq = [] ∧ p.replay = [] ∧ p.owesAck = false ∧
      p.rxMaySleep = true ∧ p.sleepSeen = true) ∧
    (let p := (framing (fun p => { p with txSleep := true, rxSleep := true, txq := [read0] })).port 0
     p.framing = true ∧ p.rxSleep = true ∧ p.txSleep = true ∧ p.txq ≠ []) ∧
    (∀ k ∈ [2, 3], ((framing (fun p => { p with tagFailsRound := k })).port 0).tagFailsRound = k) ∧ NoneAbroad (framing id) := by
  unfold PortRuns NoneAbroad
  decide +kernel

/-! ### Raloth keys -/

/-- A port in PLAIN after step 9, its key exchange in a phase with a nonce, as initiator or not. -/
def exchanging (phase : Nat) (init sent : Bool) : State :=
  { framing (fun p => { p with kx := { p.kx with
      phase := phase
      initiator := init
      sigSent := sent
      myNonce := 2 ^ 128
      peerPk := 5 } }) with
    bup := { lit.bup with step9 := true } }

/-- KeysAreEstablished: a rekey after and before step 9, and on a port that carries no frames; a peer's nonce that is greater and one
that is less; each phase of both ends; a peer whose key is expected, and one whose is not. -/
theorem witness_keys :
    ((exchanging 0 false false).canWrite fn0 (rRalPortCtrl 0) = true ∧ (exchanging 0 false false).sec.rngFail = false ∧
      ((framing id).port 0).framing = true ∧ (framing id).bup.step9 = false ∧
      (framing id).canWrite fn0 (rRalPortCtrl 0) = true ∧ (lit.port 0).framing = false ∧ lit.canWrite fn0 (rRalPortCtrl 0) = true) ∧
    (∀ e ∈ [(1, false, false), (2, false, false), (2, true, false), (3, false, false), (3, true, true)],
      let s := exchanging e.1 e.2.1 e.2.2
      PortRuns s 0 ∧ (s.port 0).framing = true ∧ s.bup.step9 = true ∧ (s.port 0).kx.phase = e.1 ∧
        (s.port 0).kx.initiator = e.2.1 ∧ (s.port 0).kx.sigSent = e.2.2 ∧ s.peerDig 0 = 0 ∧
        s.sec.running = none ∧ s.sec.queue = []) ∧
    (let mine := beNat (toBytes ((exchanging 1 false false).port 0).kx.myNonce 32)
     mine < beNat (toBytes (2 ^ 256 - 1 : BitVec 256) 32) ∧ beNat (toBytes (0 : BitVec 256) 32) < mine) := by
  unfold PortRuns
  decide +kernel

/-- A peer key that RAL_PEER_DIG_0 does not name. -/
theorem witness_wrong_key : let s := (exchanging 3 false false).setReg (rRalPeerDig 0 0) 1
    (s.port 0).kx.phase = 3 ∧ s.peerDig 0 = 1 ∧ (digest (toBytes (s.port 0).kx.peerPk 32)).toNat ≠ 1 := by
  decide +kernel

/-! ### Raloth messages -/

/-- Stack 0 of two stacks, all partitions of its Blend in use, port 1 in SECURE towards stack 1. -/
def linked : State :=
  let s := ((lit.setPort 1 { lit.port 1 with
      state := 6
      rxReturn := [0, 0, 0, 0] }).setFld rRalEnum fRalEnumCount 2).setFld rRalEnum fRalEnumHasId 1
  { s with ral := { s.ral with peers := [(1, ⟨1, 1, true, false, 10, 106⟩)] } }

/-- A message of a type from stack 1 to this stack, and to stack 1. -/
def toUs (typ : Nat) : RMsg := ⟨typ, 0, false, 7, 0, 1, 0, 0, 0, 0, 0x1000, 0xF, []⟩
def toThem (typ : Nat) : RMsg := { toUs typ with addr := 2 ^ 43 + 0x1000 }

/-- What taking a message asks of a state. -/
def canTake (s : State) (n : Nat) (m : RMsg) : Bool := decide ((s.on = true ∧ s.freeze ≠ 2 ∧ n < 8) ∧ m ∉ (s.port n).rxq ∧
    (s.port n).framing = true ∧ ((s.port n).state = 6 ∨ plainType m.typ = true))

theorem takes_of {s : State} {n : Nat} {m : RMsg} (h : canTake s n m = true) : Takes s n m m.typ s :=
  have h := of_decide_eq_true h
  ⟨h.1, rfl, .inr ⟨h.2.1, h.2.2.1, h.2.2.2, rfl⟩⟩

/-- RequestsReachTheirHome: messages of every type to another stack and to this one, brought by the command and by frames;
asleep, in a compute reset within and after its hold window; in PLAIN. -/
theorem witness_requests :
    (∀ t ∈ [1, 2, 3, 4, 5, 6, 7, 8, 9, 10, 11, 12, 13], canTake linked 1 (toThem t) = true ∧ linked.own (toThem t) = false ∧
      linked.routePort (toThem t).addr = some 1 ∧ canTake linked 1 (toUs t) = true ∧ linked.own (toUs t) = true) ∧
    (let s := linked.setPort 1 { linked.port 1 with rxq := [toUs 1] }
     toUs 1 ∈ (s.port 1).rxq ∧ (s.port 1).rxq.find? (fun x => x.vc = (toUs 1).vc) = some (toUs 1)) ∧
    (linked.asleep = false ∧ linked.holds = false ∧ (linked.port 1).rxReturn.length = 4) ∧
    (({ linked with pwr := { linked.pwr with state := 1 } } : State).asleep = true) ∧
    (∀ b ∈ [true, false], let s : State := { linked with bup := { linked.bup with holding := true, holdOver := b } }
      s.asleep = false ∧ s.holds = true ∧ s.bup.holdOver = b) ∧
    (let s := linked.setPort 1 { linked.port 1 with state := 5 }
     (s.port 1).state = 5 ∧ plainType 1 = false ∧ toUs 1 ∉ (s.port 1).rxq ∧ (s.port 1).framing = true) ∧
    (endToEndOf (.read 1 (toUs 1)) = some (1, toUs 1, 1) ∧ endToEndOf (.replReq 1 (toUs 10)) = some (1, toUs 10, 10)) := by
  decide +kernel

/-- A flag wait of stack 1 in the slice of its address. -/
def waits0 : State :=
  { linked with cel := { slices := [(sliceOf 0x1000, { Slice.initial (sliceOf 0x1000) with
      waits := [⟨.raloth 1 0 1 0 7 0, 0x1008, 0, 5⟩] })] } }

/-- StacksSynchronise, CANCEL: with nothing that waits, and with the one wait that it names. -/
theorem witness_cancel : canTake waits0 1 (toUs 6) = true ∧
    linked.cel.slices = [] ∧ linked.cel.xbar = [] ∧
    (let w : WaitEnt := ⟨.raloth 1 0 1 0 7 0, 0x1008, 0, 5⟩
     waits0.cel.slices.flatMap (fun e => e.2.waits.filter (fun w => isWaitOf (toUs 6) w.who)) = [w] ∧ sliceOf 0x1000 < 192 ∧
      w ∈ (waits0.slice (sliceOf 0x1000)).waits ∧ waits0.server (lineAddr w.addr) = some (sliceOf 0x1000)) := by
  decide +kernel

/-- StacksSynchronise, barriers: a counter that awaits its release; the head, whose counter 3 has members 1 and 2, with no arrival,
with the other member's, and a stack that is no member. -/
theorem witness_barriers :
    (let s : State := { linked with cmp := { bars := [(1027, ⟨2, 2, false, true⟩)] } }
     let m := { toUs 9 with arg := 0x103 }
     canTake s 1 m = true ∧ m.arg.toNat % 256 = 3 ∧ m.arg.toNat / 256 % 2 = 1 ∧ (s.bar 1027).awaiting = true ∧ (s.bar 1027).phase = false ∧
      s.barHolders 1027 = [] ∧ m.srcT = s.trellisId) ∧
    (let s := linked.setFld (rRalTbar 3) fRalTbarMembers 6
     let t : State := { s with ral := { s.ral with arrivals := [(3, false, 4)] } }
     let m := { toUs 8 with arg := 3 }
     canTake s 1 m = true ∧ s.stackId = 0 ∧ s.fld (rRalTbar 3) fRalTbarMembers = 6 ∧ nbit 6 m.srcS = true ∧ nbit 6 0 = false ∧
      nbit 6 3 = false ∧ (2 : Nat) &&& 6 ≠ 6 ∧ t.ral.arrivals.find? (fun e => decide (e.1 = 3 ∧ e.2.1 = false)) = some (3, false, 4) ∧
      (6 : Nat) &&& 6 = 6 ∧ s.fld (rRalTbar 3) fRalTbarMaster = 0 ∧ s.fld (rRalTbar 3) fRalTbarEstate = 0) := by
  decide +kernel

/-- Region 0 advised as one that may be replicated, with these sharers. -/
def shared (dir : List DirEnt) : State := { linked with plc := { advice := [(0, 1, 4)], dir := dir } }

/-- StacksSynchronise, replicas: a request for a shared region without and with sharers, and of a region that is not; an
invalidation with and without a replica; the last and another acknowledgement. -/
theorem witness_replicas :
    (∀ l ∈ [([] : List DirEnt), [⟨0, 0, 2, 0, []⟩]], let s := shared l
      canTake s 1 (toUs 10) = true ∧ s.backed 0x1000 = true ∧ s.adviceOf 0 / 4 % 2 = 1 ∧ s.partOfAddr 0x1000 = some 0 ∧
        s.sealed 0 = false ∧ s.secState 0 ≠ 2 ∧ s.plc.dir.length < 16384 ∧ s.sharersOf 0 = l.head?) ∧
    linked.adviceOf 0 / 4 % 2 = 0 ∧
    (let s : State := { linked with plc := { replicas := [⟨0, 2 ^ 27, 0, true, true, 0⟩] } }
     canTake s 1 (toUs 12) = true ∧ (∀ r ∈ s.plc.replicas, r.home ≠ (toUs 12).addr / 65536)) ∧
    (∀ w ∈ [2, 6], let d : DirEnt := ⟨0, 7, BitVec.ofNat 16 w, BitVec.ofNat 16 w, [⟨.thread 0, 0x1000, 0, .flush⟩]⟩
      let s := shared [d]
      canTake s 1 (toUs 13) = true ∧ s.plc.dir.find? (fun d => d.tag = 7 && nbit d.waiting.toNat 1) = some d ∧ s.sharersOf 0 = some d ∧
        d.held ≠ []) ∧
    ((2 : BitVec 16) &&& ~~~2 = 0 ∧ (6 : BitVec 16) &&& ~~~2 ≠ 0) := by
  decide +kernel

/-! ### Requests of this stack, enumeration, map and health -/

/-- A request of tag 7 at stack 1, asked for by the thread in slot 0 or by a replica. -/
def asks (m : RMsg) : State :=
  { linked with
    cmp := { thr := [(0, { thr0 with stores := [⟨.remote m.addr, 8, 0⟩] })] }
    ral := { linked.ral with reqs := [⟨7, .thread 0, m, 1, false, false⟩] } }

/-- ResponsesEndRequests: a response to a read, a write, an accumulation and a flag, of each status; a request to be asked anew; one
that is lost; the end of a hold window. -/
theorem witness_responses :
    (∀ st ∈ [0, 2, 3, 4], canTake (asks (toThem 1)) 1 { toUs 2 with arg := BitVec.ofNat 128 st } = true ∧
      (BitVec.ofNat 128 st : BitVec 128).toNat % 256 = st) ∧
    (∀ t ∈ [3, 4, 5], canTake (asks (toThem t)) 1 { toUs 7 with arg := 0 } = true) ∧
    (∀ t ∈ [1, 3, 4, 5], (asks (toThem t)).reqOf 7 = some ⟨7, .thread 0, toThem t, 1, false, false⟩ ∧
      (asks (toThem t)).own (toUs 2) = true ∧ (asks (toThem t)).on = true ∧ (asks (toThem t)).thawed = true) ∧
    ((asks (toThem 3)).thread 0).bind (fun x => x.stores.find? (fun e => inRemoteLine (toThem 3).addr e.target)) =
      some ⟨.remote (toThem 3).addr, 8, 0⟩ ∧
    (let s : State := { linked with ral := { linked.ral with reqs := [⟨7, .thread 0, toThem 1, 1, false, true⟩] } }
     s.reqOf 7 = some ⟨7, .thread 0, toThem 1, 1, false, true⟩ ∧ s.routePort (toThem 1).addr = some 1) := by
  decide +kernel

/-- ResponsesEndRequests, replicas: a request granted and refused; one request kept at the end of the window. -/
theorem witness_replica_response :
    (let m := { toThem 10 with addr := 2 ^ 43 + 0x10000 }
     let x : Replica := ⟨0, (2 ^ 43 + 0x10000) / 65536, 0, false, false, 5⟩
     let s : State := { linked with
       plc := { replicas := [x] }
       ral := { linked.ral with reqs := [⟨7, .borsum, m, 1, false, false⟩] } }
     (∀ st ∈ [0, 1], canTake s 1 { toUs 11 with arg := BitVec.ofNat 128 st } = true) ∧ s.own (toUs 11) = true ∧
      s.reqOf 7 = some ⟨7, .borsum, m, 1, false, false⟩ ∧
      s.plc.replicas.find? (fun x => x.home = m.addr / 65536 ∧ ¬ x.granted) = some x ∧
      (∀ i ∈ [0, 1, 511], s.routePort (m.addr / 65536 * 65536 + 128 * i) = some 1)) ∧
    (let s : State := { linked with
       bup := { linked.bup with holding := true, holdOver := false }
       ral := { linked.ral with kept := [⟨1, toUs 1⟩] } }
     s.on = true ∧ s.freeze ≠ 2 ∧ s.holds = true ∧ s.bup.holdOver = false ∧ s.ral.kept = [⟨1, toUs 1⟩]) := by
  decide +kernel

/-- Without an id; port 1 carries frames or not. -/
def unnumbered (framing : Bool) : State := lit.setPort 1 { lit.port 1 with state := if framing then 5 else 1 }

/-- The head, enumerating under tag 9. -/
def heading : State :=
  let s := ((linked.setFld rRalEnum fRalEnumHead 1).setFld rRalEnum fRalEnumBusy 1).setPort 0 { lit.port 0 with state := 5 }
  { s with ral := { s.ral with enumTag := 9 } }

/-- An ENUM message to id `next` under a tag, an ENUM_END with a count and a result. -/
def enumMsg (next tag : Nat) : RMsg := { toUs 16 with addr := 0, arg := BitVec.ofNat 128 (next + 2 ^ 32 * tag) }
def endMsg (count res : Nat) : RMsg := { toUs 17 with addr := 0, arg := BitVec.ofNat 128 (count + 256 * res) }

/-- StacksAreNumbered: each start; ENUM at each port and id; ENUM_END at a head with each result and at another stack; a head that is
busy at 20 ms. -/
theorem witness_enumeration :
    (∀ b ∈ [true, false], (unnumbered b).canWrite fn0 rRalEnum = true ∧ (unnumbered b).fld rRalEnum fRalEnumHasId = 0 ∧
      ((unnumbered b).port 1).framing = b ∧ (unnumbered b).chords = [] ∧ NoneAbroad (unnumbered b)) ∧
    (linked.canWrite fn0 rRalEnum = true ∧ linked.fld rRalEnum fRalEnumHasId = 1) ∧
    (∀ n ∈ [0, 1, 2], let s := (unnumbered true).setPort n { lit.port n with state := 5 }
      canTake s n (enumMsg 1 9) = true ∧ canTake s n (enumMsg 16 9) = true ∧ canTake s n (enumMsg 15 9) = true) ∧
    (canTake heading 0 (enumMsg 2 9) = true ∧ canTake heading 0 (enumMsg 2 8) = true ∧ heading.fld rRalEnum fRalEnumHasId = 1 ∧
      heading.fld rRalEnum fRalEnumHead = 1 ∧ heading.ral.enumTag = 9 ∧ heading.fld rRalEnum fRalEnumBusy = 1 ∧
      heading.mapReady = true ∧ heading.stackId + 1 ≠ 2 ∧ heading.on = true ∧ heading.freeze ≠ 2) ∧
    (∀ e ∈ [(1, 4), (2, 1), (31, 1)], canTake heading 1 (endMsg e.1 e.2) = true ∧ (endMsg e.1 e.2).arg.toNat % 256 = e.1 ∧
      (endMsg e.1 e.2).arg.toNat / 256 % 256 = e.2) ∧
    (canTake linked 1 (endMsg 2 1) = true ∧ linked.fld rRalEnum fRalEnumHead = 0) := by
  unfold NoneAbroad
  decide +kernel

/-- A MAP message of a kind and a count. -/
def mapOf (kind count : Nat) : RMsg := { toUs 18 with
  addr := 0
  arg := BitVec.ofNat 128 (kind + 256 * count)
  data := mapData (List.replicate 80 0xFF) }

/-- Stack 1 of two, with frames on ports 0, 1 and 2. -/
def second : State :=
  let s := (((lit.setPort 0 { lit.port 0 with state := 5 }).setPort 1 { lit.port 1 with state := 5 }).setPort 2
    { lit.port 2 with state := 5 }).setFld rRalEnum fRalEnumHasId 1
  { s.setFld rRalEnum fRalEnumStackId 1 with ral := { s.ral with enumTag := 9 } }

/-- MapAndIdentityTravel, MAP: this stack's bytes into 80; a collect at a port of a stack that is no head, its chord known and not; at the
head; a distribute at the head and at another stack; a MAP that waits. -/
theorem witness_map :
    ((List.replicate 80 0xFF).length = 80 ∧ second.stackId < 16 ∧ (∀ x ∈ List.replicate 80 0xFF, x < 256)) ∧
    (canTake second 0 (mapOf 0 2) = true ∧ canTake second 1 (mapOf 0 2) = true ∧ second.fld rRalEnum fRalEnumHead = 0 ∧
      second.mapReady = false ∧ (second.setPort 2 (lit.port 2)).mapReady = true ∧ canTake (second.setPort 2 (lit.port 2)) 0 (mapOf 0 2) = true) ∧
    (canTake heading 1 (mapOf 0 2) = true ∧ canTake heading 1 (mapOf 1 2) = true ∧ NoneAbroad heading) ∧
    (canTake second 0 (mapOf 1 2) = true ∧ second.ral.adopting = false ∧ second.ral.map = [] ∧ NoneAbroad second ∧
      second.fld rRalEnum fRalEnumHasId = 1) ∧
    (let s : State := { second with ral := { second.ral with pendingMap := some (mapOf 0 2) } }
     s.on = true ∧ s.freeze ≠ 2 ∧ s.ral.pendingMap = some (mapOf 0 2) ∧ s.fld rRalEnum fRalEnumHead = 0) := by
  unfold NoneAbroad
  decide +kernel

/-- A LINKID of stack 3, port 2 under a tag. -/
def linkMsg (tag : Nat) : RMsg := { toUs 19 with addr := 0, arg := BitVec.ofNat 128 (3 + 256 * 2 + 2 ^ 32 * tag) }

/-- MapAndIdentityTravel, LINKID, adopt and ESTATE: LINKID of another enumeration and of this one, before and after the map, from another
peer; an id adopted and each reason to refuse; the head and a member with the trellis set and not. -/
theorem witness_identity :
    (canTake second 2 (linkMsg 8) = true ∧ canTake second 2 (linkMsg 9) = true ∧ second.ral.pendingMap = none) ∧
    (let s := (second.setFld (rRalPortStat 2) fRalPortStatPeerValid 1).setFld (rRalPortStat 2) fRalPortStatPeerStack 4
     let t : State := { s with ral := { s.ral with map := List.replicate 80 0xFF } }
     canTake t 2 (linkMsg 9) = true ∧ t.ral.map ≠ [] ∧ t.fld (rRalPortStat 2) fRalPortStatPeerValid = 1 ∧
      t.fld (rRalPortStat 2) fRalPortStatPeerStack ≠ 3 ∧ (t.stackId, 2) ∉ t.ral.downs ∧ t.ral.pendingMap = none ∧ NoneAbroad t) ∧
    (let s := (((lit.setPort 0 { lit.port 0 with state := 5 }).setFld (rRalPortStat 0) fRalPortStatPeerValid 1).setFld rRalEnum
        fRalEnumAdoptId 0).setFld rRalEnum fRalEnumAdoptCount 1
     s.canWrite fn0 rRalEnum = true ∧ s.fld rRalEnum fRalEnumHasId = 0 ∧ s.fld rRalEnum fRalEnumAdoptId = 0 ∧
      s.fld rRalEnum fRalEnumAdoptCount = 1 ∧ (s.port 0).framing = true ∧ (s.port 1).framing = false ∧
      s.fld (rRalPortStat 0) fRalPortStatPeerValid = 1 ∧ s.fld (rRalPortStat 0) fRalPortStatPeerStack = 0) ∧
    (second.canWrite fn0 rRalEnum = true ∧ second.canWrite fn0 rRalEstate = true ∧ heading.canWrite fn0 rRalEstate = true ∧
      heading.fld rRalEstate fRalEstateSet = 0 ∧ heading.peerCount = 2 ∧ (heading.peer 1).reach = true) ∧
    (∀ b ∈ [0, 1], canTake (linked.setFld rRalEstate fRalEstateSet b) 1 (toUs 25) = true ∧
      (linked.setFld rRalEstate fRalEstateSet b).fld rRalEstate fRalEstateSet = b) ∧
    (canTake linked 1 (toThem 25) = true ∧ (toThem 25).addr / 2 ^ 43 % 16 ≠ linked.stackId ∧ (linked.peer 1).reach = true) := by
  unfold NoneAbroad
  decide +kernel

/-- HealthTravels: a link of the map that goes down, a reachable peer, HEALTH at the head and at a member, a member silent for
4 rounds, PING, and PONG that is awaited and not. -/
theorem witness_health :
    (let s : State := { linked with ral := { linked.ral with map := List.replicate 64 0xFF ++ [0x11] ++ List.replicate 15 0xFF } }
     canTake s 1 (toUs 20) = true ∧ s.own (toUs 20) = true ∧ s.ral.map ≠ [] ∧ s.ral.downs = [] ∧ NoneAbroad s ∧ s.stackId ≠ 1 ∧
      (s.computePeer 1 Peer.none).reach = true) ∧
    (canTake heading 1 (toUs 21) = true ∧ heading.own (toUs 21) = true ∧ heading.plc.dir = [] ∧ heading.plc.replicas = [] ∧
      heading.fld rRalEnum fRalEnumHead = 1) ∧
    (canTake linked 1 (toUs 21) = true ∧ linked.fld rRalEnum fRalEnumHead = 0 ∧ linked.peerCount ≤ 16) ∧
    (let s : State := { heading with ral := { heading.ral with mRounds := [(1, 4)] } }
     s.on = true ∧ s.freeze ≠ 2 ∧ 1 ≠ s.stackId ∧ 1 < s.peerCount ∧ 4 ≤ smGetD s.ral.mRounds 1 0 ∧ s.peerCount ≤ 16) ∧
    (canTake linked 1 (toUs 23) = true ∧ canTake linked 1 (toUs 24) = true ∧ linked.ral.pings = [] ∧
      (let s : State := { linked with ral := { linked.ral with pings := [7] } }
       canTake s 1 (toUs 24) = true ∧ (toUs 24).tag ∈ s.ral.pings)) := by
  unfold NoneAbroad
  decide +kernel

/-! ### Debug -/

/-- The stack at a debug level, at freeze scope `frozen`, as changed. -/
def debugging (level frozen : Nat) (g : DbgSt → DbgSt) : State :=
  let s := lit.setFld rDbgLevel fDbgLevelLevel level
  { s with dbg := g { s.dbg with frozen := frozen } }

/-- LevelsAndTrace, levels: every level and target, a core freeze; a sealed partition; D3 waiting for nothing and for an erasure; a
counter. -/
theorem witness_levels :
    (∀ l ∈ [0, 1, 2, 3], (debugging l 0 id).canWrite fn0 rDbgLevel = true ∧ (debugging l 0 id).fld rDbgLevel fDbgLevelBusy = 0 ∧
      (debugging l 0 id).fld rDbgLevel fDbgLevelLevel = l ∧ (debugging l 0 id).thawed = true ∧ (debugging l 1 id).thawed = false ∧
      (debugging l 1 id).canWrite fn0 rDbgLevel = true) ∧
    (∀ p ∈ List.range 16, lit.sealed p = false ∧ lit.secState p < 2) ∧
    ((secured (some (sec0 3 0)) false).sealed 0 = true ∧ (secured (some (sec0 3 0)) false).canWrite fn0 rDbgLevel = true) ∧
    (debugging 0 0 (fun d => { d with d3Wait := true })).dbg.d3Wait = true ∧
    (let s := secured (some (sec0 4 0)) false
     (∀ p ∈ List.range 16, s.sealed p = false) ∧ 2 ≤ s.secState 0 ∧ s.on = true) ∧
    (∀ k ∈ [0, 15], lit.canWrite fn0 (rDbgCnt k) = true) := by
  decide +kernel

/-- A trace on ways 12 to 15 of two slices with every event, some records in its buffer. -/
def tracing (buf : List (BitVec 256)) : State :=
  let s := debugging 1 0 (fun d => { d with
    trSlices := [0, 1]
    trBuf := buf })
  ((((s.setFld rDbgTraceCfg fDbgTraceCfgEn 1).setFld rDbgTraceCfg fDbgTraceCfgWays 0xF000).setFld rDbgTraceCfg
    fDbgTraceCfgEvents 0xFFFF).setFld rDbgTraceStat fDbgTraceStatNext buf.length)

/-- LevelsAndTrace, trace: at D0 and D1, with no way, with ways of partition 0 and with no partition; a marker into an empty buffer and one
that fills a frame. -/
theorem witness_trace :
    (∀ l ∈ [0, 1, 2], (debugging l 0 id).canWrite fn0 rDbgTraceCfg = true ∧ (debugging l 0 id).level = l ∧
      (debugging l 0 id).fld rDbgTraceCfg fDbgTraceCfgEn = 0) ∧
    (fDbgTraceCfgEn.get (fDbgTraceCfgEn.put 0xF000 1) = 1 ∧ fDbgTraceCfgWays.get (fDbgTraceCfgEn.put 0xF000 1) = 0xF000 ∧
      fDbgTraceCfgWays.get (fDbgTraceCfgEn.put 0 1) = 0) ∧
    ((debugging 1 0 id).part 0 = some part0 ∧ part0.ways.toNat &&& 0xF000 ≠ 0) ∧
    (let s : State := { lit with bup := { lit.bup with blend := none } }
     ∀ p ∈ List.range 16, s.part p = none) ∧
    (∀ b ∈ [([] : List (BitVec 256)), [1, 2, 3]], let s := tracing b
      s.canWrite fn0 rDbgTraceMark = true ∧ s.fld rDbgTraceCfg fDbgTraceCfgEn = 1 ∧ s.fld rDbgTraceStat fDbgTraceStatFull = 0 ∧
        s.thawed = true ∧ s.pwr.state = 0 ∧ nbit (s.fld rDbgTraceCfg fDbgTraceCfgEvents) 15 = true ∧
        s.fld rDbgTraceCfg fDbgTraceCfgPartEn = 0 ∧ s.sealed 0xFF = false ∧ s.dbg.trBuf = b ∧
        s.fld rDbgTraceStat fDbgTraceStatNext = b.length ∧ ones (s.fld rDbgTraceCfg fDbgTraceCfgWays) 16 = [12, 13, 14, 15] ∧
        (s.slice (s.dbg.trSlices.getD 0 0)).state ≠ 2) := by
  decide +kernel

/-- The stack at D2 after step 10, the pin scope as given. -/
def freezable (pinScope frozen : Nat) (g : DbgSt → DbgSt) : State :=
  (debugging 2 frozen g).setFld rDbgFreeze fDbgFreezePinScope pinScope

/-- FreezesAndThaws, entry: scopes 1 and 2 by pin and by register, one that waits, one that does not fit; a held request; the end of a
core and of a full entry. -/
theorem witness_freeze :
    (∀ k ∈ [1, 2], let s := freezable k 0 id
      s.on = true ∧ s.fld rDbgFreeze fDbgFreezePinScope = k ∧ s.level = 2 ∧ s.stepDone 10 = true ∧ s.freezeWaits = false ∧
        s.canWrite fn0 rDbgFreeze = true) ∧
    ((freezable 1 0 (fun d => { d with thawing := true })).freezeWaits = true ∧
      (freezable 1 0 (fun d => { d with thawing := true })).canWrite fn0 rDbgFreeze = true) ∧
    ((debugging 1 0 id).level < 2 ∧ (debugging 2 0 id).fld rDbgFreeze fDbgFreezePinScope = 0) ∧
    (let s := (debugging 2 0 id).setReg rBupDone 0x3FE
     s.stepDone 10 = false ∧ s.canWrite fn0 rDbgFreeze = true ∧ 2 ≤ s.level) ∧
    ((1 : Nat) < (freezable 1 2 id).dbg.frozen ∧ (freezable 1 1 id).canWrite fn0 rDbgFreeze = true) ∧
    (∀ k ∈ [1, 2], let s := freezable k 0 (fun d => { d with heldReg := k })
      s.dbg.heldReg = k ∧ s.dbg.heldPin = 0 ∧ s.freezeWaits = false ∧ s.dbg.frozen ≤ k) ∧
    (let s := freezable 2 0 (fun d => { d with heldPin := 1 })
     s.dbg.heldReg = 0 ∧ s.dbg.heldPin ≠ 0 ∧ s.fld rDbgFreeze fDbgFreezePinScope = 2) ∧
    (∀ k ∈ [1, 2], let s := freezable k k (fun d => { d with entering := true })
      s.on = true ∧ s.dbg.entering = true ∧ s.dbg.frozen = k ∧ s.plc.replicas = []) := by
  decide +kernel

/-- FreezesAndThaws, thaw: a pin that holds, a stack that drives it, and neither; the release of the pin; the end of a thaw with
nothing kept, with one request, and of a full freeze. -/
theorem witness_thaw :
    (let s := freezable 1 1 id
     s.canWrite fn0 rDbgFreeze = true ∧ s.pci.freezeLow = false ∧ s.dbg.driving = false ∧ s.dbg.frozen ≠ 0 ∧ s.dbg.thawing = false ∧
      s.pwr.state = 0 ∧ s.dbg.regFreeze = 0 ∧ ({ s with pci := { s.pci with freezeLow := true } } : State).canWrite fn0 rDbgFreeze = true) ∧
    (freezable 1 1 (fun d => { d with driving := true })).dbg.driving = true ∧
    (freezable 1 1 (fun d => { d with regFreeze := 1 })).dbg.regFreeze ≠ 0 ∧
    (∀ k ∈ [1, 2], let s := freezable 1 k (fun d => { d with thawing := true })
      s.on = true ∧ s.dbg.thawing = true ∧ s.dbg.entering = false ∧ s.thawPending = false ∧ s.dbg.keptInv = [] ∧ s.dbg.frozen = k ∧
        s.ral.kept = []) ∧
    (let s := freezable 1 1 (fun d => { d with thawing := true })
     let t : State := { s with ral := { s.ral with kept := [⟨1, toUs 1⟩] } }
     t.ral.kept = [⟨1, toUs 1⟩] ∧ (toUs 1).typ = 1 ∧ t.thawPending = false) := by
  decide +kernel

/-- ReadOutAndScan: addresses at the ends of each space; a trace way while the stack runs; each unit of a frozen stack, down, out of
service, and with what it holds. -/
theorem witness_read_out :
    (roValid 1 0x1F8000 = false ∧ roValid 1 0x1BF9FF = true ∧ roValid 2 8 = true ∧ roValid 2 9 = false ∧ roValid 3 (191 * 2 ^ 26) = true ∧
      roValid 3 (192 * 2 ^ 26) = false ∧ roValid 4 0x80 = true ∧ roValid 4 0x40 = false) ∧
    ((tracing []).canWrite fn0 rDbgRo = true ∧ (tracing []).thawed = true ∧ (tracing []).level = 1 ∧ (tracing []).pwr.target = none) ∧
    (let s : State := { tracing [] with bup := { lit.bup with blend := none } }
     s.traceWay 12 = true ∧ s.roOut 3 (12 / 4 * 2 ^ 24) = false) ∧
    (let s : State := { freezable 1 1 id with
       cmp := { thr := [(0, thr0)] }
       pwr := { bayGate := [(1, 2)] } }
     s.canWrite fn0 rDbgRo = true ∧ s.thawed = false ∧ s.level = 2 ∧ s.roDown 1 (2 ^ 20) = true ∧ s.roDown 2 0 = false ∧
      s.roOut 2 0 = false ∧ s.roSealed 2 0 = none ∧ s.thread 0 = some thr0 ∧ s.roDown 3 0 = false ∧ s.roOut 3 0 = false) ∧
    (let s := (secured (some (sec0 3 0)) false)
     s.roSealed 3 0 = some 0 ∧ s.roSealed 1 0 = some 0) ∧
    (let s : State := { freezable 1 1 id with cel := { slices := [(5, { Slice.initial 5 with state := 2 })] } }
     s.roOut 3 (5 * 2 ^ 26) = true ∧ s.roDown 3 (5 * 2 ^ 26) = false) ∧
    (let s := debugging 3 2 id
     s.on = true ∧ s.level = 3 ∧ s.dbg.frozen = 2 ∧ s.dbg.entering = false) := by
  decide +kernel

/-- ReadOutAndScan, rows: a row of the trace, and a line of a frame. -/
theorem witness_rows :
    (let s : State := { lit with dbg := { lit.dbg with trace := [(9, 5)] } }
     smGet s.cel.frames 9 = none ∧ smGet s.dbg.trace 9 = some 5) ∧
    (let e := ent0 .clean 0 0x11
     smGet (caches e).cel.frames (frameKey (sliceOf 0x1000) (setOf 0x1000) 0) = some (frame0 e) ∧ e ∈ (frame0 e).lines ∧
      e.quarter < 4 ∧ e.cls ∈ [32, 64, 96, 128] ∧ 32 * e.quarter + e.cls ≤ 128) := by
  decide +kernel

/-! ### The whole machine -/

/-- MemoryStaysCanonical: a state whose cellar holds a frame and whose HBM holds a block, with a command that waits. -/
theorem witness_memory :
    let s : State := { caches (ent0 .clean 0 0x11) with
      hbm := { blocks := [(9, Block.blank 0x1000)] }
      pending := [.enumTimeout] }
    MemoryCanonical s ∧ (∀ bits l, s.pending ≠ .scanShift bits :: l) ∧ ∃ v, step s = .next v := by
  refine ⟨⟨by decide +kernel, by decide +kernel, by decide +kernel⟩, ?_, ?_⟩
  · intro bits l h
    exact Instr.noConfusion (List.cons.inj h).1
  · exact ⟨_, rfl⟩

/-! ### Words of R129 and R131, bit by bit -/

/-- The instruction that a word spells to the thread in slot 0. -/
def spelled (w : BitVec 32) : Option Instr := isaDecode 0 ⟨[], false⟩ w

/-- The examples of chapter 4. -/
theorem test_words_of_the_spec : spelled 0x987F5018 = some (.ld64 0 7 61 1 24) ∧ spelled 0x0091C800 = some (.add 0 9 7 8) ∧
    spelled 0x4892BFFD = some (.cbrLt 0 9 10 0x3FFD) := by decide +kernel

theorem test_word_r : spelled (0b000000#6 ++ 0b000100#6 ++ 0b000001#6 ++ 0b000010#6 ++ 0b00010001#8) = some (.mulhs 0 4 1 2) ∧
    spelled (0b000001#6 ++ 0b000100#6 ++ 0b000001#6 ++ 0b000010#6 ++ 0b01000011#8) = some (.fmac 0 1 4 1 2) ∧
    spelled (0b000010#6 ++ 0b000100#6 ++ 0b000001#6 ++ 0b000011#6 ++ 0b01111111#8) = some (.cvt 0 4 1 3 0x3F true) ∧
    spelled (0b000011#6 ++ 0b000100#6 ++ 0b000001#6 ++ 0b000010#6 ++ 0b00000101#8) = some (.cmp 0 5 4 1 2) := by
  decide +kernel

theorem test_word_k_l_c_j : spelled (0b000100#6 ++ 0b000100#6 ++ 0b000001#6 ++ 0b10000000000001#14) = some (.addk 0 4 1 0x2001) ∧
    spelled (0b001101#6 ++ 0b000100#6 ++ 0b10000000000000000001#20) = some (.seti 0 4 0x80001) ∧
    spelled (0b010011#6 ++ 0b000100#6 ++ 0b000001#6 ++ 0b00000000000011#14) = some (.cbrGe 0 4 1 3) ∧
    spelled (0b010111#6 ++ 0b10000000000000000000000001#26) = some (.call 0 0x2000001) := by decide +kernel

theorem test_word_memory : spelled (0b100000#6 ++ 0b000100#6 ++ 0b000001#6 ++ 0b11#2 ++ 0b100000000001#12) = some (.ldu8 0 4 1 3 0x801) ∧
    spelled (0b101011#6 ++ 0b000100#6 ++ 0b000001#6 ++ 0b10#2 ++ 0b000000001000#12) = some (.st64 0 4 1 2 8) ∧
    spelled (0b101100#6 ++ 0b000100#6 ++ 0b000001#6 ++ 0b000010#6 ++ 0b00000001#8) = some (.sacc 0 1 4 1 2) ∧
    spelled (0b101110#6 ++ 0b000000#6 ++ 0b000001#6 ++ 0b00#2 ++ 0b000001000000#12) = some (.cinv 0 1 0x40) := by decide +kernel

theorem test_word_system : spelled (0b110000#6 ++ 0b000000#6 ++ 0b000000#6 ++ 0b000000#6 ++ 0b00000010#8) = some (.fenceAcquire 0) ∧
    spelled (0b110001#6 ++ 0b000100#6 ++ 0b000000#6 ++ 0b001111#6 ++ 0b10000001#8) = some (.barrierArrive 0 1 4 15) ∧
    spelled (0b110010#6 ++ 0b000100#6 ++ 0b000001#6 ++ 0b000010#6 ++ 0b00001010#8) = some (.flagWait 0 4 1 2 2) ∧
    spelled (0b110100#6 ++ 0b000100#6 ++ 0b001000#6 ++ 0b000000#6 ++ 0b00000011#8) = some (.opcall 0 4 8 3) ∧
    spelled (0b111000#6 ++ 0b000100#6 ++ 0b000000#6 ++ 0b001000#6 ++ 0b00000011#8) = some (.rds 0 4 8) := by decide +kernel

/-- Illegal instructions (R128, R130, R131): a condition of CMP, a hint of a store, an opcode of SACC, a kind of FENCE, an index
of RDS, a major opcode that no row has, and unused bits that are not 0. -/
theorem test_illegal_words : ∀ w ∈ [0b000011000100000001000010#24 ++ 0b00000110#8, 0b101011000100000001#18 ++ 0b11000000001000#14,
    0b101100000100000001000010#24 ++ 0b00000111#8, 0b110000000000000000000000#24 ++ 0b00000000#8,
    0b111000000100000000001001#24 ++ 0b00000011#8, 0b111111000000000000000000#24 ++ 0b00000000#8,
    0b111000000001000000000000#24 ++ 0b00000001#8].map BitVec.toNat, (spelled (BitVec.ofNat 32 w)).isNone = true := by decide +kernel

/-- IsaRoundTrip: words of well-formed instructions. -/
theorem witness_words : ∀ i ∈ someAlu ++ someFlow ++ someFp, i.wf = true ∧ (isaWord i).isSome = true := by decide +kernel

/-- No row of the table has bits. -/
theorem test_no_bits : decodeTableWord 32 0x0091C800 = none ∧ State.reset.withFetchWord 32 0x0091C800 = State.reset :=
  ⟨rfl, rfl⟩

/-! ### Well-formedness: an ill-formed term for each check -/

theorem test_wf_refuses : ∀ i ∈ [(.flr ⟨2, 0⟩ : Instr), .flr ⟨0, 17⟩, .nop 98304, .add 0 64 1 2, .add 0 4 64 2, .add 0 4 1 64,
      .cvt 0 4 1 7 0 false, .cvt 0 4 1 0 0x3E false, .fadd 0 3 4 1 2, .cmp 0 6 4 1 2, .ldu8 0 4 1 4 0, .st8 0 4 1 3 0,
      .sacc 0 0 4 1 2, .sacc 0 7 4 1 2, .sacc 0 1 5 1 2, .pref 0 2 1 0 0, .opcall 0 4 9 0, .opcall 0 4 8 4, .rds 0 4 9,
      .barrierInit 0 2 4 3 0, .barrierArrive 0 0 4 64, .flagWait 0 4 1 2 4],
    i.wf = false := by decide +kernel

theorem test_wf_refuses_events : ∀ i ∈ [(.pcieLinkUp 0 0 1 0 : Instr), .pcieLinkUp 0 1 3 0, .sliceRead ⟨.borsum, 0, 4⟩ [],
      .sliceRead ⟨.borsum, 2 ^ 43, 0⟩ [], .sliceRead ⟨.borsum, 0, 0⟩ [⟨0, 70, 1⟩], .sliceRead ⟨.borsum, 0, 0⟩ [⟨0, 69, 0⟩],
      .ralothFrameReceive 8 [], .ralothFrameReceive 0 [[4]], .ralothFrameReceive 0 (List.replicate 9 []),
      .trainingBlockReceive 0 [[0]], .read 0 { toUs 1 with typ := 256 }, .read 0 { toUs 1 with data := List.replicate 31 0 },
      .thrashDetect 192 0, .thrashDetect 0 32768, .rackLine (2 ^ 22) 0, .hbmParityError 192, .ctxSuspend fn0 16 0,
      .ctxSuspend fn0 0 64, .taskDoorbell fn0 1024 0, .atsInvalidate fn0 none 0 0 32, .scrubCellar fn0 256],
    i.wf = false := by decide +kernel

theorem test_wf_refuses_registers : (Instr.registerWrite fn0 (.bar0 (2 ^ 26) 8) 0 0).wf = false ∧
    targetOk (.cfg (.msixMask 32)) = false ∧ tapOk (.readOut 16 0 []) = false ∧ tapOk (.regRead (2 ^ 26) 8) = false ∧
    telOk ⟨[], [], [], []⟩ = false := by decide +kernel

/-! ### Numbers that the spec works out -/

/-- R46 to R51: fabric address 0x2_C812_3456_7800 lies in stack 9 of trellis 5. -/
theorem test_fabric_address :
    let s := (((lit.setFld rRalEstate fRalEstateTrellis 5).setFld rRalEstate fRalEstateSet 1).setFld rRalEnum fRalEnumStackId 9).setFld
      rRalEnum fRalEnumCount 16
    s.fabric 0x2_C812_3456_7800 = .hbm 0x12_3456_7800 ∧
      (s.setFld rRalEnum fRalEnumStackId 2).fabric 0x2_C812_3456_7800 = .remote 0x2_C812_3456_7800 ∧
      s.bar2Fabric 47 0x4812_3456_7800 = 0x2_C812_3456_7800 := by decide +kernel

/-- R324: V of the block at 0x12_3456_7800. -/
theorem test_virtual_value : vHbm 0x12_3456_7800 = 0xD319E0 ∧ rsMessage (vHbm 0x12_3456_7800) 0 =
    [0xD3, 0x19, 0xE0] ++ List.replicate 64 0 := by decide +kernel

/-- R80 to R83 and R523: row 13 skips site 9 and row 21 is removed; channel 58 is mapped out. -/
def yielded : State :=
  let s := lit.setFld (rHbmChStat 58) fHbmChStatState 1
  { s with bup := { s.bup with
    skip := [(13, 9)]
    removed := [21]
    cells := (List.range 24).map (fun c => (24 * 21 + c, 1)) } }

theorem test_bay_rows : yielded.bayRows 13 = 0x1818_0918 ∧ yielded.bayRows 20 = 0x1818_3818 ∧ yielded.cellsOn = 744 ∧
    (List.range 6).map (fun c => yielded.siteOf (24 * 13 + 6 + c)) = [6, 7, 8, 10, 11, 12] ∧ yielded.bayActive 20 = 18 := by
  decide +kernel

theorem test_grade : (gradeEnd yielded).reg rBupGrade = 0x0000_0008_2FF0_2E88 := by decide +kernel

/-- R193: sectors of zeros, 1,000 to 1,007, E5M2 values of exponents 14 and 15, and zeros make a line of class 32. -/
theorem test_line_class : classOf (BitVec.ofNat 1024 (
    ((List.range 8).foldl (fun a i => a + (1000 + i) * 2 ^ (32 * i)) 0) * 2 ^ 256 +
    ((List.range 32).foldl (fun a i => a + (0x38 + 4 * (i % 2)) * 2 ^ (8 * i)) 0) * 2 ^ 512)) = 32 := by decide +kernel

/-- R98: the MXFP4 example: a scale of 0x7F; 5.3, −0.7 and 2.4 become 0b0111, 0b1001 and 0b0100. -/
theorem test_mxfp4 : mxScale 0x14 ([0x40A9999A, 0xBF333333, 0x4019999A].map (fpDec fp32)) = 0x7F ∧
    ([0x40A9999A, 0xBF333333, 0x4019999A].map (fun v => (mxElem ⟨0, 0⟩ 0x14 0x7F (fpDec fp32 v)).1)) = [7, 9, 4] := by
  decide +kernel

/-- R493: record 1,000,000 of a trace on 192 slices lies at read-out address 0x3000_0000_430A_2D80. -/
theorem test_trace_place : roFrame 0x430A_2D80 = frameKey 16 1302 15 ∧ roValid 3 0x430A_2D80 = true ∧
    (250000 % 192, 250000 / 192) = (16, 1302) := by decide +kernel

/-- FIPS 180-4: the digest of "abc". -/
theorem test_sha256 : beNat (sha256 (ascii "abc")) = 0xba7816bf8f01cfea414140de5dae2223b00361a396177a9cb410ff61f20015ad := by
  decide +kernel

/-- FIPS 197, appendix C.3. -/
theorem test_aes256 : beNat (aesEncrypt ((List.range 32).map (BitVec.ofNat 8)) (beBytes 0x00112233445566778899aabbccddeeff 16)) =
    0x8ea2b7ca516745bfeafc49904b496089 := by decide +kernel

end Sys2Proof.Tests
end

section
/-! SUPPORT. Frames and the state after power-up: what each update of the state, an interrupt, a message on a Raloth port and
an answer leave alone (`Only`), and the proof of ResetIsClean (R18). -/

namespace Sys2Proof.Machine

open Sys2Proof

/-! ### The rules of `Only` -/

theorem Area.same_refl (p : Area) (s : State) : p.same s s := by cases p <;> rfl

theorem Area.same_trans {p : Area} {s t u : State} (h : p.same s t) (h' : p.same t u) : p.same s u := by
  cases p <;> exact Eq.trans h' h

theorem Only.refl (l : List Area) (s : State) : Only l s s := ⟨rfl, fun p _ => p.same_refl s⟩

theorem Only.trans {l : List Area} {s t u : State} (h : Only l s t) (h' : Only l t u) : Only l s u :=
  ⟨h'.1.trans h.1, fun p hp => Area.same_trans (h.2 p hp) (h'.2 p hp)⟩

theorem Only.mono {l m : List Area} {s t : State} (h : Only l s t) (hl : l ⊆ m) : Only m s t :=
  ⟨h.1, fun p hp => h.2 p (fun hm => hp (hl hm))⟩

theorem Only.foldS {β : Type} {l : List Area} (xs : List β) (s : State) (f : State → β → State)
    (h : ∀ u b, Only l u (f u b)) : Only l s (foldS xs s f) :=
  foldS_keeps (P := Only l s) xs f (fun u b hu => hu.trans (h u b)) (.refl l s)

/-! ### One rule per update of the state -/

theorem only_regs (s : State) (m : SMap Word) : Only [.regs] s { s with regs := m } :=
  ⟨rfl, fun p hp => by cases p <;> simp [Area.same] at hp ⊢⟩

theorem only_fns (s : State) (m : SMap FnCfg) : Only [.fns] s { s with fns := m } :=
  ⟨rfl, fun p hp => by cases p <;> simp [Area.same] at hp ⊢⟩

theorem only_pci (s : State) (x : PciSt) : Only [.pci] s { s with pci := x } :=
  ⟨rfl, fun p hp => by cases p <;> simp [Area.same] at hp ⊢⟩

theorem only_cmp (s : State) (x : CmpSt) : Only [.cmp] s { s with cmp := x } :=
  ⟨rfl, fun p hp => by cases p <;> simp [Area.same] at hp ⊢⟩

theorem only_cel (s : State) (x : CelSt) : Only [.cel] s { s with cel := x } :=
  ⟨rfl, fun p hp => by cases p <;> simp [Area.same] at hp ⊢⟩

theorem only_plc (s : State) (x : PlcSt) : Only [.plc] s { s with plc := x } :=
  ⟨rfl, fun p hp => by cases p <;> simp [Area.same] at hp ⊢⟩

theorem only_ral (s : State) (x : RalSt) : Only [.ral] s { s with ral := x } :=
  ⟨rfl, fun p hp => by cases p <;> simp [Area.same] at hp ⊢⟩

theorem only_out (s : State) (l : List Out) : Only [.out] s { s with out := l } :=
  ⟨rfl, fun p hp => by cases p <;> simp [Area.same] at hp ⊢⟩

theorem only_free (s : State) (n : Nat) : Only [.free] s { s with free := n } :=
  ⟨rfl, fun p hp => by cases p <;> simp [Area.same] at hp ⊢⟩

theorem only_setReg (s : State) (o : Nat) (v : Word) : Only [.regs] s (s.setReg o v) := only_regs s _

theorem only_setFld (s : State) (o : Nat) (f : Fld) (n : Nat) : Only [.regs] s (s.setFld o f n) := only_regs s _

theorem only_setFn (s : State) (f : Fn) (c : FnCfg) : Only [.fns] s (s.setFn f c) := only_fns s _

theorem only_emit (s : State) (o : Out) : Only [.out] s (s.emit o) := only_out s _

theorem only_setSlice (s : State) (n : Nat) (x : Slice) : Only [.cel] s (s.setSlice n x) := only_cel s _

theorem only_putFrame (s : State) (n set way : Nat) (f : Frame) : Only [.cel] s (s.putFrame n set way f) := only_cel s _

/-! ### Interrupts, trace, answers -/

/-- What an interrupt may change: Pending Bits and messages sent (R361). -/
def signalledIn : List Area := [.fns, .out]

theorem only_sendMsix (s : State) (f : Fn) (v : Nat) : Only signalledIn s (sendMsix s f v) := by
  unfold sendMsix
  dsimp only
  split
  · exact .refl _ s
  · split
    · exact (only_setFn _ _ _).mono (by decide)
    · exact (only_emit _ _).mono (by decide)

theorem only_msixOwner (s : State) (v : Nat) : Only signalledIn s (msixOwner s v) := by
  unfold msixOwner
  split
  · exact .refl _ s
  · exact only_sendMsix s _ v

theorem only_msixPart (s : State) (p v : Nat) : Only signalledIn s (msixPart s p v) :=
  .foldS _ _ _ (fun _ _ => only_sendMsix _ _ _)

theorem only_msixBay (s : State) (b v : Nat) : Only signalledIn s (msixBay s b v) := by
  unfold msixBay
  split
  · exact only_msixPart s _ v
  · exact only_msixOwner s 10

theorem only_signal (s : State) (r : RegRow) (k : Nat) : Only signalledIn s (signal s r k) := by
  unfold signal
  repeat' apply ite_keeps (P := Only signalledIn s)
  all_goals apply_rules [only_msixOwner, only_msixPart, only_msixBay]

theorem SideOnly.only {s t : State} (h : SideOnly s t) : Only tracedIn s t :=
  ⟨h.pending, fun p hp => by
    cases p <;> simp [tracedIn, raisedIn, Area.same] at hp ⊢
    case pci => exact h.pci
    case sec => exact h.sec
    case bup => exact h.bup
    case cmp => exact h.cmp
    case xlt => exact h.xlt
    case cel => exact h.cel
    case hbm => exact h.hbm
    case plc => exact h.plc
    case ral => exact h.ral
    case pwr => exact h.pwr⟩

theorem only_setPort (s : State) (n : Nat) (p : RalPort) : Only portIn s (s.setPort n p) := by
  have h := only_ral s { s.ral with ports := smPut s.ral.ports n p RalPort.initial }
  unfold State.setPort
  dsimp only
  split
  · exact h.mono (by decide)
  · exact (h.mono (by decide)).trans ((trace_spec _ _ _ _ _ _ _ _).1.only.mono (by decide))

theorem only_ralRoute (s : State) (m : RMsg) : Only portIn s (ralRoute s m).1 := by
  unfold ralRoute
  split
  · exact only_setPort _ _ _
  · exact .refl _ s

/-- A response is a message on its way to the stack that asked. The functions are compared as they stand: of an applied one
the kernel would evaluate the route. -/
theorem respond_eq : respond = fun s q typ arg poison data =>
    (ralRoute s ⟨typ, q.vc, q.prio, q.tag, s.trellisId, s.stackId, 0, 0, q.part, poison,
      q.srcT * 2 ^ 47 + q.srcS * 2 ^ 43, arg, data⟩).1 := rfl

theorem only_respond (s : State) (q : RMsg) (typ : Nat) (arg : BitVec 128) (poison : BitVec 4) (data : List Sector) :
    Only portIn s (respond s q typ arg poison data) := by
  rw [respond_eq]
  exact only_ralRoute s _

/-- What an acknowledgement may change: the requesting thread, or the port towards the stack that asked. -/
def answeredIn : List Area := .cmp :: portIn

theorem only_storeDone (s : State) (slot : Nat) (t : Phys → Bool) : Only answeredIn s (storeDone s slot t) := by
  unfold storeDone
  split
  · exact .refl _ s
  · split
    · exact .refl _ s
    · exact (only_cmp s _).mono (by decide)

theorem only_answerAck (s : State) (who : Requester) (flag : Bool) (addr status : Nat) (w : Word) :
    Only answeredIn s (answerAck s who flag addr status w) := by
  unfold answerAck
  split
  · split
    · exact (only_cmp s _).mono (by decide)
    · exact only_storeDone s _ _
  · exact (only_respond _ _ _ _ _ _).mono (by decide)
  · exact .refl _ s

/-! ### Power-up -/

/-- Settles O60: the state before power is applied lists nothing, so every part reads as its default (R18; the contents of
HBM and cellar are the model's choice, assumption log 4). -/
theorem resetIsClean : Obligations.ResetIsClean :=
  ⟨fun _ => rfl, rfl, rfl, rfl, rfl, rfl, rfl, rfl, rfl, fun _ => rfl, rfl, rfl, memoryCanonical_reset, rfl, rfl⟩

end Sys2Proof.Machine
end

section
/-! SUPPORT. The access codes in one word (R19, R344), the telemetry words of the sideband (R365, R366), and the proof of
FieldsAndSideband. -/

namespace Sys2Proof.Machine

open Sys2Proof

/-! ### The access codes -/

theorem mem_regRows_of_regAt {off k : Nat} {r : RegRow} (h : regAt off = some (r, k)) : r ∈ regRows := by
  obtain ⟨x, hx, he⟩ := List.exists_of_findSome?_eq_some h
  obtain ⟨j, -, hj⟩ := Option.map_eq_some_iff.1 he
  cases hj
  exact hx

/-- In every register of the window the fields that a write sets share no bit with status bits and overlap. -/
theorem regRows_writable_disjoint : ∀ r ∈ regRows, r.writable &&& (r.status ||| r.overBit) = 0 := by decide +kernel

/-- Overlap is no status bit of its own register. -/
theorem RegRow.status_and_overBit (r : RegRow) (i : Nat) (h : r.overBit.getLsbD i = true) : r.status.getLsbD i = false := by
  simp [RegRow.status, h]

/-- A clear is lost where a status bit is cleared in the cycle in which hardware sets it. -/
theorem clear_lost_eq (v en hw st ov : Word) : v &&& en &&& (st ||| ov) &&& (hw &&& st) = v &&& en &&& hw &&& st := by
  ext i
  simp only [BitVec.getElem_and, BitVec.getElem_or]
  cases st[i] <;> simp

/-- Each bit of a register after a write. -/
theorem writtenWord_bit (r : RegRow) (old en v hw locked : Word) (i : Nat) (hi : i < 64) :
    (writtenWord r old en v hw locked).getLsbD i =
      (((((old.getLsbD i && !(r.writable.getLsbD i && en.getLsbD i && !locked.getLsbD i)) ||
              (v.getLsbD i && (r.writable.getLsbD i && en.getLsbD i && !locked.getLsbD i))) &&
            !(v.getLsbD i && en.getLsbD i && (r.status.getLsbD i || r.overBit.getLsbD i))) ||
          (hw.getLsbD i && r.status.getLsbD i)) ||
        (decide (v &&& en &&& hw &&& r.status ≠ 0) && r.overBit.getLsbD i)) := by
  unfold writtenWord
  dsimp only
  rw [clear_lost_eq]
  by_cases hl : v &&& en &&& hw &&& r.status = 0#64
  · simp [hl, hi]
  · simp [hl, hi]

/-- What a write sets is neither a status bit nor overlap. -/
theorem writable_disjoint {r : RegRow} (hr : r ∈ regRows) {i : Nat} (h : r.writable.getLsbD i = true) :
    r.status.getLsbD i = false ∧ r.overBit.getLsbD i = false := by
  have hd : (r.writable &&& (r.status ||| r.overBit)).getLsbD i = false := by
    rw [regRows_writable_disjoint r hr]
    exact BitVec.getLsbD_zero
  simpa [h] using hd

section
variable {r : RegRow} (old en v hw locked : Word) {i : Nat}

theorem writtenWord_writable (hr : r ∈ regRows) (hi : i < 64) (h : r.writable.getLsbD i = true) :
    (writtenWord r old en v hw locked).getLsbD i =
      if en.getLsbD i && !locked.getLsbD i then v.getLsbD i else old.getLsbD i := by
  obtain ⟨hs, ho⟩ := writable_disjoint hr h
  rw [writtenWord_bit _ _ _ _ _ _ _ hi, h, hs, ho]
  cases en.getLsbD i <;> cases locked.getLsbD i <;> simp

theorem writtenWord_status (hr : r ∈ regRows) (hi : i < 64) (h : r.status.getLsbD i = true) :
    (writtenWord r old en v hw locked).getLsbD i =
      (hw.getLsbD i || (old.getLsbD i && !(v.getLsbD i && en.getLsbD i))) := by
  have hn : r.writable.getLsbD i = false := Bool.eq_false_iff.2 fun e => by simp [(writable_disjoint hr e).1] at h
  have ho : r.overBit.getLsbD i = false := Bool.eq_false_iff.2 fun e => by simp [r.status_and_overBit i e] at h
  rw [writtenWord_bit _ _ _ _ _ _ _ hi, h, hn, ho]
  simp [Bool.or_comm]

theorem writtenWord_other (hi : i < 64) (h : r.writable.getLsbD i = false) (hs : r.status.getLsbD i = false)
    (ho : r.overBit.getLsbD i = false) : (writtenWord r old en v hw locked).getLsbD i = old.getLsbD i := by
  simp [writtenWord_bit _ _ _ _ _ _ _ hi, h, hs, ho]

theorem writtenWord_overlap (hi : i < 64) (h : r.overBit.getLsbD i = true) (hw0 : r.writable.getLsbD i = false)
    (hs : r.status.getLsbD i = false) :
    (writtenWord r old en v hw locked).getLsbD i =
      (decide (v &&& en &&& hw &&& r.status ≠ 0) || (old.getLsbD i && !(v.getLsbD i && en.getLsbD i))) := by
  simp [writtenWord_bit _ _ _ _ _ _ _ hi, h, hs, hw0, Bool.or_comm]

end

/-! ### The sideband -/

theorem i3cDirect_of {s : State} (hon : s.i3cOn = true) (ha : s.pci.i3cAddr.isSome = true) (k : State → State) :
    i3cDirect s k = k s := by
  simp [i3cDirect, hon, ha]

/-- The telemetry word of an index below 64 (R366). -/
def teleWord (words : SMap Nat) (i : Nat) : Nat := if i = 0 then 0x33383743 else if i < 0x20 then smGetD words i 0 else 0

theorem i3cWord_eq {s : State} {k : Nat} (hk : k < 16) (h1 : s.stepDone 1 = true) :
    s.i3cWord (4 * k) = teleWord s.pci.i3cWords (4 * k) := by
  unfold State.i3cWord teleWord
  rw [if_neg (by omega)]
  by_cases h : 0x20 ≤ 4 * k
  · simp [h, Nat.not_lt.2 h]
  · simp [h, Nat.lt_of_not_le h, h1]

/-- The state after `n` words of a private read that leave the index at `i`. -/
def readBehind (s : State) (i n : Nat) : State := { s with pci := { s.pci with i3cIdx := i }, free := s.free + n }

theorem i3cRead_succ (n : Nat) (s : State) (acc : List Nat) :
    i3cRead (n + 1) s acc =
      i3cRead n (readBehind s (if s.pci.i3cIdx = 0x3C then 0 else (s.pci.i3cIdx + 4) % 256) 1)
        (acc ++ [s.i3cWord s.pci.i3cIdx]) := rfl

theorem readBehind_readBehind (s : State) (i j n : Nat) : readBehind (readBehind s i 1) j n = readBehind s j (n + 1) := by
  simp [readBehind, Nat.add_assoc, Nat.add_comm 1 n]

/-- A private read gives the words from the index on, around from 0x3C to 0, and leaves the index behind the last. -/
theorem i3cRead_spec (n : Nat) (s : State) (acc : List Nat) (k : Nat) (hk : k < 16) (hi : s.pci.i3cIdx = 4 * k)
    (h1 : s.stepDone 1 = true) :
    i3cRead n s acc = (readBehind s (4 * ((k + n) % 16)) n,
      acc ++ (List.range n).map (fun j => teleWord s.pci.i3cWords (4 * ((k + j) % 16)))) := by
  induction n generalizing s acc k with
  | zero =>
    have h : readBehind s (4 * k) 0 = s := by rw [← hi]; rfl
    simp [i3cRead, Nat.mod_eq_of_lt hk, h]
  | succ n ih =>
    have hstep : (if 4 * k = 0x3C then 0 else (4 * k + 4) % 256) = 4 * ((k + 1) % 16) := by split <;> omega
    have hmod : ∀ j, ((k + 1) % 16 + j) % 16 = (k + (j + 1)) % 16 := fun j => by omega
    rw [i3cRead_succ, hi, hstep, i3cWord_eq hk h1,
      ih (readBehind s _ 1) _ ((k + 1) % 16) (Nat.mod_lt _ (by decide)) rfl h1, readBehind_readBehind]
    simp [hmod, readBehind, List.range_succ_eq_map, Function.comp_def, Nat.mod_eq_of_lt hk]

theorem only_readBehind (s : State) (i n : Nat) : Only [.pci, .free] s (readBehind s i n) :=
  Only.trans (t := { s with pci := { s.pci with i3cIdx := i } }) ((only_pci s _).mono (by decide))
    ((only_free _ _).mono (by decide))

/-- Settles O31: the bits of a written word case by case of the access code; the sideband command by command, the private
read by induction on its words. GETSTATUS gives a free value (assumption log 49). -/
theorem fieldsAndSideband : Obligations.FieldsAndSideband := by
  refine ⟨fun off r k hr old en v hw locked i hi => ?_, fun s hon => ⟨fun a ha => ?_, ?_, fun ha => ?_⟩⟩
  · have hm := mem_regRows_of_regAt hr
    exact ⟨writtenWord_writable old en v hw locked hm hi, writtenWord_status old en v hw locked hm hi,
      writtenWord_other old en v hw locked hi, writtenWord_overlap old en v hw locked hi⟩
  · have he : exec (.i3cEntdaa a) s = .next { s with pci := { s.pci with i3cAddr := some a } } := by
      show execI3cEntdaa a s = _
      simp [execI3cEntdaa, hon, ha]
    exact ⟨_, he, only_pci s _, rfl⟩
  · have he : exec .i3cRstdaa s = .next { s with pci := { s.pci with i3cAddr := none } } := by
      show execI3cRstdaa s = _
      simp [execI3cRstdaa, hon]
    exact ⟨_, he, only_pci s _, rfl⟩
  · have dir := i3cDirect_of hon ha
    refine ⟨⟨_, congrArg Host.Outcome.next (dir _), only_emit s _, _, rfl, ?_, ?_⟩,
      ⟨_, congrArg Host.Outcome.next (dir _), only_emit s _, rfl⟩,
      ⟨_, congrArg Host.Outcome.next (dir _), only_emit s _, rfl⟩,
      ⟨_, congrArg Host.Outcome.next (dir _), ?_, _, Nat.mod_lt _ (by decide), rfl⟩,
      fun b bs => ⟨_, congrArg Host.Outcome.next (dir _), only_pci s _, rfl⟩, fun n k hi hk h1 => ?_⟩
    · omega
    · omega
    · exact ((only_free s _).mono (by decide)).trans ((only_emit _ _).mono (by decide))
    · have he : exec (.i3cPrivateRead n) s = .next ((readBehind s (4 * ((k + n) % 16)) n).emit
          (.i3c ((List.range n).map (fun j => teleWord s.pci.i3cWords (4 * ((k + j) % 16)))))) := by
        show execI3cPrivateRead n s = _
        simp [execI3cPrivateRead, dir, i3cRead_spec n s [] k hk hi h1]
      exact ⟨_, he, ((only_readBehind s _ _).mono (by decide)).trans ((only_emit _ _).mono (by decide)), rfl, rfl⟩

end Sys2Proof.Machine
end

section
/-! SUPPORT. The register window: the parts of an access, registers that the access codes alone govern, writes through a
function and through the test access port, configuration space, and the read-clear field (R19, R344, R348, R356, R508). -/

namespace Sys2Proof.Machine

open Sys2Proof

/-! ### Fields bit by bit -/

theorem Fld.get_congr (f : Fld) {v w : Word} (h : ∀ i, i < f.w → v.getLsbD (f.lo + i) = w.getLsbD (f.lo + i)) :
    f.get v = f.get w := by
  rw [Fld.get_extract, Fld.get_extract]
  congr 1
  apply BitVec.eq_of_getLsbD_eq
  intro i hi
  simpa [hi] using h i hi

theorem Fld.get_bit_eq_one {f : Fld} {v : Word} (hw : f.w = 1) (h : v.getLsbD f.lo = true) : f.get v = 1 := by
  have hb : v.toNat.testBit f.lo = true := h
  simpa [Fld.get, hw, Nat.testBit_eq_decide_div_mod_eq] using hb

/-! ### Registers that the access codes alone govern -/

/-- The registers whose write has an effect beside their fields. -/
def actionRegs : List Nat :=
  [rBupStep, rBupCreset, rPwrStateCtrl, rDbgLevel, rDbgFreeze, rDbgBrk, rDbgTraceMark, rDbgRo, rErrPop, rErrScrubCtrl,
    rPlcDistCtrl, rPlcQryCtrl, rXltCmdDb 0, rCelRangeCtrl 0, rHbmRegCtrl, rCmpBayRetire 0, rCmpCtxCtrl, rCmpTaskDb 0,
    rRalPortCtrl 0, rRalLane 0 0, rRalEnum, rRalEstate, rSecPartCtrl 0, rSecImpCtrl 0, rBldCtrl]

/-- The registers whose write is judged as a whole. -/
def wholeRegs : List Nat := [rXltCtxBind 0, rXltFlogBase 0, rDbgTraceCfg, rDbgCnt 0]

theorem regAction_of_notMem (s : State) (f : Fn) {r : RegRow} (k : Nat) (go : Fld → Bool) (full : Word)
    (h : r.base ∉ actionRegs) : regAction s f r k go full = s := by
  simp only [actionRegs, List.mem_cons, List.not_mem_nil, not_or] at h
  simp only [regAction, h, if_false]

theorem regWrite_of_notMem (s : State) (f : Fn) {r : RegRow} (k : Nat) (en v hw : Word) (hw' : r.base ∉ wholeRegs)
    (ha : r.base ∉ actionRegs) : regWrite s f r k en v hw = plainWrite s f r k en v hw := by
  simp only [wholeRegs, List.mem_cons, List.not_mem_nil, not_or] at hw'
  simp only [regWrite, hw', if_false, regAction_of_notMem _ _ _ _ _ ha]

/-- A register without an action, a lock or a bound. -/
structure PlainReg (r : RegRow) (k : Nat) : Prop where
  whole : r.base ∉ wholeRegs
  action : r.base ∉ actionRegs
  unlocked : ∀ s : State, s.lockedBits r k = 0
  unbounded : ∀ s : State, bounded s r k = s

theorem plainReg_slewCfg : PlainReg rowPwrSlewCfg 0 := ⟨by decide, by decide, fun _ => rfl, fun _ => rfl⟩

theorem plainReg_event : PlainReg rowPwrEvent 0 := ⟨by decide, by decide, fun _ => rfl, fun _ => rfl⟩

theorem PlainReg.write {r : RegRow} {k : Nat} (hp : PlainReg r k) (s : State) (f : Fn) (en v hw : Word) :
    regWrite s f r k en v hw =
      if writeSignals r (s.reg (r.addr k)) (writtenWord r (s.reg (r.addr k)) en v hw 0) en v hw then
        signal (s.setReg (r.addr k) (writtenWord r (s.reg (r.addr k)) en v hw 0)) r k
      else s.setReg (r.addr k) (writtenWord r (s.reg (r.addr k)) en v hw 0) := by
  rw [regWrite_of_notMem _ _ _ _ _ _ hp.whole hp.action]
  simp [plainWrite, lockedRecord, hp.unlocked, hp.unbounded]

/-- A write of a plain register changes its word as the access codes say, and may send a message. -/
theorem PlainReg.write_spec {r : RegRow} {k : Nat} (hp : PlainReg r k) (s : State) (f : Fn) (en v hw : Word) :
    Only raisedIn s (regWrite s f r k en v hw) ∧ ∀ o, (regWrite s f r k en v hw).reg o =
      if o = r.addr k then writtenWord r (s.reg (r.addr k)) en v hw 0 else s.reg o := by
  have hset := (only_setReg s (r.addr k) (writtenWord r (s.reg (r.addr k)) en v hw 0)).mono (m := raisedIn) (by decide)
  rw [hp.write]
  split
  · obtain ⟨hside, hregs⟩ := signal_spec (s.setReg (r.addr k) (writtenWord r (s.reg (r.addr k)) en v hw 0)) r k
    exact ⟨hset.trans ((only_signal _ _ _).mono (by decide)),
      fun o => (reg_congr hregs hside.bup o).trans (State.reg_setReg _ _ _ _)⟩
  · exact ⟨hset, fun o => State.reg_setReg _ _ _ _⟩

/-- Without an interrupt enable the register is all that changes. -/
theorem PlainReg.write_quiet {r : RegRow} {k : Nat} (hp : PlainReg r k) (hie : r.ie = none) (s : State) (f : Fn)
    (en v hw : Word) :
    regWrite s f r k en v hw = s.setReg (r.addr k) (writtenWord r (s.reg (r.addr k)) en v hw 0) := by
  rw [hp.write]
  simp [writeSignals, hie]

/-! ### The parts of a 64-bit access to a 32-bit register -/

/-- The low half of a register. -/
def lowHalf : Word := Fld.mask ⟨0, 32⟩

theorem lowHalf_bit {i : Nat} (hi : i < 32) : lowHalf.getLsbD i = true := by
  simp [lowHalf, Fld.mask_bit, hi, show i < 64 by omega]

/-- The part of an access that reaches a 32-bit register alone. -/
def lowPart (r : RegRow) (k : Nat) : RegPart := ⟨r, k, lowHalf, 0, 0⟩

theorem lowPart_place_bit (r : RegRow) (k : Nat) (v : Word) {i : Nat} (hi : i < 32) :
    ((lowPart r k).place v).getLsbD i = v.getLsbD i := by
  simp [lowPart, RegPart.place, lowHalf_bit hi]

/-- A field of the low half that writes set takes the value written. -/
theorem get_writtenWord_low {r : RegRow} (hr : r ∈ regRows) (k : Nat) (g : Fld) (hg : g.lo + g.w ≤ 32)
    (hwr : ∀ i, i < g.w → r.writable.getLsbD (g.lo + i) = true) (old v hw : Word) :
    g.get (writtenWord r old lowHalf ((lowPart r k).place v) hw 0) = g.get v := by
  refine g.get_congr (fun i hi => ?_)
  have hlt : g.lo + i < 32 := by omega
  rw [writtenWord_writable _ _ _ _ _ hr (by omega) (hwr i hi), lowHalf_bit hlt, lowPart_place_bit _ _ _ hlt]
  simp

theorem accessParts_slewCfg : accessParts rPwrSlewCfg 8 = [lowPart rowPwrSlewCfg 0] := by decide +kernel

theorem accessParts_event : accessParts rPwrEvent 8 = [lowPart rowPwrEvent 0] := by decide +kernel

/-! ### Writes through a function and through the test access port -/

theorem regWake_of_lt (s : State) {off : Nat} (h : off < 0x1000000) : regWake s off = s := by
  simp [regWake, Nat.not_le.2 h]

section
variable {s : State} {off k : Nat} {r : RegRow} (v : Word) (hp : accessParts off 8 = [lowPart r k]) (ha : r.addr k = off)
  (hlow : off < 0x1000000) (hok : accessOk off 8 = true)
include hp ha hlow hok

theorem exec_registerWrite_low (f : Fn) (hw : Word) (hc : s.canWrite f off = true) :
    exec (.registerWrite f (.bar0 off 8) v hw) s =
      .next (regWrite s f r k lowHalf ((lowPart r k).place v) ((lowPart r k).place hw)) := by
  show execRegisterWrite f (.bar0 off 8) v hw s = _
  simp only [execRegisterWrite, hok, hp, foldS_cons, foldS_nil, regPartWrite, if_true]
  rw [if_pos (by rw [← ha] at hc; exact hc), regWake_of_lt _ (by rw [← ha] at hlow; exact hlow)]
  rfl

theorem exec_tapWrite_low (hon : s.tapOn = true) (hr : s.responds (blockOf r.base) = true) :
    exec (.tapAccess (.regWrite off 8 v)) s = .next (regWrite s s.tapFn r k lowHalf ((lowPart r k).place v) 0) := by
  show execTapAccess (.regWrite off 8 v) s = _
  simp only [execTapAccess, hok, hp, hon, foldS_cons, foldS_nil, tapPart, if_true, Bool.not_true, Bool.false_eq_true,
    if_false]
  rw [if_pos (.inr hr), regWake_of_lt _ (by rw [← ha] at hlow; exact hlow)]
  rfl

end

/-- PWR_SLEW_CFG after a write: the limit is the one written, and no other register changes. -/
theorem slewCfg_written (s : State) (f : Fn) (v hw : Word) :
    let t := regWrite s f rowPwrSlewCfg 0 lowHalf ((lowPart rowPwrSlewCfg 0).place v) hw
    Only [.regs] s t ∧ t.fld rPwrSlewCfg fPwrSlewCfgLimit = fPwrSlewCfgLimit.get v ∧ RegsKept s t [rPwrSlewCfg] := by
  dsimp only
  rw [plainReg_slewCfg.write_quiet rfl]
  refine ⟨only_setReg _ _ _, ?_, fun o ho => ?_⟩
  · show fPwrSlewCfgLimit.get (State.reg _ (rowPwrSlewCfg.addr 0)) = _
    rw [State.reg_setReg, if_pos rfl]
    exact get_writtenWord_low (by decide +kernel) 0 fPwrSlewCfgLimit (by decide) (by decide) _ _ _
  · rw [State.reg_setReg, if_neg (fun e => ho (by rw [e]; decide))]

/-- PWR_EVENT after a write in a cycle in which hardware sets `hw`. -/
theorem event_written (s : State) (f : Fn) (v hw : Word) :
    let t := regWrite s f rowPwrEvent 0 lowHalf ((lowPart rowPwrEvent 0).place v) ((lowPart rowPwrEvent 0).place hw)
    Only raisedIn s t ∧
      (∀ i, i < 4 → (t.reg rPwrEvent).getLsbD i = (hw.getLsbD i || ((s.reg rPwrEvent).getLsbD i && !v.getLsbD i))) ∧
      (t.reg rPwrEvent).getLsbD 8 = v.getLsbD 8 ∧
      ((∃ i, i < 4 ∧ v.getLsbD i = true ∧ hw.getLsbD i = true) → t.fld rPwrEvent fPwrEventOverlap = 1) ∧
      RegsKept s t [rPwrEvent] := by
  intro t
  have hm : rowPwrEvent ∈ regRows := by decide +kernel
  have hst : ∀ i, i < 4 → rowPwrEvent.status.getLsbD i = true := by decide
  obtain ⟨honly, hreg⟩ := plainReg_event.write_spec s f lowHalf ((lowPart rowPwrEvent 0).place v)
    ((lowPart rowPwrEvent 0).place hw)
  have hword : t.reg rPwrEvent = writtenWord rowPwrEvent (s.reg rPwrEvent) lowHalf ((lowPart rowPwrEvent 0).place v)
      ((lowPart rowPwrEvent 0).place hw) 0 := (hreg rPwrEvent).trans (if_pos rfl)
  refine ⟨honly, fun i hi => ?_, ?_, ?_, fun o ho => ?_⟩
  · have h32 : i < 32 := by omega
    rw [hword, writtenWord_status _ _ _ _ _ hm (by omega) (hst i hi), lowHalf_bit h32, lowPart_place_bit _ _ _ h32,
      lowPart_place_bit _ _ _ h32, Bool.and_true]
  · rw [hword, writtenWord_writable _ _ _ _ _ hm (by decide) (by decide), lowHalf_bit (by decide),
      lowPart_place_bit _ _ _ (by decide)]
    simp
  · rintro ⟨i, hi, hv, hh⟩
    have h32 : i < 32 := by omega
    have hlost : (lowPart rowPwrEvent 0).place v &&& lowHalf &&& (lowPart rowPwrEvent 0).place hw &&&
        rowPwrEvent.status ≠ 0 := by
      intro e
      have hb := congrArg (fun x : Word => x.getLsbD i) e
      simp only [BitVec.getLsbD_and, lowPart_place_bit _ _ _ h32, hv, hh, lowHalf_bit h32, hst i hi, Bool.and_true] at hb
      exact absurd hb (by simp)
    refine Fld.get_bit_eq_one rfl ?_
    rw [hword, writtenWord_overlap _ _ _ _ _ (by decide) (by decide) (by decide) (by decide), decide_eq_true hlost,
      Bool.true_or]
  · exact (hreg o).trans (if_neg (fun e => ho (by rw [e]; decide)))

/-! ### Configuration space, the read-clear field, reads of the test access port -/

theorem exec_cfg {s : State} {f : Fn} (h : s.cfgReached f = true) (r : CfgReg) (v hw : Word) :
    exec (.registerWrite f (.cfg r) v hw) s = .next (cfgWrite s f r v) := by
  show execRegisterWrite f (.cfg r) v hw s = _
  simp [execRegisterWrite, h]

theorem cfgWrite_numVfs {s : State} {f : Fn} {v : Word} (hf : f.vf = 0) (hv : v.toNat ≤ 16) :
    Only [.fns, .regs] s (cfgWrite s f .numVfs v) ∧
      (cfgWrite s f .numVfs v).fld (rPciLink f.port) fPciLinkNumVfs = v.toNat := by
  simp only [cfgWrite, hf, hv, and_self, if_true]
  refine ⟨((only_setFld s _ _ _).mono (by decide)).trans ((only_fns _ _).mono (by decide)), ?_⟩
  exact (State.fld_setFld s _ _ _ (by decide)).trans (Nat.mod_eq_of_lt (by show v.toNat < 2 ^ 5; omega))

theorem exec_rcFieldRead {s : State} {f : Fn} {r : RegRow} {k : Nat} (hr : regAt rPwrWakeStat = some (r, k))
    (hc : s.canRead f r k = true) (event : Option Nat) :
    exec (.rcFieldRead f event) s = .next (rcClear (s.emit (.regData f (s.readBy f rPwrWakeStat))) event) := by
  show execRcFieldRead f event s = _
  simp [execRcFieldRead, hr, hc]

/-- A read of PWR_WAKE_STAT leaves in max_wait the event of its cycle alone. -/
theorem rcClear_spec (s : State) (event : Option Nat) :
    Only [.regs] s (rcClear s event) ∧
      (rcClear s event).fld rPwrWakeStat fPwrWakeStatMaxWait = Nat.min (event.getD 0) 65535 ∧
      RegsKept s (rcClear s event) [rPwrWakeStat] := by
  refine ⟨only_setFld _ _ _ _, ?_, fun o ho => ?_⟩
  · refine (State.fld_setFld s _ _ _ (by decide)).trans (Nat.mod_eq_of_lt ?_)
    exact Nat.lt_succ_of_le (Nat.min_le_right _ _)
  · exact (State.reg_setFld s _ _ _ _).trans (if_neg (fun e => ho (by rw [e]; decide)))

/-- A read of the test access port that clears nothing only answers. -/
theorem exec_tapRead {s : State} {off size : Nat} (hon : s.tapOn = true) (hok : accessOk off size = true)
    (h : s.tapReaches .pwr = false ∨ ∀ p ∈ accessParts off size, p.row.base ≠ rPwrWakeStat) :
    exec (.tapAccess (.regRead off size)) s = .next (s.emit (.tap (s.tapRead off size) 0 0)) := by
  have hrc : (accessParts off size).any (fun p => p.row.base = rPwrWakeStat && s.responds .pwr &&
      decide (fPwrWakeStatMaxWait.mask &&& p.en ≠ 0)) = false := by
    rw [List.any_eq_false]
    intro p hp
    rcases h with h | h
    · have hn : s.responds .pwr = false := by
        simp only [State.tapReaches, State.readable, Bool.or_eq_false_iff] at h
        exact h.2.1
      simp [hn]
    · simp [h p hp]
  show execTapAccess (.regRead off size) s = _
  simp only [execTapAccess, hon, hok, hrc, Bool.not_true, Bool.false_eq_true, if_false, if_true]

end Sys2Proof.Machine
end

section
/-! SUPPORT. A slice that holds a line: the frames of the cellar around it, what a read of the entry delivers, and what
writing the line leaves (R187, R196 to R198, R213). -/

namespace Sys2Proof.Machine

open Sys2Proof

/-! ### The frames around a line -/

/-- A listed key takes a new value in its place. -/
theorem smSet_append {α : Type} {m₁ m₂ : SMap α} {k : Nat} {v : α} (h : smWf (m₁ ++ (k, v) :: m₂) = true) (w : α) :
    smSet (m₁ ++ (k, v) :: m₂) k w = m₁ ++ (k, w) :: m₂ := by
  induction m₁ with
  | nil => simp [smSet]
  | cons e m₁ ih =>
    obtain ⟨htail, hlt⟩ := smWf_cons.1 h
    have hk : e.1 < k := hlt (k, v) (by simp)
    obtain ⟨j, x⟩ := e
    simp [smSet, Nat.lt_asymm hk, Nat.ne_of_gt hk, ih htail]

/-- The entries that a frame holds of the line of an address. -/
def Frame.share (f : Frame) (a : Nat) : List LineEnt :=
  if f.ch = sliceOf a ∧ f.grp = lidxOf a then f.lines.filter (fun l => l.line = lineOf a) else []

/-- The entries of a line among listed frames of slice `n`. -/
def sharesOf (n a : Nat) (m : SMap Frame) : List LineEnt :=
  (m.filter (fun e => e.1 / 16 = 32768 * n + setOf a)).flatMap (fun e => e.2.share a)

theorem entriesOf_eq (s : State) (n a : Nat) : s.entriesOf n a = sharesOf n a s.cel.frames := by
  simp [State.entriesOf, State.setFrames, sharesOf, List.flatMap_map, Frame.share]

theorem sharesOf_append (n a : Nat) (m₁ m₂ : SMap Frame) :
    sharesOf n a (m₁ ++ m₂) = sharesOf n a m₁ ++ sharesOf n a m₂ := by
  simp [sharesOf]

theorem sharesOf_cons (n a k : Nat) (f : Frame) (m : SMap Frame) :
    sharesOf n a ((k, f) :: m) = (if k / 16 = 32768 * n + setOf a then f.share a else []) ++ sharesOf n a m := by
  by_cases h : k / 16 = 32768 * n + setOf a <;> simp [sharesOf, h]

/-- Where a slice finds a line: the frame is listed under its way, holds the line's group and has its entry. -/
structure Found (s : State) (n a w : Nat) (f : Frame) (l : LineEnt) (m₁ m₂ : SMap Frame) : Prop where
  frames : s.cel.frames = m₁ ++ (frameKey n (setOf a) w, f) :: m₂
  ch : f.ch = sliceOf a
  grp : f.grp = lidxOf a
  ent : f.lines.find? (fun l => l.line = lineOf a) = some l
  way : w < 16

theorem found_of_findLine {s : State} {n a w : Nat} {f : Frame} {l : LineEnt} (h : s.findLine n a = some (w, f, l)) :
    ∃ m₁ m₂, Found s n a w f l m₁ m₂ := by
  obtain ⟨e, he, hx⟩ := List.exists_of_findSome?_eq_some h
  simp only [State.setFrames, List.mem_map, List.mem_filter, decide_eq_true_eq] at he
  obtain ⟨⟨k, g⟩, ⟨hmem, hset⟩, rfl⟩ := he
  split at hx
  · rename_i hg
    obtain ⟨y, hy, he⟩ := Option.map_eq_some_iff.1 hx
    cases he
    obtain ⟨m₁, m₂, hm⟩ := List.append_of_mem hmem
    have hk : k = frameKey n (setOf a) (k % 16) := by unfold frameKey; omega
    exact ⟨m₁, m₂, by rw [hm, ← hk], hg.1, hg.2, hy, Nat.mod_lt _ (by decide)⟩
  · cases hx

/-- What a filter keeps of a list without one element. -/
theorem filter_erase_eq {α : Type} [DecidableEq α] (p : α → Bool) (l : List α) (a : α) :
    (l.erase a).filter p = (l.filter p).erase a := by
  induction l with
  | nil => rfl
  | cons b l ih =>
    by_cases hb : b = a
    · subst hb
      by_cases hp : p b = true
      · simp [hp]
      · simp only [List.erase_cons_head, List.filter_cons_of_neg hp]
        exact (List.erase_of_not_mem (fun h => hp (List.of_mem_filter h))).symm
    · by_cases hp : p b = true <;> simp [hp, hb, ih]

/-- The frame with an entry replaced, as of a given age. -/
def Frame.swap (f : Frame) (l e : LineEnt) (age : Nat) : Frame := { f with age := age, lines := f.lines.erase l ++ [e] }

namespace Found

variable {s : State} {n a w : Nat} {f : Frame} {l : LineEnt} {m₁ m₂ : SMap Frame} (h : Found s n a w f l m₁ m₂)
include h

theorem line_eq : l.line = lineOf a := by simpa using List.find?_some h.ent

theorem entriesOf_split (k b : Nat) : s.entriesOf k b = sharesOf k b m₁ ++
    ((if frameKey n (setOf a) w / 16 = 32768 * k + setOf b then f.share b else []) ++ sharesOf k b m₂) := by
  rw [entriesOf_eq, h.frames, sharesOf_append, sharesOf_cons]

theorem key_here : frameKey n (setOf a) w / 16 = 32768 * n + setOf a := by
  have := h.way
  unfold frameKey
  omega

/-- The one entry of a line lies in the frame found, and no other frame has one. -/
theorem share_one (one : s.entriesOf n a = [l]) : f.share a = [l] ∧ sharesOf n a m₁ = [] ∧ sharesOf n a m₂ = [] := by
  have hmem : l ∈ f.share a := by
    simpa [Frame.share, h.ch, h.grp, h.line_eq] using List.mem_of_find?_eq_some h.ent
  rw [h.entriesOf_split, if_pos h.key_here] at one
  obtain ⟨x, xs, hx⟩ := List.exists_cons_of_ne_nil (List.ne_nil_of_mem hmem)
  have hlen := congrArg List.length one
  simp only [hx, List.length_append, List.length_cons, List.length_nil] at hlen
  have h₁ : sharesOf n a m₁ = [] := List.eq_nil_of_length_eq_zero (by omega)
  have h₂ : sharesOf n a m₂ = [] := List.eq_nil_of_length_eq_zero (by omega)
  exact ⟨by simpa [h₁, h₂] using one, h₁, h₂⟩

theorem share_swap {e : LineEnt} (he : e.line = lineOf a) (c : Nat) (hs : f.share a = [l]) :
    (f.swap l e c).share a = [e] := by
  simp only [Frame.share, h.ch, h.grp, and_self, if_true] at hs
  simp [Frame.share, Frame.swap, h.ch, h.grp, filter_erase_eq, hs, he]

/-- The entries of every other line in the frame are as they were. -/
theorem share_swap_other {e : LineEnt} (he : e.line = lineOf a) (c b : Nat)
    (hb : sliceOf b ≠ sliceOf a ∨ lidxOf b ≠ lidxOf a ∨ lineOf b ≠ lineOf a) : (f.swap l e c).share b = f.share b := by
  simp only [Frame.share, Frame.swap, h.ch, h.grp]
  split
  · rename_i hg
    have hne : lineOf a ≠ lineOf b := fun x => by
      rcases hb with hb | hb | hb
      · exact hb hg.1.symm
      · exact hb hg.2.symm
      · exact hb x.symm
    rw [List.filter_append, filter_erase_eq, List.erase_of_not_mem]
    · simp [he, hne]
    · simp [h.line_eq, hne]
  · rfl

/-- After the entry has been replaced in its frame, it is the line's only one and every other line is held as it was. -/
theorem replaced (hwf : smWf s.cel.frames = true) (one : s.entriesOf n a = [l]) {e : LineEnt} (he : e.line = lineOf a)
    (c : Nat) {u : State} (hu : u.cel.frames = (s.putFrame n (setOf a) w (f.swap l e c)).cel.frames) :
    u.entriesOf n a = [e] ∧ OthersKept s u a := by
  have hfr : u.cel.frames = m₁ ++ (frameKey n (setOf a) w, f.swap l e c) :: m₂ := by
    rw [hu]
    show (if (f.swap l e c).lines = [] then _ else _) = _
    rw [if_neg (by simp [Frame.swap]), h.frames]
    exact smSet_append (by rw [← h.frames]; exact hwf) _
  obtain ⟨hs, h₁, h₂⟩ := h.share_one one
  refine ⟨?_, fun k b hb => ?_⟩
  · rw [entriesOf_eq, hfr, sharesOf_append, sharesOf_cons, if_pos h.key_here, h₁, h₂, h.share_swap he c hs]
    rfl
  · rw [h.entriesOf_split, entriesOf_eq, hfr, sharesOf_append, sharesOf_cons, h.share_swap_other he c b hb]

end Found

/-! ### Replacing the entry of a line -/

theorem only_mergeClear (s : State) (n a : Nat) : Only [.cel] s (mergeClear s n a) := only_setSlice _ _ _

theorem mem_merge_mergeClear {s : State} {n a : Nat} {x : Nat × Line} :
    x ∈ ((mergeClear s n a).slice n).merge ↔ x ∈ (s.slice n).merge ∧ x.1 ≠ lineAddr a := by
  simp [mergeClear]

/-- Replacing the only entry of a line by one that fits its frame. -/
theorem replaceEnt_spec {s : State} {n a w : Nat} {f : Frame} {l : LineEnt} (hwf : smWf s.cel.frames = true)
    (hf : s.findLine n a = some (w, f, l)) (one : s.entriesOf n a = [l]) {e : LineEnt} (he : e.line = l.line)
    (fits : Fits f l e.cls) :
    ∃ u q, replaceEnt s n a e = some u ∧ Only [.cel] s u ∧ u.entriesOf n a = [{ e with quarter := q }] ∧
      OthersKept s u a ∧ ∀ x ∈ (u.slice n).merge, x ∈ (s.slice n).merge := by
  obtain ⟨m₁, m₂, h⟩ := found_of_findLine hf
  have hline : e.line = lineOf a := he.trans h.line_eq
  have put := fun q => only_putFrame s n (setOf a) w (f.swap l { e with quarter := q } s.cel.clock)
  have done := fun q u => h.replaced hwf one (e := { e with quarter := q }) hline s.cel.clock (u := u)
  unfold replaceEnt
  rw [hf]
  dsimp only
  split
  · exact ⟨_, l.quarter, rfl, (put l.quarter).trans (only_cel _ _), (done _ _ rfl).1, (done _ _ rfl).2, fun _ hx => hx⟩
  · rename_i hcls
    obtain ⟨q, hq⟩ := Option.ne_none_iff_exists'.1 (fits.resolve_left hcls)
    rw [show ({ f with lines := f.lines.erase l, age := s.cel.clock } : Frame).fit e.cls = some q from hq]
    exact ⟨_, q, rfl, ((put q).trans (only_mergeClear _ _ _)).trans (only_cel _ _), (done _ _ rfl).1, (done _ _ rfl).2,
      fun _ hx => (mem_merge_mergeClear.1 hx).1⟩

end Sys2Proof.Machine
end

section
/-! SUPPORT. A request at the slice that serves its line: the checks it passes, its turn, and a write of some bytes of a line
that the slice holds (R196 to R198, R213). -/

namespace Sys2Proof.Machine

open Sys2Proof

theorem findLine_congr {s t : State} (h : t.cel.frames = s.cel.frames) (n a : Nat) : t.findLine n a = s.findLine n a := by
  simp [State.findLine, State.setFrames, h]

theorem entriesOf_congr {s t : State} (h : t.cel.frames = s.cel.frames) (n a : Nat) : t.entriesOf n a = s.entriesOf n a := by
  simp [entriesOf_eq, h]

theorem OthersKept.congr {s s' t t' : State} {a : Nat} (h : OthersKept s t a) (hs : s'.cel.frames = s.cel.frames)
    (ht : t'.cel.frames = t.cel.frames) : OthersKept s' t' a := fun k b hb => by
  rw [entriesOf_congr ht, entriesOf_congr hs]
  exact h k b hb

/-! ### Reading and writing the entry -/

theorem delivers_of_cls {l : LineEnt} (h : l.cls = 0) (s : State) (n a : Nat) : s.delivers n a l = 0 := by
  simp only [State.delivers, if_pos h]

theorem delivers_of_merge {s : State} {n a : Nat} {l : LineEnt} (h : l.cls ≠ 0) {e : Nat × Line}
    (he : (s.slice n).merge.find? (fun e => e.1 = lineAddr a) = some e) : s.delivers n a l = e.2 := by
  simp only [State.delivers, if_neg h, he]

theorem delivers_of_row {s : State} {n a : Nat} {l : LineEnt} (h : l.cls ≠ 0)
    (he : (s.slice n).merge.find? (fun e => e.1 = lineAddr a) = none) : s.delivers n a l = l.data := by
  simp only [State.delivers, if_neg h, he]

/-- Without wrong bits a read gives what the line delivers and its poison, and leaves every frame as it was (R213). -/
theorem readEnt_spec {s : State} {n a w : Nat} {f : Frame} {l : LineEnt} (hf : s.findLine n a = some (w, f, l)) :
    ∃ u, readEnt s n a [] = (u, s.delivers n a l, l.poison) ∧ Only [.cel] s u ∧ u.cel.frames = s.cel.frames := by
  by_cases hc : l.cls = 0
  · refine ⟨s, ?_, .refl _ s, rfl⟩
    simp only [readEnt, hf, if_pos hc, delivers_of_cls hc]
  · cases he : (s.slice n).merge.find? (fun e => e.1 = lineAddr a) with
    | some e =>
      refine ⟨s, ?_, .refl _ s, rfl⟩
      simp only [readEnt, hf, if_neg hc, he, delivers_of_merge hc he]
    | none =>
      have hread : readEnt s n a [] = (s.setSlice n { s.slice n with
          merge := ((s.slice n).merge ++ [(lineAddr a, l.data)]).drop
            (((s.slice n).merge ++ [(lineAddr a, l.data)]).length - 16) }, l.data, l.poison) := by
        simp only [readEnt, hf, if_neg hc, he, if_true]
      exact ⟨_, by rw [hread, delivers_of_row hc he], only_setSlice _ _ _, rfl⟩

/-- Answering the waits on a line changes neither frames nor merge tables (R145). -/
theorem releaseWaits_spec (s : State) (n a : Nat) (d : Line) (p : BitVec 4) (be : BitVec 128) :
    Only (.cel :: answeredIn) s (releaseWaits s n a d p be) ∧
      (releaseWaits s n a d p be).cel.frames = s.cel.frames ∧
      ((releaseWaits s n a d p be).slice n).merge = (s.slice n).merge := by
  unfold releaseWaits
  extract_lets x touched sick ends s1
  have hacks : Only answeredIn s1 (foldS (x.waits.filter ends) s1 (fun t e =>
      if sick e then answerAck t e.who true e.addr 5 0
      else answerAck t e.who true e.addr 0 (wordAt d (e.addr % 128)))) :=
    .foldS _ _ _ (fun u e => ite_keeps (P := Only answeredIn u) (only_answerAck _ _ _ _ _ _) (only_answerAck _ _ _ _ _ _))
  have hcel := hacks.2 .cel (by decide)
  refine ⟨((only_setSlice s n _).mono (by simp)).trans (hacks.mono (by simp)), (congrArg CelSt.frames hcel :), ?_⟩
  have hslice := congrArg (fun c : CelSt => (smGetD c.slices n (Slice.initial n)).merge) hcel
  exact hslice.trans (by show (s1.slice n).merge = _; simp [s1, x])

/-- The line's new content is its only entry, DIRTY, and out of the merge table; then the waits on it are answered. -/
theorem updLine_spec {s : State} {n a w : Nat} {f : Frame} {l : LineEnt} (hwf : smWf s.cel.frames = true)
    (hf : s.findLine n a = some (w, f, l)) (one : s.entriesOf n a = [l]) {d : Line} {p : BitVec 4}
    (fits : Fits f l (classFor d p)) (hint : Nat) (be : BitVec 128) :
    ∃ v, updLine s n a l d p hint be = some v ∧ Only (.cel :: answeredIn) s v ∧
      (∃ e, v.entriesOf n a = [e] ∧ e.st = .dirty ∧ e.data = d ∧ e.poison = p) ∧
      (∀ x ∈ (v.slice n).merge, x.1 ≠ lineAddr a) ∧ OthersKept s v a := by
  obtain ⟨u, q, hu, honly, hent, hoth, hmerge⟩ := replaceEnt_spec (s := mergeClear s n a) hwf hf one
    (e := { l with st := .dirty, data := d, poison := p, hint := hint, cls := classFor d p }) rfl fits
  obtain ⟨ronly, rframes, rmerge⟩ := releaseWaits_spec u n a d p be
  refine ⟨releaseWaits u n a d p be, by simp only [updLine, hu, Option.map_some],
    (((only_mergeClear s n a).trans honly).mono (by simp)).trans ronly,
    ⟨_, (entriesOf_congr rframes n a).trans hent, rfl, rfl, rfl⟩, fun x hx => ?_, hoth.congr rfl rframes⟩
  rw [rmerge] at hx
  exact (mem_merge_mergeClear.1 (hmerge x hx)).2

/-- A write of some bytes of a present line. -/
theorem applyOp_partWrite {s : State} {n w : Nat} {f : Frame} {l : LineEnt} {who : Requester} {addr hint : Nat}
    {be : BitVec 128} (hbe : be ≠ BitVec.allOnes 128) (hf : s.findLine n (lineAddr addr) = some (w, f, l)) {d : Line}
    {p : BitVec 4} :
    applyOp s n ⟨who, addr, hint, .write be d p⟩ [] =
      (updLine (readEnt s n (lineAddr addr) []).1 n (lineAddr addr) l
        (mergeBytes (readEnt s n (lineAddr addr) []).2.1 d be) (writePoison (readEnt s n (lineAddr addr) []).2.2 be p)
        hint be).map (fun t => (t, ⟨0, 0, 0, 0⟩)) := by
  simp only [applyOp, hf, if_neg hbe]

/-! ### A request in its turn -/

@[simp] theorem lineAddr_lineAddr (a : Nat) : lineAddr (lineAddr a) = lineAddr a := by unfold lineAddr; omega

theorem countHeat_eq (s : State) (who : Requester) (a : Nat) :
    countHeat s who a = { s with plc := (countHeat s who a).plc } := by
  unfold countHeat
  split <;> rfl

@[simp] theorem tagErrors_nil (s : State) (n a : Nat) : tagErrors s n a [] = s := by simp [tagErrors]

/-- A request whose line the slice holds is applied at once when no earlier one waits there (R197). -/
theorem runOrdered_of_found {s : State} {n w : Nat} {f : Frame} {l : LineEnt} {h : Held} {errs : List SymErr}
    (turn : ∀ y ∈ (s.slice n).victim ++ (s.slice n).side, lineAddr y.addr ≠ lineAddr h.addr)
    (hf : s.findLine n (lineAddr h.addr) = some (w, f, l)) (hst : l.st ≠ .filling) {t : State} {x : Ans}
    (ha : applyOp s n h errs = some (t, x)) : runOrdered s n h errs = reply t h x := by
  have hv : (s.slice n).victim.any (fun y => lineAddr y.addr = lineAddr h.addr) = false := by
    simpa using fun y hy => turn y (List.mem_append_left _ hy)
  have hs : (s.slice n).side.any (fun y => lineAddr y.addr = lineAddr h.addr) = false := by
    simpa using fun y hy => turn y (List.mem_append_right _ hy)
  simp only [runOrdered, hv, hs, hf, runLine, if_neg hst, ha, Bool.false_eq_true, if_false]

/-- A request that passes its checks comes, counted for heat, to the slice that serves its line. -/
theorem sliceReq_of_serves {s : State} {r : SReq} {writes : Bool} {n : Nat} (hs : Serves s r writes n) {op : SliceOp}
    (hw : op.writes = writes) (hm : op.manages = false) (hr : op.reserved = false) :
    sliceReq s ⟨r.who, r.addr, r.hint, op⟩ [] =
      runOrdered (countHeat s r.who (lineAddr r.addr)) n ⟨r.who, r.addr, r.hint, op⟩ [] := by
  have hdir : (if op.changes then s.sharersOf (regionOf (lineAddr r.addr)) else none) = none := by
    rw [hs.home]
    exact ite_self _
  have hserve : ∀ p : PlcSt, sliceServe { s with plc := p } ⟨r.who, r.addr, r.hint, op⟩ [] =
      runOrdered { s with plc := p } n ⟨r.who, r.addr, r.hint, op⟩ [] := fun p => by
    have hserver : State.server { s with plc := p } (lineAddr r.addr) = some n := hs.free.server
    have hidle : ¬ ((State.slice { s with plc := p } n).state = 1 ∨
        State.setUnderTest { s with plc := p } n (setOf (lineAddr r.addr)) = true) := by
      rintro (h | h)
      · exact absurd (hs.free.active.symm.trans h) (by decide)
      · exact absurd (hs.free.idle.symm.trans h) (by decide)
    have hsound : (State.slice { s with plc := p } n).quarantined.contains (setOf (lineAddr r.addr)) = false := hs.free.sound
    simp only [sliceServe, hserver, if_neg hidle, tagErrors_nil, hsound, Bool.false_eq_true, if_false, List.filter_nil]
  have hpass : ¬ (¬ op.manages = true ∧ ¬ (s.permits r.who op.writes r.addr = true ∧
      s.poolAllows r.who (!op.writes) (lineAddr r.addr) = true)) := by
    rw [hw]
    exact fun h => h.2 ⟨hs.permit, hs.pool⟩
  unfold sliceReq
  dsimp only
  rw [if_neg (not_not.2 hs.free.backed), if_neg hpass, if_neg (by rw [hr]; decide), hdir]
  simp only [hm, Bool.false_eq_true, if_false]
  rw [countHeat_eq]
  exact hserve _

/-! ### A write of some bytes through BAR2 -/

theorem countHeat_bar2 (s : State) (f : Fn) (tag len a : Nat) : countHeat s (.bar2 f tag len) a = s := rfl

theorem reply_bar2_write (s : State) (g : Fn) (addr hint : Nat) (be : BitVec 128) (d : Line) (p : BitVec 4) :
    reply s ⟨.bar2 g 0 0, addr, hint, .write be d p⟩ ⟨0, 0, 0, 0⟩ = s := by
  simp [reply, SliceOp.manages, answerAck]

/-- A write of some of a line's bytes through BAR2, at the slice that holds the line, is performed at once (R198, R360). -/
theorem sliceReq_bar2_partWrite {s : State} {g : Fn} {a n w : Nat} {fr : Frame} {l : LineEnt}
    (hs : Serves s ⟨.bar2 g 0 0, a, 0⟩ true n) (hh : Holds s n a w fr l) (hst : l.st = .clean ∨ l.st = .dirty)
    {be : BitVec 128} {data : Line} {poison : BitVec 4} (hbe : be ≠ BitVec.allOnes 128)
    (fits : Fits fr l (classFor (mergeBytes (s.delivers n (lineAddr a) l) data be) (writePoison l.poison be poison))) :
    Only servedIn s (sliceReq s ⟨.bar2 g 0 0, a, 0, .write be data poison⟩ []) ∧
      LineWritten s (sliceReq s ⟨.bar2 g 0 0, a, 0, .write be data poison⟩ []) ⟨.bar2 g 0 0, a, 0⟩ n
        (mergeBytes (s.delivers n (lineAddr a) l) data be) (writePoison l.poison be poison) := by
  obtain ⟨u, hread, uonly, uframes⟩ := readEnt_spec hh.line
  obtain ⟨v, hv, vonly, hent, hmerge, hoth⟩ := updLine_spec (s := u) (by rw [uframes]; exact hs.free.wf)
    ((findLine_congr uframes n _).trans hh.line) ((entriesOf_congr uframes n _).trans hh.one) fits 0 be
  have happ : applyOp s n ⟨.bar2 g 0 0, a, 0, .write be data poison⟩ [] = some (v, ⟨0, 0, 0, 0⟩) := by
    rw [applyOp_partWrite hbe hh.line, hread, hv]
    rfl
  have hfill : l.st ≠ .filling := by rcases hst with e | e <;> simp [e]
  have hserve := sliceReq_of_serves hs (op := .write be data poison) rfl rfl rfl
  have hrun := runOrdered_of_found (h := ⟨.bar2 g 0 0, a, 0, .write be data poison⟩) hs.free.turn hh.line hfill happ
  have hreq : sliceReq s ⟨.bar2 g 0 0, a, 0, .write be data poison⟩ [] = v := by
    rw [hserve, countHeat_bar2, hrun, reply_bar2_write]
  rw [hreq]
  rw [lineAddr_lineAddr] at hmerge
  exact ⟨(uonly.mono (by decide)).trans (vonly.mono (by decide)), hent, hmerge, hoth.congr uframes.symm rfl⟩

end Sys2Proof.Machine
end

section
/-! SUPPORT. BAR2 (R356, R359, R360), and the proof of WindowAccessesComplete. -/

namespace Sys2Proof.Machine

open Sys2Proof

/-- A range of bytes within one line is one part. -/
theorem lineParts_one {off len : Nat} (h0 : 0 < len) (h : off % 128 + len ≤ 128) :
    lineParts off (len + 1) len = [(off, len)] := by
  have hmin : Nat.min len (128 - off % 128) = len := Nat.min_eq_left (by omega)
  obtain ⟨k, rfl⟩ := Nat.exists_eq_succ_of_ne_zero (Nat.ne_of_gt h0)
  simp [lineParts, hmin]

/-- A read within a line of this stack's window goes to its slice. -/
theorem exec_bar2Read_served {s : State} {f : Fn} {off len a : Nat} (tag : Nat) (hon : s.on = true) (hfr : s.freeze ≠ 2)
    (hst : s.bar2Status f = 0) (h0 : 0 < len) (hlen : off % 128 + len ≤ 128) (hp : s.bar2Place f off = .hbm a) :
    exec (.bar2Read f off len tag) s =
      .next { s with cel := { s.cel with xbar := s.cel.xbar ++ [⟨.bar2 f tag len, a, 0, .read 0⟩] } } := by
  show execBar2Read f off len tag s = _
  simp only [execBar2Read, bar2Read, lineParts_one h0 hlen, foldS_cons, foldS_nil, hp, hst]
  rw [if_neg (by simp [hon, hfr]), if_neg (by simp)]

/-- A read that is not served completes with the status of the reason. -/
theorem exec_bar2Read_refused {s : State} {f : Fn} (off len tag : Nat) (hon : s.on = true) (hfr : s.freeze ≠ 2)
    (hst : s.bar2Status f ≠ 0) :
    exec (.bar2Read f off len tag) s = .next (s.emit (.bar2Cpl f tag (s.bar2Status f) off [])) := by
  show execBar2Read f off len tag s = _
  simp only [execBar2Read, bar2Read]
  rw [if_neg (by simp [hon, hfr]), if_pos hst]

/-- A write within a line of this stack's window is a request at its slice, in the same step. -/
theorem exec_bar2Write_served {s : State} {f : Fn} {off a : Nat} {bytes : List (Option Byte)} (ep : Bool)
    (hon : s.on = true) (hst : s.bar2Status f = 0) (h0 : bytes ≠ []) (hlen : off % 128 + bytes.length ≤ 128)
    (hp : s.bar2Place f off = .hbm a) (hbe : (partWrite off bytes).1 ≠ 0) :
    exec (.bar2Write f off bytes ep) s =
      .next (sliceReq s ⟨.bar2 f 0 0, a, 0, .write (partWrite off bytes).1 (partWrite off bytes).2
        (if ep then touched (partWrite off bytes).1 else 0)⟩ []) := by
  show execBar2Write f off bytes ep s = _
  simp only [execBar2Write, bar2Write, lineParts_one (List.length_pos_of_ne_nil h0) hlen, foldS_cons, foldS_nil, hp,
    Nat.sub_self, List.drop_zero, List.take_length, if_neg hbe]
  rw [if_neg (by simp [hon, hst])]

theorem exec_bar2Atomic {s : State} (hon : s.on = true) (f : Fn) (tag : Nat) :
    exec (.bar2Atomic f tag) s = .next (s.emit (.unsupported f tag)) := by
  show execBar2Atomic f tag s = _
  simp [execBar2Atomic, hon]

theorem exec_bar0BadRead {s : State} {off size : Nat} (hon : s.on = true) (hbad : bar0Ok off size = false) (f : Fn) :
    exec (.bar0BadAccess f true off size) s = .next (s.emit (.unsupported f 0)) := by
  show execBar0BadAccess f true off size s = _
  simp [execBar0BadAccess, hon, hbad]

theorem exec_bar0BadWrite (s : State) (f : Fn) (off size : Nat) : Idle (.bar0BadAccess f false off size) s := by
  show execBar0BadAccess f false off size s = _
  simp [execBar0BadAccess]

theorem State.on_of_live {s : State} (h : s.live = true) : s.on = true := by
  simp only [State.live, Bool.and_eq_true] at h
  exact h.1.1.1

/-- Settles O29: each access is brought to its own effect, a BAR2 write to the request at the slice that holds its line and
a register write to the word that the access codes give. A BAR2 write is performed in its step (assumption log 81); the
configuration-space registers are those of log 57, and the test access port's accesses those of log 56. -/
theorem windowAccessesComplete : Obligations.WindowAccessesComplete := by
  refine ⟨⟨fun s f off len tag a hon hfr => ⟨fun hst h0 hlen hp => ?_, fun hst => ?_, ?_, fun size hbad => ⟨?_, ?_⟩⟩,
      fun s f off a n w bytes ep fr l hst hp h0 hlen hs hh hl hbe hbe' fits => ?_⟩,
    fun s f v => ⟨fun hc => ?_, fun hc hw => ?_, fun hc => ⟨?_, ?_, fun hf hv => ?_⟩⟩,
    fun s f event hr => ?_, fun s off size v hon hok => ⟨fun h => ?_, fun h => ?_⟩⟩
  · exact ⟨_, exec_bar2Read_served tag hon hfr hst h0 hlen hp, only_cel s _, rfl⟩
  · exact ⟨_, exec_bar2Read_refused off len tag hon hfr hst, only_emit s _, rfl⟩
  · exact ⟨_, exec_bar2Atomic hon f tag, only_emit s _, rfl⟩
  · exact ⟨_, exec_bar0BadRead hon hbad f, only_emit s _, rfl⟩
  · exact exec_bar0BadWrite s f off size
  · have hwritten := sliceReq_bar2_partWrite hs hh hl hbe' fits
    exact ⟨_, exec_bar2Write_served ep (State.on_of_live hs.live) hst h0 hlen hp hbe, hwritten⟩
  · have hex := exec_registerWrite_low v accessParts_slewCfg rfl (by decide) (by decide) f 0 hc
    exact ⟨_, hex, slewCfg_written s f v _⟩
  · have hex := exec_registerWrite_low v accessParts_event rfl (by decide) (by decide) f hw hc
    exact ⟨_, hex, event_written s f v hw⟩
  · exact ⟨_, exec_cfg hc .ats v 0, only_setFn s f _, State.fn_setFn s f _⟩
  · exact ⟨_, exec_cfg hc .pasid v 0, only_setFn s f _, State.fn_setFn s f _⟩
  · exact ⟨_, exec_cfg hc .numVfs v 0, cfgWrite_numVfs hf hv⟩
  · obtain ⟨r, k, hr, hc⟩ := hr
    obtain ⟨honly, hwait, hkept⟩ := rcClear_spec (s.emit (.regData f (s.readBy f rPwrWakeStat))) event
    exact ⟨_, exec_rcFieldRead hr hc event, ((only_emit s _).mono (by decide)).trans (honly.mono (by decide)),
      rfl, hwait, hkept⟩
  · exact ⟨_, exec_tapRead hon hok h, only_emit s _, rfl⟩
  · have hex := exec_tapWrite_low v accessParts_slewCfg rfl (by decide) (by decide) hon h
    exact ⟨_, hex, slewCfg_written s s.tapFn v 0⟩

end Sys2Proof.Machine
end

section
/-! SUPPORT. Status bits of a register as fields, registers below the bays, the logs of the translation unit, replicas and
the distance table (R52 to R54, R258, R260, R285, R340), and the proof of LogsAndDistanceTable. -/

namespace Sys2Proof.Machine

open Sys2Proof

/-! ### Fields after a status bit has been set -/

theorem only_raiseMask (s : State) (o : Nat) (m : Word) : Only raisedIn s (raiseMask s o m) := by
  have base : Only raisedIn s (s.setReg o (s.reg o ||| m)) := (only_setReg s o _).mono (by decide)
  unfold raiseMask
  dsimp only
  split
  · exact base
  · split
    · exact base
    · exact ite_keeps (P := Only raisedIn s) (base.trans ((only_signal _ _ _).mono (by decide))) base

theorem only_raise (s : State) (o : Nat) (f : Fld) : Only raisedIn s (raise s o f) := only_raiseMask s o f.mask

theorem State.fld_raise (s : State) (o : Nat) (f : Fld) (h : f.lo + f.w ≤ 64) :
    (raise s o f).fld o f = 2 ^ f.w - 1 := by
  rw [State.fld, (raise_spec s o f).2, if_pos rfl, Fld.get_or_mask f _ h]

theorem State.fld_raise_disj (s : State) (o : Nat) (f g : Fld) (h : g.lo + g.w ≤ f.lo ∨ f.lo + f.w ≤ g.lo) :
    (raise s o f).fld o g = s.fld o g := by
  rw [State.fld, (raise_spec s o f).2, if_pos rfl, Fld.get_or_mask_other f g _ h, State.fld]

/-- A field that a mask covers survives the mask. -/
theorem Fld.get_and_of_covers {f : Fld} {m : Word} (h : ∀ i, i < f.w → m.getLsbD (f.lo + i) = true) (v : Word) :
    f.get (v &&& m) = f.get v :=
  f.get_congr fun i hi => by simp [h i hi]

/-! ### Registers below the bays: no access wakes anything -/

theorem whenReached_of_lt {s : State} {f : Fn} {off : Nat} (hc : s.canWrite f off = true) (hlt : off < 0x1000000)
    (g : State → State) : whenReached s f off g = g s := by
  simp [whenReached, hc, regWake_of_lt s hlt]

theorem only_xlt (s : State) (x : XltSt) : Only [.xlt] s { s with xlt := x } :=
  ⟨rfl, fun p hp => by cases p <;> simp [Area.same] at hp ⊢⟩

theorem only_dbg (s : State) (x : DbgSt) : Only [.dbg] s { s with dbg := x } :=
  ⟨rfl, fun p hp => by cases p <;> simp [Area.same] at hp ⊢⟩

/-! ### Fault logs (R285) and the error queue (R340) -/

/-- What a write of XLT_FLOG_BASE_p stores of its value. -/
def flogMask : Word := fXltFlogBaseSize.mask ||| fXltFlogBaseEnable.mask ||| fXltFlogBaseAddr.mask

theorem rXltFlogPtr_ne_base (p q : Nat) : rXltFlogPtr p ≠ rXltFlogBase q := by
  unfold rXltFlogPtr rXltFlogBase
  omega

theorem State.reg_withXlt (s : State) (x : XltSt) (k : Nat) : ({ s with xlt := x } : State).reg k = s.reg k := rfl

/-- The registers of a fault log with its base written and its ring empty. -/
def flogRegs (s : State) (p : Nat) (v : Word) : State :=
  (((s.setReg (rXltFlogBase p) (v &&& flogMask)).setFld (rXltFlogPtr p) fXltFlogPtrHead 0).setFld (rXltFlogPtr p)
    fXltFlogPtrTail 0).setFld (rXltFlogPtr p) fXltFlogPtrDropped 0

theorem flogBaseWrite_eq (s : State) (f : Fn) (p : Nat) (v : Word) : flogBaseWrite s f p v =
    { flogRegs s p v with xlt := { (flogRegs s p v).xlt with flogFn := smSet (flogRegs s p v).xlt.flogFn p f } } := rfl

theorem reg_flogRegs (s : State) (p : Nat) (v : Word) (k : Nat) : (flogRegs s p v).reg k =
    if k = rXltFlogPtr p then
      fXltFlogPtrDropped.put (fXltFlogPtrTail.put (fXltFlogPtrHead.put (s.reg (rXltFlogPtr p)) 0) 0) 0
    else if k = rXltFlogBase p then v &&& flogMask else s.reg k := by
  simp only [flogRegs, State.reg_setFld, State.reg_setReg, if_true, if_neg (rXltFlogPtr_ne_base p p)]
  split <;> rfl

theorem only_flogBaseWrite (s : State) (f : Fn) (p : Nat) (v : Word) : Only [.regs, .xlt] s (flogBaseWrite s f p v) := by
  have honly : Only [.regs] s (flogRegs s p v) :=
    (((only_setReg s _ _).trans (only_setFld _ _ _ _)).trans (only_setFld _ _ _ _)).trans (only_setFld _ _ _ _)
  exact (honly.mono (by decide)).trans ((only_xlt _ _).mono (by decide))

theorem reg_flogBaseWrite (s : State) (f : Fn) (p : Nat) (v : Word) (k : Nat) :
    (flogBaseWrite s f p v).reg k = (flogRegs s p v).reg k := by
  rw [flogBaseWrite_eq, State.reg_withXlt]

theorem flogFn_flogBaseWrite (s : State) (f : Fn) (p : Nat) (v : Word) :
    smGet (flogBaseWrite s f p v).xlt.flogFn p = some f := by
  rw [flogBaseWrite_eq]
  exact (smGet_smSet _ _ _ _).trans (if_pos rfl)

theorem regsKept_flogBaseWrite (s : State) (f : Fn) (p : Nat) (v : Word) :
    RegsKept s (flogBaseWrite s f p v) [rXltFlogBase p, rXltFlogPtr p] := by
  intro o ho
  obtain ⟨hb, hp⟩ : o ≠ rXltFlogBase p ∧ o ≠ rXltFlogPtr p := by simpa using ho
  rw [reg_flogBaseWrite, reg_flogRegs, if_neg hp, if_neg hb]

/-- The log's base is stored as written. -/
theorem fld_base_flogBaseWrite (s : State) (f : Fn) (p : Nat) (v : Word) {g : Fld}
    (hg : ∀ i, i < g.w → flogMask.getLsbD (g.lo + i) = true) :
    (flogBaseWrite s f p v).fld (rXltFlogBase p) g = g.get v := by
  rw [State.fld, reg_flogBaseWrite, reg_flogRegs, if_neg (rXltFlogPtr_ne_base p p).symm, if_pos rfl,
    Fld.get_and_of_covers hg]

/-- The ring is empty and has dropped nothing; its status bits stay. -/
theorem fld_ptr_flogBaseWrite (s : State) (f : Fn) (p : Nat) (v : Word) (g : Fld) :
    (flogBaseWrite s f p v).fld (rXltFlogPtr p) g =
      g.get (fXltFlogPtrDropped.put (fXltFlogPtrTail.put (fXltFlogPtrHead.put (s.reg (rXltFlogPtr p)) 0) 0) 0) := by
  rw [State.fld, reg_flogBaseWrite, reg_flogRegs, if_pos rfl]

theorem exec_flogBaseWrite {s : State} {f : Fn} {p : Nat} (hc : s.canWrite f (rXltFlogBase p) = true) (hp : p < 16)
    (v : Word) : exec (.flogBaseWrite f p v) s = .next (flogBaseWrite s f p v) :=
  congrArg Host.Outcome.next (whenReached_of_lt hc (by unfold rXltFlogBase; omega) _)

theorem exec_errPop {s : State} {f : Fn} (hc : s.canWrite f rErrPop = true) : exec (.errPop f) s = .next (errPop s) :=
  congrArg Host.Outcome.next (whenReached_of_lt hc (by decide) _)

/-! ### Queries of a region (R258) -/

theorem b2n_eq_one (b : Bool) : b2n b = 1 ↔ b = true := by cases b <;> simp [b2n]

theorem b2n_lt_two (b : Bool) : b2n b < 2 := by cases b <;> simp [b2n]

/-- PLC_QRY_RES after a query. -/
def queryWord (s : State) (region : Nat) : Word :=
  fPlcQryResSharers.put (fPlcQryResReadMostly.put (fPlcQryResTier.put (fPlcQryResRacked.put (fPlcQryResTracked.put
    (fPlcQryResHeat.put 0 (s.heatOf region)) (b2n (smGet s.plc.heat region).isSome)) (b2n (s.racked region)))
    (s.adviceOf region % 4)) (s.adviceOf region / 4 % 2)) ((s.sharersOf region).elim 0 (fun d => d.sharers.toNat))

theorem plcLookup_eq (s : State) (region : Nat) : plcLookup s region =
    ((s.setFld rPlcQryCtrl fPlcQryCtrlRegion region).setFld rPlcQryCtrl fPlcQryCtrlValid 1).setReg rPlcQryRes
      (queryWord s region) := rfl

section
variable (s : State) (region : Nat)

theorem queryWord_heat : fPlcQryResHeat.get (queryWord s region) = s.heatOf region % 2 ^ 16 := by
  simp (disch := decide) only [queryWord, Fld.get_put, Fld.get_put_other]
  rfl

theorem queryWord_tracked : fPlcQryResTracked.get (queryWord s region) = b2n (smGet s.plc.heat region).isSome := by
  simp (disch := decide) only [queryWord, Fld.get_put, Fld.get_put_other]
  exact Nat.mod_eq_of_lt (b2n_lt_two _)

theorem queryWord_racked : fPlcQryResRacked.get (queryWord s region) = b2n (s.racked region) := by
  simp (disch := decide) only [queryWord, Fld.get_put, Fld.get_put_other]
  exact Nat.mod_eq_of_lt (b2n_lt_two _)

theorem queryWord_tier : fPlcQryResTier.get (queryWord s region) = s.adviceOf region % 4 := by
  simp (disch := decide) only [queryWord, Fld.get_put, Fld.get_put_other]
  exact Nat.mod_mod _ 4

theorem queryWord_readMostly : fPlcQryResReadMostly.get (queryWord s region) = s.adviceOf region / 4 % 2 := by
  simp (disch := decide) only [queryWord, Fld.get_put, Fld.get_put_other]
  exact Nat.mod_mod _ 2

theorem queryWord_sharers {d : DirEnt} (h : s.sharersOf region = some d) :
    fPlcQryResSharers.get (queryWord s region) = d.sharers.toNat := by
  simp (disch := decide) only [queryWord, Fld.get_put, h]
  exact Nat.mod_eq_of_lt d.sharers.isLt

end

theorem exec_plcQuery {s : State} {f : Fn} (hc : s.canWrite f rPlcQryCtrl = true) (region : Nat) :
    exec (.plcQuery f region) s = .next (plcLookup s region) :=
  congrArg Host.Outcome.next (whenReached_of_lt hc (by decide) _)

/-- A query changes its own two registers: the region asked for with valid, and the answer. -/
theorem plcLookup_spec (s : State) (region : Nat) :
    let t := plcLookup s region
    Only [.regs] s t ∧ RegsKept s t [rPlcQryCtrl, rPlcQryRes] ∧ t.fld rPlcQryCtrl fPlcQryCtrlValid = 1 ∧
      t.fld rPlcQryCtrl fPlcQryCtrlRegion = region % 2 ^ 22 ∧ ∀ g : Fld, t.fld rPlcQryRes g = g.get (queryWord s region) := by
  have hctrl : ∀ g : Fld, (plcLookup s region).fld rPlcQryCtrl g =
      ((s.setFld rPlcQryCtrl fPlcQryCtrlRegion region).setFld rPlcQryCtrl fPlcQryCtrlValid 1).fld rPlcQryCtrl g := fun g => by
    rw [plcLookup_eq, State.fld, State.reg_setReg, if_neg (by decide), State.fld]
  refine ⟨?_, fun o ho => ?_, ?_, ?_, fun g => ?_⟩
  · exact ((only_setFld s _ _ _).trans (only_setFld _ _ _ _)).trans (only_setReg _ _ _)
  · obtain ⟨hc, hr⟩ : o ≠ rPlcQryCtrl ∧ o ≠ rPlcQryRes := by simpa using ho
    simp [plcLookup_eq, State.reg_setFld, hc, hr]
  · rw [hctrl, State.fld_setFld _ _ _ _ (by decide)]
    rfl
  · rw [hctrl, State.fld_setFld_disj _ _ _ _ _ (by decide), State.fld_setFld _ _ _ _ (by decide)]
    rfl
  · rw [plcLookup_eq, State.fld, State.reg_setReg, if_pos rfl]

/-! ### Replicas (R260) -/

/-- A granted replica of the region is valid. -/
def copied (region : Nat) (r : Replica) : Replica := if r.home = region ∧ r.granted then { r with valid := true } else r

theorem exec_replCopyDone {s : State} {region : Nat} (hl : s.live = true)
    (hreqs : ∀ r ∈ s.ral.reqs, r.who = .placement → r.msg.typ = 1 → r.msg.addr / 65536 ≠ region) :
    exec (.replCopyDone region) s =
      .next { s with plc := { s.plc with replicas := s.plc.replicas.map (copied region) } } := by
  have hnone : s.ral.reqs.any (fun r => r.who = .placement ∧ r.msg.typ = 1 ∧ r.msg.addr / 65536 = region) = false := by
    simpa using hreqs
  show execReplCopyDone region s = _
  simp only [execReplCopyDone, whenLive, hl, if_pos, hnone]
  rfl

/-- Where every replica of the region is `r`, and `r` is granted, reads of the region are served from the slot of `r`. -/
theorem replicaOf_copied {s t : State} {region o : Nat} {r : Replica} (ht : t.plc.replicas = s.plc.replicas.map (copied region))
    (hh : t.health = 2 ∨ t.health = 3) (hr : r ∈ s.plc.replicas) (hhome : r.home = region) (hg : r.granted = true)
    (honly : ∀ q ∈ s.plc.replicas, q.home = region → q = r) (ho : o < 65536) :
    t.replicaOf (region * 65536 + o) = some (r.slot * 65536 + o) := by
  have hdiv : (region * 65536 + o) / 65536 = region := by omega
  have hmod : (region * 65536 + o) % 65536 = o := by omega
  have hcop : copied region r = { r with valid := true } := if_pos ⟨hhome, hg⟩
  have hfind : t.plc.replicas.find? (fun q => q.valid && q.home = region) = some { r with valid := true } := by
    cases hf : t.plc.replicas.find? (fun q => q.valid && q.home = region) with
    | none =>
      have := List.find?_eq_none.1 hf { r with valid := true } (by rw [ht]; exact List.mem_map.2 ⟨r, hr, hcop⟩)
      simp [hhome] at this
    | some q =>
      have hp := List.find?_some hf
      obtain ⟨q', hq', he⟩ := List.mem_map.1 (ht ▸ List.mem_of_find?_eq_some hf)
      have hhome' : q'.home = region := by
        have : (copied region q').home = q'.home := by unfold copied; split <;> rfl
        simpa [← this, he] using (Bool.and_eq_true_iff.1 hp).2
      rw [← he, honly q' hq' hhome', hcop]
  simp [State.replicaOf, hh, hdiv, hmod, hfind]

/-! ### The distance table (R52 to R54) -/

theorem length_natBytes (v k : Nat) : (natBytes v k).length = k := by simp [natBytes]

theorem length_toBytes {n : Nat} (v : BitVec n) (k : Nat) : (toBytes v k).length = k := by simp [toBytes]

theorem length_flatMap_range {α : Type} (n k : Nat) (g : Nat → List α) (h : ∀ i, (g i).length = k) :
    ((List.range n).flatMap g).length = n * k := by
  simp [List.length_flatMap, h]

theorem length_distPeer (s : State) (k : Nat) : (s.distPeer k).length = 8 := by
  simp [State.distPeer, length_natBytes]

/-- Header 64, classes 64, bays 256, slices 768, peers 128, bandwidths 16 and the matrix 6,144 bytes (R53). -/
theorem length_distTable (s : State) : s.distTable.length = 7440 := by
  have hbay := length_flatMap_range 32 8 s.distBay fun _ => rfl
  have hslice := length_flatMap_range 192 4 s.distSlice fun _ => rfl
  have hpeer := length_flatMap_range 16 8 s.distPeer (length_distPeer s)
  have hclass := length_flatMap_range 16 4 (fun c => natBytes (if c < 4 then classW c else 0) 2 ++ natBytes 0 2)
    fun c => by simp [length_natBytes]
  have hmat := length_flatMap_range 32 192 (fun b => (List.range 192).map (fun n => BitVec.ofNat 8 (s.distClassOf b n)))
    fun b => by simp
  have hname : (ascii "DIST").length = 4 := by decide
  simp only [State.distTable, List.length_append, length_natBytes, length_toBytes, hbay, hslice, hpeer, hclass, hmat, hname]

theorem exec_distFetch {s : State} {f : Fn} (hc : s.canWrite f rPlcDistCtrl = true) :
    exec (.distFetch f) s = .next (distGo s f) :=
  congrArg Host.Outcome.next (whenReached_of_lt hc (by decide) _)

theorem distGo_busy {s : State} (hb : s.fld rPlcDistCtrl fPlcDistCtrlBusy = 1) (f : Fn) : distGo s f = s := by
  simp [distGo, hb]

theorem distGo_early {s : State} (hb : s.fld rPlcDistCtrl fPlcDistCtrlBusy = 0) (h10 : s.stepDone 10 = false) (f : Fn) :
    distGo s f = raise (s.setFld rPlcDistCtrl fPlcDistCtrlErrCause 2) rPlcDistCtrl fPlcDistCtrlError := by
  simp [distGo, hb, h10]

/-- The table is on its way to the host, through the function that asked. -/
def distSent (s : State) (f : Fn) : State :=
  (({ s with plc := { s.plc with dist := some (s.distTable, f, s.plc.gen.toNat) } } : State).setFld rPlcDistCtrl
    fPlcDistCtrlBusy 1).emit
    (.hostWrite f.port (64 * s.fld rPlcDistAddr fPlcDistAddrAddr) (s.distTable.map some) false)

theorem distGo_sends {s : State} (hb : s.fld rPlcDistCtrl fPlcDistCtrlBusy = 0) (h10 : s.stepDone 10 = true) (f : Fn) :
    distGo s f = distSent s f := by
  simp [distGo, hb, h10, distSent]

theorem distSent_spec (s : State) (f : Fn) :
    Only [.regs, .plc, .out] s (distSent s f) ∧ (distSent s f).fld rPlcDistCtrl fPlcDistCtrlBusy = 1 ∧
      RegsKept s (distSent s f) [rPlcDistCtrl] := by
  refine ⟨?_, ?_, fun o ho => ?_⟩
  · exact (((only_plc s _).mono (by decide)).trans ((only_setFld _ _ _ _).mono (by decide))).trans
      ((only_emit _ _).mono (by decide))
  · exact State.fld_setFld _ _ _ _ (by decide)
  · exact (State.reg_setFld _ _ _ _ _).trans (if_neg (by simpa using ho))

/-- PLC_DIST_CTRL once a fetch of generation `g` is over: no longer busy, and stale where the generation has moved on. -/
def distIdle (s : State) (g : Nat) : State :=
  let s1 := ({ s with plc := { s.plc with dist := none } } : State).setFld rPlcDistCtrl fPlcDistCtrlBusy 0
  if s.plc.gen.toNat = g then s1 else raise s1 rPlcDistCtrl fPlcDistCtrlStale

theorem distIdle_spec (s : State) (g : Nat) :
    let t := distIdle s g
    Only (.plc :: raisedIn) s t ∧ t.plc = { s.plc with dist := none } ∧ t.fld rPlcDistCtrl fPlcDistCtrlBusy = 0 ∧
      (s.plc.gen.toNat ≠ g → t.fld rPlcDistCtrl fPlcDistCtrlStale = 1) ∧
      (s.plc.gen.toNat = g → t.fld rPlcDistCtrl fPlcDistCtrlStale = s.fld rPlcDistCtrl fPlcDistCtrlStale) := by
  intro t
  have honly : Only (.plc :: raisedIn) s (({ s with plc := { s.plc with dist := none } } : State).setFld rPlcDistCtrl
      fPlcDistCtrlBusy 0) :=
    ((only_plc s _).mono (by decide)).trans ((only_setFld _ _ _ _).mono (by decide))
  by_cases hg : s.plc.gen.toNat = g
  · have ht : t = ({ s with plc := { s.plc with dist := none } } : State).setFld rPlcDistCtrl fPlcDistCtrlBusy 0 := if_pos hg
    rw [ht]
    exact ⟨honly, rfl, State.fld_setFld _ _ _ _ (by decide), fun h => absurd hg h,
      fun _ => State.fld_setFld_disj _ _ _ _ _ (by decide)⟩
  · have ht : t = raise (({ s with plc := { s.plc with dist := none } } : State).setFld rPlcDistCtrl fPlcDistCtrlBusy 0)
      rPlcDistCtrl fPlcDistCtrlStale := if_neg hg
    rw [ht]
    refine ⟨honly.trans ((only_raise _ _ _).mono (by decide)), (raise_spec _ _ _).1.plc, ?_,
      fun _ => State.fld_raise _ _ _ (by decide), fun h => absurd h hg⟩
    rw [State.fld_raise_disj _ _ _ _ (by decide)]
    exact State.fld_setFld _ _ _ _ (by decide)

theorem exec_distFetchDone {s : State} {t : List Byte} {f : Fn} {g : Nat} (hon : s.on = true) (hfr : s.freeze ≠ 2)
    (hd : s.plc.dist = some (t, f, g)) (ok : Bool) :
    exec (.distFetchDone ok) s = .next (
      if ok then raise (distIdle s g) rPlcDistCtrl fPlcDistCtrlDone
      else raise ((distIdle s g).setFld rPlcDistCtrl fPlcDistCtrlErrCause 1) rPlcDistCtrl fPlcDistCtrlError) := by
  show execDistFetchDone ok s = _
  simp [execDistFetchDone, hon, hfr, hd, distIdle]

/-- Settles O35: each command is brought to its own effect, and its fields are read off the puts and status bits that it
makes. The write of the table goes out at the fetch, and stale is set beside an error (assumption log 65). -/
theorem logsAndDistanceTable : Obligations.LogsAndDistanceTable := by
  refine ⟨⟨fun s f p value hc hp => ?_, fun s f hc => ?_, fun s f region hc hr => ?_, fun s region hl hreqs => ?_⟩,
    length_distTable, fun s f hc => ⟨fun hb => ?_, fun hb h10 => ?_, fun hb h10 => ?_⟩, fun s ok t f g hon hfr hd => ?_⟩
  · refine ⟨_, exec_flogBaseWrite hc hp value, only_flogBaseWrite s f p value, regsKept_flogBaseWrite s f p value,
      fld_base_flogBaseWrite s f p value (by decide), fld_base_flogBaseWrite s f p value (by decide),
      fld_base_flogBaseWrite s f p value (by decide), ?_, ?_, ?_, ?_, flogFn_flogBaseWrite s f p value⟩
    all_goals
      rw [fld_ptr_flogBaseWrite]
      simp (disch := decide) only [Fld.get_put, Fld.get_put_other]
    all_goals rfl
  · exact ⟨_, exec_errPop hc, only_dbg s _, rfl⟩
  · obtain ⟨honly, hkept, hvalid, hregion, hres⟩ := plcLookup_spec s region
    refine ⟨_, exec_plcQuery hc region, honly, hkept, hvalid, hregion.trans (Nat.mod_eq_of_lt hr), ?_, ?_, ?_, ?_, ?_,
      fun d hd => ?_⟩
    · rw [hres, queryWord_heat]
    · rw [hres, queryWord_tracked, b2n_eq_one]
    · rw [hres, queryWord_racked, b2n_eq_one]
    · rw [hres, queryWord_tier]
    · rw [hres, queryWord_readMostly]
    · rw [hres, queryWord_sharers s region hd]
  · refine ⟨_, exec_replCopyDone hl hreqs, only_plc s _, fun r hr hh hg => ?_, fun r hr hn => ?_,
      fun r hr hh hg honly hhealth o ho => replicaOf_copied rfl hhealth hr hh hg honly ho⟩
    · exact List.mem_map.2 ⟨r, hr, if_pos ⟨hh, hg⟩⟩
    · refine List.mem_map.2 ⟨r, hr, if_neg fun ⟨hh, hg⟩ => ?_⟩
      exact hn.elim (fun h => h hh) (fun h => by simp [h] at hg)
  · show exec _ s = _
    rw [exec_distFetch hc, distGo_busy hb]
  · refine ⟨_, exec_distFetch hc, ?_⟩
    rw [distGo_early hb h10]
    refine ⟨((only_setFld s _ _ _).mono (by decide)).trans (only_raise _ _ _), State.fld_raise _ _ _ (by decide), ?_, ?_⟩
    · rw [State.fld_raise_disj _ _ _ _ (by decide)]
      exact State.fld_setFld _ _ _ _ (by decide)
    · rw [State.fld_raise_disj _ _ _ _ (by decide), State.fld_setFld_disj _ _ _ _ _ (by decide), hb]
  · obtain ⟨honly, hbusy, hkept⟩ := distSent_spec s f
    refine ⟨_, exec_distFetch hc, ?_⟩
    rw [distGo_sends hb h10]
    exact ⟨honly, hbusy, hkept, rfl, rfl⟩
  · obtain ⟨honly, hplc, hbusy, hmoved, hsame⟩ := distIdle_spec s g
    refine ⟨_, exec_distFetchDone hon hfr hd ok, ?_⟩
    cases ok with
    | true =>
      rw [if_pos rfl]
      have hfld : ∀ k : Fld, k.lo + k.w ≤ fPlcDistCtrlDone.lo ∨ fPlcDistCtrlDone.lo + fPlcDistCtrlDone.w ≤ k.lo →
          (raise (distIdle s g) rPlcDistCtrl fPlcDistCtrlDone).fld rPlcDistCtrl k = (distIdle s g).fld rPlcDistCtrl k :=
        fun k => State.fld_raise_disj _ _ _ _
      refine ⟨honly.trans ((only_raise _ _ _).mono (by decide)), (raise_spec _ _ _).1.plc.trans hplc, ?_,
        fun _ => State.fld_raise _ _ _ (by decide), fun h => by simp at h, fun h => ?_, fun h => ?_⟩
      · rw [hfld _ (by decide), hbusy]
      · rw [hfld _ (by decide), hmoved h]
      · rw [hfld _ (by decide), hsame h]
    | false =>
      rw [if_neg (by simp)]
      have hfld : ∀ k : Fld, k.lo + k.w ≤ 4 ∨ 7 ≤ k.lo →
          (raise ((distIdle s g).setFld rPlcDistCtrl fPlcDistCtrlErrCause 1) rPlcDistCtrl fPlcDistCtrlError).fld rPlcDistCtrl k =
            (distIdle s g).fld rPlcDistCtrl k := fun k hk => by
        rw [State.fld_raise_disj _ _ _ _ (by simp only [fPlcDistCtrlError]; omega),
          State.fld_setFld_disj _ _ _ _ _ (by simp only [fPlcDistCtrlErrCause]; omega)]
      refine ⟨(honly.trans ((only_setFld _ _ _ _).mono (by decide))).trans ((only_raise _ _ _).mono (by decide)),
        (raise_spec _ _ _).1.plc.trans hplc, ?_, fun h => by simp at h, fun _ => ⟨State.fld_raise _ _ _ (by decide), ?_⟩,
        fun h => ?_, fun h => ?_⟩
      · rw [hfld _ (by decide), hbusy]
      · rw [State.fld_raise_disj _ _ _ _ (by decide)]
        exact State.fld_setFld _ _ _ _ (by decide)
      · rw [hfld _ (by decide), hmoved h]
      · rw [hfld _ (by decide), hsame h]

end Sys2Proof.Machine
end

section
/-! SUPPORT. The last cell of a bay, retired while a pin of a partition beyond the sixteenth waits for a fill: the count of
the refused pin lands in CMP_BAY_EVENT of the bay; and the refutation of UnitsLeaveService. -/

namespace Sys2Proof.Machine

open Sys2Proof

/-! ### A pin of a partition that does not exist -/

/-- The number of a partition whose CEL_PIN_DENY would be CMP_BAY_EVENT of bay 0. -/
def strayPart : Nat := 0xD0004

theorem rCelPinDeny_strayPart : rCelPinDeny strayPart = rCmpBayEvent 0 := rfl

/-! ### The state -/

/-- Partition 0 holds bay 0, every way and 64 GiB; its operator 0 runs on bay 0 and uses cell 1 of the bay's group alone. -/
def strayBlend : Blend :=
  ⟨[(0, ⟨1, 0xFFFF, 64, 32, false, 1, 1, 0, 0, 0, 2 ^ 36⟩)],
    [⟨0, 0, 3, 1, 1, 0, false, false, false, 0, 0, 1, 2, [], 0xFF, 0xFF, [], []⟩], [], [], [], [], [], none, 0, 0, 0⟩

/-- A tile of operator 0 with out_accum and its completion flag at 0x1000, whose one piece is placed on bay 0. -/
def strayTile : Tile :=
  ⟨0, 0, 0, BitVec.ofNat 512 (2 ^ 8 + 2 ^ 448 * 0x1000), true, [⟨0, 1, 0, 1, [], .placed 0 true, [], [], 0, 0⟩], []⟩

/-- The frame of a line at 0x1000 that is being filled. -/
def strayFrame : Frame := ⟨sliceOf 0x1000, lidxOf 0x1000, 1, [LineEnt.fresh 0x1000 .filling 0]⟩

/-- The slice of that line, where a pin of the stray partition waits for the fill. -/
def straySlice : Slice :=
  { Slice.initial (sliceOf 0x1000) with waiting := [⟨.placement, 0x1000, 0, .pin strayPart⟩] }

/-- Every step of bring-up is done; context 0 is bound to function 0, and its first 64 KiB translate to the first of HBM. -/
def strayRegs : SMap Word :=
  (((State.reset.setReg rBupDone 0x7FE).setFld rHbmCap fHbmCapBackedTop (2 ^ 38)).setReg (rXltCtxBind 0)
    (fXltCtxBindValid.put 0 1)).regs

/-- Of bay 0 only cell 0 is in service, and link 0 of the cell has had two parity errors in this round. -/
def strayState : State :=
  { regs := strayRegs
    fns := [(0, { FnCfg.initial with ats := true, pri := true, pasid := true, bar2Log2 := 43, bar2Base := some 0 })]
    pci := { pwrgood := true, perstLow := 0, owner := some 0, deadline := true, wasUp := 1, up := 1 }
    bup := {
      blend := some strayBlend
      enabledOnce := true
      cells := ((cellsOfBay 0).drop 1).map (fun i => (i, 1))
      parity := [(0, 2)] }
    cmp := { opq := [(0, [strayTile])] }
    xlt := { l2 := [⟨0, 0, 0, 4, 0, 0, true, true, true, false, false⟩] }
    cel := {
      frames := [(frameKey (sliceOf 0x1000) (setOf 0x1000) 0, strayFrame)]
      slices := [(sliceOf 0x1000, straySlice)] } }

/-- The state that the third parity error leaves. -/
def strayAfter : State :=
  withDuty { strayState with bup := { strayState.bup with parity := smSet strayState.bup.parity 0 3 } } (fun t => retireCell t 0)

theorem strayState_hypotheses : strayState.live = true ∧ strayState.cellOn 0 = true ∧
    smGetD strayState.bup.parity 0 0 = 2 := by decide +kernel

theorem exec_strayState : exec (.cellLinkParityError 0 0 0) strayState = .next strayAfter := by
  show execCellLinkParityError 0 0 0 strayState = _
  obtain ⟨hlive, hon, hn⟩ := strayState_hypotheses
  simp [execCellLinkParityError, whenLive, hlive, hon, hn, strayAfter]

/-- With its last cell the bay is disabled, which ends the piece; the flag add of its tile settles the fill, and the pin that
waited runs and is refused. Its count takes cell_retired from 1 to 2, and bay_disabled adds 4. -/
theorem strayAfter_event : strayAfter.reg (rCmpBayEvent 0) = 6 := by decide +kernel

/-- Refutes O36, in the clause of the third parity error. The statement bounds no partition number of a request that waits at
a slice, and CEL_PIN_DENY of partition 0xD0004 is CMP_BAY_EVENT of bay 0: when the retirement of the bay's last cell lets
such a pin run, the count of the refused pin clears cell_retired again. -/
theorem not_unitsLeaveService : ¬ Obligations.UnitsLeaveService := by
  rintro ⟨-, -, -, hcell, -⟩
  obtain ⟨hlive, hon, hn⟩ := strayState_hypotheses
  obtain ⟨v, hexec, -, -, -, hevent⟩ := (hcell strayState 0 0 0 hlive (by decide) (by decide) hon).2 hn
  obtain rfl : strayAfter = v := Host.Outcome.next.inj (exec_strayState.symm.trans hexec)
  have hretired : fCmpBayEventCellRetired.get (strayAfter.reg (rCmpBayEvent 0)) = 1 := hevent
  rw [strayAfter_event] at hretired
  exact absurd hretired (by decide)

end Sys2Proof.Machine
end

section
/-! SUPPORT. Accesses of a thread that change its cell's L1 or go to a slice: the L1 without a line, the thread that a
completed instruction leaves, a request on its way to a slice, effective addresses (R131, R132, R134). -/

namespace Sys2Proof.Machine

open Sys2Proof

/-! ### The L1 without a line (R134, R136) -/

/-- A read of a map whose values have been changed under the same keys. -/
theorem smGet_map {α : Type} {f : Nat × α → Nat × α} (hf : ∀ e, (f e).1 = e.1) (m : SMap α) (k : Nat) :
    smGet (m.map f) k = (smGet m k).map (fun v => (f (k, v)).2) := by
  unfold smGet
  induction m with
  | nil => rfl
  | cons e m ih =>
    rw [List.map_cons, show f e = (e.1, (f e).2) from Prod.ext (hf e) rfl, lookup_cons_ite, lookup_cons_ite, ih]
    by_cases h : k = e.1
    · simp [h]
    · simp [h]

/-- A thread that does not wait for a fill is as it was. -/
theorem thread_l1Bar_of_ready {s : State} {k : Nat} {x : Thread} (h : s.thread k = some x) (hx : x.st = .ready)
    (cell : Nat) (p : Phys → Bool) : (l1Bar s cell p).thread k = some x := by
  show smGet (s.cmp.thr.map _) k = some x
  rw [smGet_map, show smGet s.cmp.thr k = some x from h]
  · simp [hx]
  · intro e
    dsimp only
    split
    · split
      · split <;> rfl
      · rfl
    · rfl

theorem thread_l1Drop_of_ready {s : State} {k : Nat} {x : Thread} (h : s.thread k = some x) (hx : x.st = .ready)
    (cell : Nat) (p : Phys) : (l1Drop s cell p).thread k = some x :=
  thread_l1Bar_of_ready h hx cell _

@[simp] theorem cel_l1Drop (s : State) (cell : Nat) (p : Phys) : (l1Drop s cell p).cel = s.cel := rfl

theorem l1_l1Drop (s : State) (cell : Nat) (p : Phys) :
    (l1Drop s cell p).l1 cell = (s.l1 cell).filter (fun l => l.target ≠ physLine p) := by
  simp [l1Drop]

theorem l1Find_l1Drop (s : State) (cell : Nat) (p : Phys) : (l1Drop s cell p).l1Find cell p = none := by
  simp [State.l1Find, l1_l1Drop]

theorem l1Find_l1Drop_of_ne {p q : Phys} (h : physLine q ≠ physLine p) (s : State) (cell : Nat) :
    (l1Drop s cell p).l1Find cell q = s.l1Find cell q := by
  simp only [State.l1Find, l1_l1Drop, List.find?_filter]
  congr 1
  funext l
  by_cases hl : l.target = physLine q <;> simp [hl, h]

/-! ### The thread of an instruction -/

theorem Runs.ready {i : Instr} {s u : State} {x : Thread} (hr : Runs i s u x) : x.st = .ready := by
  obtain ⟨-, ht, hi, -⟩ := hr
  simp only [State.issues, ht, Bool.and_eq_true, decide_eq_true_eq] at hi
  exact hi.1.1.1

@[simp] theorem Thread.reg_issued (x : Thread) (i : Instr) (r : Nat) : (x.issued i).reg r = x.reg r := rfl

@[simp] theorem Thread.sector_issued (x : Thread) (i : Instr) (d : Nat) : (x.issued i).sector d = x.sector d := by
  simp only [Thread.sector, Thread.reg_issued]

theorem thread_pushStore {s : State} {t : Nat} {x : Thread} (h : s.thread t = some x) (p : Phys) (size : Nat) :
    (pushStore s t p size).thread t = some { x with stores := x.stores ++ [⟨p, size, s.cmp.clock⟩] } := by
  simp [pushStore, updThread, h]

@[simp] theorem cel_pushStore (s : State) (t : Nat) (p : Phys) (size : Nat) : (pushStore s t p size).cel = s.cel := by
  unfold pushStore updThread
  split <;> rfl

@[simp] theorem l1Find_pushStore (s : State) (t : Nat) (p : Phys) (size cell : Nat) (q : Phys) :
    (pushStore s t p size).l1Find cell q = s.l1Find cell q := by
  unfold pushStore updThread
  split <;> rfl

section
variable {i : Instr} {u t : State} {y : Thread}

theorem Finished.thread (h : Finished i u t y) : t.thread (slotOf i) = some y := by
  simp [State.thread, h.cmp]

theorem Finished.cel (h : Finished i u t y) : t.cel = u.cel := by rw [h.rest]

theorem Finished.l1Find (h : Finished i u t y) (cell : Nat) (p : Phys) : t.l1Find cell p = u.l1Find cell p := by
  simp only [State.l1Find, State.l1, h.cmp]

/-- The partition of a requester is what it was, where the instruction's thread is of the same partition. -/
theorem Finished.ofPart (h : Finished i u t y) {x : Thread} (hx : u.thread (slotOf i) = some x) (hp : y.part = x.part)
    (p : Nat) : t.ofPart (.thread (slotOf i)) p = u.ofPart (.thread (slotOf i)) p := by
  have hu : smGet u.cmp.thr (slotOf i) = some x := hx
  have ht : smGet t.cmp.thr (slotOf i) = some y := h.thread
  simp only [State.ofPart, hu, ht, hp]

theorem Finished.permits (h : Finished i u t y) {x : Thread} (hx : u.thread (slotOf i) = some x) (hp : y.part = x.part)
    (write : Bool) (a : Nat) :
    t.permits (.thread (slotOf i)) write a = u.permits (.thread (slotOf i)) write a := by
  have hsealed : t.sealedAt a = u.sealedAt a := by rw [h.rest]; rfl
  simp only [State.permits, hsealed, h.ofPart hx hp]

theorem Finished.poolAllows (h : Finished i u t y) (who : Requester) (reads : Bool) (a : Nat) :
    t.poolAllows who reads a = u.poolAllows who reads a := by
  rw [h.rest]
  rfl

/-- A completed instruction of one issue slot whose thread goes on at the next instruction. -/
theorem retireNext_spec {s : State} {x : Thread} (h : s.thread (slotOf i) = some (x.issued i)) (hn : issueSlots i = 1) :
    ∃ y, Finished i s (retire i s Thread.next) y ∧ Passed i 1 x y ((x.pc + 4) % 2 ^ 64) x.regs :=
  ⟨_, retire_spec i s _ h Thread.next, by rw [hn]; rfl⟩

end

/-! ### Requests to slices -/

theorem portBeats_side (s : State) (t part : Nat) : SideOnly s (portBeats s t part) :=
  (SideOnly.tick s).trans (countEv_spec s.tick 4 _ part _).1.side

@[simp] theorem toSlice_cmp (s : State) (t part a hint : Nat) (op : SliceOp) : (toSlice s t part a hint op).cmp = s.cmp :=
  (portBeats_side s t part).cmp

@[simp] theorem toSlice_xbar (s : State) (t part a hint : Nat) (op : SliceOp) :
    (toSlice s t part a hint op).cel.xbar = s.cel.xbar ++ [⟨.thread t, a, hint, op⟩] :=
  congrArg (fun c : CelSt => c.xbar ++ [⟨.thread t, a, hint, op⟩]) (portBeats_side s t part).cel

@[simp] theorem toSlice_thread (s : State) (t part a hint : Nat) (op : SliceOp) (k : Nat) :
    (toSlice s t part a hint op).thread k = s.thread k := by
  simp [State.thread]

@[simp] theorem toSlice_l1Find (s : State) (t part a hint : Nat) (op : SliceOp) (cell : Nat) (p : Phys) :
    (toSlice s t part a hint op).l1Find cell p = s.l1Find cell p := by
  simp [State.l1Find, State.l1]

/-! ### Operands -/

/-- The effective address of format M is the sum modulo 2^64 (R129, R131). -/
theorem Thread.ea_eq (x : Thread) (a : Nat) (imm : BitVec 12) :
    x.ea a imm = (((x.reg a).toInt + imm.toInt) % 2 ^ 64).toNat := by
  have hsum : x.reg a + imm.signExtend 64 = BitVec.ofInt 64 ((x.reg a).toInt + imm.toInt) := by
    rw [BitVec.ofInt_add, BitVec.ofInt_toInt, BitVec.signExtend]
  rw [Thread.ea, hsum, BitVec.toNat_ofInt]
  norm_num

/-- A sum of digits times powers of the base, as the number with these digits. -/
theorem foldl_range_eq_ofDigits (b : Nat) (v : Nat → Nat) (n : Nat) :
    (List.range n).foldl (fun a k => a + v k * b ^ k) 0 = Nat.ofDigits b ((List.range n).map v) := by
  induction n with
  | zero => rfl
  | succ n ih =>
    rw [List.range_succ, List.foldl_append, List.map_append, Nat.ofDigits_append, ih, List.length_map, List.length_range,
      List.foldl_cons, List.foldl_nil, List.map_singleton, Nat.ofDigits_singleton, Nat.mul_comm]

/-- The registers of a sector, from its low end. -/
def Thread.sectorRegs (x : Thread) (d : Nat) : List Nat := (List.range 4).map (fun k => (x.reg (d + k)).toNat)

theorem Thread.sectorRegs_lt (x : Thread) (d : Nat) : ∀ v ∈ x.sectorRegs d, v < 2 ^ 64 := by
  intro v hv
  obtain ⟨k, -, rfl⟩ := List.mem_map.1 hv
  exact (x.reg (d + k)).isLt

theorem Thread.toNat_sector (x : Thread) (d : Nat) : (x.sector d).toNat = Nat.ofDigits (2 ^ 64) (x.sectorRegs d) := by
  have hlt : Nat.ofDigits (2 ^ 64) (x.sectorRegs d) < 2 ^ 256 := by
    have h := Nat.ofDigits_lt_base_pow_length (Nat.one_lt_two_pow (by decide)) (x.sectorRegs_lt d)
    rwa [show (x.sectorRegs d).length = 4 from rfl, ← pow_mul] at h
  have hstep : (fun a k => a + (x.reg (d + k)).toNat * 2 ^ (64 * k)) =
      fun a k => a + (x.reg (d + k)).toNat * (2 ^ 64) ^ k := by
    funext a k
    rw [pow_mul]
  rw [Thread.sector, hstep, foldl_range_eq_ofDigits, BitVec.toNat_ofNat]
  exact Nat.mod_eq_of_lt hlt

/-- Each register is its 64 bits of the sector (R130). -/
theorem Thread.extractLsb'_sector (x : Thread) (d : Nat) {j : Nat} (hj : j < 4) :
    (x.sector d).extractLsb' (64 * j) 64 = x.reg (d + j) := by
  have hdrop : (x.sectorRegs d).drop j = (x.reg (d + j)).toNat :: (x.sectorRegs d).drop (j + 1) := by
    rw [List.drop_eq_getElem_cons (by simpa [Thread.sectorRegs] using hj)]
    simp [Thread.sectorRegs]
  apply BitVec.eq_of_toNat_eq
  rw [BitVec.extractLsb'_toNat, Nat.shiftRight_eq_div_pow, pow_mul, x.toNat_sector,
    Nat.ofDigits_div_pow_eq_ofDigits_drop _ (by norm_num) _ (x.sectorRegs_lt d), hdrop, Nat.ofDigits_cons,
    Nat.add_mul_mod_self_left, Nat.mod_eq_of_lt (x.reg (d + j)).isLt]
end Sys2Proof.Machine
end

section
/-! SUPPORT. SACC, prefetch and CINV (R113, R131, R134), and the proof of AccumulateAndHintsGo. -/

namespace Sys2Proof.Machine

open Sys2Proof

/-- An access that translates goes on with its place. -/
theorem withPlace_of_translates {i : Instr} {s u w : State} {x : Thread} {va : Nat} {acc : Acc} {p : Phys}
    (hr : Runs i s u x) (ht : Translates i u w x va acc p) (k : State → Phys → State) :
    withPlace i u va acc k = k w p := by
  have hx : translate u ⟨.thread (slotOf i), (x.issued i).m, va, acc, bayOfSlot (slotOf i), 0⟩ true = (w, .ok p) := ht.1
  simp only [withPlace, hr.thread, hx]

/-! ### SACC -/

theorem exec_sacc {t op d a b addr : Nat} {s u w : State} {x : Thread} (hr : Runs (.sacc t op d a b) s u x)
    (hal : (x.reg a).toNat % 32 = 0)
    (ht : Translates (.sacc t op d a b) u w x (x.reg a).toNat .update (.hbm addr)) :
    exec (.sacc t op d a b) s = .next (saccPlace (.sacc t op d a b) w op (x.reg a).toNat d b (.hbm addr)) := by
  show execSacc t op d a b s = _
  simp only [execSacc, issue_runs hr (Laws.roundTrip.sacc t op d a b) rfl, hal, ne_eq, not_true_eq_false, if_false,
    withPlace_of_translates hr ht]

/-- A SACC that may write at an address of this stack is a request of its slice with the sector. -/
theorem saccPlace_hbm {i : Instr} {w : State} {x : Thread} (hw : w.thread (slotOf i) = some (x.issued i))
    (hfull : x.stores.length < 4) {addr : Nat} (hmay : w.mayWrite (slotOf i) addr = true) (op va d b : Nat) :
    saccPlace i w op va d b (.hbm addr) =
      toSlice (retire i (pushStore (l1Drop w (cellOfSlot (slotOf i)) (.hbm addr)) (slotOf i) (.hbm addr) 32) Thread.next)
        (slotOf i) x.part addr 0 (.accum op ((x.reg b).setWidth 16) (x.sector d) false) := by
  have hroom : (x.issued i).full = false := decide_eq_false (Nat.not_le.2 hfull)
  simp only [saccPlace, hw, hroom, hbmTarget, hmay, Bool.false_eq_true, if_false, not_true_eq_false, and_false,
    Thread.reg_issued, Thread.sector_issued]
  rfl

/-- The thread has one store more on its way and goes on, the sector is sent to the slice, and the line is not in the L1. -/
theorem saccPlace_spec {i : Instr} {w : State} {x : Thread} (hw : w.thread (slotOf i) = some (x.issued i))
    (hx : x.st = .ready) (hn : issueSlots i = 1) (hfull : x.stores.length < 4) {addr : Nat}
    (hmay : w.mayWrite (slotOf i) addr = true) (op va d b : Nat) :
    ∃ q, (saccPlace i w op va d b (.hbm addr)).thread (slotOf i) = some { x with
        pc := (x.pc + 4) % 2 ^ 64
        issue := x.issue + 1
        word := wordOfInstr i
        stores := x.stores ++ [⟨.hbm addr, 32, q⟩]
        st := .ready } ∧
      (saccPlace i w op va d b (.hbm addr)).cel.xbar =
        w.cel.xbar ++ [⟨.thread (slotOf i), addr, 0, .accum op ((x.reg b).setWidth 16) (x.sector d) false⟩] ∧
      (saccPlace i w op va d b (.hbm addr)).l1Find (cellOfSlot (slotOf i)) (.hbm addr) = none := by
  have hdrop := thread_l1Drop_of_ready hw hx (cellOfSlot (slotOf i)) (.hbm addr)
  have hdone := retire_spec i _ _ (thread_pushStore hdrop (.hbm addr) 32) Thread.next
  rw [saccPlace_hbm hw hfull hmay, toSlice_thread, toSlice_xbar, toSlice_l1Find, hdone.thread, hdone.cel, hdone.l1Find,
    cel_pushStore, cel_l1Drop, l1Find_pushStore, hn]
  exact ⟨_, rfl, rfl, l1Find_l1Drop w _ _⟩

theorem sacc_goes {s u w : State} {x : Thread} {t op d a b addr : Nat} (hr : Runs (.sacc t op d a b) s u x)
    (hal : (x.reg a).toNat % 32 = 0) (hfull : x.stores.length < 4)
    (ht : Translates (.sacc t op d a b) u w x (x.reg a).toNat .update (.hbm addr)) (hmay : w.mayWrite t addr = true) :
    ∃ v y q, exec (.sacc t op d a b) s = .next v ∧ v.thread t = some y ∧
      y = { x with
        pc := (x.pc + 4) % 2 ^ 64
        issue := x.issue + 1
        word := wordOfInstr (.sacc t op d a b)
        stores := x.stores ++ [⟨.hbm addr, 32, q⟩]
        st := .ready } ∧
      (∃ data : Sector, (∀ j, j < 4 → data.extractLsb' (64 * j) 64 = x.reg (d + j)) ∧
        v.cel.xbar = w.cel.xbar ++ [⟨.thread t, addr, 0, .accum op ((x.reg b).setWidth 16) data false⟩]) ∧
      v.l1Find (cellOfSlot t) (.hbm addr) = none := by
  obtain ⟨q, hthread, hxbar, hl1⟩ := saccPlace_spec ht.2 hr.ready rfl hfull hmay op (x.reg a).toNat d b
  exact ⟨_, _, q, exec_sacc hr hal ht, hthread, rfl, ⟨x.sector d, fun _ hj => x.extractLsb'_sector d hj, hxbar⟩, hl1⟩

/-! ### PREF into the slice -/

theorem prefPlace_slice {s : State} {t addr : Nat} (hp : s.permits (.thread t) false addr = true)
    (hq : s.poolAllows (.thread t) true (lineAddr addr) = true) (x : Thread) (hint : Nat) :
    prefPlace s t x true hint (.hbm addr) = toSlice s t x.part addr (if hint = 3 then 0 else hint) .pref := by
  simp only [prefPlace, hp, hq, and_self, not_true_eq_false, if_false, if_true]

theorem pref_goes {s u : State} {x : Thread} {t a hint addr : Nat} {k : BitVec 12} (hr : Runs (.pref t 1 a hint k) s u x)
    (hl : lookup u x.m (((x.reg a).toInt + k.toInt) % 2 ^ 64).toNat .read (some (bayOfSlot t)) = some (.hbm addr))
    (hp : u.permits (.thread t) false addr = true) (hq : u.poolAllows (.thread t) true (lineAddr addr) = true) :
    ∃ v y, exec (.pref t 1 a hint k) s = .next v ∧ v.thread t = some y ∧
      Passed (.pref t 1 a hint k) 1 x y ((x.pc + 4) % 2 ^ 64) x.regs ∧
      v.cel.xbar = u.cel.xbar ++ [⟨.thread t, addr, if hint = 3 then 0 else hint, .pref⟩] := by
  obtain ⟨y, hdone, hpass⟩ := retireNext_spec hr.thread rfl
  have hpart : y.part = (x.issued (.pref t 1 a hint k)).part := by rw [hpass]; rfl
  have hexec : exec (.pref t 1 a hint k) s = .next (prefPlace (retire (.pref t 1 a hint k) u Thread.next) t x true hint
      (.hbm addr)) := by
    show execPref t 1 a hint k s = _
    simp only [execPref, issue_runs hr (Laws.roundTrip.pref t 1 a hint k) rfl, x.ea_eq, hl, decide_true]
  have hplace := prefPlace_slice (t := t) ((hdone.permits hr.thread hpart false addr).trans hp)
    ((hdone.poolAllows _ _ _).trans hq) x hint
  exact ⟨_, y, hexec.trans (congrArg _ hplace), (toSlice_thread _ _ _ _ _ _ _).trans hdone.thread, hpass,
    (toSlice_xbar _ _ _ _ _ _).trans (by rw [hdone.cel])⟩

/-! ### CINV -/

theorem exec_cinv {s u w : State} {x : Thread} {t a : Nat} {k : BitVec 12} {p : Phys} (hr : Runs (.cinv t a k) s u x)
    (ht : Translates (.cinv t a k) u w x (((x.reg a).toInt + k.toInt) % 2 ^ 64).toNat .read p) :
    exec (.cinv t a k) s = .next (retire (.cinv t a k) (l1Drop w (cellOfSlot t) p) Thread.next) := by
  have hx : translate u ⟨.thread t, x.m, (((x.reg a).toInt + k.toInt) % 2 ^ 64).toNat, .read, bayOfSlot t, 0⟩ true =
      (w, .ok p) := ht.1
  show execCinv t a k s = _
  simp only [execCinv, issue_runs hr (Laws.roundTrip.cinv t a k) rfl, x.ea_eq, hx]

theorem cinv_goes {s u w : State} {x : Thread} {t a : Nat} {k : BitVec 12} {p : Phys} (hr : Runs (.cinv t a k) s u x)
    (ht : Translates (.cinv t a k) u w x (((x.reg a).toInt + k.toInt) % 2 ^ 64).toNat .read p) :
    ∃ v y, exec (.cinv t a k) s = .next v ∧ v.thread t = some y ∧
      Passed (.cinv t a k) 1 x y ((x.pc + 4) % 2 ^ 64) x.regs ∧ v.l1Find (cellOfSlot t) p = none ∧
      ∀ q, physLine q ≠ physLine p → v.l1Find (cellOfSlot t) q = w.l1Find (cellOfSlot t) q := by
  obtain ⟨y, hdone, hpass⟩ := retireNext_spec (thread_l1Drop_of_ready ht.2 hr.ready (cellOfSlot t) p) rfl
  exact ⟨_, y, exec_cinv hr ht, hdone.thread, hpass, (hdone.l1Find _ _).trans (l1Find_l1Drop w _ p),
    fun q hq => (hdone.l1Find _ _).trans (l1Find_l1Drop_of_ne hq w _)⟩

/-- Settles O11, an instruction at a time. That a prefetch with hint 3 asks with hint 0 is the model's choice (assumption
log 16). -/
theorem accumulateAndHintsGo : Obligations.AccumulateAndHintsGo :=
  ⟨fun _ _ _ _ _ _ _ _ _ _ hr hal hfull ht hmay => sacc_goes hr hal hfull ht hmay,
    fun _ _ _ _ _ _ _ _ hr hl hp hq => pref_goes hr hl hp hq,
    fun _ _ _ _ _ _ _ _ hr ht => cinv_goes hr ht⟩

end Sys2Proof.Machine
end

section
/-! SUPPORT. The words of R129 to R131 and their instructions: every word that decodes, but for BAR and FLAG, is spelled by the
instruction that it decodes to, and the proof of IsaRoundTrip. -/

namespace Sys2Proof.Machine

open Sys2Proof

/-- The lemmas of the family `roundTrip`, for any command. -/
theorem roundTrip_of_instr (i : Instr) : Laws.roundTrip.Statement i := by
  cases i with
  | add t d a b => exact Laws.roundTrip.add t d a b
  | sub t d a b => exact Laws.roundTrip.sub t d a b
  | and t d a b => exact Laws.roundTrip.and t d a b
  | or t d a b => exact Laws.roundTrip.or t d a b
  | xor t d a b => exact Laws.roundTrip.xor t d a b
  | andn t d a b => exact Laws.roundTrip.andn t d a b
  | shl t d a b => exact Laws.roundTrip.shl t d a b
  | shr t d a b => exact Laws.roundTrip.shr t d a b
  | sar t d a b => exact Laws.roundTrip.sar t d a b
  | min t d a b => exact Laws.roundTrip.min t d a b
  | max t d a b => exact Laws.roundTrip.max t d a b
  | minu t d a b => exact Laws.roundTrip.minu t d a b
  | maxu t d a b => exact Laws.roundTrip.maxu t d a b
  | mul t d a b => exact Laws.roundTrip.mul t d a b
  | mulhs t d a b => exact Laws.roundTrip.mulhs t d a b
  | mulhu t d a b => exact Laws.roundTrip.mulhu t d a b
  | divs t d a b => exact Laws.roundTrip.divs t d a b
  | divu t d a b => exact Laws.roundTrip.divu t d a b
  | rmds t d a b => exact Laws.roundTrip.rmds t d a b
  | rmdu t d a b => exact Laws.roundTrip.rmdu t d a b
  | clz t d a => exact Laws.roundTrip.clz t d a
  | ctz t d a => exact Laws.roundTrip.ctz t d a
  | popc t d a => exact Laws.roundTrip.popc t d a
  | sel t d a b => exact Laws.roundTrip.sel t d a b
  | fadd t fmt d a b => exact Laws.roundTrip.fadd t fmt d a b
  | fsub t fmt d a b => exact Laws.roundTrip.fsub t fmt d a b
  | fmul t fmt d a b => exact Laws.roundTrip.fmul t fmt d a b
  | fmac t fmt d a b => exact Laws.roundTrip.fmac t fmt d a b
  | fmin t fmt d a b => exact Laws.roundTrip.fmin t fmt d a b
  | fmax t fmt d a b => exact Laws.roundTrip.fmax t fmt d a b
  | feq t fmt d a b => exact Laws.roundTrip.feq t fmt d a b
  | flt t fmt d a b => exact Laws.roundTrip.flt t fmt d a b
  | fle t fmt d a b => exact Laws.roundTrip.fle t fmt d a b
  | fabs t fmt d a => exact Laws.roundTrip.fabs t fmt d a
  | fneg t fmt d a => exact Laws.roundTrip.fneg t fmt d a
  | frcp t fmt d a => exact Laws.roundTrip.frcp t fmt d a
  | frsq t fmt d a => exact Laws.roundTrip.frsq t fmt d a
  | fexp2 t fmt d a => exact Laws.roundTrip.fexp2 t fmt d a
  | flog2 t fmt d a => exact Laws.roundTrip.flog2 t fmt d a
  | cvt t d a src target sat => exact Laws.roundTrip.cvt t d a src target sat
  | cmp t cond d a b => exact Laws.roundTrip.cmp t cond d a b
  | addk t d a imm => exact Laws.roundTrip.addk t d a imm
  | andk t d a imm => exact Laws.roundTrip.andk t d a imm
  | ork t d a imm => exact Laws.roundTrip.ork t d a imm
  | xork t d a imm => exact Laws.roundTrip.xork t d a imm
  | cmpkLt t d a imm => exact Laws.roundTrip.cmpkLt t d a imm
  | cmpkUlt t d a imm => exact Laws.roundTrip.cmpkUlt t d a imm
  | shlk t d a imm => exact Laws.roundTrip.shlk t d a imm
  | shrk t d a imm => exact Laws.roundTrip.shrk t d a imm
  | sark t d a imm => exact Laws.roundTrip.sark t d a imm
  | seti t d imm => exact Laws.roundTrip.seti t d imm
  | shin t d imm => exact Laws.roundTrip.shin t d imm
  | pca t d imm => exact Laws.roundTrip.pca t d imm
  | ldl t d imm => exact Laws.roundTrip.ldl t d imm
  | cbrEq t a b imm => exact Laws.roundTrip.cbrEq t a b imm
  | cbrNe t a b imm => exact Laws.roundTrip.cbrNe t a b imm
  | cbrLt t a b imm => exact Laws.roundTrip.cbrLt t a b imm
  | cbrGe t a b imm => exact Laws.roundTrip.cbrGe t a b imm
  | cbrUlt t a b imm => exact Laws.roundTrip.cbrUlt t a b imm
  | cbrUge t a b imm => exact Laws.roundTrip.cbrUge t a b imm
  | jmp t imm => exact Laws.roundTrip.jmp t imm
  | call t imm => exact Laws.roundTrip.call t imm
  | jmpr t a imm => exact Laws.roundTrip.jmpr t a imm
  | callr t a imm => exact Laws.roundTrip.callr t a imm
  | ldu8 t d a hint imm => exact Laws.roundTrip.ldu8 t d a hint imm
  | lds8 t d a hint imm => exact Laws.roundTrip.lds8 t d a hint imm
  | ldu16 t d a hint imm => exact Laws.roundTrip.ldu16 t d a hint imm
  | lds16 t d a hint imm => exact Laws.roundTrip.lds16 t d a hint imm
  | ldu32 t d a hint imm => exact Laws.roundTrip.ldu32 t d a hint imm
  | lds32 t d a hint imm => exact Laws.roundTrip.lds32 t d a hint imm
  | ld64 t d a hint imm => exact Laws.roundTrip.ld64 t d a hint imm
  | st8 t v a hint imm => exact Laws.roundTrip.st8 t v a hint imm
  | st16 t v a hint imm => exact Laws.roundTrip.st16 t v a hint imm
  | st32 t v a hint imm => exact Laws.roundTrip.st32 t v a hint imm
  | st64 t v a hint imm => exact Laws.roundTrip.st64 t v a hint imm
  | sacc t op d a b => exact Laws.roundTrip.sacc t op d a b
  | pref t d a hint imm => exact Laws.roundTrip.pref t d a hint imm
  | cinv t a imm => exact Laws.roundTrip.cinv t a imm
  | fenceRelease t => exact Laws.roundTrip.fenceRelease t
  | fenceAcquire t => exact Laws.roundTrip.fenceAcquire t
  | fenceFull t => exact Laws.roundTrip.fenceFull t
  | barrierInit t scope d a ctr => exact Laws.roundTrip.barrierInit t scope d a ctr
  | barrierArrive t scope d ctr => exact Laws.roundTrip.barrierArrive t scope d ctr
  | barrierWait t scope a ctr => exact Laws.roundTrip.barrierWait t scope a ctr
  | barrierQuery t scope d ctr => exact Laws.roundTrip.barrierQuery t scope d ctr
  | flagSet t d a b rel => exact Laws.roundTrip.flagSet t d a b rel
  | flagAdd t d a b rel => exact Laws.roundTrip.flagAdd t d a b rel
  | flagWait t d a b cond => exact Laws.roundTrip.flagWait t d a b cond
  | opcall t d a q => exact Laws.roundTrip.opcall t d a q
  | spawn t d a desc => exact Laws.roundTrip.spawn t d a desc
  | nop t => exact Laws.roundTrip.nop t
  | exit t => exact Laws.roundTrip.exit t
  | brk t => exact Laws.roundTrip.brk t
  | rds t d b => exact Laws.roundTrip.rds t d b
  | _ => exact Laws.roundTrip_of_none rfl

/-! ### A word from its fields (R129) -/

section
variable {w : BitVec 32} {op : Nat} (h : w.toNat / 2 ^ 26 = op)
include h

theorem wordR_of_fields :
    wordR op (w.toNat / 2 ^ 20 % 64) (w.toNat / 2 ^ 14 % 64) (w.toNat / 2 ^ 8 % 64) (w.toNat % 256) = w := by
  apply BitVec.eq_of_toNat_eq
  rw [wordR, BitVec.toNat_ofNat]
  omega

theorem wordK_of_fields : wordK op (w.toNat / 2 ^ 20 % 64) (w.toNat / 2 ^ 14 % 64) (w.toNat % 2 ^ 14) = w := by
  apply BitVec.eq_of_toNat_eq
  rw [wordK, BitVec.toNat_ofNat]
  omega

theorem wordL_of_fields : wordL op (w.toNat / 2 ^ 20 % 64) (w.toNat % 2 ^ 20) = w := by
  apply BitVec.eq_of_toNat_eq
  rw [wordL, BitVec.toNat_ofNat]
  omega

theorem wordJ_of_fields : wordJ op (w.toNat % 2 ^ 26) = w := by
  apply BitVec.eq_of_toNat_eq
  rw [wordJ, BitVec.toNat_ofNat]
  omega

theorem wordM_of_fields :
    wordM op (w.toNat / 2 ^ 20 % 64) (w.toNat / 2 ^ 14 % 64) (w.toNat / 2 ^ 12 % 4) (w.toNat % 2 ^ 12) = w := by
  rw [wordM, show w.toNat / 2 ^ 12 % 4 % 4 * 2 ^ 12 + w.toNat % 2 ^ 12 % 2 ^ 12 = w.toNat % 2 ^ 14 by omega]
  exact wordK_of_fields h

end

/-! ### What decodes is spelled so -/

/-- An instruction that a word decodes to is spelled by it and belongs to the thread. -/
def Decodes (t : Nat) (w : BitVec 32) (o : Option Instr) : Prop := ∀ i, o = some i → isaWord i = some w ∧ slotOf i = t

theorem decodes_none (t : Nat) (w : BitVec 32) : Decodes t w none := by simp [Decodes]

theorem decodes_some {t : Nat} {w : BitVec 32} {i : Instr} :
    Decodes t w (some i) ↔ isaWord i = some w ∧ slotOf i = t := by simp [Decodes]

theorem decodes_guard {t : Nat} {w : BitVec 32} {c : Prop} [Decidable c] {o : Option Instr} :
    Decodes t w (if c then o else none) ↔ (c → Decodes t w o) := by
  by_cases h : c <;> simp [h, decodes_none]

theorem decodes_unless {t : Nat} {w : BitVec 32} {c : Prop} [Decidable c] {o : Option Instr} :
    Decodes t w (if c then none else o) ↔ (¬ c → Decodes t w o) := by
  by_cases h : c <;> simp [h, decodes_none]

theorem Decodes.of_eq {t : Nat} {v w : BitVec 32} {o : Option Instr} (h : Decodes t v o) (e : v = w) : Decodes t w o :=
  e ▸ h

theorem decodes_decodeInt (t d a b fn : Nat) : Decodes t (wordR 0x00 d a b fn) (decodeInt t d a b fn) := by
  unfold decodeInt
  split <;> simp +contextual only [decodes_none, decodes_some, decodes_guard] <;> simp [isaWord, slotOf]

theorem decodes_decodeFp (t fmt d a b fn : Nat) :
    Decodes t (wordR 0x01 d a b (fmt * 64 + fn)) (decodeFp t fmt d a b fn) := by
  unfold decodeFp
  split <;> simp +contextual only [decodes_none, decodes_some, decodes_guard] <;> simp [isaWord, slotOf]

theorem decodes_decodeSys (t d a b fn : Nat) : Decodes t (wordR 0x38 d a b fn) (decodeSys t d a b fn) := by
  unfold decodeSys
  split <;> simp +contextual only [decodes_none, decodes_some, decodes_guard] <;> simp [isaWord, slotOf]

theorem decodes_decodeFence (t d a b fn : Nat) : Decodes t (wordR 0x30 d a b fn) (decodeFence t d a b fn) := by
  unfold decodeFence
  split_ifs <;> simp_all [decodes_none, decodes_some, isaWord, slotOf]

theorem decodes_shiftImm {t op d a v : Nat} {f : BitVec 6 → Instr}
    (hw : ∀ k, isaWord (f k) = some (wordK op d a k.toNat)) (ht : ∀ k, slotOf (f k) = t) :
    Decodes t (wordK op d a v) (shiftImm v f) := by
  refine decodes_guard.2 (fun hv => decodes_some.2 ⟨?_, ht _⟩)
  rw [hw, BitVec.toNat_ofNat, Nat.mod_eq_of_lt (by omega)]

theorem decodes_isaDecode {t : Nat} {r : ReadData} {w : BitVec 32} (hbar : w.toNat / 2 ^ 26 ≠ 0x31)
    (hflag : w.toNat / 2 ^ 26 ≠ 0x32) : Decodes t w (isaDecode t r w) := by
  unfold isaDecode decodeMajor
  split
  case h_1 op => exact (decodes_decodeInt _ _ _ _ _).of_eq (wordR_of_fields op)
  case h_2 op =>
    have hfn : w.toNat % 256 / 64 * 64 + w.toNat % 256 % 64 = w.toNat % 256 := Nat.div_add_mod' _ _
    exact decodes_unless.2 (fun _ => (decodes_decodeFp _ _ _ _ _ _).of_eq (hfn.symm ▸ wordR_of_fields op))
  case h_3 op =>
    refine decodes_guard.2 (fun h => decodes_some.2 ⟨congrArg some (Eq.trans ?_ (wordR_of_fields op)), rfl⟩)
    congr 1
    simp only [b2n, decide_eq_true_eq]
    split <;> omega
  case h_4 op => exact decodes_guard.2 (fun _ => decodes_some.2 ⟨congrArg some (wordR_of_fields op), rfl⟩)
  case h_5 op | h_6 op | h_7 op | h_8 op | h_9 op | h_10 op | h_17 op | h_18 op | h_19 op | h_20 op | h_21 op | h_22 op =>
    exact decodes_some.2 ⟨congrArg some (wordK_of_fields op), rfl⟩
  case h_11 op | h_12 op | h_13 op =>
    exact Decodes.of_eq (decodes_shiftImm (fun _ => rfl) (fun _ => rfl)) (wordK_of_fields op)
  case h_14 op | h_15 op | h_16 op | h_27 op => exact decodes_some.2 ⟨congrArg some (wordL_of_fields op), rfl⟩
  case h_23 op | h_24 op => exact decodes_some.2 ⟨congrArg some (wordJ_of_fields op), rfl⟩
  case h_25 op | h_26 op =>
    exact decodes_guard.2 (fun hd => decodes_some.2 ⟨congrArg some (hd ▸ wordK_of_fields op :), rfl⟩)
  case h_28 op | h_29 op | h_30 op | h_31 op | h_32 op | h_33 op | h_34 op =>
    exact decodes_some.2 ⟨congrArg some (wordM_of_fields op), rfl⟩
  case h_35 op | h_36 op | h_37 op | h_38 op =>
    exact decodes_unless.2 (fun _ => decodes_some.2 ⟨congrArg some (wordM_of_fields op), rfl⟩)
  case h_39 op => exact decodes_guard.2 (fun _ => decodes_some.2 ⟨congrArg some (wordR_of_fields op), rfl⟩)
  case h_40 op => exact decodes_guard.2 (fun _ => decodes_some.2 ⟨congrArg some (wordM_of_fields op), rfl⟩)
  case h_41 op =>
    refine decodes_guard.2 (fun h => decodes_some.2 ⟨congrArg some ?_, rfl⟩)
    have hw := wordM_of_fields op
    rw [h.1, h.2] at hw
    exact hw
  case h_42 op => exact (decodes_decodeFence _ _ _ _ _).of_eq (wordR_of_fields op)
  case h_43 op => exact absurd op hbar
  case h_44 op => exact absurd op hflag
  case h_45 op =>
    refine decodes_guard.2 (fun h => decodes_some.2 ⟨congrArg some ?_, rfl⟩)
    have hw := wordR_of_fields op
    rw [h.2.1] at hw
    rw [Nat.mod_eq_of_lt h.2.2]
    exact hw
  case h_46 op =>
    refine decodes_guard.2 (fun h => decodes_some.2 ⟨congrArg some ?_, rfl⟩)
    have hw := wordR_of_fields op
    rw [h.1, h.2] at hw
    exact hw
  case h_47 op => exact (decodes_decodeSys _ _ _ _ _).of_eq (wordR_of_fields op)
  case h_48 => exact decodes_none _ _

/-- Settles O2, an instruction at a time: the words of instructions by the lemmas of their family, the words that decode by
their major opcode. -/
theorem isaRoundTrip : Obligations.IsaRoundTrip :=
  ⟨fun i w hw => roundTrip_of_instr i hw w, fun _ _ _ i h hbar hflag => decodes_isaDecode hbar hflag i h⟩

end Sys2Proof.Machine
end

section
/-! SUPPORT. Words as numbers: the value of each integer operation as R131 gives it, on the operands read as numbers, and the
proofs of IntegerOpsCompute and ImmediatesCompute. -/

namespace Sys2Proof.Machine

open Sys2Proof

/-! ### Arithmetic on words (R131) -/

section
variable (a b : Word)

theorem ofNat_add_toNat : BitVec.ofNat 64 (a.toNat + b.toNat) = a + b := by simp [BitVec.ofNat_add]

theorem ofInt_sub_toNat : BitVec.ofInt 64 ((a.toNat : Int) - b.toNat) = a - b := by
  simp [sub_eq_add_neg, BitVec.ofInt_add, BitVec.ofInt_neg]

theorem ofNat_and_toNat : BitVec.ofNat 64 (a.toNat &&& b.toNat) = a &&& b := by
  rw [← BitVec.toNat_and, BitVec.ofNat_toNat, BitVec.setWidth_eq]

theorem ofNat_or_toNat : BitVec.ofNat 64 (a.toNat ||| b.toNat) = a ||| b := by
  rw [← BitVec.toNat_or, BitVec.ofNat_toNat, BitVec.setWidth_eq]

theorem ofNat_xor_toNat : BitVec.ofNat 64 (a.toNat ^^^ b.toNat) = a ^^^ b := by
  rw [← BitVec.toNat_xor, BitVec.ofNat_toNat, BitVec.setWidth_eq]

theorem ofNat_andn_toNat : BitVec.ofNat 64 (a.toNat &&& (2 ^ 64 - 1 - b.toNat)) = a &&& ~~~b := by
  rw [← BitVec.toNat_not, ofNat_and_toNat]

theorem ofNat_shl_toNat (k : Nat) : BitVec.ofNat 64 (a.toNat * 2 ^ k) = a <<< k := by
  rw [← Nat.shiftLeft_eq, ← BitVec.shiftLeft_eq]; rfl

theorem ofNat_shr_toNat (k : Nat) : BitVec.ofNat 64 (a.toNat / 2 ^ k) = a >>> k := by
  rw [← Nat.shiftRight_eq_div_pow, ← BitVec.toNat_ushiftRight, BitVec.ofNat_toNat, BitVec.setWidth_eq]

theorem ofInt_sar_toInt (k : Nat) : BitVec.ofInt 64 (a.toInt / 2 ^ k) = a.sshiftRight k := by
  rw [BitVec.sshiftRight, Int.shiftRight_eq_div_pow]; norm_cast

theorem ofInt_min_toInt : BitVec.ofInt 64 (min a.toInt b.toInt) = if a.slt b then a else b := by
  by_cases h : a.toInt < b.toInt
  · simp [BitVec.slt, h, min_eq_left h.le]
  · simp [BitVec.slt, h, min_eq_right (not_lt.1 h)]

theorem ofInt_max_toInt : BitVec.ofInt 64 (max a.toInt b.toInt) = if a.slt b then b else a := by
  by_cases h : a.toInt < b.toInt
  · simp [BitVec.slt, h, max_eq_right h.le]
  · simp [BitVec.slt, h, max_eq_left (not_lt.1 h)]

theorem ofNat_min_toNat : BitVec.ofNat 64 (min a.toNat b.toNat) = if a.ult b then a else b := by
  by_cases h : a.toNat < b.toNat
  · simp [BitVec.ult, h, min_eq_left h.le]
  · simp [BitVec.ult, h, min_eq_right (not_lt.1 h)]

theorem ofNat_max_toNat : BitVec.ofNat 64 (max a.toNat b.toNat) = if a.ult b then b else a := by
  by_cases h : a.toNat < b.toNat
  · simp [BitVec.ult, h, max_eq_right h.le]
  · simp [BitVec.ult, h, max_eq_left (not_lt.1 h)]

theorem ofNat_mul_toNat : BitVec.ofNat 64 (a.toNat * b.toNat) = a * b := by simp [BitVec.ofNat_mul]

theorem eq_zero_iff_toNat : a = 0 ↔ a.toNat = 0 := by simp [BitVec.toNat_eq]

theorem quotU_eq : quotU a b = BitVec.ofNat 64 (a.toNat / b.toNat) := by
  unfold quotU
  split
  · simp [*]
  · rfl

theorem remU_eq : remU a b = BitVec.ofNat 64 (a.toNat % b.toNat) := by
  unfold remU
  split
  · simp [*]
  · rfl

/-- Rounding towards zero divides magnitudes. -/
theorem tdiv_eq_sign_mul (m n : Int) : m.tdiv n = m.sign * n.sign * (m.natAbs / n.natAbs : Nat) := by
  rw [← Int.sign_mul_natAbs (m.tdiv n), Int.natAbs_tdiv, Int.sign_tdiv]
  split
  · rw [Nat.div_eq_of_lt ‹_›]; simp
  · rfl

theorem tmod_eq_sign_mul (m n : Int) : m.tmod n = m.sign * (m.natAbs % n.natAbs : Nat) := by
  rw [← Int.sign_mul_natAbs (m.tmod n), Int.natAbs_tmod, Int.sign_tmod]
  split
  · rw [Nat.mod_eq_zero_of_dvd (Int.natAbs_dvd_natAbs.2 ‹_›)]; simp
  · rfl

theorem quotS_eq : quotS a b = BitVec.ofInt 64 (a.toInt.sign * b.toInt.sign * (a.toInt.natAbs / b.toInt.natAbs : Nat)) := by
  rw [quotS, ← tdiv_eq_sign_mul]
  split
  · simp [*]
  · rfl

theorem remS_eq : remS a b = BitVec.ofInt 64 (a.toInt.sign * (a.toInt.natAbs % b.toInt.natAbs : Nat)) := by
  rw [remS, ← tmod_eq_sign_mul]
  split
  · simp [*]
  · rfl

theorem clz64_eq : clz64 a = 64 - a.toNat.size := by
  unfold clz64
  split
  · simp [*]
  · rename_i h
    have h0 : a.toNat ≠ 0 := mt (eq_zero_iff_toNat a).2 h
    have hsize : a.toNat.size = a.toNat.log2 + 1 :=
      le_antisymm (Nat.size_le.2 Nat.lt_log2_self) (Nat.lt_size.2 (Nat.log2_self_le h0))
    omega

theorem popc_eq (n w : Nat) : popc n w = (List.range w).countP (fun k => n.testBit k) := by
  rw [popc, List.countP_eq_length_filter]
  congr 1
  congr 1
  funext k
  simp [nbit, Nat.testBit_eq_decide_div_mod_eq]

theorem ctz64_spec : ctz64 a ≤ 64 ∧ (a.toNat = 0 → ctz64 a = 64) ∧
    (a.toNat ≠ 0 → 2 ^ ctz64 a ∣ a.toNat ∧ ¬ 2 ^ (ctz64 a + 1) ∣ a.toNat) := by
  have hdvd : ∀ n, (∀ k < n, a.getLsbD k = false) → 2 ^ n ∣ a.toNat := fun n hn => by
    refine Nat.dvd_of_mod_eq_zero (Nat.eq_of_testBit_eq (fun k => ?_))
    rw [Nat.testBit_mod_two_pow, Nat.zero_testBit]
    by_cases hk : k < n
    · simp [hk, BitVec.testBit_toNat, hn k hk]
    · simp [hk]
  unfold ctz64
  cases h : (List.range 64).find? (fun i => a.getLsbD i) with
  | none =>
    have hz : a.toNat = 0 := Nat.eq_zero_of_dvd_of_lt (hdvd 64 (by simpa using h)) a.isLt
    simp [hz]
  | some n =>
    obtain ⟨hbit, hn, hlow⟩ := List.find?_range_eq_some.1 h
    rw [← BitVec.testBit_toNat] at hbit
    refine ⟨(List.mem_range.1 hn).le, fun hz => ?_, fun _ => ⟨hdvd n (by simpa using hlow), ?_⟩⟩
    · simp [hz] at hbit
    · rintro ⟨c, hc⟩
      simp [hc, Nat.testBit_two_pow_mul] at hbit
end

/-! ### Instructions that compute a register -/

/-- The destination of a well-formed instruction of format L is a register. -/
theorem reg_lt_of_wfL {p : Bool} {d : Nat} (h : (p && regOk d) = true) : d < 64 :=
  of_decide_eq_true (Bool.and_eq_true_iff.1 h).2

theorem reg_lt_of_wfK {p q : Bool} {d : Nat} (h : (p && regOk d && q) = true) : d < 64 :=
  reg_lt_of_wfL (Bool.and_eq_true_iff.1 h).1

theorem reg_lt_of_wfR {p q r : Bool} {d : Nat} (h : (p && regOk d && q && r) = true) : d < 64 :=
  reg_lt_of_wfK (Bool.and_eq_true_iff.1 h).1

/-- An instruction of `alu` computes the value of its function. -/
theorem computes_of_alu {i : Instr} {s u : State} {x : Thread} (hr : Runs i s u x) {d : Nat} (hd : d < 64)
    {f : Thread → Word} (he : exec i s = .next (alu i d f s)) (hi : (isaWord i).isSome = true) {v : Word} (hv : v = f x) :
    Computes i s u x d v (issueSlots i) := by
  obtain ⟨y, hdone, hreg, hpass⟩ := alu_spec hr (roundTrip_of_instr i) hi d hd f
  exact ⟨_, y, he, hdone, hv ▸ hreg, hpass⟩

/-- Settles O3, an instruction at a time: each value is the word that the instruction computes. -/
theorem integerOpsCompute : Obligations.IntegerOpsCompute := by
  refine ⟨fun s u x t d a b => ⟨?_, ?_, ?_, ?_, ?_, ?_, ?_, ?_, ?_, ?_, ?_, ?_, ?_⟩,
    fun s u x t d a b => ⟨?_, ?_, ?_, ?_, ?_, ?_, ?_, ?_, ?_, ?_, ?_⟩⟩ <;> intro hr
  · exact computes_of_alu hr (reg_lt_of_wfR hr.1) rfl rfl (ofNat_add_toNat _ _)
  · exact computes_of_alu hr (reg_lt_of_wfR hr.1) rfl rfl (ofInt_sub_toNat _ _)
  · exact computes_of_alu hr (reg_lt_of_wfR hr.1) rfl rfl (ofNat_and_toNat _ _)
  · exact computes_of_alu hr (reg_lt_of_wfR hr.1) rfl rfl (ofNat_or_toNat _ _)
  · exact computes_of_alu hr (reg_lt_of_wfR hr.1) rfl rfl (ofNat_xor_toNat _ _)
  · exact computes_of_alu hr (reg_lt_of_wfR hr.1) rfl rfl (ofNat_andn_toNat _ _)
  · exact computes_of_alu hr (reg_lt_of_wfR hr.1) rfl rfl (ofNat_shl_toNat _ _)
  · exact computes_of_alu hr (reg_lt_of_wfR hr.1) rfl rfl (ofNat_shr_toNat _ _)
  · exact computes_of_alu hr (reg_lt_of_wfR hr.1) rfl rfl (ofInt_sar_toInt _ _)
  · exact computes_of_alu hr (reg_lt_of_wfR hr.1) rfl rfl (ofInt_min_toInt _ _)
  · exact computes_of_alu hr (reg_lt_of_wfR hr.1) rfl rfl (ofInt_max_toInt _ _)
  · exact computes_of_alu hr (reg_lt_of_wfR hr.1) rfl rfl (ofNat_min_toNat _ _)
  · exact computes_of_alu hr (reg_lt_of_wfR hr.1) rfl rfl (ofNat_max_toNat _ _)
  · exact computes_of_alu hr (reg_lt_of_wfR hr.1) rfl rfl (ofNat_mul_toNat _ _)
  · exact computes_of_alu hr (reg_lt_of_wfR hr.1) rfl rfl rfl
  · exact computes_of_alu hr (reg_lt_of_wfR hr.1) rfl rfl rfl
  · exact computes_of_alu hr (reg_lt_of_wfR hr.1) rfl rfl (quotS_eq _ _).symm
  · exact computes_of_alu hr (reg_lt_of_wfR hr.1) rfl rfl (quotU_eq _ _).symm
  · exact computes_of_alu hr (reg_lt_of_wfR hr.1) rfl rfl (remS_eq _ _).symm
  · exact computes_of_alu hr (reg_lt_of_wfR hr.1) rfl rfl (remU_eq _ _).symm
  · exact computes_of_alu hr (reg_lt_of_wfK hr.1) rfl rfl (congrArg _ (clz64_eq _).symm)
  · obtain ⟨hle, hzero, hdvd⟩ := ctz64_spec (x.reg a)
    exact ⟨_, hle, hzero, hdvd, computes_of_alu hr (reg_lt_of_wfK hr.1) rfl rfl rfl⟩
  · exact computes_of_alu hr (reg_lt_of_wfK hr.1) rfl rfl (congrArg _ (popc_eq _ _).symm)
  · exact computes_of_alu hr (reg_lt_of_wfR hr.1) rfl rfl (ite_not _ _ _).symm

/-! ### Conditions and immediates -/

section
variable (a b : Word)

theorem maskOf_decide (p : Prop) [Decidable p] : maskOf (decide p) = if decide p then BitVec.ofInt 64 (-1) else 0 := by
  unfold maskOf; split <;> rfl

theorem condHolds_eq : condHolds 0 a b = decide (a.toNat = b.toNat) := by
  simp [condHolds, BitVec.toNat_eq, beq_eq_decide]

theorem condHolds_ne : condHolds 1 a b = decide (a.toNat ≠ b.toNat) := by
  simp [condHolds, BitVec.toNat_eq, bne, beq_eq_decide]

theorem condHolds_lt : condHolds 2 a b = decide (a.toInt < b.toInt) := by
  simp [condHolds, BitVec.slt]

theorem condHolds_ge : condHolds 3 a b = decide (b.toInt ≤ a.toInt) := by
  simp only [condHolds, BitVec.slt, ← decide_not, not_lt]
  rfl

theorem condHolds_ult : condHolds 4 a b = decide (a.toNat < b.toNat) := by
  simp [condHolds, BitVec.ult]

theorem condHolds_uge : condHolds 5 a b = decide (b.toNat ≤ a.toNat) := by
  simp only [condHolds, BitVec.ult, ← decide_not, not_lt]
  rfl

theorem ofNat_shin (m : BitVec 20) : BitVec.ofNat 64 (a.toNat * 2 ^ 20 + m.toNat) = a <<< 20 ||| m.zeroExtend 64 := by
  rw [BitVec.ofNat_add, ofNat_shl_toNat]
  rw [BitVec.ofNat_toNat]
  refine BitVec.add_eq_or_of_and_eq_zero _ _ (BitVec.eq_of_getLsbD_eq (fun i hi => ?_))
  by_cases h : i < 20
  · simp [h]
  · simp [BitVec.getLsbD_of_ge m i (not_lt.1 h)]

theorem ofInt_relative (pc : Nat) {n : Nat} (k : BitVec n) :
    BitVec.ofInt 64 (pc + 4 * k.toInt) = BitVec.ofNat 64 pc + k.signExtend 64 * 4 := by
  rw [BitVec.ofInt_add, mul_comm, BitVec.ofInt_mul, BitVec.signExtend]
  rfl

end

/-- Settles O4, an instruction at a time: each value is the word that the instruction computes. -/
theorem immediatesCompute : Obligations.ImmediatesCompute := by
  intro s u x t d a b k h m
  refine ⟨?_, ?_, ?_, ?_, ?_, ?_, ?_, ?_, ?_, ?_, ?_, ?_, ?_, ?_, ?_, ?_, ?_, ?_⟩ <;> intro hr
  · exact computes_of_alu hr (reg_lt_of_wfR hr.1) rfl rfl (by rw [condHolds_eq, maskOf_decide])
  · exact computes_of_alu hr (reg_lt_of_wfR hr.1) rfl rfl (by rw [condHolds_ne, maskOf_decide])
  · exact computes_of_alu hr (reg_lt_of_wfR hr.1) rfl rfl (by rw [condHolds_lt, maskOf_decide])
  · exact computes_of_alu hr (reg_lt_of_wfR hr.1) rfl rfl (by rw [condHolds_ge, maskOf_decide])
  · exact computes_of_alu hr (reg_lt_of_wfR hr.1) rfl rfl (by rw [condHolds_ult, maskOf_decide])
  · exact computes_of_alu hr (reg_lt_of_wfR hr.1) rfl rfl (by rw [condHolds_uge, maskOf_decide])
  · exact computes_of_alu hr (reg_lt_of_wfK hr.1) rfl rfl (by rw [BitVec.ofInt_add, BitVec.ofInt_toInt, BitVec.signExtend])
  · exact computes_of_alu hr (reg_lt_of_wfK hr.1) rfl rfl rfl
  · exact computes_of_alu hr (reg_lt_of_wfK hr.1) rfl rfl rfl
  · exact computes_of_alu hr (reg_lt_of_wfK hr.1) rfl rfl rfl
  · exact computes_of_alu hr (reg_lt_of_wfK hr.1) rfl rfl 
      (by rw [BitVec.slt, maskOf_decide, BitVec.toInt_signExtend_of_le (by decide)])
  · exact computes_of_alu hr (reg_lt_of_wfK hr.1) rfl rfl (by rw [BitVec.ult, maskOf_decide]; rfl)
  · exact computes_of_alu hr (reg_lt_of_wfK hr.1) rfl rfl (ofNat_shl_toNat _ _)
  · exact computes_of_alu hr (reg_lt_of_wfK hr.1) rfl rfl (ofNat_shr_toNat _ _)
  · exact computes_of_alu hr (reg_lt_of_wfK hr.1) rfl rfl (ofInt_sar_toInt _ _)
  · exact computes_of_alu hr (reg_lt_of_wfL hr.1) rfl rfl rfl
  · exact computes_of_alu hr (reg_lt_of_wfL hr.1) rfl rfl (ofNat_shin _ _)
  · exact computes_of_alu hr (reg_lt_of_wfL hr.1) rfl rfl (ofInt_relative _ _)

end Sys2Proof.Machine
end

section
/-! SUPPORT. Targets of branches and jumps (R131), and the proof of BranchesGo. -/

namespace Sys2Proof.Machine

open Sys2Proof

/-- The target of a branch, modulo 2^64 (R131). -/
theorem toNat_relative (pc : Nat) {n : Nat} (k : BitVec n) :
    (BitVec.ofNat 64 pc + k.signExtend 64 * 4).toNat = ((pc + 4 * k.toInt) % 2 ^ 64).toNat := by
  rw [← ofInt_relative, BitVec.toNat_ofInt]
  norm_num

/-- The target of a jump to a register address, modulo 2^64 (R131). -/
theorem toNat_indexed (a : Word) {n : Nat} (k : BitVec n) :
    (a + k.signExtend 64).toNat = ((a.toInt + k.toInt) % 2 ^ 64).toNat := by
  rw [show a + k.signExtend 64 = BitVec.ofInt 64 (a.toInt + k.toInt) by
    rw [BitVec.ofInt_add, BitVec.ofInt_toInt, BitVec.signExtend], BitVec.toNat_ofInt]
  norm_num

theorem toNat_emod_lt (n : Int) : (n % 2 ^ 64).toNat < 2 ^ 64 := by omega

section
variable {i : Instr} {s u : State} {x : Thread} (hr : Runs i s u x)
include hr

/-- A branch goes to its target when its condition holds. -/
theorem goesTo_of_branch {c : Thread → Bool} {g : Thread → Word} (he : exec i s = .next (branch i c g s))
    (hi : (isaWord i).isSome = true) (hn : issueSlots i = 1) {p : Prop} [Decidable p] (hc : c x = decide p) {dest : Nat}
    (hg : (g x).toNat = dest) : GoesTo i s u x (if p then dest else (x.pc + 4) % 2 ^ 64) := by
  obtain ⟨y, hdone, hpass⟩ := branch_spec hr (roundTrip_of_instr i) hi hn c g
  refine ⟨_, y, he, hdone, ?_⟩
  simpa only [hc, hg, decide_eq_true_eq] using hpass

/-- A retired instruction that only goes to an address. -/
theorem goesTo_of_goto {pc : Nat} (hpc : pc < 2 ^ 64) (he : exec i s = .next (retire i u (fun y => y.goto pc)))
    (hn : issueSlots i = 1) : GoesTo i s u x pc :=
  ⟨_, _, he, retire_spec i u _ hr.thread _, by rw [hn, Passed, Thread.goto, Nat.mod_eq_of_lt hpc]; rfl⟩

/-- A retired instruction that only passes. -/
theorem goesTo_of_next (he : exec i s = .next (retire i u Thread.next)) (hn : issueSlots i = 1) :
    GoesTo i s u x ((x.pc + 4) % 2 ^ 64) := by
  obtain ⟨y, hdone, hpass⟩ := retireNext_spec hr.thread hn
  exact ⟨_, y, he, hdone, hpass⟩

/-- A call writes g62 with the return address and goes to its target. -/
theorem calls_of_retire {target : Nat} (ht : target < 2 ^ 64)
    (he : exec i s = .next (retire i u (fun y => (y.setReg 62 (x.pcw + 4)).goto target))) (hn : issueSlots i = 1) :
    ∃ v y, exec i s = .next v ∧ Finished i u v y ∧ HasWritten x y 62 (BitVec.ofNat 64 (x.pc + 4)) ∧
      Passed i 1 x y target y.regs := by
  refine ⟨_, _, he, retire_spec i u _ hr.thread _, fun r h => ?_, ?_⟩
  · show (({ x.issued i with issue := _ } : Thread).setReg 62 _).reg r = _
    rw [Thread.reg_setReg _ _ _ _ (by decide) h, BitVec.ofNat_add]
    rfl
  · rw [Thread.setReg_eq, hn, Passed, Thread.goto, Nat.mod_eq_of_lt ht]
    rfl

end

/-- A jump to a register address that is aligned. -/
theorem jumpReg_aligned {i : Instr} {s u : State} {x : Thread} (hr : Runs i s u x) (hi : (isaWord i).isSome = true)
    {a : Nat} {k : BitVec 14} (h : ((x.reg a).toInt + k.toInt) % 4 = 0) (link : Bool) :
    jumpReg i a k link s = retire i u (fun y => (if link then y.setReg 62 (x.pcw + 4) else y).goto
      (((x.reg a).toInt + k.toInt) % 2 ^ 64).toNat) := by
  have hal : ¬ (((x.reg a).toInt + k.toInt) % 2 ^ 64).toNat % 4 ≠ 0 := by omega
  rw [jumpReg, issue_runs hr (roundTrip_of_instr i) hi]
  dsimp only
  rw [toNat_indexed, if_neg hal]

/-- Settles O5, an instruction at a time. -/
theorem branchesGo : Obligations.BranchesGo := by
  intro s u x t a b k j
  refine ⟨?_, ?_, ?_, ?_, ?_, ?_, ?_, ?_, ?_, ?_, ?_⟩ <;> intro hr
  · exact goesTo_of_branch hr rfl rfl rfl (condHolds_eq _ _) (toNat_relative _ _)
  · exact goesTo_of_branch hr rfl rfl rfl (condHolds_ne _ _) (toNat_relative _ _)
  · exact goesTo_of_branch hr rfl rfl rfl (condHolds_lt _ _) (toNat_relative _ _)
  · exact goesTo_of_branch hr rfl rfl rfl (condHolds_ge _ _) (toNat_relative _ _)
  · exact goesTo_of_branch hr rfl rfl rfl (condHolds_ult _ _) (toNat_relative _ _)
  · exact goesTo_of_branch hr rfl rfl rfl (condHolds_uge _ _) (toNat_relative _ _)
  · simpa only [if_pos] using goesTo_of_branch (p := True) hr rfl rfl rfl rfl (toNat_relative _ _)
  · exact goesTo_of_next hr (congrArg _ (issue_runs hr (roundTrip_of_instr _) rfl _)) rfl
  · intro hal
    exact goesTo_of_goto hr (toNat_emod_lt _) (congrArg _ (jumpReg_aligned hr rfl hal false)) rfl
  · refine calls_of_retire hr (toNat_emod_lt _) ?_ rfl
    exact congrArg _ ((issue_runs hr (roundTrip_of_instr _) rfl _).trans (by rw [Thread.pcw, toNat_relative]))
  · intro hal
    exact calls_of_retire hr (toNat_emod_lt _) (congrArg _ (jumpReg_aligned hr rfl hal true)) rfl

end Sys2Proof.Machine
end

section
/-! SUPPORT. Loads (R131, R132, R134, R135): the value of a load as a number, a hit, a miss, the reply that ends a wait, and the
proof of LoadsComplete. -/

namespace Sys2Proof.Machine

open Sys2Proof

/-! ### Bytes of a line (R12) -/

theorem toNat_byteAt {w : Nat} (v : BitVec w) (k : Nat) : (byteAt v k).toNat = v.toNat / 2 ^ (8 * k) % 256 := by
  simp [byteAt, Nat.shiftRight_eq_div_pow]

/-- Bytes of a bit vector, read as a number. -/
theorem leNat_byteAt {w : Nat} (v : BitVec w) (off n : Nat) :
    leNat ((List.range n).map (fun k => byteAt v (off + k))) = v.toNat / 2 ^ (8 * off) % 2 ^ (8 * n) := by
  induction n generalizing off with
  | zero => simp [leNat, Nat.mod_one]
  | succ n ih =>
    have hsplit : (List.range (n + 1)).map (fun k => byteAt v (off + k)) =
        byteAt v off :: (List.range n).map (fun k => byteAt v (off + 1 + k)) := by
      simp [List.range_succ_eq_map, Nat.add_assoc, Nat.add_comm 1]
    have hoff : 8 * (off + 1) = 8 * off + 8 := by omega
    have hlen : 8 * (n + 1) = 8 + 8 * n := by omega
    rw [hsplit, leNat, ih, toNat_byteAt, hoff, hlen, Nat.pow_add, Nat.pow_add, Nat.mod_mul, Nat.div_div_eq_div_mul]

theorem leNat_toBytes {w : Nat} (v : BitVec w) (n : Nat) : leNat (toBytes v n) = v.toNat % 2 ^ (8 * n) := by
  simpa [toBytes] using leNat_byteAt v 0 n

theorem getD_toBytes (d : Line) (k : Nat) : (toBytes d 128).getD k 0 = byteAt d k := by
  by_cases h : k < 128
  · simp [toBytes, h]
  · refine BitVec.eq_of_toNat_eq ?_
    have hbig : d.toNat < 2 ^ (8 * k) := BitVec.toNat_lt_twoPow_of_le (by omega)
    simp [toBytes, h, toNat_byteAt, Nat.div_eq_of_lt hbig]

/-- Bytes of a line from an offset, read as a number. -/
theorem leNat_sliceB (d : Line) (off n : Nat) :
    leNat (sliceB (toBytes d 128) off n) = d.toNat / 2 ^ (8 * off) % 2 ^ (8 * n) := by
  simp only [sliceB, getD_toBytes, leNat_byteAt]

/-- The value of a load that is zero-extended. -/
theorem loadValue_zero (d : Line) (a n : Nat) :
    loadValue d a n false = BitVec.ofNat 64 (d.toNat / 2 ^ (8 * (a % 128)) % 2 ^ (8 * n)) := by
  simp [loadValue, leNat_sliceB]

/-- The value of a load that is sign-extended. -/
theorem loadValue_sign (d : Line) (a n : Nat) :
    let raw := d.toNat / 2 ^ (8 * (a % 128)) % 2 ^ (8 * n)
    loadValue d a n true = BitVec.ofInt 64 (if raw < 2 ^ (8 * n - 1) then raw else (raw : Int) - 2 ^ (8 * n)) := by
  simp [loadValue, leNat_sliceB, sext, wordOf]

/-! ### A load at its place -/

/-- An instruction that loads brings its access to its place. -/
theorem load_eq {i : Instr} {s u w : State} {x : Thread} {size hint va : Nat} {p : Phys} (hr : Runs i s u x)
    (hal : va % size = 0) (ht : Translates i u w x va .read p) (hi : (isaWord i).isSome = true) (d : Nat) (sg : Bool)
    {ea : Thread → Nat} (hea : ea x = va) :
    issue i s (fun u x => load i u d size sg hint (ea x)) = loadPlace i w d size sg hint va p := by
  rw [issue_runs hr (roundTrip_of_instr i) hi, hea, load, if_neg (not_not.2 hal), withPlace_of_translates hr ht]

theorem any_overlaps_eq_false {x : Thread} {p : Phys} {size : Nat}
    (h : ∀ e ∈ x.stores, overlaps p size e.target e.size = false) :
    x.stores.any (fun e => overlaps p size e.target e.size) = false :=
  List.any_eq_false.2 (fun e he => by simp [h e he])

theorem loadPlace_hit {i : Instr} {w : State} {x : Thread} {size hint : Nat} {p : Phys} {l : L1Line}
    (hw : w.thread (slotOf i) = some (x.issued i)) (hp : ∀ a, p ≠ .bad a) (hh : hint ≠ 3)
    (hst : ∀ e ∈ x.stores, overlaps p size e.target e.size = false) (hl : w.l1Find (cellOfSlot (slotOf i)) p = some l)
    (hbad : wordBad l.poison (physAddr p) = false) (d : Nat) (sg : Bool) (va : Nat) :
    loadPlace i w d size sg hint va p =
      retireReg i (l1Touch w (cellOfSlot (slotOf i)) l) d (loadValue l.data (physAddr p) size sg) := by
  have hany : (x.issued i).stores.any (fun e => overlaps p size e.target e.size) = false := any_overlaps_eq_false hst
  cases p with
  | bad a => exact absurd rfl (hp a)
  | hbm | remote | host => simp only [loadPlace, hw, hany, if_neg hh, hl, hbad, Bool.false_eq_true, if_false]

/-- A load that hits its line in the L1. -/
theorem loadsFrom_of_hits {i : Instr} {s u w : State} {x : Thread} {size hint va : Nat} {p : Phys} {l : L1Line}
    (h : LoadHits i s u w x size hint va p l) {d : Nat} (hd : d < 64) {sg : Bool} {ea : Thread → Nat}
    (he : exec i s = .next (issue i s (fun u x => load i u d size sg hint (ea x)))) (hea : ea x = va)
    (hi : (isaWord i).isSome = true) (hn : issueSlots i = 1) {v : Word} (hv : v = loadValue l.data (physAddr p) size sg) :
    LoadsFrom i s w x l d v := by
  obtain ⟨hr, hal, ht, hp, hh, hst, hl, hbad⟩ := h
  obtain ⟨y, hdone, hreg, hpass⟩ := retireReg_spec i (l1Touch w (cellOfSlot (slotOf i)) l) x ht.2 d hd v
  rw [hn] at hpass
  rw [load_eq hr hal ht hi d sg hea, loadPlace_hit ht.2 hp hh hst hl hbad d sg va, ← hv] at he
  exact ⟨_, y, he, hdone, hreg, hpass⟩


/-! ### A load that asks for its line -/

theorem portBeats_regsOnly (s : State) (t part : Nat) : RegsOnly s.tick (portBeats s t part) := (countEv_spec _ _ _ _ _).1

@[simp] theorem toSlice_out (s : State) (t part a hint : Nat) (op : SliceOp) : (toSlice s t part a hint op).out = s.out := by
  show (portBeats s t part).out = s.out
  rw [portBeats_regsOnly]
  rfl

@[simp] theorem countRemote_thread (s : State) (part fab k : Nat) : (countRemote s part fab).thread k = s.thread k := by
  unfold countRemote
  split <;> rfl

theorem only_remoteReq (s : State) (who : Requester) (m : RMsg) : Only portIn s (remoteReq s who m).1 := by
  unfold remoteReq
  extract_lets tag m1
  split
  · exact .refl _ s
  · exact (only_setPort _ _ _).trans ((only_ral _ _).mono (by decide))

@[simp] theorem cmp_postErr (s : State) (src sev part payload : Nat) : (postErr s src sev part payload).cmp = s.cmp :=
  (postErr_spec s src sev part payload).1.cmp

/-- A thread's read of another stack leaves every thread as it is, also when it is lost at once. -/
theorem remoteAsk_thread (s : State) (t : Nat) {m : RMsg} (hm : m.typ = 1) (k : Nat) :
    (remoteAsk s (.thread t) m).thread k = s.thread k := by
  have hfin : ∀ (u : State) st d p w, (finishRemote u (.thread t) m st d p w).thread k = u.thread k := fun u st d p w => by
    simp [finishRemote, hm, isCommand, answerRead, fromRemote, State.thread]
  have hsent : (remoteReq s (.thread t) m).1.cmp = s.cmp := (only_remoteReq s _ m).2 .cmp (by decide)
  unfold remoteAsk
  split
  · rename_i u hu
    rw [hu] at hsent
    rw [State.thread, hsent, State.thread]
  · split
    · rw [loseReq, hfin, State.thread, ralErr, cmp_postErr, State.thread]
    · rw [hfin, State.thread, addrError, cmp_postErr, State.thread]

theorem toRemoteRead_thread (s : State) (t part fab hint k : Nat) : (toRemoteRead s t part fab hint).thread k = s.thread k := by
  unfold toRemoteRead
  split
  · simp
  · rw [remoteAsk_thread _ _ rfl, countRemote_thread]

/-! The issue slots and the thread of an instruction. -/

theorem thread_charge {s : State} {t : Nat} {x : Thread} (h : s.thread t = some x) (n : Nat) :
    (charge s t n).thread t = some { x with issue := x.issue + n } := by
  rw [(charge_spec s t n x h).1]
  simp [State.thread]

@[simp] theorem charge_cel (s : State) (t n : Nat) : (charge s t n).cel = s.cel := by
  unfold charge
  split
  · rfl
  · rw [(countEv_spec _ _ _ _ _).1]
    rfl

@[simp] theorem charge_out (s : State) (t n : Nat) : (charge s t n).out = s.out := by
  unfold charge
  split
  · rfl
  · rw [(countEv_spec _ _ _ _ _).1]
    rfl

theorem thread_updThread {s : State} {t : Nat} {x : Thread} (h : s.thread t = some x) (f : Thread → Thread) :
    (updThread s t f).thread t = some (f x) := by simp [updThread, h]

@[simp] theorem updThread_cel (s : State) (t : Nat) (f : Thread → Thread) : (updThread s t f).cel = s.cel := by
  unfold updThread
  split <;> rfl

@[simp] theorem updThread_out (s : State) (t : Nat) (f : Thread → Thread) : (updThread s t f).out = s.out := by
  unfold updThread
  split <;> rfl

/-- The state in which a load that misses sends its request: one with hint 3 leaves no line of its address in the L1. -/
def loadBase (i : Instr) (s : State) (hint : Nat) (p : Phys) : State :=
  charge (if hint = 3 then l1Drop s (cellOfSlot (slotOf i)) p else s) (slotOf i) 1

/-- The thread of a load that misses waits for its data. -/
def loadWaits (i : Instr) (s : State) (d size : Nat) (sg : Bool) (hint va : Nat) (p : Phys) : State :=
  updThread (loadBase i s hint p) (slotOf i)
    (fun y => { y with st := .waiting (.data d size sg hint va p (loadBase i s hint p).cmp.clock) })

/-- A thread's read of a line goes to the slice, to the stack or to the host that has it (R132). -/
def askLine (s : State) (t part hint : Nat) : Phys → State
  | .hbm a => toSlice s t part a hint (.read hint)
  | .remote f => toRemoteRead s t part f hint
  | .host port b _ _ => s.emit (.hostRead port (b / 128 * 128) 128)
  | .bad _ => s

section
variable {i : Instr} {w : State} {x : Thread} {hint : Nat} {p : Phys}

theorem thread_loadWaits (hw : w.thread (slotOf i) = some (x.issued i)) (hx : x.st = .ready) (d size : Nat) (sg : Bool)
    (va : Nat) : (loadWaits i w d size sg hint va p).thread (slotOf i) = some { x with
      issue := x.issue + 1
      word := wordOfInstr i
      st := .waiting (.data d size sg hint va p (loadBase i w hint p).cmp.clock) } := by
  have hdrop : (if hint = 3 then l1Drop w (cellOfSlot (slotOf i)) p else w).thread (slotOf i) = some (x.issued i) :=
    ite_keeps (P := fun s : State => s.thread (slotOf i) = some (x.issued i)) (thread_l1Drop_of_ready hw hx _ _) hw
  exact thread_updThread (thread_charge hdrop 1) _

theorem cel_loadWaits (d size : Nat) (sg : Bool) (va : Nat) : (loadWaits i w d size sg hint va p).cel = w.cel := by
  simp only [loadWaits, loadBase, updThread_cel, charge_cel]
  split <;> rfl

theorem out_loadWaits (d size : Nat) (sg : Bool) (va : Nat) : (loadWaits i w d size sg hint va p).out = w.out := by
  simp only [loadWaits, loadBase, updThread_out, charge_out]
  split <;> rfl

/-- A load that misses the L1, or bypasses it, sends its request with its thread waiting. -/
theorem loadPlace_miss {size : Nat} (hw : w.thread (slotOf i) = some (x.issued i)) (hp : ∀ a, p ≠ .bad a)
    (hst : ∀ e ∈ x.stores, overlaps p size e.target e.size = false)
    (hl : hint = 3 ∨ w.l1Find (cellOfSlot (slotOf i)) p = none) (d : Nat) (sg : Bool) (va : Nat) :
    loadPlace i w d size sg hint va p =
      askLine (loadWaits i w d size sg hint va p) (slotOf i) x.part hint p := by
  have hany : (x.issued i).stores.any (fun e => overlaps p size e.target e.size) = false := any_overlaps_eq_false hst
  have hmiss : (if hint = 3 then none else w.l1Find (cellOfSlot (slotOf i)) p) = none := by
    rcases hl with h | h <;> simp [h]
  cases p with
  | bad a => exact absurd rfl (hp a)
  | hbm | remote | host =>
    simp only [loadPlace, hw, hany, hmiss, Bool.false_eq_true, if_false]
    rfl

end

/-- A load that does not take its line from the L1. -/
theorem loadAsks_of_misses {i : Instr} {s u w : State} {x : Thread} {size hint va : Nat} {p : Phys}
    (h : LoadMisses i s u w x size hint va p) (hp : ∀ a, p ≠ .bad a) {d : Nat} {sg : Bool} {ea : Thread → Nat}
    (he : exec i s = .next (issue i s (fun u x => load i u d size sg hint (ea x)))) (hea : ea x = va)
    (hi : (isaWord i).isSome = true) : LoadAsks i s w x d size sg hint va p := by
  obtain ⟨hr, hal, ht, hst, hl⟩ := h
  have hthread := thread_loadWaits (hint := hint) (p := p) ht.2 hr.ready d size sg va
  have hcel := cel_loadWaits (i := i) (w := w) (hint := hint) (p := p) d size sg va
  have hout := out_loadWaits (i := i) (w := w) (hint := hint) (p := p) d size sg va
  rw [load_eq hr hal ht hi d sg hea, loadPlace_miss ht.2 hp hst hl d sg va] at he
  cases p with
  | bad a => exact absurd rfl (hp a)
  | hbm a =>
    refine ⟨_, _, _, he, (toSlice_thread _ _ _ _ _ _ _).trans hthread, rfl, fun a' e => ?_, nofun⟩
    cases e
    exact ⟨(toSlice_xbar _ _ _ _ _ _).trans (by rw [hcel]), (toSlice_out _ _ _ _ _ _).trans hout⟩
  | remote f => exact ⟨_, _, _, he, (toRemoteRead_thread _ _ _ _ _ _).trans hthread, rfl, nofun, nofun⟩
  | host port b n k =>
    refine ⟨_, _, _, he, hthread, rfl, nofun, fun _ _ _ _ e => ?_⟩
    cases e
    exact ⟨congrArg CelSt.xbar hcel, congrArg (· ++ _) hout⟩

/-! ### The reply (R132, R134, R135) -/

/-- A fill changes the L1 of its cell only, and the line is there. -/
theorem l1Fill_spec (s : State) (cell : Nat) (p : Phys) (d : Line) (poison : BitVec 2) (hint : Nat) :
    ∃ m : List L1Line, l1Fill s cell p d poison hint = s.setL1 cell m ∧ ∃ l ∈ m, l.target = physLine p ∧ l.data = d := by
  unfold l1Fill
  extract_lets l new same
  have hnew : ∀ m : List L1Line, ∃ y ∈ m ++ [new], y.target = physLine p ∧ y.data = d := fun m =>
    ⟨new, List.mem_append_right _ List.mem_cons_self, rfl, rfl⟩
  split
  · exact ⟨_, rfl, hnew _⟩
  · split
    · exact ⟨_, rfl, hnew _⟩
    · exact ⟨_, rfl, hnew _⟩

@[simp] theorem updThread_l1 (s : State) (t : Nat) (f : Thread → Thread) (cell : Nat) :
    (updThread s t f).l1 cell = s.l1 cell := by
  unfold updThread
  split <;> rfl

@[simp] theorem updThread_replies (s : State) (t : Nat) (f : Thread → Thread) :
    (updThread s t f).cmp.replies = s.cmp.replies := by
  unfold updThread
  split <;> rfl

/-- A good reply without poison completes the load. -/
theorem loadReply_good {s : State} {t : Nat} {x : Thread} {r : Reply} (h : s.thread t = some x) (hs : r.status = 0)
    (hp : r.poison = 0) (d size : Nat) (sg : Bool) (hint va : Nat) (p : Phys) :
    ∃ u, loadReply s t d size sg hint va p r =
        updThread u t (fun x => (x.setReg d (loadValue r.data (physAddr p) size sg)).next) ∧
      u.thread t = some x ∧ u.cmp.replies = s.cmp.replies ∧
      (hint < 3 → ∃ l ∈ u.l1 (cellOfSlot t), l.target = physLine p ∧ l.data = r.data) := by
  have hbad : (if hint = 3 then r.poison.getLsbD (physAddr p % 128 / 32)
      else wordBad (wordPoison r.poison) (physAddr p)) = false := by
    rw [hp]
    split
    · exact BitVec.getLsbD_zero
    · exact BitVec.getLsbD_zero
  obtain ⟨m, hfill, hmem⟩ := l1Fill_spec s (cellOfSlot t) p r.data (wordPoison r.poison) hint
  refine ⟨if hint < 3 then l1Fill s (cellOfSlot t) p r.data (wordPoison r.poison) hint else s, ?_, ?_, ?_, fun hh => ?_⟩
  · rw [loadReply, if_neg (not_not.2 hs)]
    simp only [hbad, Bool.false_eq_true, if_false]
  · split
    · rw [hfill]; exact h
    · exact h
  · split
    · rw [hfill]; rfl
    · rfl
  · rw [if_pos hh, hfill, State.l1_setL1, if_pos rfl]
    exact hmem

theorem threadMemoryReply_completes {s : State} {x : Thread} {t d size hint va q : Nat} {sg : Bool} {p : Phys} {r : Reply}
    (hlive : s.live = true) (hrun : s.bayRuns (bayOfSlot t) = true) (ht : s.thread t = some x) (hd : d < 64)
    (hx : x.st = .waiting (.data d size sg hint va p q)) (hr : s.cmp.replies.find? (fun r => r.slot = t) = some r)
    (ha : answers (.data d size sg hint va p q) r = true) (hs : r.status = 0) (hp : r.poison = 0) :
    ∃ v y, exec (.threadMemoryReply t .fabric) s = .next v ∧ v.thread t = some y ∧
      HasWritten x y d (loadValue r.data (physAddr p) size sg) ∧
      y = { x with regs := y.regs, pc := (x.pc + 4) % 2 ^ 64, st := .ready } ∧
      v.cmp.replies = s.cmp.replies.erase r ∧
      (hint < 3 → ∃ l ∈ v.l1 (cellOfSlot t), l.target = physLine p ∧ l.data = r.data) := by
  let s1 : State := { s with cmp := { s.cmp with replies := s.cmp.replies.erase r } }
  have hs1 : s1.thread t = some x := ht
  obtain ⟨u, hload, hu, hrep, hl1⟩ := loadReply_good hs1 hs hp d size sg hint va p
  have hexec : memReplyX t .fabric s = loadReply s1 t d size sg hint va p r := by
    simp only [memReplyX, whenLive, hlive, if_true, hrun, not_true_eq_false, if_false, hr]
    show giveReply s1 t r = _
    simp only [giveReply, hs1, hx, ha, if_true]
  refine ⟨_, _, congrArg Host.Outcome.next (hexec.trans hload), thread_updThread hu _, fun k hk => ?_, ?_,
    (updThread_replies _ _ _).trans hrep, fun hh => ?_⟩
  · exact Thread.reg_setReg x d k _ hd hk
  · rw [Thread.setReg_eq]; rfl
  · rw [updThread_l1]
    exact hl1 hh

/-! ### The statement -/

/-- The address of the literal pool is modulo 2^64 (R131). -/
theorem toNat_pool (pc : Nat) (m : BitVec 20) :
    (BitVec.ofNat 64 (pc / 8 * 8) + m.signExtend 64 * 8).toNat =
      (((pc / 8 * 8 : Nat) + 8 * m.toInt) % 2 ^ 64).toNat := by
  rw [show BitVec.ofNat 64 (pc / 8 * 8) + m.signExtend 64 * 8 = BitVec.ofInt 64 ((pc / 8 * 8 : Nat) + 8 * m.toInt) by
    rw [BitVec.ofInt_add, mul_comm 8, BitVec.ofInt_mul, BitVec.signExtend]; rfl, BitVec.toNat_ofInt]
  norm_num

/-- Settles O8, a load at a time. -/
theorem loadsComplete : Obligations.LoadsComplete := by
  refine ⟨fun s u w x t d a hint k m p l => ⟨?_, ?_, ?_, ?_, ?_, ?_, ?_, ?_⟩,
    fun s u w x t d a hint k m p => ?_,
    fun s x t d size hint va q sg p r hlive hrun ht hd hx hr ha hs hp =>
      threadMemoryReply_completes hlive hrun ht hd hx hr ha hs hp⟩
  · exact fun h => loadsFrom_of_hits h (reg_lt_of_wfL h.1.1) rfl (toNat_pool _ _) rfl rfl (loadValue_zero _ _ _).symm
  · exact fun h => loadsFrom_of_hits h (reg_lt_of_wfR h.1.1) rfl (x.ea_eq _ _) rfl rfl (loadValue_zero _ _ _).symm
  · exact fun h => loadsFrom_of_hits h (reg_lt_of_wfR h.1.1) rfl (x.ea_eq _ _) rfl rfl (loadValue_sign _ _ _).symm
  · exact fun h => loadsFrom_of_hits h (reg_lt_of_wfR h.1.1) rfl (x.ea_eq _ _) rfl rfl (loadValue_zero _ _ _).symm
  · exact fun h => loadsFrom_of_hits h (reg_lt_of_wfR h.1.1) rfl (x.ea_eq _ _) rfl rfl (loadValue_sign _ _ _).symm
  · exact fun h => loadsFrom_of_hits h (reg_lt_of_wfR h.1.1) rfl (x.ea_eq _ _) rfl rfl (loadValue_zero _ _ _).symm
  · exact fun h => loadsFrom_of_hits h (reg_lt_of_wfR h.1.1) rfl (x.ea_eq _ _) rfl rfl (loadValue_sign _ _ _).symm
  · exact fun h => loadsFrom_of_hits h (reg_lt_of_wfR h.1.1) rfl (x.ea_eq _ _) rfl rfl (loadValue_zero _ _ _).symm
  intro ea pool hp
  exact ⟨fun h => loadAsks_of_misses h hp rfl (toNat_pool _ _) rfl, fun h => loadAsks_of_misses h hp rfl (x.ea_eq _ _) rfl,
    fun h => loadAsks_of_misses h hp rfl (x.ea_eq _ _) rfl, fun h => loadAsks_of_misses h hp rfl (x.ea_eq _ _) rfl,
    fun h => loadAsks_of_misses h hp rfl (x.ea_eq _ _) rfl, fun h => loadAsks_of_misses h hp rfl (x.ea_eq _ _) rfl,
    fun h => loadAsks_of_misses h hp rfl (x.ea_eq _ _) rfl, fun h => loadAsks_of_misses h hp rfl (x.ea_eq _ _) rfl⟩

end Sys2Proof.Machine
end

section
/-! SUPPORT. Stores to this stack's memory (R131, R132, R134), and the proof of StoresGoToSlices. -/

namespace Sys2Proof.Machine

open Sys2Proof

/-- The low bytes of a register at an offset of a line. -/
theorem lineBytes_toBytes (off : Nat) (v : Word) (size : Nat) :
    lineBytes off (toBytes v size) = BitVec.ofNat 1024 (v.toNat % 2 ^ (8 * size) * 2 ^ (8 * off)) := by
  rw [lineBytes, leNat_toBytes]

/-! ### The L1 and the registers beside a store -/

theorem thread_l1Store_of_ready {s : State} {k : Nat} {x : Thread} (h : s.thread k = some x) (hx : x.st = .ready)
    (cell : Nat) (p : Phys) (be : BitVec 128) (d : Line) : (l1Store s cell p be d).thread k = some x :=
  thread_l1Bar_of_ready h hx cell _

theorem l1_l1Store (s : State) (cell : Nat) (p : Phys) (be : BitVec 128) (d : Line) :
    (l1Store s cell p be d).l1 cell = (s.l1 cell).map (fun x =>
      if x.target = physLine p then { x with data := mergeBytes x.data d be } else x) := by
  simp [l1Store]

@[simp] theorem pushStore_l1 (s : State) (t : Nat) (p : Phys) (size cell : Nat) :
    (pushStore s t p size).l1 cell = s.l1 cell := updThread_l1 _ _ _ _

@[simp] theorem updThread_reg (s : State) (t : Nat) (f : Thread → Thread) (o : Nat) : (updThread s t f).reg o = s.reg o := by
  unfold updThread
  split <;> rfl

theorem Finished.l1 {i : Instr} {u t : State} {y : Thread} (h : Finished i u t y) (cell : Nat) : t.l1 cell = u.l1 cell := by
  simp only [State.l1, h.cmp]

@[simp] theorem toSlice_l1 (s : State) (t part a hint : Nat) (op : SliceOp) (cell : Nat) :
    (toSlice s t part a hint op).l1 cell = s.l1 cell := by
  simp [State.l1]

theorem toSlice_cel (s : State) (t part a hint : Nat) (op : SliceOp) :
    (toSlice s t part a hint op).cel = { s.cel with xbar := s.cel.xbar ++ [⟨.thread t, a, hint, op⟩] } :=
  congrArg (fun c : CelSt => { c with xbar := c.xbar ++ [(⟨.thread t, a, hint, op⟩ : Held)] }) (portBeats_side s t part).cel

theorem toSlice_regsKept (s : State) (t part a hint : Nat) (op : SliceOp) :
    RegsKept s (toSlice s t part a hint op) countRegs := (countEv_spec s.tick _ _ _ _).2

/-! ### A store at its place -/

theorem storePlace_hbm {i : Instr} {w : State} {x : Thread} (hw : w.thread (slotOf i) = some (x.issued i))
    (hfull : x.stores.length < 4) {a : Nat} (hmay : w.mayWrite (slotOf i) a = true) (size hint va : Nat) (v : Word) :
    storePlace i w size hint va v (.hbm a) =
      toSlice (retire i (pushStore (l1Store w (cellOfSlot (slotOf i)) (.hbm a) (rangeEnables (a % 128) size)
          (lineBytes (a % 128) (toBytes v size))) (slotOf i) (.hbm a) size) Thread.next)
        (slotOf i) x.part a hint (.write (rangeEnables (a % 128) size) (lineBytes (a % 128) (toBytes v size)) 0) := by
  have hroom : (x.issued i).full = false := decide_eq_false (Nat.not_le.2 hfull)
  simp only [storePlace, hw, hroom, hmay, Bool.false_eq_true, if_false, not_true_eq_false]
  rfl

/-- A store that may go to a local address. -/
theorem storeGoes_of_may {i : Instr} {s u w : State} {x : Thread} {size hint va a : Nat}
    (h : StoreMay i s u w x size va a) {r : Nat} {ea : Thread → Nat}
    (he : exec i s = .next (issue i s (fun u x => store i u r size hint (ea x)))) (hea : ea x = va)
    (hi : (isaWord i).isSome = true) (hn : issueSlots i = 1) : StoreGoes i s w x size hint a (x.reg r) := by
  obtain ⟨hr, hal, ht, hfull, hmay⟩ := h
  have hbase := thread_l1Store_of_ready ht.2 hr.ready (cellOfSlot (slotOf i)) (.hbm a) (rangeEnables (a % 128) size)
    (lineBytes (a % 128) (toBytes (x.reg r) size))
  have hdone := retire_spec i _ _ (thread_pushStore hbase (.hbm a) size) Thread.next
  rw [issue_runs hr (roundTrip_of_instr i) hi, hea, store, if_neg (not_not.2 hal), withPlace_of_translates hr ht, ht.2] at he
  dsimp only at he
  rw [Thread.reg_issued, storePlace_hbm ht.2 hfull hmay] at he
  refine ⟨_, _, _, he, (toSlice_thread _ _ _ _ _ _ _).trans hdone.thread, by rw [hn]; rfl, ?_, ?_, ?_⟩
  · rw [toSlice_cel, hdone.cel, cel_pushStore, lineBytes_toBytes]
    rfl
  · rw [toSlice_l1, hdone.l1, pushStore_l1, l1_l1Store, lineBytes_toBytes]
    rfl
  · refine RegsKept.trans (fun o ho => ?_) (toSlice_regsKept _ _ _ _ _ _)
    rw [hdone.kept o ho, pushStore, updThread_reg]
    rfl

/-- Settles O9, a store at a time. -/
theorem storesGoToSlices : Obligations.StoresGoToSlices := fun _ _ _ x _ _ _ _ _ _ =>
  ⟨fun h => storeGoes_of_may h rfl (x.ea_eq _ _) rfl rfl, fun h => storeGoes_of_may h rfl (x.ea_eq _ _) rfl rfl,
    fun h => storeGoes_of_may h rfl (x.ea_eq _ _) rfl rfl, fun h => storeGoes_of_may h rfl (x.ea_eq _ _) rfl rfl⟩

end Sys2Proof.Machine
end

section
/-! SUPPORT. States that refute FencesAndBarriers, TasksQueueAndStart and ContextsSuspendAndResume: a slot that the thread
store lists twice, and the invalidation of an L1 under a load of another thread (R136 to R138). -/

namespace Sys2Proof.Machine

open Sys2Proof

/-! ### A block with one context -/

/-- Partition 0 on bay 0, whose cells 0 and 1 run threads; the translations of context 0 and the registers are those of
`strayState`. -/
def staffed (c : CmpSt) : State :=
  { strayState with bup := { blend := some strayBlend, roles := 3, enabledOnce := true }, cel := {}, cmp := c }

/-- A thread of context 0 at PC 0x100. -/
def posted (st : ThrSt) : Thread := ⟨0, 0, 0, 0, 0x100, [], 0, 0, st, [], none, false⟩

/-- A thread with a load of hint 0 on its way, which is to fill its cell's L1. -/
def loading : Thread := posted (.waiting (.data 4 8 false 0 0x1000 (.hbm 0x1000) 0))

/-- The same thread once its cell's L1 has been invalidated: the line is not kept. -/
def loadingPast : Thread := posted (.waiting (.data 4 8 false 4 0x1000 (.hbm 0x1000) 0))

theorem runs_of_fetched {i : Instr} {s : State} {x : Thread} (hw : i.wf = true) (ht : s.thread (slotOf i) = some x)
    (hs : s.issues (slotOf i) = true) (hx : x.ending = none) (hf : (fetch s (slotOf i) x).2 = true)
    (hu : (fetch s (slotOf i) x).1.thread (slotOf i) = some x) :
    Runs i s ((fetch s (slotOf i) x).1.setThread (slotOf i) (x.issued i)) x :=
  ⟨hw, ht, hs, hx, _, Prod.ext rfl hf, hu, rfl⟩

/-! ### A slot listed twice -/

/-- The instruction: an ARRIVE of slot 0 on counter 0 of its bay. -/
def lastArrival : Instr := .barrierArrive 0 0 0 0

/-- Counter 0 of bay 0 awaits one arrival; slot 1, which waits on it, stands twice in the thread store. -/
def doubled : State :=
  staffed { thr := [(0, posted .ready), (1, posted (.waiting (.bar 0 false))), (1, posted (.waiting (.bar 0 false)))]
            l1 := [(0, [⟨.hbm 0x100, 0, 0, false, 1⟩])]
            bars := [(0, ⟨1, 0, false, false⟩)] }

/-- The state in which the instruction is carried out. -/
def doubledAt : State :=
  (fetch doubled (slotOf lastArrival) (posted .ready)).1.setThread (slotOf lastArrival) ((posted .ready).issued lastArrival)

theorem fetch_doubled : (fetch doubled (slotOf lastArrival) (posted .ready)).2 = true ∧
    (fetch doubled (slotOf lastArrival) (posted .ready)).1.thread (slotOf lastArrival) = some (posted .ready) := by
  decide +kernel

theorem doubled_issues : lastArrival.wf = true ∧ doubled.thread (slotOf lastArrival) = some (posted .ready) ∧
    doubled.issues (slotOf lastArrival) = true := by decide +kernel

theorem runs_lastArrival : Runs lastArrival doubled doubledAt (posted .ready) :=
  runs_of_fetched doubled_issues.1 doubled_issues.2.1 doubled_issues.2.2 rfl fetch_doubled.1 fetch_doubled.2

theorem doubledAt_bar : doubledAt.bar 0 = ⟨1, 0, false, false⟩ ∧ doubledAt.barHolders 0 = [] := by decide +kernel

theorem doubledAt_waiter : doubledAt.thread 1 = some (posted (.waiting (.bar 0 false))) := by decide +kernel

/-- The instruction pointer of slot 1 after a command. -/
def pcAfter (o : Host.Outcome State Fault Refusal) : Option Nat :=
  match o with
  | .next v => (v.thread 1).map Thread.pc
  | _ => none

/-- The release goes over the entries, so that the slot completes its acquire twice. -/
theorem pcAfter_lastArrival : pcAfter (exec lastArrival doubled) = some 0x108 := by decide +kernel

/-- Refutes O12, in the clause of an ARRIVE that reaches the target. The statement does not ask that the thread store lists
a slot once: a waiting thread that it lists twice is released once for each entry and leaves an instruction out. -/
theorem not_fencesAndBarriers : ¬ Obligations.FencesAndBarriers := by
  rintro ⟨-, hbars⟩
  obtain ⟨-, -, hlast, -⟩ := hbars doubled doubledAt (posted .ready) 0 0 0 0 (by decide)
  obtain ⟨hbar, hholders⟩ := doubledAt_bar
  have hb : doubledAt.bar (16 * bayOfCell (0 / 128) + 0) = ⟨1, 0, false, false⟩ := hbar
  obtain ⟨v, y, hexec, -, -, -, hfree⟩ :=
    hlast runs_lastArrival rfl (by rw [hb]; decide) (by rw [hb]) (by rw [hb]) hholders
  obtain ⟨z, hz, -, hpc⟩ := hfree 1 _ doubledAt_waiter (by decide) (by rw [hb]; rfl)
  have hafter : pcAfter (exec lastArrival doubled) = some z.pc := by
    rw [show exec lastArrival doubled = .next v from hexec]
    simp [pcAfter, hz]
  rw [pcAfter_lastArrival, hpc] at hafter
  exact absurd hafter (by decide)

/-! ### A task that starts beside a load -/

/-- The entry of the task, at 0x100, with one thread. -/
def loneTask : TaskDesc := ⟨false, 1, 0x100, 0, 0, 0, 0xFF, 0, 0⟩

/-- Slot 0 waits for its load; a task of one thread waits in context 0. -/
def beside : State := staffed { thr := [(0, loading)], ctx := [(0, { Ctx.initial with queue := [loneTask] })] }

theorem beside_starts : beside.live = true ∧ beside.enabled = true ∧
    (beside.rotation 0).find? (fun c => (beside.startable (64 * 0 + c)).isSome) = some 0 ∧
    beside.startable 0 = some loneTask ∧ (beside.slotOrder 0 loneTask.bayHint).take loneTask.n = [1] := by decide +kernel

theorem taskStart_beside_thread : (taskStart 0 beside).thread 0 = some loadingPast := by decide +kernel

/-- Refutes O15, in the clause of a start. The new thread's slot lies in the cell of the load, whose L1 the start
invalidates (R136): the load goes on as one that bypasses the L1 (R137, R138), so that the thread of a slot that the task
does not take has changed. -/
theorem not_tasksQueueAndStart : ¬ Obligations.TasksQueueAndStart := by
  rintro ⟨⟨-, -, hstart⟩, -⟩
  obtain ⟨hlive, henabled, hfind, hstartable, hslots⟩ := beside_starts
  obtain ⟨v, hexec, -, -, -, hkept, -⟩ :=
    hstart beside 0 0 loneTask hlive henabled hfind hstartable (by decide) (by rw [hslots]; decide)
  obtain rfl : taskStart 0 beside = v := Host.Outcome.next.inj hexec
  have h := hkept 0 (by rw [hslots]; decide)
  rw [taskStart_beside_thread] at h
  exact absurd h (by decide +kernel)

/-! ### A context that resumes with a load -/

/-- Context 0 is to resume one thread, saved with its load under way. -/
def returning : State :=
  staffed { ctx := [(0, { Ctx.initial with state := 2, op := 2, saved := [loading] })] }

theorem returning_resumes : returning.live = true ∧ (returning.context 0).op = 2 ∧ (returning.context 0).saved = [loading] ∧
    1 ≤ (returning.slotOrder (0 / 64) 0xFF).length ∧ (returning.slotOrder (0 / 64) 0xFF).Nodup ∧
    (returning.slotOrder (0 / 64) 0xFF)[0]? = some 0 := by decide +kernel

theorem resumeStart_returning_thread : (resumeStart 0 returning).thread 0 = some loadingPast := by decide +kernel

/-- Refutes O16, in the clause of a resume that starts. The statement asks of a saved thread nothing: one that was saved
with a load under way takes its slot, and the invalidation of the L1 of its cell (R136) turns the load into one that
bypasses the L1, so that the slot does not hold what was saved. -/
theorem not_contextsSuspendAndResume : ¬ Obligations.ContextsSuspendAndResume := by
  rintro ⟨-, -, hresume⟩
  obtain ⟨hlive, hop, hsaved, hlength, hnodup, hfirst⟩ := returning_resumes
  obtain ⟨v, hexec, -, -, -, -, -, hrestored⟩ := hresume returning 0 hlive hop (by rw [hsaved]; exact hlength) hnodup
  obtain rfl : resumeStart 0 returning = v := Host.Outcome.next.inj hexec
  have h := hrestored 0 0 loading hfirst (by rw [hsaved]; rfl)
  rw [resumeStart_returning_thread] at h
  exact absurd h (by decide +kernel)

end Sys2Proof.Machine
end

section
/-! SUPPORT. System instructions and submissions (R125, R126, R128, R147, R164, R498): a breakpoint, the end of a thread, the
end of halts, and the proof of SystemAndSubmit. -/

namespace Sys2Proof.Machine

open Sys2Proof

@[simp] theorem charge_dbg (s : State) (t n : Nat) : (charge s t n).dbg = s.dbg := by
  unfold charge
  split
  · rfl
  · rw [(countEv_spec _ _ _ _ _).1]
    rfl

@[simp] theorem updThread_dbg (s : State) (t : Nat) (f : Thread → Thread) : (updThread s t f).dbg = s.dbg := by
  unfold updThread
  split <;> rfl

theorem updThread_thread (s : State) (t : Nat) (f : Thread → Thread) (k : Nat) :
    (updThread s t f).thread k = if k = t then (s.thread t).map f else s.thread k := by
  unfold updThread
  split <;> rename_i h
  · split
    · subst_vars; simp [h]
    · rfl
  · simp [State.thread, State.setThread] at h ⊢
    simp [h]

/-- An instruction whose last step writes a register and goes on, in the state that its access leaves. -/
theorem computes_of_retireReg {i : Instr} {s w : State} {x : Thread} (hw : w.thread (slotOf i) = some (x.issued i)) {d : Nat}
    (hd : d < 64) {v : Word} (he : exec i s = .next (retireReg i w d v)) (hn : issueSlots i = 1) : Computes i s w x d v 1 := by
  obtain ⟨y, hdone, hreg, hpass⟩ := retireReg_spec i w x hw d hd v
  rw [hn] at hpass
  exact ⟨_, y, he, hdone, hreg, hpass⟩

/-- A refused submission: d is written, and the status bit that shows the refusal changes neither threads nor queues. -/
theorem raised_retireReg {i : Instr} {w : State} {x : Thread} (hw : w.thread (slotOf i) = some (x.issued i)) {d : Nat}
    (hd : d < 64) (v : Word) (o : Nat) (f : Fld) :
    ∃ y, (raise (retireReg i w d v) o f).thread (slotOf i) = some y ∧ HasWritten x y d v ∧
      (raise (retireReg i w d v) o f).cmp.opq = w.cmp.opq := by
  obtain ⟨y, hdone, hreg, -⟩ := retireReg_spec i w x hw d hd v
  have hcmp : (raise (retireReg i w d v) o f).cmp = _ := (raise_spec (retireReg i w d v) o f).1.cmp.trans hdone.cmp
  exact ⟨y, by rw [State.thread, hcmp]; simp, hreg, by rw [hcmp]⟩

/-- A release whose thread has no store on its way goes on at once. -/
theorem release_of_none {i : Instr} {x : Thread} (hx : x.stores = []) (s : State) (k : State → State) :
    release i s x k = k s := if_pos hx

/-! ### System values (R128) -/

theorem exec_rds {s u : State} {x : Thread} {t d b : Nat} (hr : Runs (.rds t d b) s u x) :
    exec (.rds t d b) s = .next (retireReg (.rds t d b) u d (sysValue u t x b)) := by
  show execRds t d b s = _
  rw [execRds, issue_runs hr (roundTrip_of_instr _) rfl]

theorem computes_rds {s u : State} {x : Thread} {t d b : Nat} (hr : Runs (.rds t d b) s u x) {v : Word}
    (hv : sysValue u t x b = v) : Computes (.rds t d b) s u x d v 1 :=
  computes_of_retireReg hr.thread (reg_lt_of_wfK hr.1) (hv ▸ exec_rds hr) rfl

/-! ### Breakpoints (R498) -/

/-- The thread of a BRK: it has used an issue slot and halts at the next instruction. -/
def Thread.halts (y : Thread) : Thread := { ({ y with issue := y.issue + 1 } : Thread).next with st := .halted }

/-- A thread that halts at its BRK, where the breakpoint does not freeze the block. -/
theorem brkHalt_spec {u : State} {t : Nat} {y : Thread} (hy : u.thread t = some y)
    (hf : u.fld rDbgLevel fDbgLevelBrkFreeze = 0) (x : Thread) :
    (brkHalt u t x).thread t = some y.halts ∧
      (brkHalt u t x).dbg.halted = u.dbg.halted ++ [t] ∧ (brkHalt u t x).reg rDbgBrkPc = BitVec.ofNat 64 x.pc ∧
      (brkHalt u t x).fld rDbgEvent fDbgEventBrk = 1 := by
  unfold brkHalt
  extract_lets b cell pipe thr s1 d1 s2 w s3 s4
  obtain ⟨htrace, htregs⟩ := trace_spec s3 9 b x.part x.ctx (pipe + 2 ^ 4 * thr + 2 ^ 7 * cell) 0 x.pc
  obtain ⟨hraise, hrregs⟩ :=
    raise_spec (trace s3 9 b x.part x.ctx (pipe + 2 ^ 4 * thr + 2 ^ 7 * cell) 0 x.pc) rDbgEvent fDbgEventBrk
  have hside : SideOnly s3 s4 := htrace.trans hraise
  have hreg : ∀ o, o ∉ traceRegs → s4.reg o = s3.reg o := fun o ho => by
    rw [← htregs o ho]
    exact (hrregs o).trans (if_neg fun e => ho (by rw [e]; decide))
  have hlevel : s4.reg rDbgLevel = u.reg rDbgLevel := by
    rw [hreg _ (by decide), State.reg_setReg, if_neg (by decide), State.reg_setReg, if_neg (by decide)]
    exact (updThread_reg _ _ _ _).trans ((charge_spec u t 1 y hy).2 _ (by decide))
  have hfreeze : ¬ s4.fld rDbgLevel fDbgLevelBrkFreeze = 1 := by
    rw [State.fld, hlevel, ← State.fld, hf]; decide
  have hthread : s1.thread t = some y.halts :=
    thread_updThread (thread_charge hy 1) _
  rw [if_neg hfreeze]
  refine ⟨?_, ?_, ?_, State.fld_raise _ _ _ (by decide)⟩
  · rw [State.thread, hside.cmp]
    exact hthread
  · have hhalted := congrArg DbgSt.halted hside.dbg
    refine hhalted.trans ?_
    show s1.dbg.halted ++ [t] = _
    simp [s1]
  · rw [hreg _ (by decide), State.reg_setReg, if_pos rfl]

theorem brkAllowed_of {s : State} {p : Nat} (hl : 2 ≤ s.level) (he : s.fld rDbgLevel fDbgLevelBrkEn = 1)
    (hs : s.sealed p = false) : s.brkAllowed p = true := by simp [State.brkAllowed, hl, he, hs]

/-- Every halted thread goes on; the others stay as they are. -/
theorem readyAll_thread (l : List Nat) (s : State) (t : Nat) :
    (foldS l s (fun u t => updThread u t (fun x => { x with st := .ready }))).thread t =
      (s.thread t).map (fun x => if t ∈ l then { x with st := .ready } else x) := by
  induction l generalizing s with
  | nil => simp
  | cons k l ih =>
    rw [foldS_cons, ih, updThread_thread]
    by_cases h : t = k
    · subst h
      cases s.thread t <;> simp
    · simp [h]

/-! ### The end of a thread (R126) -/

/-- A thread that has no request on its way to a slice leaves the slices as they are. -/
theorem drainThread_of_none {s : State} {t : Nat} (h : ∀ h ∈ s.cel.xbar, h.who ≠ .thread t) :
    drainThread s t = { s with cmp := { s.cmp with replies := s.cmp.replies.filter (fun r => r.slot ≠ t) } } := by
  have hmine : s.cel.xbar.filter (fun h => h.who = .thread t && h.op.writes) = [] := by
    simp only [List.filter_eq_nil_iff, Bool.and_eq_true, decide_eq_true_eq]
    exact fun e he hw => h e he hw.1
  have hrest : s.cel.xbar.filter (fun h => h.who ≠ .thread t) = s.cel.xbar :=
    List.filter_eq_self.2 fun e he => by simpa using h e he
  rw [drainThread, hmine, hrest]
  rfl

/-- The end of a thread without a fault, in a task that has other threads left. -/
theorem cmp_threadEnd {s : State} {t : Nat} {y : Thread} (hy : s.thread t = some y)
    (hbar : ∀ h ∈ s.cel.xbar, h.who ≠ .thread t) {r : TaskRun} (hr : smGet s.cmp.tasks y.task = some r) (hl : 1 < r.live) :
    (threadEnd s t none).cmp = { s.cmp with
      replies := s.cmp.replies.filter (fun r => r.slot ≠ t)
      thr := smDel s.cmp.thr t
      tasks := smSet s.cmp.tasks y.task { r with live := r.live - 1 } } := by
  have hlive : ¬ r.live - 1 = 0 := by omega
  simp [threadEnd, hy, drainThread_of_none hbar, dropThreadWaits, dropWaiters, memberEnd, hr, hlive, b2n]

/-! ### Submissions (R125, R164) -/

/-- The tile of an OPCALL has entered queue k and is counted in the register of the queue. -/
def tileQueued (u : State) (x : Thread) (a k r : Nat) : State :=
  State.addMod { u with cmp := { u.cmp with
    opq := smPut u.cmp.opq k (u.opq k ++ [⟨u.cmp.nextTile, x.part, x.ctx, x.desc a, false, [], []⟩]) []
    nextTile := u.cmp.nextTile + 1 } } r fCmpOpqStatAccepted 1

theorem tileQueued_opq (u : State) (x : Thread) (a k r j : Nat) : (tileQueued u x a k r).opq j =
    if j = k then u.opq k ++ [⟨u.cmp.nextTile, x.part, x.ctx, x.desc a, false, [], []⟩] else u.opq j :=
  smGetD_smPut _ _ _ _ _

/-- What OPCALL does once its thread's stores are performed. -/
theorem exec_opcall {s u : State} {x : Thread} {t d a q : Nat} (hr : Runs (.opcall t d a q) s u x) (hx : x.stores = [])
    (he : u.enabled = true) (hq : (u.opq (4 * bayOfSlot t + q)).length < 64) :
    exec (.opcall t d a q) s = .next (
      if u.tileCode x.part (x.desc a) ≠ 0 then
        raise (retireReg (.opcall t d a q) (u.setFld (rCmpOpqStat (bayOfSlot t) q) fCmpOpqStatRefuseCode
          (u.tileCode x.part (x.desc a))) d (BitVec.ofNat 64 (u.tileCode x.part (x.desc a))))
          (rCmpOpqStat (bayOfSlot t) q) fCmpOpqStatRefused
      else
        retireReg (.opcall t d a q) (tileQueued u x a (4 * bayOfSlot t + q) (rCmpOpqStat (bayOfSlot t) q)) d 0) := by
  refine congrArg Host.Outcome.next ((issue_runs hr (roundTrip_of_instr _) rfl _).trans ?_)
  rw [release_of_none (by exact hx)]
  dsimp only
  rw [if_neg (by simp [he, hq])]
  rfl

theorem exec_opcall_full {s u : State} {x : Thread} {t d a q : Nat} (hr : Runs (.opcall t d a q) s u x) (hx : x.stores = [])
    (h : u.enabled = false ∨ 64 ≤ (u.opq (4 * bayOfSlot t + q)).length) :
    exec (.opcall t d a q) s = .next (retireReg (.opcall t d a q) u d 1) := by
  refine congrArg Host.Outcome.next ((issue_runs hr (roundTrip_of_instr _) rfl _).trans ?_)
  rw [release_of_none (by exact hx)]
  exact if_pos (h.imp_left (by simp))

/-- What SPAWN does with the descriptor once it has read it. -/
theorem exec_spawn {s u w : State} {x : Thread} {t d a : Nat} {desc : ReadData} {l : List Byte}
    (hr : Runs (.spawn t d a desc) s u x) (hx : x.stores = []) (he : u.enabled = true)
    (hq : (u.context x.m).queue.length < 64) (hal : (x.reg a).toNat % 64 = 0)
    (hread : unitRead u ⟨.thread t, x.m, (x.reg a).toNat, .read, bayOfSlot t, 0⟩ 64 desc = (w, .bytes l)) :
    exec (.spawn t d a desc) s = .next (retireReg (.spawn t d a desc)
      (if w.taskCode x.m l = 0 then queueTask w x.m l else w) d (BitVec.ofNat 64 (w.taskCode x.m l))) := by
  show execSpawn t d a desc s = _
  rw [execSpawn, issue_runs hr (roundTrip_of_instr _) rfl, release_of_none (by exact hx)]
  dsimp only [Thread.reg_issued]
  rw [if_neg (by simp [he, hq]), if_neg (not_not.2 hal), hread]

/-- A SPAWN that is refused before its descriptor is read. -/
theorem exec_spawn_refused {s u : State} {x : Thread} {t d a : Nat} {desc : ReadData} {code : Nat}
    (hr : Runs (.spawn t d a desc) s u x) (hx : x.stores = [])
    (h : (u.enabled = false ∨ 64 ≤ (u.context x.m).queue.length) ∧ code = 1 ∨
      (u.enabled = true ∧ (u.context x.m).queue.length < 64 ∧ (x.reg a).toNat % 64 ≠ 0) ∧ code = 2) :
    exec (.spawn t d a desc) s = .next (retireReg (.spawn t d a desc) u d (BitVec.ofNat 64 code)) := by
  show execSpawn t d a desc s = _
  rw [execSpawn, issue_runs hr (roundTrip_of_instr _) rfl, release_of_none (by exact hx)]
  dsimp only [Thread.reg_issued]
  obtain ⟨hfull, rfl⟩ | ⟨⟨he, hq, hal⟩, rfl⟩ := h
  · rw [if_pos (hfull.imp_left (by simp))]
  · rw [if_neg (by simp [he, hq]), if_pos hal]

/-! ### The parts of the statement -/

/-- A breakpoint that is allowed and does not freeze the block. -/
theorem brk_halts {s u : State} {x : Thread} {t : Nat} (hr : Runs (.brk t) s u x)
    (ha : u.brkAllowed x.part = true) : exec (.brk t) s = .next (brkHalt u t x) := by
  show execBrk t s = _
  rw [execBrk, issue_runs hr (roundTrip_of_instr _) rfl, if_pos (by exact ha)]

/-- EXIT of a thread whose task has other threads left. -/
theorem exit_frees {s u : State} {x : Thread} {t : Nat} {r : TaskRun} (hr : Runs (.exit t) s u x) (hx : x.stores = [])
    (hbar : ∀ h ∈ u.cel.xbar, h.who ≠ .thread t) (hrun : smGet u.cmp.tasks x.task = some r) (hlive : 1 < r.live) :
    ∃ v, exec (.exit t) s = .next v ∧ v.thread t = none ∧ smGet v.cmp.tasks x.task = some { r with live := r.live - 1 } ∧
      ∀ k, k ≠ t → v.thread k = u.thread k := by
  have ht : u.thread t = some (x.issued (.exit t)) := hr.thread
  obtain ⟨hcharge, -⟩ := charge_spec u t 1 _ ht
  have hcmp := cmp_threadEnd (thread_charge ht 1) (by rwa [charge_cel])
    (show smGet (charge u t 1).cmp.tasks x.task = some r by rw [hcharge]; exact hrun) hlive
  refine ⟨threadEnd (charge u t 1) t none, ?_, ?_, ?_, fun k hk => ?_⟩
  · show execExit t s = _
    rw [execExit, issue_runs hr (roundTrip_of_instr _) rfl, release_of_none (by exact hx)]
  · rw [State.thread, hcmp]; simp
  · rw [hcmp]; simp [Thread.issued]
  · rw [State.thread, hcmp, hcharge]; simp [hk, State.thread]

/-- Settles O14. RDS 8 reads the issue slots before its own (assumption log 31): the value is read before the charge. -/
theorem systemAndSubmit : Obligations.SystemAndSubmit := by
  refine ⟨⟨fun s u x t d r hrun => ⟨fun hr => computes_rds hr rfl,
      fun hr => computes_rds hr (by simp [sysValue, hrun]), fun hr => computes_rds hr rfl,
      fun hr => computes_rds hr rfl, fun hr => computes_rds hr rfl, fun hr => computes_rds hr rfl,
      fun hr => computes_rds hr rfl, fun hr => computes_rds hr rfl, fun hr => computes_rds hr rfl⟩,
    fun s u x t hr hl he hf hs => ?_, fun s u x t r => exit_frees, fun s f hc => ?_⟩,
    fun s u x t d a q hr hx => ⟨fun he hq hcode => ?_, fun h => ?_, fun he hq hcode => ?_⟩,
    fun s u w x t d a desc l hr hx => ⟨fun h => ?_, fun he hq hal => ?_, fun he hq hal hread hw => ?_⟩⟩
  · obtain ⟨hthread, hhalted, hpc, hbrk⟩ := brkHalt_spec hr.thread hf x
    exact ⟨_, _, brk_halts hr (brkAllowed_of hl he hs), hthread, rfl, rfl, hhalted, hpc, hbrk⟩
  · refine ⟨_, congrArg Host.Outcome.next (whenReached_of_lt hc (by decide) brkResume), rfl, fun t x hx => ?_⟩
    exact (readyAll_thread _ _ _).trans (by rw [hx]; rfl)
  · have he' := exec_opcall hr hx he hq
    rw [if_neg (not_not.2 hcode)] at he'
    have hthread : (tileQueued u x a (4 * bayOfSlot t + q) (rCmpOpqStat (bayOfSlot t) q)).thread t =
      some (x.issued (.opcall t d a q)) := hr.thread
    obtain ⟨v, y, hexec, hdone, hreg, -⟩ := computes_of_retireReg hthread (reg_lt_of_wfR hr.1) he' rfl
    refine ⟨v, y, hexec, hdone.thread, hreg, ?_, fun j hj => ?_, ?_⟩
    · rw [State.opq, hdone.cmp]; exact (tileQueued_opq u x a _ (rCmpOpqStat (bayOfSlot t) q) _).trans (if_pos rfl)
    · rw [State.opq, hdone.cmp]; exact (tileQueued_opq u x a _ (rCmpOpqStat (bayOfSlot t) q) _).trans (if_neg hj)
    · rw [hdone.cmp]; rfl
  · obtain ⟨v, y, hexec, hdone, hreg, -⟩ := computes_of_retireReg hr.thread (reg_lt_of_wfR hr.1) (exec_opcall_full hr hx h) rfl
    exact ⟨v, y, hexec, hdone.thread, hreg, by rw [hdone.cmp]⟩
  · have he' := exec_opcall hr hx he hq
    rw [if_pos hcode] at he'
    obtain ⟨y, hthread, hreg, hopq⟩ := raised_retireReg (i := .opcall t d a q)
      (w := u.setFld (rCmpOpqStat (bayOfSlot t) q) fCmpOpqStatRefuseCode (u.tileCode x.part (x.desc a))) hr.thread
      (reg_lt_of_wfR hr.1) _ (rCmpOpqStat (bayOfSlot t) q) fCmpOpqStatRefused
    exact ⟨_, y, he', hthread, hreg, hopq, State.fld_raise _ _ _ (by decide)⟩
  · exact computes_of_retireReg hr.thread (reg_lt_of_wfK hr.1) (exec_spawn_refused hr hx (.inl ⟨h, rfl⟩)) rfl
  · exact computes_of_retireReg hr.thread (reg_lt_of_wfK hr.1) (exec_spawn_refused hr hx (.inr ⟨⟨he, hq, hal⟩, rfl⟩)) rfl
  · have hthread : (if w.taskCode x.m l = 0 then queueTask w x.m l else w).thread t = some (x.issued (.spawn t d a desc)) :=
      ite_keeps (P := fun s : State => s.thread t = _) hw hw
    obtain ⟨v, y, hexec, hdone, hreg, -⟩ :=
      computes_of_retireReg hthread (reg_lt_of_wfK hr.1) (exec_spawn hr hx he hq hal hread) rfl
    refine ⟨v, y, hexec, hdone.thread, hreg, ?_⟩
    rw [State.context, hdone.cmp]
    split
    · exact (smGetD_smPut _ _ _ _ _).trans (if_pos rfl)
    · rw [List.append_nil]; rfl

end Sys2Proof.Machine
end

section
/-! SUPPORT. A replica request beyond the data window of R50, which the register that holds the backed size admits; and the
refutation of StacksSynchronise. -/

namespace Sys2Proof.Machine

open Sys2Proof

/-- A request of stack 1 for a replica of the region at 2^38, which has the number 2^22. -/
def farRequest : RMsg := { blankMsg with typ := 0xA, vc := 3, tag := 7, srcS := 1, addr := 2 ^ 38 }

/-- Stack 0 with port 1 in SECURE, its backed size at 2^39, and region 2^22 advised as one that may be replicated. -/
def farShared : State :=
  { strayState with
    regs := (({ strayState with ral := {} } : State).setFld rHbmCap fHbmCapBackedTop (2 ^ 39)).regs
    plc := { advice := [(2 ^ 22, 1, 4)] }
    ral := { ports := [(1, { RalPort.initial with state := 6 })] } }

theorem farRequest_arrives : (farShared.on = true ∧ farShared.freeze ≠ 2) ∧ farRequest ∉ (farShared.port 1).rxq ∧
    (farShared.port 1).framing = true ∧ (farShared.port 1).state = 6 := by decide +kernel

theorem farRequest_taken : Takes farShared 1 farRequest 0xA farShared := by
  obtain ⟨⟨hon, hfreeze⟩, hnew, hframing, hstate⟩ := farRequest_arrives
  exact ⟨⟨hon, hfreeze, by decide⟩, rfl, .inr ⟨hnew, hframing, .inl hstate, rfl⟩⟩

theorem farShared_serves : farShared.own farRequest = true ∧ farShared.asleep = false ∧ farShared.holds = false ∧
    farRequest.srcT = farShared.trellisId ∧ farRequest.srcS ≠ farShared.stackId := by decide +kernel

theorem farShared_grants : farShared.backed (2 ^ 38) = true ∧ farShared.adviceOf (2 ^ 22) / 4 % 2 = 1 ∧
    farShared.partOfAddr (2 ^ 38) = none ∧ farShared.sharersOf (2 ^ 22) = none ∧ farShared.plc.dir.length < 16384 := by
  decide +kernel

/-- The directory after a command. -/
def dirAfter (o : Host.Outcome State Fault Refusal) : Option (List DirEnt) :=
  match o with
  | .next v => some v.plc.dir
  | _ => none

/-- A region has 22 bits (R247), so that the request is one for region 0, which is not advised. -/
theorem dirAfter_farRequest : dirAfter (exec (.replReq 1 farRequest) farShared) = some [] := by decide +kernel

/-- Refutes O51, in the clause of a granted replica. HBM_CAP admits a backed size of 2^40 bytes, and the statement counts the
regions of such an address beyond the 22 bits that number a region (R247): the stack looks for the advice of region 0 and
refuses a request that the statement grants for the advice of region 2^22. -/
theorem not_stacksSynchronise : ¬ Obligations.StacksSynchronise := by
  rintro ⟨-, -, hrepl, -⟩
  obtain ⟨hown, hasleep, hholds, htrellis, hstack⟩ := farShared_serves
  obtain ⟨hbacked, hadvice, hpart, hsharers, hlength⟩ := farShared_grants
  have haddr : farRequest.addr % 2 ^ 43 = 2 ^ 38 := rfl
  have hregion : farRequest.addr % 2 ^ 43 / 65536 = 2 ^ 22 := rfl
  obtain ⟨hgrant, -⟩ := hrepl farShared farShared 1 farRequest farRequest_taken hown hasleep hholds
  obtain ⟨hnew, -⟩ := hgrant htrellis hstack (by rw [haddr]; exact hbacked) (by rw [hregion]; exact hadvice)
    (fun p hp => by rw [haddr, hpart] at hp; cases hp)
  obtain ⟨v, hexec, -, hdir, -⟩ := hnew (by rw [hregion]; exact hsharers) hlength
  have hafter : dirAfter (exec (.replReq 1 farRequest) farShared) = some v.plc.dir := by rw [hexec]; rfl
  rw [dirAfter_farRequest, hdir] at hafter
  simp at hafter

end Sys2Proof.Machine
end

section
/-! SUPPORT. Requests at the slice that holds their line (R144, R145, R196 to R198, R213): the request leaves the crossbar
and comes to the slice, its operation is applied to the entry, and its requester has the answer; the proof of
SlicesServeRequests. -/

namespace Sys2Proof.Machine

open Sys2Proof

/-! ### A request on its way to the slice -/

/-- The state in which a request is carried out: it has left the crossbar and has been counted. -/
def atSlice (s : State) (r : SReq) : State := countHeat (takeXbar s r).1 r.who (lineAddr r.addr)

theorem takeXbar_eq (s : State) (r : SReq) :
    ∃ x, (takeXbar s r).1 = { s with cel := { s.cel with xbar := x } } ∧ ∀ h ∈ x, h ∈ s.cel.xbar := by
  unfold takeXbar
  split
  · exact ⟨s.cel.xbar, rfl, fun _ h => h⟩
  · exact ⟨_, rfl, fun _ h => List.mem_of_mem_erase h⟩

theorem atSlice_eq (s : State) (r : SReq) :
    ∃ x p, atSlice s r = { s with cel := { s.cel with xbar := x }, plc := p } := by
  obtain ⟨x, hx, -⟩ := takeXbar_eq s r
  exact ⟨x, _, by rw [atSlice, countHeat_eq, hx]⟩

theorem only_atSlice (s : State) (r : SReq) : Only [.cel, .plc] s (atSlice s r) := by
  obtain ⟨x, p, h⟩ := atSlice_eq s r
  rw [h]
  exact ((only_cel s { s.cel with xbar := x }).mono (by decide)).trans
    ((only_plc { s with cel := { s.cel with xbar := x } } p).mono (by decide))

theorem atSlice_frames (s : State) (r : SReq) : (atSlice s r).cel.frames = s.cel.frames := by
  obtain ⟨x, p, h⟩ := atSlice_eq s r
  rw [h]

theorem atSlice_slice (s : State) (r : SReq) (n : Nat) : (atSlice s r).slice n = s.slice n := by
  obtain ⟨x, p, h⟩ := atSlice_eq s r
  rw [h]
  rfl

theorem atSlice_inSealed (s : State) (r : SReq) (a : Nat) : (atSlice s r).inSealed a = s.inSealed a := by
  obtain ⟨x, p, h⟩ := atSlice_eq s r
  rw [h]
  rfl

theorem Serves.takeXbar {s : State} {r : SReq} {writes : Bool} {n : Nat} (h : Serves s r writes n) :
    Serves (takeXbar s r).1 r writes n := by
  obtain ⟨x, hx, hsub⟩ := takeXbar_eq s r
  obtain ⟨hlive, ⟨hbacked, hserver, hactive, hidle, hsound, hturn, hwf⟩, hpermit, hpool, hhome, hsent⟩ := h
  rw [hx]
  exact ⟨hlive, ⟨hbacked, hserver, hactive, hidle, hsound, hturn, hwf⟩, hpermit, hpool, hhome,
    fun y hy => hsent y (hsub y hy)⟩

/-! ### The entry that the request finds -/

section
variable {s : State} {r : SReq} {n w : Nat} {f : Frame} {l : LineEnt}

theorem not_filling (h : l.st = .clean ∨ l.st = .dirty) : l.st ≠ .filling := by
  rcases h with h | h <;> rw [h] <;> decide

theorem findLine_atSlice (hh : Holds s n r.addr w f l) :
    (atSlice s r).findLine n (lineAddr r.addr) = some (w, f, l) :=
  (findLine_congr (atSlice_frames s r) n _).trans hh.line

/-- What a read of the entry changes is its slice's merge table. -/
theorem readEnt_waits (s : State) (n a : Nat) : ((readEnt s n a []).1.slice n).waits = (s.slice n).waits := by
  unfold readEnt
  split
  · rfl
  · split
    · rfl
    · split
      · rfl
      · simp

theorem readEnt_atSlice (hh : Holds s n r.addr w f l) :
    ∃ u, readEnt (atSlice s r) n (lineAddr r.addr) [] = (u, s.delivers n (lineAddr r.addr) l, l.poison) ∧
      Only [.cel, .plc] s u ∧ u.cel.frames = s.cel.frames ∧ (u.slice n).waits = (s.slice n).waits := by
  obtain ⟨u, hread, honly, hframes⟩ := readEnt_spec (findLine_atSlice (r := r) hh)
  have hdel : (atSlice s r).delivers n (lineAddr r.addr) l = s.delivers n (lineAddr r.addr) l := by
    simp only [State.delivers, atSlice_slice]
  have hwaits := readEnt_waits (atSlice s r) n (lineAddr r.addr)
  rw [hread, atSlice_slice] at hwaits
  exact ⟨u, by rw [hread, hdel], (only_atSlice s r).trans (honly.mono (by decide)),
    hframes.trans (atSlice_frames s r), hwaits⟩

/-- A request that passes its checks and whose operation applies is answered. -/
theorem arrive_applied {op : SliceOp} (hs : Serves s r op.writes n) (hm : op.manages = false) (hr : op.reserved = false)
    (hh : Holds s n r.addr w f l) (hst : l.st = .clean ∨ l.st = .dirty) {t : State} {x : Ans}
    (ha : applyOp (atSlice s r) n ⟨r.who, r.addr, r.hint, op⟩ [] = some (t, x)) :
    arrive s r op [] = reply t ⟨r.who, r.addr, r.hint, op⟩ x := by
  have hturn : ∀ y ∈ ((atSlice s r).slice n).victim ++ ((atSlice s r).slice n).side, lineAddr y.addr ≠ lineAddr r.addr := by
    rw [atSlice_slice]
    exact hs.free.turn
  have hreq := sliceReq_of_serves hs.takeXbar (op := op) rfl hm hr
  have hrun := runOrdered_of_found (h := ⟨r.who, r.addr, r.hint, op⟩) hturn (findLine_atSlice hh) (not_filling hst) ha
  exact (if_pos hs.live).trans (hreq.trans hrun)

/-! ### Writing the entry -/

theorem Only.thr_eq {m : List Area} {s t : State} (h : Only m s t) (hm : .cmp ∉ m) : t.cmp.thr = s.cmp.thr :=
  congrArg CmpSt.thr (h.2 .cmp hm)

theorem answerAck_flag_thr (s : State) (who : Requester) (addr status : Nat) (v : Word) :
    (answerAck s who true addr status v).cmp.thr = s.cmp.thr := by
  unfold answerAck
  split
  · rfl
  · exact (only_respond _ _ _ _ _ _).thr_eq (by decide)
  · rfl

/-- The waits that an update ends are flag operations, whose answers leave the threads as they are. -/
theorem releaseWaits_thr (s : State) (n a : Nat) (d : Line) (p : BitVec 4) (be : BitVec 128) :
    (releaseWaits s n a d p be).cmp.thr = s.cmp.thr := by
  unfold releaseWaits
  extract_lets x touched sick ends s1
  exact foldS_keeps (P := fun u : State => u.cmp.thr = s.cmp.thr) _ _ (fun u e hu =>
    ite_keeps (P := fun v : State => v.cmp.thr = s.cmp.thr) ((answerAck_flag_thr _ _ _ _ _).trans hu)
      ((answerAck_flag_thr _ _ _ _ _).trans hu)) rfl

theorem updLine_thr {u v : State} {a hint : Nat} {d : Line} {p : BitVec 4} {be : BitVec 128}
    (hwf : smWf u.cel.frames = true) (hf : u.findLine n a = some (w, f, l)) (one : u.entriesOf n a = [l])
    (fits : Fits f l (classFor d p)) (h : updLine u n a l d p hint be = some v) : v.cmp.thr = u.cmp.thr := by
  obtain ⟨t, q, ht, honly, -⟩ := replaceEnt_spec (s := mergeClear u n a) hwf hf one
    (e := { l with st := .dirty, data := d, poison := p, hint := hint, cls := classFor d p }) rfl fits
  rw [updLine, ht, Option.map_some, Option.some.injEq] at h
  rw [← h, releaseWaits_thr]
  exact honly.thr_eq (by decide)

/-- The entry is written in a state that differs from the one before the request in the crossbar and the merge tables. -/
theorem updLine_served (hs : Serves s r true n) (hh : Holds s n r.addr w f l) {u : State} (hu : Only [.cel, .plc] s u)
    (hframes : u.cel.frames = s.cel.frames) {d : Line} {p : BitVec 4} (fits : Fits f l (classFor d p)) (be : BitVec 128) :
    ∃ v, updLine u n (lineAddr r.addr) l d p r.hint be = some v ∧ Only servedIn s v ∧ LineWritten s v r n d p ∧
      v.cmp.thr = s.cmp.thr := by
  have hwf : smWf u.cel.frames = true := by rw [hframes]; exact hs.free.wf
  have hf := (findLine_congr hframes n (lineAddr r.addr)).trans hh.line
  have one := (entriesOf_congr hframes n (lineAddr r.addr)).trans hh.one
  obtain ⟨v, hv, honly, hent, hmerge, hoth⟩ := updLine_spec hwf hf one fits r.hint be
  refine ⟨v, hv, (hu.mono (by decide)).trans (honly.mono (by decide)), ⟨hent, ?_, hoth.congr hframes.symm rfl⟩, ?_⟩
  · simpa using hmerge
  · exact (updLine_thr hwf hf one fits hv).trans (hu.thr_eq (by decide))

theorem LineWritten.congr {v t : State} {d : Line} {p : BitVec 4} (h : LineWritten s v r n d p) (ht : t.cel = v.cel) :
    LineWritten s t r n d p := by
  obtain ⟨⟨e, hent, hst⟩, hmerge, hoth⟩ := h
  have hframes : t.cel.frames = v.cel.frames := by rw [ht]
  exact ⟨⟨e, (entriesOf_congr hframes n _).trans hent, hst⟩, by rw [State.slice, ht]; exact hmerge, hoth.congr rfl hframes⟩

/-! ### Reads (R196, R197) -/

/-- An entry whose class is kept takes its new content in its place. -/
theorem replaceEnt_inPlace {u : State} {a : Nat} (hwf : smWf u.cel.frames = true) (hf : u.findLine n a = some (w, f, l))
    (one : u.entriesOf n a = [l]) {e : LineEnt} (he : e.line = l.line) (hc : e.cls = l.cls) (hq : e.quarter = l.quarter) :
    ∃ v, replaceEnt u n a e = some v ∧ Only [.cel] u v ∧ v.entriesOf n a = [e] ∧ OthersKept u v a := by
  obtain ⟨m₁, m₂, h⟩ := found_of_findLine hf
  have hsame : ({ e with quarter := l.quarter } : LineEnt) = e := by rw [← hq]
  have put := only_putFrame u n (setOf a) w (f.swap l e u.cel.clock)
  have done := fun v => h.replaced hwf one (he.trans h.line_eq) u.cel.clock (u := v)
  unfold replaceEnt
  rw [hf]
  dsimp only
  rw [if_pos hc, hsame]
  exact ⟨_, rfl, put.trans (only_cel _ _), (done _ rfl).1, (done _ rfl).2⟩

/-- What the read of a present line leaves of its entry: in place with the hint of the read, or DEAD (R197). -/
theorem applyOp_read (hs : Serves s r false n) (hh : Holds s n r.addr w f l) (hst : l.st = .clean ∨ l.st = .dirty) :
    ∃ v, applyOp (atSlice s r) n ⟨r.who, r.addr, r.hint, .read r.hint⟩ [] =
        some (v, ⟨s.delivers n (lineAddr r.addr) l, l.poison, 0, 0⟩) ∧
      Only [.cel, .plc, .regs] s v ∧ OthersKept s v (lineAddr r.addr) ∧
      (r.hint < 3 → v.entriesOf n (lineAddr r.addr) = [{ l with hint := r.hint }]) ∧
      (r.hint = 3 → s.inSealed (lineAddr r.addr) = false →
        ∃ x, v.entriesOf n (lineAddr r.addr) = [x] ∧ x.st = .dead ∧ x.data = 0 ∧ x.poison = 0) := by
  obtain ⟨u, hread, honly, hframes, -⟩ := readEnt_atSlice (r := r) hh
  have hcount := (countEv_spec u 5 0xFF (partByte ((atSlice s r).partOfAddr (lineAddr r.addr))) 1).1
  set c := countEv u 5 0xFF (partByte ((atSlice s r).partOfAddr (lineAddr r.addr))) 1 with hc
  have hcframes : c.cel.frames = s.cel.frames := by rw [hcount]; exact hframes
  have hconly : Only [.cel, .plc, .regs] s c := by
    rw [hcount]
    exact (honly.mono (by decide)).trans ((only_regs _ _).mono (by decide))
  have hwf : smWf c.cel.frames = true := by rw [hcframes]; exact hs.free.wf
  have hf := (findLine_congr hcframes n (lineAddr r.addr)).trans hh.line
  have one := (entriesOf_congr hcframes n (lineAddr r.addr)).trans hh.one
  have happ : applyOp (atSlice s r) n ⟨r.who, r.addr, r.hint, .read r.hint⟩ [] =
      (if r.hint = 3 ∧ ¬ s.inSealed (lineAddr r.addr) then
          replaceEnt (mergeClear c n (lineAddr r.addr)) n (lineAddr r.addr) (l.empty .dead)
        else replaceEnt c n (lineAddr r.addr) { l with hint := if r.hint = 3 then 0 else r.hint }).map
        (fun t => (t, ⟨s.delivers n (lineAddr r.addr) l, l.poison, 0, 0⟩)) := by
    simp only [applyOp, findLine_atSlice hh, if_pos hst, hread, ← hc, hf, atSlice_inSealed]
    split <;> rfl
  rw [happ]
  by_cases hlast : r.hint = 3 ∧ ¬ s.inSealed (lineAddr r.addr) = true
  · obtain ⟨v, q, hv, vonly, hent, hoth, -⟩ := replaceEnt_spec (s := mergeClear c n (lineAddr r.addr)) hwf hf one
      (e := l.empty .dead) rfl (.inr (by simp [LineEnt.empty, Frame.fit]))
    refine ⟨v, by rw [if_pos hlast, hv]; rfl,
      (hconly.trans ((only_mergeClear _ _ _).mono (by decide))).trans (vonly.mono (by decide)),
      hoth.congr hcframes.symm rfl, fun h => absurd hlast.1 (by omega), fun _ _ => ⟨_, hent, rfl, rfl, rfl⟩⟩
  · obtain ⟨v, hv, vonly, hent, hoth⟩ := replaceEnt_inPlace hwf hf one
      (e := { l with hint := if r.hint = 3 then 0 else r.hint }) rfl rfl rfl
    refine ⟨v, by rw [if_neg hlast, hv]; rfl, hconly.trans (vonly.mono (by decide)), hoth.congr hcframes.symm rfl,
      fun h => ?_, fun h hopen => absurd ⟨h, by simp [hopen]⟩ hlast⟩
    rw [hent, if_neg (by omega)]

theorem only_answerRead (s : State) (who : Requester) (addr : Nat) (d : Line) (p : BitVec 4) (status : Nat) :
    Only (.cmp :: portIn) s (answerRead s who addr d p status) := by
  unfold answerRead
  split
  · exact (only_cmp s _).mono (by decide)
  · exact (only_emit s _).mono (by decide)
  · exact (only_respond _ _ _ _ _ _).mono (by decide)
  · exact (only_cmp s _).mono (by decide)
  · exact .refl _ s

/-- The requester of a read has its line, whether a thread or a function. -/
theorem readAnswered_answerRead {v : State} (hcmp : v.cmp = s.cmp) (hout : v.out = s.out) (d : Line) (p : BitVec 4) :
    ReadAnswered s (answerRead v r.who r.addr d p 0) r d p := by
  refine ⟨fun k hk => ?_, fun g tag len hg hp => ?_⟩
  · rw [hk]
    simp [answerRead, hcmp]
  · rw [hg]
    simp [answerRead, hp, hout, State.emit]

/-! ### Answers of writes and flag operations -/

/-- A store of a thread has been performed (R139). -/
theorem storePerformed_answerAck {v : State} (hthr : v.cmp.thr = s.cmp.thr) :
    StorePerformed s (answerAck v r.who false r.addr 0 0) r := by
  intro k x e hk hx he
  have hv : smGet v.cmp.thr k = some x := by rw [hthr]; exact hx
  rw [hk]
  show ∃ y, (storeDone v k (inLine r.addr)).thread k = some y ∧ _
  simp only [storeDone, hv, he]
  exact ⟨_, (smGet_smSet _ _ _ _).trans (if_pos rfl), rfl, rfl, rfl⟩

theorem flagAnswered_answerAck (v : State) (r : SReq) (status : Nat) (x : Word) :
    FlagAnswered (answerAck v r.who true r.addr status x) r status x := by
  intro k hk
  rw [hk]
  simp [answerAck]

theorem manages_of_writes {op : SliceOp} (hw : op.writes = true) : op.manages = false := by
  cases op with
  | write | accum | flagSet | flagAdd | flagWait => rfl
  | _ => simp [SliceOp.writes] at hw

/-- An operation that writes its line, or waits for that, is answered with an acknowledgement. -/
theorem reply_of_writes {op : SliceOp} (hw : op.writes = true) {x : Ans} (hx : x.status ≠ 8) (v : State) (who : Requester)
    (addr hint : Nat) : reply v ⟨who, addr, hint, op⟩ x = answerAck v who op.flag addr x.status x.word := by
  cases op with
  | write | accum | flagSet | flagAdd | flagWait => simp [reply, SliceOp.manages, hx]
  | _ => simp [SliceOp.writes] at hw

/-- A request whose operation applies and is acknowledged. -/
theorem arrive_acked {op : SliceOp} (hs : Serves s r true n) (hw : op.writes = true) (hr : op.reserved = false)
    (hh : Holds s n r.addr w f l) (hst : l.st = .clean ∨ l.st = .dirty) {v : State} {x : Ans} (hx : x.status ≠ 8)
    (ha : applyOp (atSlice s r) n ⟨r.who, r.addr, r.hint, op⟩ [] = some (v, x)) :
    arrive s r op [] = answerAck v r.who op.flag r.addr x.status x.word :=
  (arrive_applied (by rw [hw]; exact hs) (manages_of_writes hw) hr hh hst ha).trans (reply_of_writes hw hx _ _ _ _)

/-- A request that writes its line, and is acknowledged. -/
theorem arrive_writes {op : SliceOp} (hs : Serves s r true n) (hw : op.writes = true) (hr : op.reserved = false)
    (hh : Holds s n r.addr w f l) (hst : l.st = .clean ∨ l.st = .dirty) {u : State} (hu : Only [.cel, .plc] s u)
    (hframes : u.cel.frames = s.cel.frames) {d : Line} {p : BitVec 4} {be : BitVec 128} {x : Ans}
    (happ : applyOp (atSlice s r) n ⟨r.who, r.addr, r.hint, op⟩ [] =
      (updLine u n (lineAddr r.addr) l d p r.hint be).map (fun t => (t, x))) (fits : Fits f l (classFor d p))
    (hx : x.status ≠ 8) :
    ∃ v, arrive s r op [] = answerAck v r.who op.flag r.addr x.status x.word ∧
      Only servedIn s (arrive s r op []) ∧ LineWritten s (arrive s r op []) r n d p ∧ v.cmp.thr = s.cmp.thr := by
  obtain ⟨v, hv, honly, hwritten, hthr⟩ := updLine_served hs hh hu hframes fits be
  have hack : Only answeredIn v (answerAck v r.who op.flag r.addr x.status x.word) := only_answerAck _ _ _ _ _ _
  rw [arrive_acked hs hw hr hh hst hx (by rw [happ, hv]; rfl)]
  exact ⟨v, rfl, honly.trans (hack.mono (by decide)), hwritten.congr (hack.2 .cel (by decide)), hthr⟩

/-! ### What each operation does to the entry (R113, R144, R145, R198) -/

section
variable {v : State} {who : Requester} {addr hint : Nat} (hf : v.findLine n (lineAddr addr) = some (w, f, l))
include hf

theorem applyOp_write (d : Line) (p : BitVec 4) : applyOp v n ⟨who, addr, hint, .write (BitVec.allOnes 128) d p⟩ [] =
    (updLine v n (lineAddr addr) l d p hint (BitVec.allOnes 128)).map (fun t => (t, ⟨0, 0, 0, 0⟩)) := by
  simp only [applyOp, hf, if_true]

variable {u : State} {d : Line} {p : BitVec 4} (hread : readEnt v n (lineAddr addr) [] = (u, d, p))
include hread

theorem applyOp_accum (op : Nat) (mask : BitVec 16) (x : Sector) (bad : Bool) :
    applyOp v n ⟨who, addr, hint, .accum op mask x bad⟩ [] =
      (updLine u n (lineAddr addr) l
        (putSector d (addr % 128 / 32) (accumSector op mask (sectorOf d (addr % 128 / 32)) x))
        (if bad then p ||| BitVec.ofNat 4 (2 ^ (addr % 128 / 32)) else p) hint (sectorEnables (addr % 128 / 32))).map
        (fun t => (t, ⟨0, 0, 0, 0⟩)) := by
  simp only [applyOp, hf, hread]

theorem applyOp_flagSet (hp : p.getLsbD (addr % 128 / 32) = false) (x : Word) :
    applyOp v n ⟨who, addr, hint, .flagSet x⟩ [] =
      (updLine u n (lineAddr addr) l (putWord d (addr % 128) x) p hint (wordEnables (addr % 128))).map
        (fun t => (t, ⟨0, 0, 0, wordAt d (addr % 128)⟩)) := by
  simp only [applyOp, hf, hread, hp, Bool.false_eq_true, if_false]

theorem applyOp_flagSet_poisoned (hp : p.getLsbD (addr % 128 / 32) = true) (x : Word) :
    applyOp v n ⟨who, addr, hint, .flagSet x⟩ [] = some (u, ⟨0, 0, 5, 0⟩) := by
  simp only [applyOp, hf, hread, hp, if_true]

theorem applyOp_flagAdd (hp : p.getLsbD (addr % 128 / 32) = false) (x : Word) :
    applyOp v n ⟨who, addr, hint, .flagAdd x⟩ [] =
      (updLine u n (lineAddr addr) l (putWord d (addr % 128) (wordAt d (addr % 128) + x)) p hint
        (wordEnables (addr % 128))).map (fun t => (t, ⟨0, 0, 0, wordAt d (addr % 128)⟩)) := by
  simp only [applyOp, hf, hread, hp, Bool.false_eq_true, if_false]

/-- A WAIT whose condition holds ends. -/
theorem applyOp_flagWait_ends (hp : p.getLsbD (addr % 128 / 32) = false) {cond : Nat} {x : Word}
    (hc : flagCond cond (wordAt d (addr % 128)) x = true) :
    applyOp v n ⟨who, addr, hint, .flagWait cond x⟩ [] = some (u, ⟨0, 0, 0, wordAt d (addr % 128)⟩) := by
  simp only [applyOp, hf, hread, hp, hc, Bool.false_eq_true, if_false, if_true]

/-- A WAIT whose condition fails takes a wait entry of its slice. -/
theorem applyOp_flagWait_holds (hp : p.getLsbD (addr % 128 / 32) = false) {cond : Nat} {x : Word}
    (hc : flagCond cond (wordAt d (addr % 128)) x = false) (hroom : (u.slice n).waits.length < 128) :
    applyOp v n ⟨who, addr, hint, .flagWait cond x⟩ [] =
      some (u.setSlice n { u.slice n with waits := (u.slice n).waits ++ [⟨who, addr, cond, x⟩] }, ⟨0, 0, 8, 0⟩) := by
  simp only [applyOp, hf, hread, hp, hc, Bool.false_eq_true, if_false, if_neg (Nat.not_le.2 hroom)]

end

end

/-! ### The parts of the statement -/

section
variable {s : State} {r : SReq} {n w : Nat} {f : Frame} {l : LineEnt} (hh : Holds s n r.addr w f l)
  (hst : l.st = .clean ∨ l.st = .dirty)
include hh hst

/-- A read at its slice. -/
theorem sliceRead_served (hs : Serves s r false n) : Acts (.sliceRead r []) s servedIn (fun v =>
    ReadAnswered s v r (s.delivers n (lineAddr r.addr) l) l.poison ∧ OthersKept s v (lineAddr r.addr) ∧
      (r.hint < 3 → v.entriesOf n (lineAddr r.addr) = [{ l with hint := r.hint }]) ∧
      (r.hint = 3 → s.inSealed (lineAddr r.addr) = false →
        ∃ x, v.entriesOf n (lineAddr r.addr) = [x] ∧ x.st = .dead ∧ x.data = 0 ∧ x.poison = 0)) := by
  obtain ⟨v, happ, honly, hoth, hkeep, hdead⟩ := applyOp_read hs hh hst
  have hans := only_answerRead v r.who r.addr (s.delivers n (lineAddr r.addr) l) l.poison 0
  have hframes := congrArg CelSt.frames (hans.2 .cel (by decide))
  refine ⟨answerRead v r.who r.addr (s.delivers n (lineAddr r.addr) l) l.poison 0, ?_,
    (honly.mono (by decide)).trans (hans.mono (by decide)),
    readAnswered_answerRead (honly.2 .cmp (by decide)) (honly.2 .out (by decide)) _ _, hoth.congr rfl hframes,
    fun h => (entriesOf_congr hframes n _).trans (hkeep h), fun h hopen => ?_⟩
  · have hread : sliceReadX r [] s = arrive s r (.read r.hint) [] := by
      unfold sliceReadX takeXbar
      cases hx : s.cel.xbar.find? (fun h => h.who = r.who ∧ h.addr = r.addr) with
      | none => rfl
      | some h =>
        have hmine : h.who = r.who ∧ h.addr = r.addr := by simpa using List.find?_some hx
        exact congrArg (fun o => arrive s r o []) (if_neg (hs.sent h (List.mem_of_find?_eq_some hx) hmine.1 hmine.2))
    show Host.Outcome.next (sliceReadX r [] s) = _
    rw [hread, arrive_applied hs rfl rfl hh hst happ]
    rfl
  · obtain ⟨x, hx, hrest⟩ := hdead h hopen
    exact ⟨x, (entriesOf_congr hframes n _).trans hx, hrest⟩

variable (hs : Serves s r true n)
include hs

/-- A request that writes its line and performs a store of its thread. -/
theorem store_served {c : Instr} {op : SliceOp} (hexec : exec c s = .next (arrive s r op [])) (hw : op.writes = true)
    (hflag : op.flag = false) (hr : op.reserved = false) {u : State} (hu : Only [.cel, .plc] s u)
    (hframes : u.cel.frames = s.cel.frames) {d : Line} {p : BitVec 4} {be : BitVec 128}
    (happ : applyOp (atSlice s r) n ⟨r.who, r.addr, r.hint, op⟩ [] =
      (updLine u n (lineAddr r.addr) l d p r.hint be).map (fun t => (t, ⟨0, 0, 0, 0⟩))) (fits : Fits f l (classFor d p)) :
    Acts c s servedIn (fun v => LineWritten s v r n d p ∧ StorePerformed s v r) := by
  obtain ⟨v, harrive, honly, hwritten, hthr⟩ := arrive_writes hs hw hr hh hst hu hframes happ fits (by simp)
  refine ⟨_, hexec, honly, hwritten, ?_⟩
  rw [harrive, hflag]
  exact storePerformed_answerAck hthr

/-- A flag operation that updates its word and answers the old one. -/
theorem flag_served {c : Instr} {op : SliceOp} (hexec : exec c s = .next (arrive s r op [])) (hw : op.writes = true)
    (hflag : op.flag = true) (hr : op.reserved = false) {u : State} (hu : Only [.cel, .plc] s u)
    (hframes : u.cel.frames = s.cel.frames) {d : Line} {p : BitVec 4} {be : BitVec 128} {x : Word}
    (happ : applyOp (atSlice s r) n ⟨r.who, r.addr, r.hint, op⟩ [] =
      (updLine u n (lineAddr r.addr) l d p r.hint be).map (fun t => (t, ⟨0, 0, 0, x⟩))) (fits : Fits f l (classFor d p)) :
    Acts c s servedIn (fun v => LineWritten s v r n d p ∧ FlagAnswered v r 0 x) := by
  obtain ⟨v, harrive, honly, hwritten, -⟩ := arrive_writes hs hw hr hh hst hu hframes happ fits (by simp)
  refine ⟨_, hexec, honly, hwritten, ?_⟩
  rw [harrive, hflag]
  exact flagAnswered_answerAck v r 0 x

/-- A flag operation that is answered and writes nothing. -/
theorem flag_answered {c : Instr} {op : SliceOp} (hexec : exec c s = .next (arrive s r op [])) (hw : op.writes = true)
    (hflag : op.flag = true) (hr : op.reserved = false) {u : State} (hu : Only [.cel, .plc] s u)
    (hframes : u.cel.frames = s.cel.frames) (hwaits : (u.slice n).waits = (s.slice n).waits) {status : Nat} {x : Word}
    (h8 : status ≠ 8) (happ : applyOp (atSlice s r) n ⟨r.who, r.addr, r.hint, op⟩ [] = some (u, ⟨0, 0, status, x⟩)) :
    Acts c s servedIn (fun v => FlagAnswered v r status x ∧ v.cel.frames = s.cel.frames ∧
      (v.slice n).waits = (s.slice n).waits) := by
  have hack : Only answeredIn u (answerAck u r.who true r.addr status x) := only_answerAck _ _ _ _ _ _
  have hcel : (answerAck u r.who true r.addr status x).cel = u.cel := hack.2 .cel (by decide)
  refine ⟨answerAck u r.who true r.addr status x, ?_, (hu.mono (by decide)).trans (hack.mono (by decide)),
    flagAnswered_answerAck u r status x, by rw [hcel, hframes], by rw [State.slice, hcel]; exact hwaits⟩
  rw [hexec, arrive_acked hs hw hr hh hst h8 happ, hflag]

/-- A WAIT whose condition fails is held by a wait entry. -/
theorem flagWait_held {cond : Nat} {x : Word} (hp : l.poison.getLsbD (r.addr % 128 / 32) = false)
    (hc : flagCond cond (wordAt (s.delivers n (lineAddr r.addr) l) (r.addr % 128)) x = false)
    (hroom : (s.slice n).waits.length < 128) :
    Acts (.sliceFlagWait r cond x []) s servedIn (fun v => v.cmp = s.cmp ∧ v.cel.frames = s.cel.frames ∧
      (v.slice n).waits = (s.slice n).waits ++ [⟨r.who, r.addr, cond, x⟩]) := by
  obtain ⟨u, hread, hu, hframes, hwaits⟩ := readEnt_atSlice (r := r) hh
  have happ := applyOp_flagWait_holds (who := r.who) (hint := r.hint) (findLine_atSlice hh) hread hp hc
    (by rw [hwaits]; exact hroom)
  refine ⟨_, congrArg Host.Outcome.next (arrive_applied hs rfl rfl hh hst happ),
    (hu.mono (by decide)).trans ((only_setSlice u n _).mono (by decide)), hu.2 .cmp (by decide), hframes, ?_⟩
  show ((u.setSlice n _).slice n).waits = _
  rw [State.slice_setSlice, if_pos rfl, hwaits]

end

/-- The cancel of a WAIT that a wait entry holds (R146). -/
theorem flagCancel_served {s : State} {r : SReq} {n : Nat} {e : WaitEnt} (hl : s.live = true)
    (hn : s.server (lineAddr r.addr) = some n)
    (he : (s.slice n).waits.find? (fun e => e.who = r.who ∧ e.addr = r.addr) = some e) :
    Acts (.sliceFlagCancel r) s servedIn (fun v => (v.slice n).waits = (s.slice n).waits.erase e ∧
      v.cel.frames = s.cel.frames ∧
      FlagAnswered v r 7 (wordAt (s.peekLine (lineAddr r.addr)) (r.addr % 128))) := by
  set u : State := s.setSlice n { s.slice n with waits := (s.slice n).waits.erase e } with hu
  set y := wordAt (s.peekLine (lineAddr r.addr)) (r.addr % 128)
  have hcancel : flagCancel s r.who r.addr = answerAck u r.who true r.addr 7 y := by
    simp only [flagCancel, hn, Option.getD_some, he, hu, y]
  have hack : Only answeredIn u (answerAck u r.who true r.addr 7 y) := only_answerAck _ _ _ _ _ _
  have hcel : (answerAck u r.who true r.addr 7 y).cel = u.cel := hack.2 .cel (by decide)
  refine ⟨_, congrArg Host.Outcome.next ((if_pos hl).trans hcancel),
    ((only_setSlice s n _).mono (by decide)).trans (hack.mono (by decide)), ?_, by rw [hcel]; rfl,
    flagAnswered_answerAck u r 7 y⟩
  rw [State.slice, hcel, ← State.slice, hu, State.slice_setSlice, if_pos rfl]

/-- Settles O18, an operation at a time: what it does to the entry, then its answer. -/
theorem slicesServeRequests : Obligations.SlicesServeRequests := by
  refine ⟨fun s r n w f l hst hh => ⟨sliceRead_served hh hst, fun hs => ?_⟩, fun s r n e hl hn he => ?_⟩
  · obtain ⟨u, hread, hu, hframes, hwaits⟩ := readEnt_atSlice (r := r) hh
    have hf := findLine_atSlice (r := r) hh
    refine ⟨fun d p fits => ?_, fun be d p hbe fits => ?_, fun op mask x bad h1 h7 fits => ?_,
      fun x hp => ⟨fun fits => ?_, fun fits => ?_, fun cond hc => ?_,
        fun cond hc hroom => flagWait_held hh hst hs hp hc hroom⟩,
      fun x hp => ?_⟩
    · exact store_served hh hst hs rfl rfl rfl rfl (only_atSlice s r) (atSlice_frames s r) (applyOp_write hf d p) fits
    · have happ := applyOp_partWrite (who := r.who) (hint := r.hint) (d := d) (p := p) hbe hf
      rw [hread] at happ
      exact store_served hh hst hs rfl rfl rfl rfl hu hframes happ fits
    · have hop : (SliceOp.accum op mask x bad).reserved = false := by simp [SliceOp.reserved]; omega
      exact store_served hh hst hs rfl rfl rfl hop hu hframes (applyOp_accum hf hread op mask x bad) fits
    · exact flag_served hh hst hs rfl rfl rfl rfl hu hframes (applyOp_flagSet hf hread hp x) fits
    · exact flag_served hh hst hs rfl rfl rfl rfl hu hframes (applyOp_flagAdd hf hread hp x) fits
    · exact flag_answered hh hst hs rfl rfl rfl rfl hu hframes hwaits (by decide) (applyOp_flagWait_ends hf hread hp hc)
    · obtain ⟨v, hexec, honly, hans, hfr, -⟩ := flag_answered hh hst hs (c := .sliceFlagSet r x []) rfl rfl rfl rfl
        hu hframes hwaits (by decide) (applyOp_flagSet_poisoned hf hread hp x)
      exact ⟨v, hexec, honly, hans, hfr⟩
  · exact flagCancel_served hl hn he

end Sys2Proof.Machine
end

section
/-! SUPPORT. The dispatch of a tile (R166 to R169): a queue after a change of one tile, the footprints of a piece, the
translation of its pages, and the piece that a dispatcher starts. -/

namespace Sys2Proof.Machine

open Sys2Proof

/-! ### A queue after a change of one tile -/

/-- Tile `t` after the cut of its operator (R167). -/
def Tile.cutBy (t : Tile) (o : Oper) : Tile := if t.cut then t else { t with cut := true, pieces := cutTile o t.desc }

/-- A tile with piece `i` changed. -/
def Tile.onPiece (t : Tile) (i : Nat) (f : Piece → Piece) : Tile := { t with pieces := t.pieces.modify i f }

/-- Piece `i` of a tile in a queue. -/
def State.pieceAt (s : State) (q id i : Nat) : Option Piece := (s.tile q id).bind (fun t => t.pieces[i]?)

/-- What leaves the compute die alone leaves its queues alone. -/
theorem Only.tile {l : List Area} {s u : State} (h : Only l s u) (hl : .cmp ∉ l) (q id : Nat) : u.tile q id = s.tile q id := by
  rw [State.tile, State.opq, h.2 .cmp hl]
  rfl

theorem smDel_smSet {α : Type} (m : SMap α) (k : Nat) (v : α) : smDel (smSet m k v) k = smDel m k := by
  induction m with
  | nil => simp [smSet, smDel]
  | cons e m ih =>
    obtain ⟨i, w⟩ := e
    unfold smSet
    split
    · simp [smDel]
    · split
      · subst_vars
        simp [smDel]
      · unfold smDel at ih ⊢
        rw [List.filter_cons, List.filter_cons, ih]

theorem smPut_smPut {α : Type} [DecidableEq α] (m : SMap α) (k : Nat) {v d : α} (hv : v ≠ d) (w : α) :
    smPut (smPut m k v d) k w d = smPut m k w d := by
  unfold smPut
  rw [if_neg hv, smDel_smSet, smSet_smSet]

theorem opq_setOpq (s : State) (q : Nat) (l : List Tile) : (s.setOpq q l).opq q = l := by
  simp [State.opq, State.setOpq]

theorem opq_updTile (s : State) (q id : Nat) (f : Tile → Tile) :
    (updTile s q id f).opq q = (s.opq q).map (fun t => if t.id = id then f t else t) := opq_setOpq s q _

theorem tile_of_find {s : State} {q : Nat} {t : Tile} {test : Tile → Bool} (ht : (s.opq q).find? test = some t)
    (hn : ((s.opq q).map Tile.id).Nodup) : s.tile q t.id = some t := by
  have hmem := List.mem_of_find?_eq_some ht
  have hfound : (s.tile q t.id).isSome = true := List.find?_isSome.2 ⟨t, hmem, by simp⟩
  obtain ⟨x, hx⟩ := Option.isSome_iff_exists.1 hfound
  have hid : x.id = t.id := by simpa using List.find?_some hx
  rw [hx, List.inj_on_of_nodup_map hn (List.mem_of_find?_eq_some hx) hmem hid]

/-- The tile that a queue holds under a number, after that tile has been changed. -/
theorem tile_updTile (s : State) (q id : Nat) {f : Tile → Tile} (hf : ∀ t, t.id = id → (f t).id = id) :
    (updTile s q id f).tile q id = (s.tile q id).map f := by
  have hkeep : (fun t : Tile => decide ((if t.id = id then f t else t).id = id)) = fun t => decide (t.id = id) := by
    funext t
    by_cases h : t.id = id
    · simp [h, hf t h]
    · simp [h]
  rw [State.tile, opq_updTile, List.find?_map]
  show Option.map _ ((s.opq q).find? (fun t => decide ((if t.id = id then f t else t).id = id))) = _
  rw [hkeep]
  cases h : (s.opq q).find? (fun t => decide (t.id = id)) with
  | none => simp [State.tile, h]
  | some t =>
    have hid : t.id = id := by simpa using List.find?_some h
    simp [State.tile, h, hid]

/-- Where numbers are not used twice, a change of one tile depends on that tile alone. -/
theorem updTile_congr {s : State} {q : Nat} {t : Tile} {f g : Tile → Tile} (ht : s.tile q t.id = some t)
    (hn : ((s.opq q).map Tile.id).Nodup) (hfg : f t = g t) : updTile s q t.id f = updTile s q t.id g := by
  have hmap : ∀ x ∈ s.opq q, (if x.id = t.id then f x else x) = if x.id = t.id then g x else x := fun x hx => by
    by_cases hid : x.id = t.id
    · rw [List.inj_on_of_nodup_map hn hx (List.mem_of_find?_eq_some ht) hid, hfg]
    · simp only [if_neg hid]
  rw [updTile, List.map_congr_left hmap, updTile]

theorem updTile_updTile {s : State} {q id : Nat} {f : Tile → Tile} (hf : ∀ t, t.id = id → (f t).id = id)
    (hne : s.opq q ≠ []) (g : Tile → Tile) : updTile (updTile s q id f) q id g = updTile s q id (fun t => g (f t)) := by
  have hmap : ((s.opq q).map (fun t => if t.id = id then f t else t)).map (fun t => if t.id = id then g t else t) =
      (s.opq q).map (fun t => if t.id = id then g (f t) else t) := by
    rw [List.map_map]
    refine List.map_congr_left fun t _ => ?_
    by_cases h : t.id = id
    · simp [h, hf t h]
    · simp [h]
  rw [updTile, opq_updTile, hmap]
  show ({ s with cmp := { s.cmp with opq := smPut (smPut s.cmp.opq q _ []) q _ [] } } : State) = _
  rw [smPut_smPut _ _ (by simpa using hne)]
  rfl

theorem updPiece_eq (s : State) (q id i : Nat) (f : Piece → Piece) :
    updPiece s (q / 4) (q % 4) id i f = updTile s q id (fun t => t.onPiece i f) := by
  rw [updPiece, Nat.div_add_mod]
  rfl

theorem tile_updPiece (s : State) (q id i : Nat) (f : Piece → Piece) :
    (updPiece s (q / 4) (q % 4) id i f).tile q id = (s.tile q id).map (fun t => t.onPiece i f) := by
  rw [updPiece_eq, tile_updTile s q id (f := fun t => t.onPiece i f) fun _ h => h]

theorem pieceAt_updPiece (s : State) (q id i : Nat) (f : Piece → Piece) :
    (updPiece s (q / 4) (q % 4) id i f).pieceAt q id i = (s.pieceAt q id i).map f := by
  rw [State.pieceAt, tile_updPiece, State.pieceAt]
  cases s.tile q id <;> simp [Tile.onPiece]

theorem onPiece_eq_set {t : Tile} {i : Nat} {p : Piece} (hp : t.pieces[i]? = some p) (f : Piece → Piece) :
    t.onPiece i f = { t with pieces := t.pieces.set i (f p) } := by
  rw [Tile.onPiece, List.modify_eq_set_getElem?, hp]
  rfl

theorem only_updPiece (s : State) (b q id i : Nat) (f : Piece → Piece) : Only [.cmp] s (updPiece s b q id i f) :=
  only_cmp s _

theorem only_updTile (s : State) (q id : Nat) (f : Tile → Tile) : Only [.cmp] s (updTile s q id f) := only_cmp s _

/-! ### Footprints depend on the translations held alone (R168) -/

section
variable {s u : State} (h : u.xlt = s.xlt) (m b : Nat)
include h

theorem pageSize_congr (va : Nat) : u.pageSize m b va = s.pageSize m b va := by
  rw [State.pageSize, State.bayTlb, h, State.pageSize, State.bayTlb]

theorem pagesIn_congr (n va stop : Nat) (acc : SMap Nat) : pagesIn u m b n va stop acc = pagesIn s m b n va stop acc := by
  induction n generalizing va acc with
  | zero => rfl
  | succ n ih => simp only [pagesIn, pageSize_congr h, ih]

theorem footprint_congr (l : List (Nat × Nat)) : footprint u m b l = footprint s m b l := by
  simp only [footprint, pagesIn_congr h]

theorem tooWide_congr : tooWide u m b = tooWide s m b := by
  funext l
  rw [tooWide, footprint_congr h, tooWide]

theorem wideRow_congr (kind : Nat) : wideRow u m b kind = wideRow s m b kind := by
  funext o
  simp only [wideRow, tooWide_congr h]

theorem splitCuts_congr (ops : List Opnd) (n lo hi : Nat) : splitCuts u m b ops n lo hi = splitCuts s m b ops n lo hi := by
  induction n generalizing lo hi with
  | zero => rfl
  | succ n ih => simp only [splitCuts, tooWide_congr h, ih]

theorem fitPiece_congr (kind : Nat) (ops : List Opnd) (n : Nat) (p : Piece) (rest : List Piece) :
    fitPiece u m b kind ops n p rest = fitPiece s m b kind ops n p rest := by
  induction n generalizing p rest with
  | zero => rfl
  | succ n ih => simp only [fitPiece, tooWide_congr h, splitCuts_congr h, ih]

end

/-! ### Translation of the pages of a piece (R169) -/

theorem only_countEv (s : State) (ev bay part n : Nat) : Only [.regs] s (countEv s ev bay part n) := by
  rw [(countEv_spec s ev bay part n).1]
  exact only_regs s _

theorem only_fillBay (s : State) (b : Nat) (e : TlbEnt) : Only [.xlt] s (fillBay s b e) := only_xlt s _

theorem only_fillL2 (s : State) (e : TlbEnt) : Only [.xlt] s (fillL2 s e) := only_xlt s _

/-- What a translation may change: the translation unit, counters and the fault log, and messages sent. -/
def translatedIn : List Area := .xlt :: raisedIn

theorem only_logFault (s : State) (p fid va pasid acc port n resp : Nat) :
    Only raisedIn s (logFault s p fid va pasid acc port n resp) := by
  unfold logFault
  extract_lets b ring head next f rec_ s1
  split
  · exact .refl _ s
  · split
    · exact ((only_setFld s _ _ _).mono (by decide)).trans (only_raise _ _ _)
    · exact ((only_emit s _).mono (by decide)).trans
        (((only_setFld s1 _ _ _).mono (by decide)).trans (only_raise _ _ _))

theorem only_faultPart (s : State) (ws : List Waiter) (cause pasid port resp : Nat) :
    Only translatedIn s (faultPart s ws cause pasid port resp).1 := by
  cases ws with
  | nil => exact .refl _ s
  | cons w ws =>
    exact ((only_xlt s { s.xlt with seq := _ }).mono (by decide)).trans ((only_logFault _ _ _ _ _ _ _ _ _).mono (by decide))

theorem only_atsAsk (s : State) (f : Fn) (pasid : Nat) (w : Waiter) : Only translatedIn s (atsAsk s f pasid w) := by
  unfold atsAsk
  extract_lets page x s1
  split
  · exact (only_xlt s _).mono (by decide)
  · exact ((only_xlt s _).mono (by decide)).trans ((only_emit s1 _).mono (by decide))

theorem only_l2Hit {s u : State} {w : Waiter} {inBay : Bool} {e : TlbEnt} (h : l2Hit s w inBay = some (u, e)) :
    Only translatedIn s u := by
  obtain ⟨x, -, hx⟩ := Option.map_eq_some_iff.1 h
  have hu : (if inBay then fillBay (fillL2 s x) w.bay x else fillL2 s x) = u := congrArg Prod.fst hx
  rw [← hu]
  exact ite_keeps (P := Only translatedIn s)
    (((only_fillL2 s x).mono (by decide)).trans ((only_fillBay _ _ _).mono (by decide))) ((only_fillL2 s x).mono (by decide))

theorem only_translate (s : State) (w : Waiter) (inBay : Bool) : Only translatedIn s (translate s w inBay).1 := by
  unfold translate
  split
  · exact only_faultPart s _ _ _ _ _
  · split
    · exact (only_fillBay s _ _).mono (by decide)
    · extract_lets s0
      have hs0 : Only translatedIn s s0 :=
        ite_keeps (P := Only translatedIn s) ((only_countEv s _ _ _ _).mono (by decide)) (.refl _ s)
      split
      · exact hs0.trans (only_l2Hit ‹_›)
      · exact hs0.trans (only_atsAsk s0 _ _ w)

theorem only_xlatPages (w : Nat → Acc → Waiter) (r : PageRun) (l : List (Nat × Acc × Nat)) :
    Only translatedIn r.s (xlatPages w r l).s := by
  induction l generalizing r with
  | nil => exact .refl _ r.s
  | cons e l ih =>
    have ht := only_translate r.s (w e.1 e.2.1) true
    unfold xlatPages
    split <;> rename_i hu <;> rw [hu] at ht
    · exact ht
    · exact ht.trans (ih _)
    · exact ht.trans (ih _)

/-- What a place is to a piece rests on the shares, the seals, the replica pools and the piece's partition. -/
theorem placeStatus_congr {s u : State} (hsec : u.sec = s.sec) (hbup : u.bup = s.bup) (hplc : u.plc = s.plc)
    {b q id i : Nat} (hpart : (u.tile (4 * b + q) id).map Tile.part = (s.tile (4 * b + q) id).map Tile.part)
    (acc : Bool) (x : Phys) (ix : Nat) :
    u.placeStatus (.piece b q id i) acc x ix = s.placeStatus (.piece b q id i) acc x ix := by
  have howner : ∀ (w : State) (n : Nat), w.ofPart (.piece b q id i) n =
      (((w.tile (4 * b + q) id).map Tile.part).map (fun m => decide (m = n))).getD false := fun w n => by
    unfold State.ofPart State.tile State.opq
    dsimp only
    split <;> rename_i h <;> rw [h] <;> rfl
  have hof : ∀ n, u.ofPart (.piece b q id i) n = s.ofPart (.piece b q id i) n := fun n => by
    rw [howner, hpart, howner]
  have hpermits : ∀ w a, u.permits (.piece b q id i) w a = s.permits (.piece b q id i) w a := fun w a => by
    simp only [State.permits, State.sealedAt, hsec, hof]
  have hshare : ∀ n, u.part n = s.part n := fun n => by rw [State.part, State.part, hsec, hbup]
  have hfld : ∀ o f, u.plcFld o f = s.plcFld o f := fun o f => by simp only [State.plcFld, State.plcCfg, hplc, hbup]
  have hpoolOf : ∀ a, u.poolOf a = s.poolOf a := fun a => by simp only [State.poolOf, hfld, hshare]
  have hpool : ∀ r a, u.poolAllows (.piece b q id i) r a = s.poolAllows (.piece b q id i) r a := fun r a => by
    simp only [State.poolAllows, hpoolOf, hplc]
  cases x with
  | hbm a => simp only [State.placeStatus, hpermits, hpool]
  | bad | remote | host => rfl

/-- The pages of piece `i` of a tile, translated in their order. -/
def pieceRun (s : State) (q id i : Nat) (t : Tile) (o : Oper) (p : Piece) : PageRun :=
  xlatPages (fun va acc => ⟨.piece (q / 4) (q % 4) id i, 64 * t.part + t.ctx, va, acc, q / 4, 0⟩) ⟨s, [], [], [], none⟩
    (piecePages s (q / 4) t o p)

section
variable {s : State} {q id i : Nat} {t : Tile} {p : Piece} {o : Oper} (ht : s.tile q id = some t)
  (hp : t.pieces[i]? = some p) (ho : s.operOf t.part (td t.desc 0 1) = some o)
  (hf : (pieceRun s q id i t o p).fault = none)
include ht hp ho hf

/-- A piece of which pages are missing waits for them. -/
theorem pieceXlate_missing (hm : (pieceRun s q id i t o p).missing ≠ []) :
    pieceXlate s q id i = updPiece (pieceRun s q id i t o p).s (q / 4) (q % 4) id i
      (fun p' => { p' with ph := .translating (pieceRun s q id i t o p).missing }) := by
  unfold pieceRun at hf hm ⊢
  simp only [pieceXlate, ht, hp, ho, hf, if_pos hm]

/-- A piece whose pages are all translated and usable is translated, and holds the translations. -/
theorem pieceXlate_usable (hm : (pieceRun s q id i t o p).missing = [])
    (hok : ∀ e ∈ (pieceRun s q id i t o p).places, e.2.1 = 4 ∨
      (pieceRun s q id i t o p).s.placeStatus (pieceWho q id i) (tdAcc t.desc) e.1 e.2.1 = 0) :
    pieceXlate s q id i = updPiece (pieceRun s q id i t o p).s (q / 4) (q % 4) id i
      (fun p' => { p' with ph := .translated, trans := (pieceRun s q id i t o p).trans }) := by
  have hgood : (pieceRun s q id i t o p).places.filter (fun e => decide ((if e.2.1 = 4 then 0 else
      (pieceRun s q id i t o p).s.placeStatus (pieceWho q id i) (tdAcc t.desc) e.1 e.2.1) ≠ 0)) = [] := by
    refine List.filter_eq_nil_iff.2 fun e he => ?_
    rcases hok e he with h | h <;> simp [h]
  unfold pieceRun at hf hm hgood ⊢
  simp only [pieceXlate, ht, hp, ho, hf, hm, hgood, ne_eq, not_true_eq_false, if_false, List.find?_nil, List.head?_nil,
    Option.or_none]

end

/-! ### Dispatch (R166 to R168) -/

@[simp] theorem Tile.cutBy_id (t : Tile) (o : Oper) : (t.cutBy o).id = t.id := by unfold Tile.cutBy; split <;> rfl
@[simp] theorem Tile.cutBy_part (t : Tile) (o : Oper) : (t.cutBy o).part = t.part := by unfold Tile.cutBy; split <;> rfl
@[simp] theorem Tile.cutBy_ctx (t : Tile) (o : Oper) : (t.cutBy o).ctx = t.ctx := by unfold Tile.cutBy; split <;> rfl
@[simp] theorem Tile.cutBy_desc (t : Tile) (o : Oper) : (t.cutBy o).desc = t.desc := by unfold Tile.cutBy; split <;> rfl

/-- A tile whose piece `i` is `p`, with the pieces split off it (R168). -/
def Tile.fitted (t : Tile) (i : Nat) (p : Piece) (rest : List Piece) : Tile := { t with pieces := t.pieces.set i p ++ rest }

theorem Tile.fitted_piece {t : Tile} {i : Nat} (hi : t.nextPiece = some i) (p : Piece) (rest : List Piece) :
    (t.fitted i p rest).pieces[i]? = some p := by
  have hlt : i < t.pieces.length := (List.findIdx?_eq_some_iff_getElem.1 hi).1
  rw [Tile.fitted, List.getElem?_append_left (by simpa using hlt), List.getElem?_set_self hlt]

theorem nextQueue_lt {s : State} {b q : Nat} (h : s.nextQueue b = some q) : q < 4 := by
  have hmem := List.mem_of_find?_eq_some h
  simp only [List.mem_append] at hmem
  rcases hmem with h | h <;> split at h <;> simp at h <;> omega

section
variable {s : State} {q i : Nat} {t : Tile} {o : Oper} (ht : s.tile q t.id = some t)
  (hn : ((s.opq q).map Tile.id).Nodup)
include ht hn

/-- A tile of which no row alone exceeds 64 pages is cut, if it was not yet. -/
theorem cut_spec (hw : t.cut = true ∨
      (opnds o.kind t.desc).findSome? (wideRow s (64 * t.part + t.ctx) (q / 4) o.kind) = none) :
    ∃ u, (if t.cut then s else cutNow s q t o) = u ∧ u.tile q t.id = some (t.cutBy o) ∧ u.xlt = s.xlt ∧
      ∀ g, updTile u q t.id g = updTile s q t.id (fun _ => g (t.cutBy o)) := by
  cases hc : t.cut with
  | true =>
    have hcut : t.cutBy o = t := if_pos hc
    exact ⟨s, rfl, by rw [hcut]; exact ht, rfl, fun g => by rw [hcut]; exact updTile_congr ht hn rfl⟩
  | false =>
    have hcut : t.cutBy o = { t with cut := true, pieces := cutTile o t.desc } := if_neg (by simp [hc])
    have hrows := hw.resolve_left (by simp [hc])
    have hne : s.opq q ≠ [] := List.ne_nil_of_mem (List.mem_of_find?_eq_some ht)
    refine ⟨updTile s q t.id (fun x => { x with cut := true, pieces := cutTile o t.desc }), ?_, ?_, rfl, fun g => ?_⟩
    · simp [cutNow, hrows]
    · rw [tile_updTile _ _ _ (f := fun x => { x with cut := true, pieces := cutTile o t.desc }) (fun _ h => h), ht, hcut]
      rfl
    · rw [updTile_updTile (f := fun x => { x with cut := true, pieces := cutTile o t.desc }) (fun _ h => h) hne]
      exact updTile_congr ht hn (by rw [hcut])

/-- The next piece of a tile is halved until it fits, and its pages are translated. -/
theorem startPiece_fits {p : Piece} {rest : List Piece} (ho : s.operOf t.part (td t.desc 0 1) = some o)
    (hw : t.cut = true ∨ (opnds o.kind t.desc).findSome? (wideRow s (64 * t.part + t.ctx) (q / 4) o.kind) = none)
    (hi : (t.cutBy o).nextPiece = some i)
    (hfit : fitPiece s (64 * t.part + t.ctx) (q / 4) o.kind (opnds o.kind t.desc) 40
      ((t.cutBy o).pieces.getD i (Piece.fresh 0 0 0 0 [])) [] = .fits p rest) :
    startPiece s q t.id = pieceXlate (updTile s q t.id (fun _ => (t.cutBy o).fitted i p rest)) q t.id i := by
  obtain ⟨u, hu, htile, hxlt, hupd⟩ := cut_spec (o := o) ht hn hw
  simp only [startPiece, ht, ho, hu, htile, hi, Tile.cutBy_part, Tile.cutBy_ctx, Tile.cutBy_desc, fitPiece_congr hxlt, hfit,
    hupd, Tile.fitted]

end

/-- The queues of a bay after the dispatch of a tile that has become `t`: the other queue of its level is served next. -/
def dispatched (s : State) (b q id : Nat) (t : Tile) : State :=
  let u := updTile s (4 * b + q) id (fun _ => t)
  { u with cmp := { u.cmp with qTurn := smPut s.cmp.qTurn (2 * b + q / 2) (q % 2) 1 } }

section
variable {s : State} {bay q i : Nat} {t : Tile} {o : Oper}

theorem only_dispatched (s : State) (b q id : Nat) (t : Tile) : Only [.cmp] s (dispatched s b q id t) := only_cmp s _

theorem tile_dispatched (ht : s.tile (4 * bay + q) t.id = some t) {t' : Tile} (hid : t'.id = t.id) :
    (dispatched s bay q t.id t').tile (4 * bay + q) t.id = some t' := by
  show (updTile s (4 * bay + q) t.id (fun _ => t')).tile (4 * bay + q) t.id = _
  rw [tile_updTile s _ _ (f := fun _ => t') (fun _ _ => hid), ht]
  rfl

theorem exec_pieceDispatch {p : Piece} {rest : List Piece} (hl : s.live = true) (hg : smGetD s.pwr.bayGate bay 0 = 0)
    (hq : s.nextQueue bay = some q) (hfind : (s.opq (4 * bay + q)).find? Tile.startable = some t)
    (hn : ((s.opq (4 * bay + q)).map Tile.id).Nodup) (ho : s.operOf t.part (td t.desc 0 1) = some o)
    (hw : t.cut = true ∨ (opnds o.kind t.desc).findSome? (wideRow s (64 * t.part + t.ctx) bay o.kind) = none)
    (hi : (t.cutBy o).nextPiece = some i)
    (hfit : fitPiece s (64 * t.part + t.ctx) bay o.kind (opnds o.kind t.desc) 40
      ((t.cutBy o).pieces.getD i (Piece.fresh 0 0 0 0 [])) [] = .fits p rest) :
    exec (.pieceDispatch bay) s =
      .next (pieceXlate (dispatched s bay q t.id ((t.cutBy o).fitted i p rest)) (4 * bay + q) t.id i) := by
  set turned : State := { s with cmp := { s.cmp with qTurn := smPut s.cmp.qTurn (2 * bay + q / 2) (q % 2) 1 } }
  have hbay : (4 * bay + q) / 4 = bay := by have := nextQueue_lt hq; omega
  have hxlt : turned.xlt = s.xlt := rfl
  have hstart := startPiece_fits (s := turned) (q := 4 * bay + q) (i := i) (o := o) (p := p) (rest := rest)
    (tile_of_find hfind hn) hn ho (by rw [hbay, wideRow_congr hxlt]; exact hw) hi
    (by rw [hbay, fitPiece_congr hxlt]; exact hfit)
  have hlive : exec (.pieceDispatch bay) s = .next (dispatch s bay) := by
    show Host.Outcome.next (whenLive s _) = _
    simp only [whenLive, hl, hg, if_true, decide_true]
  rw [hlive, dispatch]
  simp only [hq, hfind]
  exact congrArg Host.Outcome.next hstart

end

/-- The dispatcher of `bay` starts piece `i` of tile `t`: the tile is then `t2`, with `p` for that piece, and the translation
of the pages of `p` gives `r`, without a fault. -/
structure Dispatches (s : State) (bay q i : Nat) (t t2 : Tile) (o : Oper) (p : Piece) (r : PageRun) : Prop where
  tile : s.tile (4 * bay + q) t.id = some t
  queue : q < 4
  oper : s.operOf t.part (td t.desc 0 1) = some o
  id : t2.id = t.id
  part : t2.part = t.part
  desc : t2.desc = t.desc
  piece : t2.pieces[i]? = some p
  starts : exec (.pieceDispatch bay) s = .next (pieceXlate (dispatched s bay q t.id t2) (4 * bay + q) t.id i)
  pages : pieceRun (dispatched s bay q t.id t2) (4 * bay + q) t.id i t2 o p = r
  fault : r.fault = none

section
variable {s : State} {bay q i : Nat} {t t2 : Tile} {o : Oper} {p : Piece} {r : PageRun}
  (h : Dispatches s bay q i t t2 o p r)
include h

theorem Dispatches.only_translated : Only translatedIn (dispatched s bay q t.id t2) r.s := by
  rw [← h.pages]
  exact only_xlatPages _ _ _

theorem Dispatches.only : Only ([.cmp, .xlt] ++ raisedIn) s r.s :=
  ((only_dispatched s _ _ _ _).mono (by decide)).trans (h.only_translated.mono (by decide))

theorem Dispatches.tile_translated : r.s.tile (4 * bay + q) t.id = some t2 :=
  (h.only_translated.tile (by decide) _ _).trans (tile_dispatched h.tile h.id)

/-- The piece is changed once its pages have been translated. -/
theorem Dispatches.acts {f : Piece → Piece} (hx : pieceXlate (dispatched s bay q t.id t2) (4 * bay + q) t.id i =
      updPiece r.s ((4 * bay + q) / 4) ((4 * bay + q) % 4) t.id i f) :
    Acts (.pieceDispatch bay) s ([.cmp, .xlt] ++ raisedIn) (fun v =>
      v.tile (4 * bay + q) t.id = some { t2 with pieces := t2.pieces.set i (f p) } ∧
        smGetD v.cmp.qTurn (2 * bay + q / 2) 1 = q % 2) := by
  refine ⟨_, h.starts.trans (congrArg _ hx), h.only.trans ((only_updPiece _ _ _ _ _ _).mono (by decide)), ?_, ?_⟩
  · rw [tile_updPiece, h.tile_translated, Option.map_some, onPiece_eq_set h.piece]
  · show smGetD r.s.cmp.qTurn _ 1 = _
    rw [h.only_translated.2 .cmp (by decide)]
    simp [dispatched]

theorem Dispatches.oper_dispatched : (dispatched s bay q t.id t2).operOf t2.part (td t2.desc 0 1) = some o := by
  rw [h.part, h.desc]
  exact h.oper

/-- A dispatched piece of which pages are missing waits for them. -/
theorem Dispatches.missing (hm : r.missing ≠ []) : Acts (.pieceDispatch bay) s ([.cmp, .xlt] ++ raisedIn) (fun v =>
    v.tile (4 * bay + q) t.id = some { t2 with pieces := t2.pieces.set i { p with ph := .translating r.missing } } ∧
      smGetD v.cmp.qTurn (2 * bay + q / 2) 1 = q % 2) := by
  have hx := pieceXlate_missing (tile_dispatched h.tile h.id) h.piece h.oper_dispatched (by rw [h.pages]; exact h.fault)
    (by rw [h.pages]; exact hm)
  rw [h.pages] at hx
  exact h.acts hx

/-- A dispatched piece whose pages are all translated and usable is translated. -/
theorem Dispatches.usable (hm : r.missing = [])
    (hok : ∀ e ∈ r.places, e.2.1 = 4 ∨ s.placeStatus (.piece bay q t.id i) (tdAcc t.desc) e.1 e.2.1 = 0) :
    Acts (.pieceDispatch bay) s ([.cmp, .xlt] ++ raisedIn) (fun v =>
      v.tile (4 * bay + q) t.id =
        some { t2 with pieces := t2.pieces.set i { p with ph := .translated, trans := r.trans } } ∧
      smGetD v.cmp.qTurn (2 * bay + q / 2) 1 = q % 2) := by
  have hq := h.queue
  have hwho : pieceWho (4 * bay + q) t.id i = .piece bay q t.id i := by
    rw [pieceWho, show (4 * bay + q) / 4 = bay by omega, show (4 * bay + q) % 4 = q by omega]
  have hpart : (r.s.tile (4 * bay + q) t.id).map Tile.part = (s.tile (4 * bay + q) t.id).map Tile.part := by
    rw [h.tile_translated, h.tile, Option.map_some, Option.map_some, h.part]
  have hgood : ∀ e ∈ r.places, e.2.1 = 4 ∨
      r.s.placeStatus (pieceWho (4 * bay + q) t.id i) (tdAcc t2.desc) e.1 e.2.1 = 0 := fun e he => by
    rw [hwho, h.desc, placeStatus_congr (h.only.2 .sec (by decide)) (h.only.2 .bup (by decide)) (h.only.2 .plc (by decide))
      hpart]
    exact hok e he
  have hx := pieceXlate_usable (tile_dispatched h.tile h.id) h.piece h.oper_dispatched (by rw [h.pages]; exact h.fault)
    (by rw [h.pages]; exact hm) (by rw [h.pages]; exact hgood)
  rw [h.pages] at hx
  exact h.acts hx

end

end Sys2Proof.Machine
end

section
/-! SUPPORT. The end of a piece (R170), its placement and what it asks of other stacks (R169, R260, R263); the proof of
PiecesMove. -/

namespace Sys2Proof.Machine

open Sys2Proof

/-! ### The end of a piece (R170) -/

theorem only_tileError (s : State) (q status fid va : Nat) : Only [.regs] s (tileError s q status fid va) := by
  unfold tileError
  extract_lets s1 s2
  have h2 : Only [.regs] s s2 :=
    ite_keeps (P := Only [.regs] s) ((only_setFld s _ _ _).trans (only_setReg s1 _ _)) (only_setFld s _ _ _)
  exact ite_keeps (P := Only [.regs] s) (h2.trans (only_setReg s2 _ _)) h2

theorem only_dropWaiters (s : State) (test : Waiter → Bool) : Only [.xlt] s (dropWaiters s test) := only_xlt s _

theorem only_trace (s : State) (k bay part ctx arg32 addr arg64 : Nat) :
    Only tracedIn s (trace s k bay part ctx arg32 addr arg64) := (trace_spec s k bay part ctx arg32 addr arg64).1.only

/-- A tile of which a piece has not ended does not complete. -/
theorem tileCheck_unfinished {s : State} {q id : Nat} {t : Tile} (ht : s.tile q id = some t) {r : Piece} (hr : r ∈ t.pieces)
    (hs : r.status = none) : tileCheck s q id = s := by
  have hall : ¬ (t.cut = true ∧ t.pieces.all (fun p => p.status.isSome) = true) := fun h => by
    have := List.all_eq_true.1 h.2 r hr
    simp [hs] at this
  simp only [tileCheck, ht, if_neg hall]

/-- A piece has ended: it gives up its translations and its waiters, and an error is recorded (R180). -/
def pieceEnded (s : State) (q id idx status fid va : Nat) : State :=
  let u := dropWaiters (updPiece s (q / 4) (q % 4) id idx (fun p => { p with ph := .ended status, trans := [], far := [] }))
    (fun w => w.who = .piece (q / 4) (q % 4) id idx)
  if status = 0 then u else tileError u q status fid va

theorem endPiece_eq {s : State} {q id : Nat} {t : Tile} (ht : s.tile q id = some t) (idx status fid va : Nat) :
    ∃ bay, endPiece s q id idx status fid va =
      tileCheck (trace (pieceEnded s q id idx status fid va) 4 bay t.part t.ctx status (tdFlag t.desc) 0) q id := by
  rw [endPiece, ht]
  exact ⟨_, rfl⟩

theorem pieceEnded_spec {s : State} {q id idx : Nat} {t : Tile} {p : Piece} (ht : s.tile q id = some t)
    (hp : t.pieces[idx]? = some p) (status fid va : Nat) :
    Only [.cmp, .xlt, .regs] s (pieceEnded s q id idx status fid va) ∧ (pieceEnded s q id idx status fid va).tile q id =
      some { t with pieces := t.pieces.set idx { p with ph := .ended status, trans := [], far := [] } } := by
  set f : Piece → Piece := fun p => { p with ph := .ended status, trans := [], far := [] }
  have hrest : Only [.xlt, .regs] (updPiece s (q / 4) (q % 4) id idx f) (pieceEnded s q id idx status fid va) := by
    have hdrop := (only_dropWaiters (updPiece s (q / 4) (q % 4) id idx f)
      (fun w => w.who = .piece (q / 4) (q % 4) id idx)).mono (m := [.xlt, .regs]) (by decide)
    exact ite_keeps (P := Only [.xlt, .regs] _) hdrop (hdrop.trans ((only_tileError _ _ _ _ _).mono (by decide)))
  refine ⟨((only_updPiece s _ _ _ _ f).mono (by decide)).trans (hrest.mono (by decide)), ?_⟩
  rw [hrest.tile (by decide), tile_updPiece, ht, Option.map_some, onPiece_eq_set hp]

/-- A piece ends with its status while another piece of its tile has not ended. -/
theorem endPiece_unfinished {s : State} {q id idx j : Nat} {t : Tile} {p r : Piece} (ht : s.tile q id = some t)
    (hp : t.pieces[idx]? = some p) (hj : j ≠ idx) (hr : t.pieces[j]? = some r) (hs : r.status = none)
    (status fid va : Nat) :
    Only ([.cmp, .xlt] ++ tracedIn) s (endPiece s q id idx status fid va) ∧
      (endPiece s q id idx status fid va).tile q id =
        some { t with pieces := t.pieces.set idx { p with ph := .ended status, trans := [], far := [] } } := by
  obtain ⟨bay, heq⟩ := endPiece_eq ht idx status fid va
  obtain ⟨hended, htile⟩ := pieceEnded_spec ht hp status fid va
  have htrace := only_trace (pieceEnded s q id idx status fid va) 4 bay t.part t.ctx status (tdFlag t.desc) 0
  rw [← htrace.tile (by decide)] at htile
  have hmem : r ∈ t.pieces.set idx { p with ph := .ended status, trans := [], far := [] } :=
    List.mem_of_getElem? (by rw [List.getElem?_set_ne (Ne.symm hj)]; exact hr)
  rw [heq, tileCheck_unfinished htile hmem hs]
  exact ⟨(hended.mono (by decide)).trans (htrace.mono (by decide)), htile⟩

/-- A piece that has run, and whose requests to other stacks have been answered, ends. -/
theorem finishPiece_ran {s : State} {q id idx b : Nat} {t : Tile} {p : Piece} {o : Oper} (ht : s.tile q id = some t)
    (hp : t.pieces[idx]? = some p) (ho : s.operOf t.part (td t.desc 0 1) = some o) (hph : p.ph = .placed b true)
    (hb : s.bayRuns b = true) (hw : s.pieceWaits q id idx = false) (host : List HostLine) :
    finishPiece s q id idx host = endPiece s q id idx p.bad 0 (td t.desc 40 8) := by
  simp [finishPiece, ht, hp, ho, hph, hb, hw]

/-! ### What a placed piece asks of other stacks (R169, R260) -/

theorem RegsKept.mono {s t : State} {l m : List Nat} (h : RegsKept s t l) (hl : l ⊆ m) : RegsKept s t m :=
  fun o ho => h o (fun hm => ho (hl hm))

/-- What a record or a trace may change of the registers. -/
def recordRegs : List Nat := rErrStat :: traceRegs

theorem setPort_regsKept (s : State) (n : Nat) (x : RalPort) : RegsKept s (s.setPort n x) recordRegs := by
  unfold State.setPort
  extract_lets ral s1
  split
  · exact fun _ _ => rfl
  · exact RegsKept.mono (trace_spec s1 _ _ _ _ _ _ _).2 (List.subset_cons_self _ _)

theorem remoteReq_regsKept (s : State) (who : Requester) (m : RMsg) : RegsKept s (remoteReq s who m).1 recordRegs := by
  unfold remoteReq
  extract_lets tag m1
  split
  · exact .refl s _
  · exact setPort_regsKept s _ _

/-- A record whose severity is not 2 leaves ALERT_N (R546). -/
theorem only_postErr (s : State) (src part payload : Nat) {sev : Nat} (h : sev ≠ 2) :
    Only tracedIn s (postErr s src sev part payload) := by
  have hrec : recorded s src sev part payload = { s with dbg := (recorded s src sev part payload).dbg } := by
    simp [recorded, h]
  have hfirst : Only tracedIn s (recorded s src sev part payload) := by
    rw [hrec]
    exact (only_dbg s _).mono (by decide)
  exact hfirst.trans (postErr_spec s src sev part payload).1.only

/-- What the placement of a piece may change. -/
def placedIn : List Area := [.cmp, .plc, .ral, .pwr] ++ tracedIn

/-- Of that, what leaves the compute die and the placement engine alone. -/
def quietIn : List Area := [.ral, .pwr] ++ tracedIn

/-- From `s` to `t` piece `i` has asked for its bay and its lines, and has perhaps been answered: it is where it was, and so are
the bay chosen last and the replicas. -/
structure PieceAsked (q id i : Nat) (s t : State) : Prop where
  only : Only placedIn s t
  regs : RegsKept s t recordRegs
  replicas : t.plc.replicas = s.plc.replicas
  lastBay : t.cmp.lastBay = s.cmp.lastBay
  phase : (t.pieceAt q id i).map Piece.ph = (s.pieceAt q id i).map Piece.ph

section
variable {q id i : Nat} {s t u : State}

theorem PieceAsked.refl (s : State) : PieceAsked q id i s s := ⟨.refl _ s, .refl s _, rfl, rfl, rfl⟩

theorem PieceAsked.trans (h : PieceAsked q id i s t) (h' : PieceAsked q id i t u) : PieceAsked q id i s u :=
  ⟨h.only.trans h'.only, h.regs.trans h'.regs, h'.replicas.trans h.replicas, h'.lastBay.trans h.lastBay,
    h'.phase.trans h.phase⟩

theorem PieceAsked.of_only (h : Only quietIn s t) (hr : RegsKept s t recordRegs) : PieceAsked q id i s t where
  only := h.mono (by decide)
  regs := hr
  replicas := congrArg PlcSt.replicas (h.2 .plc (by decide))
  lastBay := congrArg CmpSt.lastBay (h.2 .cmp (by decide))
  phase := by rw [State.pieceAt, h.tile (by decide), State.pieceAt]

/-- Reads of other stacks go through the same replicas. -/
theorem PieceAsked.replicaOf (h : PieceAsked q id i s t) (f : Nat) : t.replicaOf f = s.replicaOf f := by
  have hdone : t.reg rBupDone = s.reg rBupDone := h.regs _ (by decide)
  have hgrade : t.reg rBupGrade = s.reg rBupGrade := h.regs _ (by decide)
  have hbup : t.bup = s.bup := h.only.2 .bup (by decide)
  have hpci : t.pci = s.pci := h.only.2 .pci (by decide)
  have hstep : t.stepDone 10 = s.stepDone 10 := by rw [State.stepDone, hdone, State.stepDone]
  have hdegraded : t.fld rBupGrade fBupGradeDegraded = s.fld rBupGrade fBupGradeDegraded := by
    rw [State.fld, hgrade, State.fld]
  have hhealth : t.health = s.health := by rw [State.health, hbup, hpci, hstep, hdegraded, State.health]
  rw [State.replicaOf, hhealth, h.replicas, State.replicaOf]

theorem pieceAsked_countRemote (s : State) (part f : Nat) : PieceAsked q id i s (countRemote s part f) := by
  unfold countRemote
  split
  · exact ⟨(only_plc s _).mono (by decide), fun _ _ => rfl, rfl, rfl, rfl⟩
  · exact .refl s

theorem pieceAsked_postErr (s : State) (src part payload : Nat) {sev : Nat} (h : sev ≠ 2) :
    PieceAsked q id i s (postErr s src sev part payload) :=
  .of_only ((only_postErr s src part payload h).mono (by decide)) (postErr_spec s src sev part payload).2

theorem pieceAsked_answerRead (s : State) (f : Nat) (d : Line) (p : BitVec 4) (status : Nat) :
    PieceAsked q id i s (answerRead s (pieceWho q id i) f d p status) where
  only := (only_updPiece s _ _ _ _ _).mono (by decide)
  regs := fun _ _ => rfl
  replicas := rfl
  lastBay := rfl
  phase := by
    show ((updPiece s (q / 4) (q % 4) id i _).pieceAt q id i).map Piece.ph = _
    rw [pieceAt_updPiece, Option.map_map]
    rfl

theorem pieceAsked_fromRemote (s : State) (n : Nat) : PieceAsked q id i s (fromRemote s n) :=
  ⟨(only_cmp s _).mono (by decide), fun _ _ => rfl, rfl, rfl, rfl⟩

/-- The answer of a read of another stack reaches the piece. -/
theorem pieceAsked_finishRemote (s : State) {m : RMsg} (hm : m.typ = 1) (status : Nat) (d : Line) (p : BitVec 4) (w : Word) :
    PieceAsked q id i s (finishRemote s (pieceWho q id i) m status d p w) := by
  have h : finishRemote s (pieceWho q id i) m status d p w =
      fromRemote (answerRead s (pieceWho q id i) m.addr d p status) s.cmp.replies.length := by
    simp [finishRemote, hm, isCommand, pieceWho]
  rw [h]
  exact (pieceAsked_answerRead s _ _ _ _).trans (pieceAsked_fromRemote _ _)

/-- A read of another stack is sent, or is lost at once (R405). -/
theorem pieceAsked_remoteAsk (s : State) {m : RMsg} (hm : m.typ = 1) :
    PieceAsked q id i s (remoteAsk s (pieceWho q id i) m) := by
  have hsent : PieceAsked q id i s (remoteReq s (pieceWho q id i) m).1 :=
    .of_only ((only_remoteReq s _ m).mono (by decide)) (remoteReq_regsKept s _ m)
  unfold remoteAsk
  split <;> rename_i hreq
  · rwa [hreq] at hsent
  · split
    · exact (pieceAsked_postErr s 9 _ _ (by decide)).trans (pieceAsked_finishRemote _ hm _ _ _ _)
    · exact (pieceAsked_postErr s 5 _ _ (by decide)).trans (pieceAsked_finishRemote _ hm _ _ _ _)

/-- The reads of a placed piece where no region has a replica here. -/
theorem pieceAsked_pieceAsk (hrep : ∀ f, s.replicaOf f = none) (t : Tile) (o : Oper) (p : Piece) :
    PieceAsked q id i s (pieceAsk s q id i t o p) := by
  unfold pieceAsk
  extract_lets m who vas
  refine foldS_keeps (P := PieceAsked q id i s) _ _ (fun v e hv => ?_) (.refl s)
  have hnone : ∀ f, v.replicaOf f = none := fun f => (hv.replicaOf f).trans (hrep f)
  split
  · rw [hnone]
    exact hv.trans ((pieceAsked_countRemote v _ _).trans (pieceAsked_remoteAsk _ rfl))
  · exact hv.trans (.of_only ((only_emit v _).mono (by decide)) (fun _ _ => rfl))
  · exact hv

end

/-! ### Placement (R263, R264) -/

/-- A piece stands on bay `b`. -/
def piecePlaced (s : State) (q id i b kib : Nat) : State :=
  let u := updPiece s (q / 4) (q % 4) id i (fun x => { x with ph := .placed b false, kib := kib, far := [] })
  { u with cmp := { u.cmp with lastBay := smPut u.cmp.lastBay (q / 4) b 31 } }

section
variable {s : State} {q id idx b : Nat} {t : Tile} {p : Piece} {o : Oper}

theorem only_pwr (s : State) (x : PwrSt) : Only [.pwr] s { s with pwr := x } :=
  ⟨rfl, fun a ha => by cases a <;> simp [Area.same] at ha ⊢⟩

theorem only_queueWake (s : State) (kind unit : Nat) (high : Bool) : Only [.pwr] s (queueWake s kind unit high) :=
  ite_keeps (P := Only [.pwr] s) (only_pwr s _) (only_pwr s _)

theorem only_wakeBay (s : State) (b : Nat) (high : Bool) : Only [.pwr] s (wakeBay s b high) := by
  unfold wakeBay
  extract_lets g
  split
  · exact .refl _ s
  · exact only_queueWake s _ _ _

theorem pieceAt_piecePlaced (s : State) (q id i b kib : Nat) : (piecePlaced s q id i b kib).pieceAt q id i =
    (s.pieceAt q id i).map (fun x => { x with ph := .placed b false, kib := kib, far := [] }) :=
  pieceAt_updPiece s q id i _

theorem pieceAsked_trace (k bay part ctx arg32 addr arg64 : Nat) :
    PieceAsked q id idx s (trace s k bay part ctx arg32 addr arg64) :=
  .of_only ((only_trace s _ _ _ _ _ _ _).mono (by decide))
    (RegsKept.mono (trace_spec s _ _ _ _ _ _ _).2 (List.subset_cons_self _ _))

theorem pieceAsked_wakeBay (high : Bool) : PieceAsked q id idx s (wakeBay s b high) := by
  have hregs : (wakeBay s b high).regs = s.regs := (only_wakeBay s b high).2 .regs (by decide)
  have hbup : (wakeBay s b high).bup = s.bup := (only_wakeBay s b high).2 .bup (by decide)
  exact .of_only ((only_wakeBay s b high).mono (by decide)) (fun o _ => reg_congr hregs hbup o)

variable (ht : s.tile q id = some t) (hp : t.pieces[idx]? = some p)
  (ho : s.operOf t.part (td t.desc 0 1) = some o) (hph : p.ph = .translated)
  (hon : (ones o.bays.toNat 32).any s.bayOn = true)
  (hb : s.chooseBay (s.pieceCost t.part (td t.desc 13 1)
        ((opnds o.kind t.desc).filterMap (localLines s (64 * t.part + t.ctx) o.kind t.desc p)))
    (smGetD s.cmp.lastBay (q / 4) 31) ((List.range 32).filter (s.eligible o)) = some b)
include ht hp ho hph hon hb

/-- A translated piece is placed on the bay chosen, is traced, wakes the bay, and asks for its lines elsewhere. -/
theorem placePiece_eq :
    ∃ kib arg32 addr arg64, placePiece s q id idx =
      pieceAsk (wakeBay (trace (piecePlaced s q id idx b kib) 3 b t.part t.ctx arg32 addr arg64) b (q % 4 < 2))
        q id idx t o p := by
  simp only [placePiece, ht, hp, ho, hph, ne_eq, not_true_eq_false, if_false, hon, hb]
  exact ⟨_, _, _, _, rfl⟩

/-- A piece stands on its bay after what its placement asks for, where no region has a replica here. -/
theorem placePiece_spec (hrep : ∀ f, s.replicaOf f = none) :
    Only placedIn s (placePiece s q id idx) ∧
      (∃ t' p', (placePiece s q id idx).tile q id = some t' ∧ t'.pieces[idx]? = some p' ∧ p'.ph = .placed b false) ∧
      smGetD (placePiece s q id idx).cmp.lastBay (q / 4) 31 = b := by
  obtain ⟨kib, arg32, addr, arg64, heq⟩ := placePiece_eq ht hp ho hph hon hb
  have hplaced : Only [.cmp] s (piecePlaced s q id idx b kib) := only_cmp s _
  have hwoken : PieceAsked q id idx (piecePlaced s q id idx b kib)
      (wakeBay (trace (piecePlaced s q id idx b kib) 3 b t.part t.ctx arg32 addr arg64) b (q % 4 < 2)) :=
    (pieceAsked_trace _ _ _ _ _ _ _).trans (pieceAsked_wakeBay _)
  have hasked := hwoken.trans
    (pieceAsked_pieceAsk (fun f => (hwoken.replicaOf f).trans (hrep f)) t o p)
  rw [← heq] at hasked
  refine ⟨(hplaced.mono (by decide)).trans hasked.only, ?_, ?_⟩
  · have hpiece : s.pieceAt q id idx = some p := by rw [State.pieceAt, ht]; exact hp
    have hphase := hasked.phase
    rw [pieceAt_piecePlaced, hpiece] at hphase
    obtain ⟨p', hp', hph'⟩ := Option.map_eq_some_iff.1 hphase
    obtain ⟨t', ht', hget⟩ := Option.bind_eq_some_iff.1 hp'
    exact ⟨t', p', ht', hget, hph'⟩
  · rw [hasked.lastBay]
    simp [piecePlaced]

end

/-- Settles O17, a command at a time: the dispatch by the pages of the piece, the placement, the end. -/
theorem piecesMove : Obligations.PiecesMove := by
  refine ⟨?_, ?_, ?_⟩
  · intro s bay q i t o p rest hl hg hq hfind hn ho m hw t1 hi hfit t2 s2 s3 r hf
    have hlt := nextQueue_lt hq
    have hm : 64 * t2.part + t2.ctx = m := by
      show 64 * (t.cutBy o).part + (t.cutBy o).ctx = m
      rw [Tile.cutBy_part, Tile.cutBy_ctx]
    have hdispatch : Dispatches s bay q i t t2 o p r := {
      tile := tile_of_find hfind hn
      queue := hlt
      oper := ho
      id := t.cutBy_id o
      part := t.cutBy_part o
      desc := t.cutBy_desc o
      piece := Tile.fitted_piece hi p rest
      starts := exec_pieceDispatch hl hg hq hfind hn ho hw hi hfit
      pages := by
        rw [pieceRun, hm, show (4 * bay + q) / 4 = bay by omega, show (4 * bay + q) % 4 = q by omega]
        rfl
      fault := hf }
    exact ⟨hdispatch.missing, hdispatch.usable⟩
  · intro s bay q tile idx b t p o hl hq ht hp ho hph hon hrep hb
    have hbay : (4 * bay + q) / 4 = bay := by omega
    have hspec := placePiece_spec ht hp ho hph hon (by rw [hbay]; exact hb) hrep
    rw [hbay] at hspec
    refine ⟨_, ?_, hspec⟩
    show Host.Outcome.next (whenLive s _) = _
    simp only [whenLive, hl, hq, if_true]
  · rintro s bay q tile idx b t p o host hl hq ht hp ho hph hb hw ⟨j, r, hj, hr, hs⟩
    refine ⟨_, ?_, endPiece_unfinished ht hp hj hr hs p.bad 0 (td t.desc 40 8)⟩
    show Host.Outcome.next (whenLive s _) = _
    simp only [whenLive, hl, hq, if_true, finishPiece_ran ht hp ho hph hb hw]

end Sys2Proof.Machine
end

section
/-! SUPPORT. Blocks of the HBM tier: their places depend on the channels' states alone (R223, R242), the bookkeeping of a
channel leaves them as they are, and a block stored is read back (R231). -/

namespace Sys2Proof.Machine

open Sys2Proof

/-! ### What keeps the blocks -/

/-- The blocks of the tier are as they were, and so are the registers from the HBM block of BAR0 upwards (R355). -/
structure TierKept (s t : State) : Prop where
  blocks : t.hbm.blocks = s.hbm.blocks
  regs : ∀ o, 0xC00000 ≤ o → t.reg o = s.reg o

theorem RegsKept.above {s t : State} {l : List Nat} (h : RegsKept s t l) (hl : ∀ o ∈ l, o < 0xC00000) (o : Nat)
    (ho : 0xC00000 ≤ o) : t.reg o = s.reg o :=
  h o (fun hm => absurd (hl o hm) (Nat.not_lt.2 ho))

theorem countRegs_below : ∀ o ∈ countRegs, o < 0xC00000 := by decide

theorem recordRegs_below : ∀ o ∈ recordRegs, o < 0xC00000 := by decide

theorem TierKept.refl (s : State) : TierKept s s := ⟨rfl, fun _ _ => rfl⟩

section
variable {s t u : State}

theorem TierKept.trans (h : TierKept s t) (h' : TierKept t u) : TierKept s u :=
  ⟨h'.blocks.trans h.blocks, fun o ho => (h'.regs o ho).trans (h.regs o ho)⟩

variable (h : TierKept s t)
include h

theorem TierKept.chanSt (c : Nat) : t.chanSt c = s.chanSt c := by
  rw [State.chanSt, State.fld, h.regs _ (by unfold rHbmChStat; omega)]
  rfl

theorem TierKept.placeOf (a : Nat) : t.placeOf a = s.placeOf a := by
  have hout : t.chansOut = s.chansOut := by simp only [State.chansOut, h.chanSt]
  simp only [State.placeOf, h.chanSt, hout]

theorem TierKept.keyOf (a : Nat) : t.keyOf a = s.keyOf a := State.keyOf_congr h.placeOf a

theorem TierKept.block (a : Nat) : t.block a = s.block a := by
  rw [State.block, State.block, h.blocks, h.keyOf]

theorem TierKept.blocksKept {a : Nat} (hu : BlocksKept u s a) : BlocksKept u t a :=
  fun b hb => (h.block b).trans (hu b hb)

end

/-! ### The bookkeeping of a channel -/

theorem only_hbm (s : State) (x : HbmSt) : Only [.hbm] s { s with hbm := x } :=
  ⟨rfl, fun p hp => by cases p <;> simp [Area.same] at hp ⊢⟩

theorem only_setChan (s : State) (d : Nat) (c : Channel) : Only [.hbm] s (s.setChan d c) := only_hbm s _

theorem only_putBlock (s : State) (a : Nat) (b : Block) : Only [.hbm] s (s.putBlock a b) := only_hbm s _

@[simp] theorem State.chan_setChan (s : State) (d j : Nat) (c : Channel) :
    (s.setChan d c).chan j = if j = d then c else s.chan j := by
  simp [State.chan, State.setChan]

/-- A channel has kept its books: its controller and event counters may have changed, no block and no channel's state. -/
structure Booked (s t : State) : Prop where
  only : Only [.hbm, .regs] s t
  tier : TierKept s t

theorem Booked.refl (s : State) : Booked s s := ⟨.refl _ s, .refl s⟩

theorem Booked.trans {s t u : State} (h : Booked s t) (h' : Booked t u) : Booked s u :=
  ⟨h.only.trans h'.only, h.tier.trans h'.tier⟩

theorem booked_setChan (s : State) (d : Nat) (c : Channel) : Booked s (s.setChan d c) :=
  ⟨(only_setChan s d c).mono (by decide), rfl, fun _ _ => rfl⟩

/-- A request makes its page the latest of its channel's sidecar cache (R225). -/
theorem touchSidecar_eq (s : State) (a : Nat) (dirty : Bool) :
    ∃ c was, touchSidecar s a dirty = s.setChan (s.placeOf a).1 c ∧
      c.scache.head? = some (2 ^ 20 * pcOf a + (s.placeOf a).2 / 32, was || dirty) :=
  ⟨_, _, rfl, rfl⟩

theorem booked_touchSidecar (s : State) (a : Nat) (dirty : Bool) : Booked s (touchSidecar s a dirty) := by
  obtain ⟨c, was, heq, -⟩ := touchSidecar_eq s a dirty
  rw [heq]
  exact booked_setChan s _ c

theorem booked_countBursts (s : State) (a n : Nat) : Booked s (countBursts s a n) where
  only := (only_countEv s 7 0xFF _ n).mono (by decide)
  tier := by
    obtain ⟨hregs, hkept⟩ := countEv_spec s 7 0xFF (partByte (s.partOfAddr a)) n
    exact ⟨congrArg HbmSt.blocks hregs.side.hbm, hkept.above countRegs_below⟩

/-! ### Storing a block -/

/-- From `s` to `v` the block of `a` has become `b`; every block at another place is as it was. -/
structure Stores (s v : State) (a : Nat) (b : Block) : Prop where
  only : Only [.hbm, .regs] s v
  block : v.block a = b
  others : BlocksKept s v a

/-- A block stored amid bookkeeping is read back. -/
theorem stores_putBlock {s u v : State} {a : Nat} {b : Block} (hu : Booked s u) (hv : Booked (u.putBlock a b) v) :
    Stores s v a b := by
  have hput := fun c => State.block_putBlock u a c b (fun _ => rfl)
  refine ⟨(hu.only.trans ((only_putBlock u a b).mono (by decide))).trans hv.only, ?_, fun c hc => ?_⟩
  · rw [hv.tier.block, hput, if_pos rfl]
    exact ite_eq_right_iff.2 Eq.symm
  · rw [hv.tier.block, hput, if_neg (by rwa [hu.tier.keyOf, hu.tier.keyOf]), hu.tier.block]

theorem Booked.stores {s v : State} (h : Booked s v) (a : Nat) : Stores s v a (s.block a) :=
  ⟨h.only, h.tier.block a, fun b _ => h.tier.block b⟩

/-! ### The halves of a block -/

section
variable (b : Block) (h : Nat) (d : Line) (z : Bool)

@[simp] theorem Block.setHalf_valid : (b.setHalf h d z).valid = b.valid := by unfold Block.setHalf; split <;> rfl
@[simp] theorem Block.setHalf_keygen : (b.setHalf h d z).keygen = b.keygen := by unfold Block.setHalf; split <;> rfl
@[simp] theorem Block.setHalf_poison : (b.setHalf h d z).poison = b.poison := by unfold Block.setHalf; split <;> rfl

@[simp] theorem Block.half_setHalf : (b.setHalf h d z).half h = d := by
  unfold Block.setHalf Block.half; split <;> rfl

@[simp] theorem Block.zero_setHalf : (b.setHalf h d z).zero h = z := by
  unfold Block.setHalf Block.zero; split <;> rfl

@[simp] theorem Block.half_setHalf_other : (b.setHalf h d z).half (1 - h) = b.half (1 - h) := by
  rcases Nat.eq_zero_or_pos h with rfl | hpos
  · rfl
  · simp [Block.setHalf, Block.half, Nat.ne_of_gt hpos, Nat.sub_eq_zero_of_le hpos]

@[simp] theorem Block.zero_setHalf_other : (b.setHalf h d z).zero (1 - h) = b.zero (1 - h) := by
  rcases Nat.eq_zero_or_pos h with rfl | hpos
  · rfl
  · simp [Block.setHalf, Block.zero, Nat.ne_of_gt hpos, Nat.sub_eq_zero_of_le hpos]

end

theorem Block.half_select (b : Block) (h : Nat) : (if h = 0 then b.half 0 else b.half 1) = b.half h := by
  by_cases hz : h = 0 <;> simp [Block.half, hz]

/-- The line that half `h` delivers: zero where nothing is stored (R232). -/
def Block.line (b : Block) (h : Nat) : Line := if b.valid ∧ b.zero h = false then b.half h else 0

/-- The poison that a read of the block delivers (R232). -/
def Block.sick (b : Block) : BitVec 4 := if b.valid ∧ b.poison then 0xF else 0

/-- The block as a write meets it: the halves of one that was not valid read as zero (R231). -/
def Block.opened (b : Block) : Block := if b.valid then b else { b with valid := true, zero0 := true, zero1 := true }

@[simp] theorem Block.opened_valid (b : Block) : b.opened.valid = true := by
  unfold Block.opened; split
  · assumption
  · rfl

@[simp] theorem Block.opened_half (b : Block) (h : Nat) : b.opened.half h = b.half h := by
  unfold Block.opened; split <;> rfl

@[simp] theorem Block.opened_zero (b : Block) (h : Nat) : b.opened.zero h = if b.valid then b.zero h else true := by
  unfold Block.opened; split
  · rfl
  · exact ite_self _

/-- The block with the MAC field of no sealed partition (R228). -/
def Block.maced (b : Block) : Block := { b with mac := openMac b }

/-- The block after a write of half `h`, poisoned or not as `p` tells (R231, R232). -/
def Block.written (b : Block) (h : Nat) (d : Line) (p : Bool) : Block :=
  (({ b.opened with keygen := 0, poison := p } : Block).setHalf h d false).maced

/-- A write leaves the block poisoned: by its own poison, or still where the write keeps the poison bit or the other half is
stored (R232, R234). -/
def Block.poisonAfter (b : Block) (h : Nat) (p : BitVec 4) (keep : Bool) : Bool :=
  decide (p ≠ 0 ∨ b.valid = true ∧ b.poison = true ∧ (keep = true ∨ b.zero (1 - h) = false))

theorem Block.poisonAfter_writeBack (b : Block) (h : Nat) (p : BitVec 4) : b.poisonAfter h p false =
    decide (p ≠ 0 ∨ b.valid = true ∧ b.poison = true ∧ b.zero (1 - h) = false) := by
  simp only [Block.poisonAfter, Bool.false_eq_true, false_or]

theorem Block.poisonAfter_uncached (b : Block) (h : Nat) (p : BitVec 4) : b.poisonAfter h p true =
    decide (p ≠ 0 ∨ b.valid = true ∧ b.poison = true) := by
  simp only [Block.poisonAfter, true_or, and_true]

theorem Block.written_spec (b : Block) (h : Nat) (d : Line) (p : Bool) :
    (b.written h d p).valid = true ∧ (b.written h d p).half h = d ∧ (b.written h d p).zero h = false ∧
      (b.written h d p).half (1 - h) = b.half (1 - h) ∧
      (b.written h d p).zero (1 - h) = (if b.valid then b.zero (1 - h) else true) ∧
      (b.written h d p).keygen = 0 ∧ (b.written h d p).mac = openMac (b.written h d p) ∧
      (b.written h d p).poison = p :=
  ⟨(Block.setHalf_valid _ _ _ _).trans b.opened_valid, Block.half_setHalf _ _ _ _, Block.zero_setHalf _ _ _ _,
    (Block.half_setHalf_other _ _ _ _).trans (b.opened_half _), (Block.zero_setHalf_other _ _ _ _).trans (b.opened_zero _),
    Block.setHalf_keygen _ _ _ _, rfl, Block.setHalf_poison _ _ _ _⟩

/-- The block after a kill of half `h`: cleared where nothing of the other half is stored, else that half's zero flag set. A
block whose poison bit is set counts as not zero (R231; assumption log 24). -/
def Block.killed (b : Block) (h : Nat) : Block :=
  if b.zero (1 - h) = true ∨ b.half (1 - h) = 0 ∧ b.poison = false then b.clear
  else (b.setHalf h (b.half h) true).maced

theorem Block.killed_clear {b : Block} {h : Nat} (hz : b.zero (1 - h) = true ∨ b.half (1 - h) = 0 ∧ b.poison = false) :
    b.killed h = b.clear := if_pos hz

theorem Block.killed_flagged {b : Block} {h : Nat} (hz : b.zero (1 - h) = false)
    (hd : ¬ (b.half (1 - h) = 0 ∧ b.poison = false)) : b.killed h = (b.setHalf h (b.half h) true).maced :=
  if_neg (fun hx => hx.elim (fun h1 => Bool.false_ne_true (hz.symm.trans h1)) hd)

theorem Block.killed_kept {b : Block} {h : Nat} (hz : b.zero (1 - h) = false) (hd : b.half (1 - h) ≠ 0 ∨ b.poison = true) :
    (b.killed h).valid = b.valid ∧ (b.killed h).zero h = true ∧ (b.killed h).half (1 - h) = b.half (1 - h) ∧
      (b.killed h).poison = b.poison := by
  rw [Block.killed_flagged hz (by rintro ⟨h0, hp⟩; simp [h0, hp] at hd)]
  exact ⟨Block.setHalf_valid _ _ _ _, Block.zero_setHalf _ _ _ _, Block.half_setHalf_other _ _ _ _,
    Block.setHalf_poison _ _ _ _⟩

end Sys2Proof.Machine
end

section
/-! SUPPORT. The requests of a channel on a block of no sealed partition (R231, R232, R234): what a read delivers, what a
write and a kill store, how a request leaves the queue, and the parts of ChannelsServeAndAreKept about them. -/

namespace Sys2Proof.Machine

open Sys2Proof

/-! ### Reading without wrong symbols (R325) -/

theorem decodeCw_nil (c : Nat) : decodeCw [] c = .clean := by
  show rsDecode 73 6 70 (rsSynd 6 []) = .clean
  decide

theorem deliver_nil (c : Nat) (d : BitVec 512) : deliver [] c d = d := by
  simp [deliver, decodeCw_nil, errsOf, flipData]

/-- A line is its two codewords. -/
theorem line_of_codewords (d : Line) : (d.extractLsb' 512 512 ++ d.extractLsb' 0 512 : BitVec (512 + 512)) = d := by
  apply BitVec.eq_of_getLsbD_eq
  intro i hi
  rw [BitVec.getLsbD_append, BitVec.getLsbD_extractLsb', BitVec.getLsbD_extractLsb']
  by_cases h : i < 512
  · simp [h]
  · simp [h, show i - 512 < 512 by omega, show 512 + (i - 512) = i by omega]

theorem readHalf_nil (b : Block) (h : Nat) : readHalf b h [] = (b.half h, [], 0) := by
  unfold readHalf
  simp only [deliver_nil, decodeCw_nil]
  exact congrArg (fun d : Line => (d, ([] : List (Nat × RsOutcome)), 0)) (line_of_codewords (b.half h))

section
variable {s : State} {a : Nat} (hopen : s.sealedAt a = none)
include hopen

/-- Without wrong symbols a read of any halves changes nothing and delivers what is stored. -/
theorem readBlock_open (hs : List Nat) :
    readBlock s a hs [] = (s, (s.block a).half 0, (s.block a).half 1, false) := by
  simp [readBlock, readHalf_nil, hopen, blockFixed]

theorem plainHalf_open (h : Nat) (b : Block) (d : Line) : s.plainHalf a h b d = d := by
  simp only [State.plainHalf, hopen]

theorem withMac_open (b : Block) : s.withMac a b = b.maced := by
  simp only [State.withMac, hopen, Block.maced]

end

theorem sealedAt_congr {s t : State} (h : t.sec = s.sec) (a : Nat) : t.sealedAt a = s.sealedAt a := by
  simp only [State.sealedAt, h]

theorem Booked.sealedAt {s t : State} (h : Booked s t) (a : Nat) : t.sealedAt a = s.sealedAt a :=
  sealedAt_congr (h.only.2 .sec (by decide)) a

/-- A write of a line stores its half (R231). -/
theorem writeLine_open {s : State} {a : Nat} (hopen : s.sealedAt a = none) (d : Line) (p : BitVec 4) (keep : Bool) :
    Stores s (writeLine s a d p keep []) a
      ((s.block a).written (a / 128 % 2) d ((s.block a).poisonAfter (a / 128 % 2) p keep)) := by
  have hbook := booked_touchSidecar s a true
  have hh : nbits a 7 1 = a / 128 % 2 := rfl
  have hmac := withMac_open ((hbook.sealedAt a).trans hopen)
  suffices heq : writeLine s a d p keep [] = countBursts ((touchSidecar s a true).putBlock a
      ((s.block a).written (a / 128 % 2) d ((s.block a).poisonAfter (a / 128 % 2) p keep))) a 6 by
    rw [heq]
    exact stores_putBlock hbook (booked_countBursts _ _ _)
  unfold writeLine
  simp only [hopen, hh, hmac, Option.isSome_none, Bool.false_eq_true, false_and, and_false, if_false]
  unfold Block.written Block.opened
  by_cases hv : (s.block a).valid = true
  · have hpoison : (if p ≠ 0 ∨ False then true else if keep = true then (s.block a).poison
        else (s.block a).poison && !(s.block a).zero (1 - a / 128 % 2)) =
        (s.block a).poisonAfter (a / 128 % 2) p keep := by
      by_cases hp : p = 0 <;> cases keep <;> simp [Block.poisonAfter, hv, hp, Bool.decide_and]
    simp only [hv, if_true, hpoison]
  · simp [Block.poisonAfter, hv]

section
variable {s : State} {a : Nat} (hworks : s.chanFailed a = false) (hopen : s.sealedAt a = none)
include hworks hopen

/-- A read of a line changes the books alone. -/
theorem readLine_open : ∃ t, Booked s t ∧
    readLine s a [] = (t, ⟨(s.block a).valid, (s.block a).line (a / 128 % 2), (s.block a).sick⟩) := by
  have hbook := fun n => (booked_touchSidecar s a false).trans (booked_countBursts (touchSidecar s a false) a n)
  have hread := fun n => readBlock_open (((hbook n).sealedAt a).trans hopen)
  have hh : nbits a 7 1 = a / 128 % 2 := rfl
  unfold readLine
  simp only [hworks, hread, plainHalf_open hopen, (hbook _).tier.block, hopen, hh, Bool.false_eq_true, if_false,
    Option.isSome_none, false_and]
  by_cases hv : (s.block a).valid = true
  · by_cases hz : (s.block a).zero (a / 128 % 2) = true
    · exact ⟨_, hbook 1, by simp [hv, hz, Block.line, Block.sick]⟩
    · refine ⟨_, hbook 5, ?_⟩
      by_cases hp : (s.block a).poison = true <;> simp [hv, hz, hp, Block.half_select, Block.line, Block.sick]
  · exact ⟨_, hbook 1, by simp [hv, Block.line, Block.sick]⟩

/-- A kill of a line. -/
theorem killLine_open :
    Stores s (killLine s a []) a (if (s.block a).valid then (s.block a).killed (a / 128 % 2) else s.block a) := by
  have hbook := fun n => (booked_touchSidecar s a true).trans (booked_countBursts (touchSidecar s a true) a n)
  have hread := fun n => readBlock_open (((hbook n).sealedAt a).trans hopen)
  have hmac := fun n => withMac_open (((hbook n).sealedAt a).trans hopen)
  have hh : nbits a 7 1 = a / 128 % 2 := rfl
  unfold killLine
  simp only [hworks, hread, hmac, plainHalf_open hopen, (hbook _).tier.block, hh, Bool.false_eq_true, if_false,
    Block.half_select]
  have hput := fun n b => stores_putBlock (b := b) (hbook n) (.refl (State.putBlock _ a b))
  by_cases hv : (s.block a).valid = true
  · simp only [hv, Bool.not_true, Bool.false_eq_true, if_false, if_true]
    cases hz : (s.block a).zero (1 - a / 128 % 2) with
    | true =>
      rw [Block.killed_clear (.inl hz)]
      exact hput _ _
    | false =>
      by_cases hd : (s.block a).half (1 - a / 128 % 2) = 0 ∧ (s.block a).poison = false
      · rw [Block.killed_clear (.inr hd), if_neg Bool.false_ne_true, if_pos (by simpa using hd)]
        exact hput _ _
      · rw [Block.killed_flagged hz hd, if_neg Bool.false_ne_true, if_neg (by simpa using hd)]
        exact hput _ _
  · simp only [hv, Bool.not_false, if_true, Bool.false_eq_true, if_false]
    exact (hbook _).stores a

end

/-! ### A request leaves the queue and is served (R233) -/

/-- The request has left the queue of its channel. -/
def unqueued (s : State) (q : ChanReq) : State := { s with cel := { s.cel with hbmq := s.cel.hbmq.erase q } }

theorem only_unqueued (s : State) (q : ChanReq) : Only [.cel] s (unqueued s q) := only_cel s _

theorem tierKept_unqueued (s : State) (q : ChanReq) : TierKept s (unqueued s q) := ⟨rfl, fun _ _ => rfl⟩

theorem Stores.of_unqueued {s v : State} {q : ChanReq} {a : Nat} {b : Block} (h : Stores (unqueued s q) v a b) :
    Only [.cel, .hbm, .regs] s v ∧ BlocksKept s v a ∧ v.cel = { s.cel with hbmq := s.cel.hbmq.erase q } :=
  ⟨((only_unqueued s q).mono (by decide)).trans (h.only.mono (by decide)),
    fun c hc => (h.others c (by rwa [(tierKept_unqueued s q).keyOf, (tierKept_unqueued s q).keyOf])).trans
      ((tierKept_unqueued s q).block c),
    h.only.2 .cel (by decide)⟩

section
variable {s : State} {a : Nat} {q : ChanReq} (hs : ChanServes s a q)
include hs

theorem ChanServes.works_unqueued : (unqueued s q).chanFailed a = false := hs.works

theorem ChanServes.open_unqueued : (unqueued s q).sealedAt a = none := hs.isOpen

/-- A request that is next for its block is served, and leaves the queue where it waited there. -/
theorem channelServe_of_serves (hq : q.addr = a) (errs : List SymErr) :
    channelServe s q errs = serveChan (unqueued s q) q errs := by
  have hnext : s.nextFor q = true := by
    unfold State.nextFor
    split
    · rfl
    · rename_i x hx
      have hblock : blockAddr x.addr = blockAddr q.addr := by simpa using List.find?_some hx
      simpa using hs.turn x (List.mem_of_find?_eq_some hx) (by rw [hblock, hq])
  unfold channelServe
  rw [if_neg (by simp [hq, hs.live, hs.backed, hs.held])]
  by_cases hm : q ∈ s.cel.hbmq
  · rw [if_pos (by simpa using hm), if_pos hnext]
    rfl
  · rw [if_neg (by simpa using hm), unqueued, List.erase_of_not_mem hm]

end

/-! ### Answers leave the tier as it is -/

theorem ralRoute_regsKept (s : State) (m : RMsg) : RegsKept s (ralRoute s m).1 recordRegs := by
  unfold ralRoute
  split
  · exact setPort_regsKept s _ _
  · exact .refl s _

theorem tierKept_respond (s : State) (q : RMsg) (typ : Nat) (arg : BitVec 128) (poison : BitVec 4) (data : List Sector) :
    TierKept s (respond s q typ arg poison data) := by
  have hhbm : (respond s q typ arg poison data).hbm = s.hbm := (only_respond s q typ arg poison data).2 .hbm (by decide)
  refine ⟨congrArg HbmSt.blocks hhbm, ?_⟩
  rw [respond_eq]
  exact (ralRoute_regsKept s _).above recordRegs_below

theorem tierKept_storeDone (s : State) (slot : Nat) (t : Phys → Bool) : TierKept s (storeDone s slot t) := by
  unfold storeDone
  split
  · exact .refl s
  · split
    · exact .refl s
    · exact ⟨rfl, fun _ _ => rfl⟩

theorem tierKept_answerAck (s : State) (who : Requester) (flag : Bool) (addr status : Nat) (w : Word) :
    TierKept s (answerAck s who flag addr status w) := by
  unfold answerAck
  split
  · split
    · exact ⟨rfl, fun _ _ => rfl⟩
    · exact tierKept_storeDone s _ _
  · exact tierKept_respond _ _ _ _ _ _
  · exact .refl s

theorem tierKept_releaseWaits (s : State) (n a : Nat) (d : Line) (p : BitVec 4) (be : BitVec 128) :
    TierKept s (releaseWaits s n a d p be) := by
  unfold releaseWaits
  extract_lets x touched sick ends s1
  have hfirst : TierKept s s1 := ⟨rfl, fun _ _ => rfl⟩
  exact foldS_keeps (P := TierKept s) _ _ (fun u e hu => ite_keeps (P := TierKept s)
    (hu.trans (tierKept_answerAck _ _ _ _ _ _)) (hu.trans (tierKept_answerAck _ _ _ _ _ _))) hfirst

/-! ### The requests of the statement -/

theorem server_congr {s t : State} (hsec : t.sec = s.sec) (hbup : t.bup = s.bup) (hcel : t.cel = s.cel) (a : Nat) :
    t.server a = s.server a := by
  have hpart : t.part = s.part := by funext p; simp only [State.part, hsec, hbup]
  have hslice : t.slice = s.slice := by funext n; simp only [State.slice, hcel]
  unfold State.server State.partOfAddr State.findPart
  rw [hpart, hslice]

section
variable {s : State} {a : Nat}

/-- A fill of a line that its slice waits for is on its way to it (R231). -/
theorem fill_served {q : ChanReq} (ha : lineAddr a = a) (hs : ChanServes s a q)
    (hq : ∀ x ∈ s.cel.hbmq, blockAddr x.addr ≠ blockAddr a) (hf : s.cel.fillq.any (fun f => f.addr = a) = false)
    {n : Nat} {x : LineEnt} (hn : s.server a = some n) (hx : (s.findLine n a).map (fun e => e.2.2) = some x)
    (hst : x.st = .filling) : Acts (.hbmFill a []) s [.cel, .hbm, .regs] (fun v =>
      v.cel = { s.cel with fillq := s.cel.fillq ++
        [⟨a, (s.block a).valid, (s.block a).line (a / 128 % 2), (s.block a).sick⟩] } ∧
      v.hbm.blocks = s.hbm.blocks) := by
  obtain ⟨t, ht, hread⟩ := readLine_open hs.works hs.isOpen
  have hcel : t.cel = s.cel := ht.only.2 .cel (by decide)
  have hserver : t.server a = some n :=
    (server_congr (ht.only.2 .sec (by decide)) (ht.only.2 .bup (by decide)) hcel a).trans hn
  obtain ⟨⟨w, f, l⟩, hfind, hl⟩ := Option.map_eq_some_iff.1 hx
  have hline : t.findLine n a = some (w, f, l) := (findLine_congr (by rw [hcel]) n a).trans hfind
  have hl' : l.st = .filling := by rw [← hst, ← hl]
  have hwait : s.cel.hbmq.any (fun x => blockAddr x.addr = blockAddr a) = false := by simpa using hq
  have hexec : hbmFillX a [] s = { t with cel := { t.cel with fillq := t.cel.fillq ++
      [⟨a, (s.block a).valid, (s.block a).line (a / 128 % 2), (s.block a).sick⟩] } } := by
    unfold hbmFillX
    simp only [ha, hs.live, hs.backed, hs.held, hwait, hread, hserver, Option.bind_some, hline, hl', hcel, hf, decide_true,
      not_true, Bool.false_eq_true, or_self, not_false_eq_true, and_self, if_false, if_true]
  refine ⟨_, congrArg Host.Outcome.next hexec, (ht.only.mono (by decide)).trans ((only_cel t _).mono (by decide)), ?_,
    ht.tier.blocks⟩
  rw [hcel]

/-- A write-back stores its line (R231). -/
theorem writeBack_served {d : Line} {p : BitVec 4} (ha : lineAddr a = a) (hs : ChanServes s a (.writeBack a d p)) :
    ∃ v, exec (.hbmWriteBack a d p []) s = .next v ∧
      Stores (unqueued s (.writeBack a d p)) v a
        ((s.block a).written (a / 128 % 2) d ((s.block a).poisonAfter (a / 128 % 2) p false)) := by
  have hserve : writeBack (unqueued s (.writeBack a d p)) a d p [] =
      writeLine (unqueued s (.writeBack a d p)) a d p false [] := by
    rw [writeBack, hs.works_unqueued]
    rfl
  have hstores := writeLine_open hs.open_unqueued d p false
  rw [(tierKept_unqueued s _).block] at hstores
  refine ⟨_, ?_, hstores⟩
  show Host.Outcome.next (channelServe s (.writeBack (lineAddr a) d p) []) = _
  rw [ha, channelServe_of_serves hs rfl]
  exact congrArg Host.Outcome.next hserve

/-- A kill gives up its line (R231). -/
theorem kill_served (ha : lineAddr a = a) (hs : ChanServes s a (.kill a)) :
    ∃ v, exec (.hbmKill a []) s = .next v ∧ Stores (unqueued s (.kill a)) v a
      (if (s.block a).valid then (s.block a).killed (a / 128 % 2) else s.block a) := by
  have hstores := killLine_open hs.works_unqueued hs.open_unqueued
  rw [(tierKept_unqueued s _).block] at hstores
  refine ⟨_, ?_, hstores⟩
  show Host.Outcome.next (channelServe s (.kill (lineAddr a)) []) = _
  rw [ha, channelServe_of_serves hs rfl]
  rfl

/-- A sidecar update makes its page the latest of the sidecar cache (R225). -/
theorem sidecar_served (ha : lineAddr a = a) (hs : ChanServes s a (.sidecar a)) :
    Acts (.hbmSidecarUpdate a) s [.cel, .hbm] (fun v =>
      (v.chan (s.placeOf a).1).scache.head? = some (2 ^ 20 * pcOf a + (s.placeOf a).2 / 32, true) ∧
      v.hbm.blocks = s.hbm.blocks) := by
  obtain ⟨c, was, heq, hhead⟩ := touchSidecar_eq (unqueued s (.sidecar a)) a true
  refine ⟨(unqueued s (.sidecar a)).setChan (s.placeOf a).1 c, ?_,
    ((only_unqueued s _).mono (by decide)).trans ((only_setChan _ _ _).mono (by decide)), ?_, rfl⟩
  · show Host.Outcome.next (channelServe s (.sidecar (lineAddr a)) []) = _
    rw [ha, channelServe_of_serves hs rfl]
    exact congrArg Host.Outcome.next heq
  · rw [State.chan_setChan, if_pos rfl, hhead, Bool.or_true]
    rfl

end

/-! ### Uncached accesses (R234) -/

section
variable {s : State} {a k hint : Nat} {op : SliceOp} (hs : ChanServes s a (.uncached ⟨.thread k, a, hint, op⟩))
include hs

/-- The request found in the queue for an access is that access itself. -/
theorem uncachedOf_served : uncachedOf s ⟨.thread k, a, hint⟩ op = .uncached ⟨.thread k, a, hint, op⟩ := by
  unfold uncachedOf
  split
  · rename_i x hx
    have hmatch := List.find?_some hx
    split at hmatch
    · rename_i h
      simp only [Bool.and_eq_true, decide_eq_true_eq] at hmatch
      obtain ⟨⟨⟨-, haddr⟩, -⟩, -⟩ := hmatch
      exact hs.turn _ (List.mem_of_find?_eq_some hx) (by rw [ChanReq.addr, haddr])
    · cases hmatch
  · rfl

theorem uncachedServe_served (hp : s.permits (.thread k) op.writes a = true) :
    uncachedServe s ⟨.thread k, a, hint⟩ op [] =
      serveUncached (unqueued s (.uncached ⟨.thread k, a, hint, op⟩)) ⟨.thread k, a, hint, op⟩ [] := by
  unfold uncachedServe
  rw [if_neg (by simp [hs.live]), if_neg (by simp [hs.backed, hp]), uncachedOf_served hs, channelServe_of_serves hs rfl]
  rfl

end

section
variable {s : State} {a k hint : Nat}

/-- The request found in the queue for an uncached read is no flag wait: the read is served as it is. -/
theorem hbmUncachedReadX_served (hs : ChanServes s a (.uncached ⟨.thread k, a, hint, .read hint⟩)) :
    hbmUncachedReadX ⟨.thread k, a, hint⟩ [] s = uncachedServe s ⟨.thread k, a, hint⟩ (.read hint) [] := by
  unfold hbmUncachedReadX
  split
  · rename_i h hx
    have hmatch := List.find?_some hx
    simp only [Bool.and_eq_true, decide_eq_true_eq] at hmatch
    obtain ⟨⟨-, haddr⟩, -⟩ := hmatch
    have hmine := hs.turn _ (List.mem_of_find?_eq_some hx) (by rw [ChanReq.addr, haddr])
    rw [(ChanReq.uncached.inj hmine : h = _)]
  · rfl

/-- An uncached read answers its thread (R234). -/
theorem uncachedRead_served (ha : lineAddr a = a) (hs : ChanServes s a (.uncached ⟨.thread k, a, hint, .read hint⟩))
    (hp : s.permits (.thread k) false a = true) :
    Acts (.hbmUncachedRead ⟨.thread k, a, hint⟩ []) s [.cmp, .cel, .hbm, .regs] (fun v =>
      v.cmp.replies = s.cmp.replies ++ [⟨k, a, (s.block a).line (a / 128 % 2), (s.block a).sick, 0, 0, 0⟩] ∧
      v.hbm.blocks = s.hbm.blocks) := by
  obtain ⟨t, ht, hread⟩ := readLine_open hs.works_unqueued hs.open_unqueued
  rw [(tierKept_unqueued s _).block] at hread
  have hcmp : t.cmp = s.cmp := ht.only.2 .cmp (by decide)
  refine ⟨answerRead t (.thread k) a ((s.block a).line (a / 128 % 2)) (s.block a).sick 0, ?_,
    ((only_unqueued s _).mono (by decide)).trans ((ht.only.mono (by decide)).trans ((only_cmp t _).mono (by decide))),
    ?_, ht.tier.blocks⟩
  · show Host.Outcome.next (hbmUncachedReadX _ [] s) = _
    rw [hbmUncachedReadX_served hs, uncachedServe_served hs hp]
    simp only [serveUncached, ha, hread]
  · show t.cmp.replies ++ _ = _
    rw [hcmp]

/-- An uncached write of a whole line stores it, then is acknowledged (R234). -/
theorem uncachedWrite_served {d : Line} {p : BitVec 4} (ha : lineAddr a = a)
    (hs : ChanServes s a (.uncached ⟨.thread k, a, hint, .write (BitVec.allOnes 128) d p⟩))
    (hp : s.permits (.thread k) true a = true) :
    Acts (.hbmUncachedWrite ⟨.thread k, a, hint⟩ (.plain (BitVec.allOnes 128) d p) []) s
      ([.cmp, .cel, .hbm, .ral] ++ tracedIn) (fun v =>
        v.block a = (s.block a).written (a / 128 % 2) d ((s.block a).poisonAfter (a / 128 % 2) p true) ∧
        BlocksKept s v a ∧ StorePerformed s v ⟨.thread k, a, hint⟩) := by
  set u := unqueued s (.uncached ⟨.thread k, a, hint, .write (BitVec.allOnes 128) d p⟩)
  have hstores : Stores u (writeLine u a d p true []) a _ := writeLine_open hs.open_unqueued d p true
  rw [(tierKept_unqueued s _).block] at hstores
  obtain ⟨hserved, hothers, -⟩ := hstores.of_unqueued
  set w := writeLine u a d p true []
  set t := releaseWaits w (sliceOf a) a d (if (w.block a).poison then 0xF else 0) (BitVec.allOnes 128)
  have honly : Only (.cel :: answeredIn) w t := (releaseWaits_spec _ _ _ _ _ _).1
  have hack : Only answeredIn t (answerAck t (.thread k) false a 0 0) := only_answerAck _ _ _ _ _ _
  have htier : TierKept w (answerAck t (.thread k) false a 0 0) :=
    (tierKept_releaseWaits _ _ _ _ _ _).trans (tierKept_answerAck _ _ _ _ _ _)
  have hthr : t.cmp.thr = s.cmp.thr :=
    (releaseWaits_thr _ _ _ _ _ _).trans (congrArg CmpSt.thr (hstores.only.2 .cmp (by decide)))
  refine ⟨answerAck t (.thread k) false a 0 0, ?_,
    (hserved.mono (by decide)).trans ((honly.mono (by decide)).trans (hack.mono (by decide))),
    (htier.block a).trans hstores.block, htier.blocksKept hothers,
    storePerformed_answerAck (r := ⟨.thread k, a, hint⟩) hthr⟩
  show Host.Outcome.next (uncachedServe s ⟨.thread k, a, hint⟩ (.write (BitVec.allOnes 128) d p) []) = _
  rw [uncachedServe_served hs hp]
  simp only [serveUncached, ha, hs.works_unqueued, if_true, Bool.false_eq_true, if_false]
  rfl

end

end Sys2Proof.Machine
end

section
/-! SUPPORT. Channels in service (R222, R237, R240, R241, R243): refreshes, recalibration, retries, failures, power-down and
the bandwidth regulators; the proof of ChannelsServeAndAreKept. -/

namespace Sys2Proof.Machine

open Sys2Proof

/-! ### A channel fails in service (R243) -/

/-- What the failure of a channel may change. -/
def failedIn : List Area := [.pci, .bup, .hbm] ++ tracedIn

theorem only_bup (s : State) (x : BupSt) : Only [.bup] s { s with bup := x } :=
  ⟨rfl, fun p hp => by cases p <;> simp [Area.same] at hp ⊢⟩

theorem only_recorded (s : State) (src sev part payload : Nat) :
    Only [.dbg, .pci] s (recorded s src sev part payload) :=
  Only.trans (t := { s with dbg := (recorded s src sev part payload).dbg }) ((only_dbg s _).mono (by decide))
    ((only_pci _ _).mono (by decide))

theorem newDefect_spec (s : State) (e : Word) :
    Only (.bup :: raisedIn) s (newDefect s e) ∧ RegsKept s (newDefect s e) [rBupEvent] := by
  unfold newDefect
  split
  · exact ⟨.refl _ s, .refl s _⟩
  · split
    · refine ⟨((only_bup s _).mono (by decide)).trans ((only_raise _ _ _).mono (by decide)), fun o ho => ?_⟩
      rw [(raise_spec _ _ _).2, if_neg (by simpa using ho)]
      rfl
    · exact ⟨(only_bup s _).mono (by decide), fun _ _ => rfl⟩

theorem checkFailed_spec (s : State) : Only [.bup] s (checkFailed s) ∧ RegsKept s (checkFailed s) [] :=
  ite_keeps (P := fun t => Only [.bup] s t ∧ RegsKept s t []) ⟨only_bup s _, fun _ _ => rfl⟩ ⟨.refl _ s, .refl s _⟩

/-- The failure is recorded: the error record, the status bit, the new defect, and the stack's own state (R243, R46). -/
def failRecorded (s : State) (d : Nat) : State :=
  let s1 := raise (postErr s 2 2 0xFF (hbmPayload 2 d d 0 0 0)) (rHbmStkEvent (d / 32)) fHbmStkEventChFailed
  let s2 := newDefect s1 (unitEntry 4 0 d)
  checkFailed { s2 with bup := { s2.bup with retired := true, events := s2.bup.events + 1 } }

theorem failRecorded_spec (s : State) (d : Nat) : Only ([.pci, .bup] ++ tracedIn) s (failRecorded s d) ∧
    ∀ o, 0xC00000 ≤ o → (failRecorded s d).reg o =
      if o = rHbmStkEvent (d / 32) then s.reg o ||| fHbmStkEventChFailed.mask else s.reg o := by
  unfold failRecorded
  extract_lets s1 s2
  obtain ⟨hpost, hpostRegs⟩ := postErr_spec s 2 2 0xFF (hbmPayload 2 d d 0 0 0)
  obtain ⟨hdef, hdefRegs⟩ := newDefect_spec s1 (unitEntry 4 0 d)
  obtain ⟨hcheck, hcheckRegs⟩ :=
    checkFailed_spec { s2 with bup := { s2.bup with retired := true, events := s2.bup.events + 1 } }
  refine ⟨?_, fun o ho => ?_⟩
  · have h1 : Only ([.pci, .bup] ++ tracedIn) s s1 := ((only_recorded s 2 2 0xFF _).mono (by decide)).trans
      ((hpost.only.mono (by decide)).trans ((only_raise _ _ _).mono (by decide)))
    exact h1.trans ((hdef.mono (by decide)).trans (((only_bup s2 _).mono (by decide)).trans (hcheck.mono (by decide))))
  · have hpost' := RegsKept.above hpostRegs recordRegs_below
    calc _ = s2.reg o := hcheckRegs o (by simp)
      _ = s1.reg o := hdefRegs.above (by decide) o ho
      _ = _ := by
        rw [(raise_spec _ _ _).2, hpost' _ ho, hpost' _ (by unfold rHbmStkEvent; omega)]
        split
        · rename_i h
          rw [h]
        · rfl

/-- The registers of a channel that fails: its state and cause, and two counts of channels out of service. -/
def failRegs (s : State) (d cause : Nat) : State :=
  ((((s.setFld (rHbmChStat d) fHbmChStatState 2).setFld (rHbmChStat d) fHbmChStatCause cause).addSat rHbmCap
    fHbmCapChanFailed 1).addSat (rHbmStkStat (d / 32)) fHbmStkStatChanOut 1)

theorem only_failRegs (s : State) (d cause : Nat) : Only [.regs] s (failRegs s d cause) :=
  (((only_setFld s _ _ _).trans (only_setFld _ _ _ _)).trans (only_setFld _ _ _ _)).trans (only_setFld _ _ _ _)

theorem reg_failRegs (s : State) (d cause : Nat) {o : Nat} (hcap : o ≠ rHbmCap) (hstk : o ≠ rHbmStkStat (d / 32)) :
    (failRegs s d cause).reg o = if o = rHbmChStat d then
      fHbmChStatCause.put (fHbmChStatState.put (s.reg o) 2) cause else s.reg o := by
  rw [failRegs, State.reg_addSat _ _ _ _ _ hstk, State.reg_addSat _ _ _ _ _ hcap, State.reg_setFld, State.reg_setFld,
    State.reg_setFld, if_pos rfl]
  split
  · rename_i h
    rw [h]
  · rfl

/-- The channel is marked as failed, and its sidecar cache is gone. -/
def failMarked (s : State) (d cause : Nat) : State :=
  (failRegs s d cause).setChan d { s.chan d with scache := [] }

theorem chanFail_eq {s : State} {d : Nat} (hst : s.chanSt d = 0) (cause : Nat) :
    chanFail s d cause = failRecorded (failMarked s d cause) d := if_neg (not_not.2 hst)

@[simp] theorem State.reg_setChan (s : State) (d : Nat) (c : Channel) (o : Nat) : (s.setChan d c).reg o = s.reg o := rfl

theorem only_failMarked (s : State) (d cause : Nat) : Only [.regs, .hbm] s (failMarked s d cause) :=
  ((only_failRegs s d cause).mono (by decide)).trans ((only_setChan _ _ _).mono (by decide))

/-- A channel in service fails: its state, cause, controller and event; no block changes. -/
theorem chanFail_spec {s : State} {d : Nat} (hst : s.chanSt d = 0) {cause : Nat} (hc : cause < 8) :
    Only failedIn s (chanFail s d cause) ∧ ChanHasFailed s (chanFail s d cause) d cause ∧
      (chanFail s d cause).chan d = { s.chan d with scache := [] } ∧
      (chanFail s d cause).fld (rHbmStkEvent (d / 32)) fHbmStkEventRecalFail =
        s.fld (rHbmStkEvent (d / 32)) fHbmStkEventRecalFail := by
  obtain ⟨honly, hregs⟩ := failRecorded_spec (failMarked s d cause) d
  rw [← chanFail_eq hst] at honly hregs
  have hmarked := only_failMarked s d cause
  have hhbm : (chanFail s d cause).hbm = (failMarked s d cause).hbm := honly.2 .hbm (by decide)
  have hchan : (chanFail s d cause).chan d = { s.chan d with scache := [] } := by
    rw [State.chan, hhbm]
    exact (State.chan_setChan _ _ _ _).trans (if_pos rfl)
  have hstat : (chanFail s d cause).reg (rHbmChStat d) =
      fHbmChStatCause.put (fHbmChStatState.put (s.reg (rHbmChStat d)) 2) cause := by
    rw [hregs _ (by unfold rHbmChStat; omega), if_neg (by unfold rHbmChStat rHbmStkEvent; omega),
      failMarked, State.reg_setChan, reg_failRegs s d cause (by unfold rHbmChStat rHbmCap; omega)
        (by unfold rHbmChStat rHbmStkStat; omega), if_pos rfl]
  have hevent : (chanFail s d cause).reg (rHbmStkEvent (d / 32)) =
      s.reg (rHbmStkEvent (d / 32)) ||| fHbmStkEventChFailed.mask := by
    rw [hregs _ (by unfold rHbmStkEvent; omega), if_pos rfl,
      failMarked, State.reg_setChan, reg_failRegs s d cause (by unfold rHbmStkEvent rHbmCap; omega)
        (by unfold rHbmStkEvent rHbmStkStat; omega),
      if_neg (by unfold rHbmChStat rHbmStkEvent; omega)]
  refine ⟨(hmarked.mono (by decide)).trans (honly.mono (by decide)), ⟨?_, ?_, ?_, ?_, ?_, ?_⟩, hchan, ?_⟩
  · rw [State.chanSt, State.fld, hstat, Fld.get_put_other _ _ _ _ (by decide), Fld.get_put _ _ _ (by decide)]
    rfl
  · rw [State.fld, hstat, Fld.get_put _ _ _ (by decide)]
    exact Nat.mod_eq_of_lt hc
  · rw [hchan]
  · rw [State.fld, hevent, Fld.get_or_mask _ _ (by decide)]
    rfl
  · rw [hhbm]
    rfl
  · exact (honly.2 .cel (by decide)).trans (hmarked.2 .cel (by decide))
  · rw [State.fld, hevent, Fld.get_or_mask_other _ _ _ (by decide), State.fld]

theorem ChanHasFailed.congr {s s' v : State} {d cause : Nat} (h : ChanHasFailed s' v d cause)
    (hb : s'.hbm.blocks = s.hbm.blocks) (hc : s'.cel = s.cel) : ChanHasFailed s v d cause := by
  obtain ⟨hst, hcause, hscache, hevent, hblocks, hcel⟩ := h
  exact ⟨hst, hcause, hscache, hevent, hblocks.trans hb, hcel.trans hc⟩

/-! ### The bits of the two pseudo-channels -/

theorem getLsbD_pcBit {pc : Nat} (h : pc < 2) (j : Nat) :
    (BitVec.ofNat 2 (2 ^ (pc % 2))).getLsbD j = decide (j = pc) := by
  rw [BitVec.getLsbD_ofNat, Nat.mod_eq_of_lt h, Nat.testBit_two_pow]
  by_cases hj : j = pc
  · simp [hj, h]
  · simp [hj, Ne.symm hj]

/-! ### Recalibration (R240) -/

/-- The channel after the recalibration of a pseudo-channel at a temperature. -/
def Channel.calibrated (c : Channel) (pc temp : Nat) : Channel :=
  { c with
    recal := c.recal &&& ~~~ BitVec.ofNat 2 (2 ^ (pc % 2))
    calTemp := smSet c.calTemp (pc % 2) temp
    calRounds := smSet c.calRounds (pc % 2) 0 }

theorem calibrated_eq (s : State) (ch pc : Nat) :
    calibrated s ch pc = s.setChan ch ((s.chan ch).calibrated pc (s.chanTemp ch)) := rfl

theorem booked_calibrated (s : State) (ch pc : Nat) : Booked s (calibrated s ch pc) := booked_setChan s ch _

theorem Channel.calibrated_spec (c : Channel) {pc : Nat} (h : pc < 2) (temp : Nat) :
    (c.calibrated pc temp).recal.getLsbD pc = false ∧ smGetD (c.calibrated pc temp).calTemp pc 0 = temp ∧
      smGetD (c.calibrated pc temp).calRounds pc 0 = 0 := by
  refine ⟨?_, ?_, ?_⟩
  · simp only [Channel.calibrated, BitVec.getLsbD_and, BitVec.getLsbD_not, getLsbD_pcBit h, decide_true, Bool.not_true,
      Bool.and_false]
  · simp [Channel.calibrated, Nat.mod_eq_of_lt h]
  · simp [Channel.calibrated, Nat.mod_eq_of_lt h]

section
variable {s : State} {ch pc : Nat}

/-- A refresh is counted (R222). -/
theorem refresh_counted (hl : s.hbmLive = true) (hch : ch < 192) (hst : s.chanSt ch = 0) (bank : Nat) :
    Acts (.hbmRefresh ch pc bank) s [.hbm] (fun v =>
      v.chan ch = { s.chan ch with refreshes := (s.chan ch).refreshes + 1 } ∧ ∀ j, j ≠ ch → v.chan j = s.chan j) := by
  refine ⟨_, congrArg Host.Outcome.next (if_pos ⟨hl, hch, hst⟩), only_setChan s _ _, ?_, fun j hj => ?_⟩
  · rw [State.chan_setChan, if_pos rfl]
  · rw [State.chan_setChan, if_neg hj]

/-- A pseudo-channel far from its last calibration is recalibrated (R240). -/
theorem recal_begins (hl : s.hbmLive = true) (hch : ch < 192) (hst : s.chanSt ch = 0)
    (hfar : 8 ≤ s.chanTemp ch - smGetD (s.chan ch).calTemp pc 0 ∨ 8 ≤ smGetD (s.chan ch).calTemp pc 0 - s.chanTemp ch ∨
      4000 ≤ smGetD (s.chan ch).calRounds pc 0) (hpc : pc < 2) :
    Acts (.hbmRecalibrate ch pc) s [.hbm] (fun v => (v.chan ch).recal.getLsbD pc = true ∧
      ∀ j, j ≠ pc → (v.chan ch).recal.getLsbD j = (s.chan ch).recal.getLsbD j) := by
  have hbits : ∀ j, ((s.chan ch).recal ||| BitVec.ofNat 2 (2 ^ (pc % 2))).getLsbD j =
      ((s.chan ch).recal.getLsbD j || decide (j = pc)) := fun j => by rw [BitVec.getLsbD_or, getLsbD_pcBit hpc]
  refine ⟨_, congrArg Host.Outcome.next (if_pos ⟨hl, hch, hst, or_assoc.2 hfar⟩), only_setChan s _ _, ?_, fun j hj => ?_⟩
  · rw [State.chan_setChan, if_pos rfl, hbits, decide_eq_true rfl, Bool.or_true]
  · rw [State.chan_setChan, if_pos rfl, hbits, decide_eq_false hj, Bool.or_false]

/-- A recalibration ends (R240). -/
theorem recal_ends (hr : (s.chan ch).recal.getLsbD pc = true) (hpc : pc < 2) :
    Acts (.hbmRecalDone ch pc true) s [.hbm] (fun v => (v.chan ch).recal.getLsbD pc = false ∧
      smGetD (v.chan ch).calTemp pc 0 = s.chanTemp ch ∧ smGetD (v.chan ch).calRounds pc 0 = 0) := by
  refine ⟨calibrated s ch pc, ?_, only_setChan s _ _, ?_⟩
  · show Host.Outcome.next (recalDoneX ch pc true s) = _
    rw [recalDoneX, Nat.mod_eq_of_lt hpc, if_pos hr]
    rfl
  · dsimp only
    rw [calibrated_eq, State.chan_setChan, if_pos rfl]
    exact Channel.calibrated_spec _ hpc _

theorem chanSt_raise_stkEvent (f : Fld) : (raise s (rHbmStkEvent (ch / 32)) f).chanSt ch = s.chanSt ch := by
  rw [State.chanSt, State.fld, (raise_spec _ _ _).2, if_neg (by unfold rHbmChStat rHbmStkEvent; omega)]
  rfl

/-- A failed recalibration fails the channel (R240, R243). -/
theorem recal_fails (hst : s.chanSt ch = 0) (hr : (s.chan ch).recal.getLsbD pc = true) (hpc : pc < 2) :
    Acts (.hbmRecalDone ch pc false) s ([.pci, .bup, .hbm] ++ tracedIn) (fun v => ChanHasFailed s v ch 7 ∧
      v.fld (rHbmStkEvent (ch / 32)) fHbmStkEventRecalFail = 1) := by
  set u := raise (calibrated s ch pc) (rHbmStkEvent (ch / 32)) fHbmStkEventRecalFail
  have hcal := booked_calibrated s ch pc
  have hside : SideOnly (calibrated s ch pc) u := (raise_spec _ _ _).1
  have hu : u.chanSt ch = 0 := (chanSt_raise_stkEvent _).trans ((hcal.tier.chanSt ch).trans hst)
  obtain ⟨honly, hfailed, -, hkept⟩ := chanFail_spec hu (cause := 7) (by decide)
  refine ⟨chanFail u ch 7, ?_, (hcal.only.mono (by decide)).trans (((only_raise _ _ _).mono (by decide)).trans honly),
    hfailed.congr ?_ ?_, ?_⟩
  · show Host.Outcome.next (recalDoneX ch pc false s) = _
    rw [recalDoneX, Nat.mod_eq_of_lt hpc, if_pos hr]
    rfl
  · rw [hside.hbm, hcal.tier.blocks]
  · rw [hside.cel]
    rfl
  · rw [hkept, State.fld_raise _ _ _ (by decide)]
    rfl

/-! ### Parity retries (R241) -/

theorem parity_scheduled (hl : s.hbmLive = true) (hch : ch < 192) (hst : s.chanSt ch = 0) (hk : (s.chan ch).attempt = 0) :
    Acts (.hbmParityError ch) s [.hbm] (fun v => v.chan ch = { s.chan ch with attempt := 1 }) :=
  ⟨_, congrArg Host.Outcome.next (if_pos ⟨hl, hch, hst, hk⟩), only_setChan s _ _,
    by dsimp only; rw [State.chan_setChan, if_pos rfl]⟩

end

/-- A retry has been counted; the third comes after a recalibration of both pseudo-channels. -/
def retried (s : State) (ch : Nat) : State :=
  let u := s.addSat (rHbmChCnt ch) fHbmChCntRetry 1
  if (s.chan ch).attempt = 3 then calibrated (calibrated u ch 0) ch 1 else u

section
variable {s : State} {ch : Nat}

theorem only_retried : Only [.hbm, .regs] s (retried s ch) := by
  have hcount : Only [.hbm, .regs] s (s.addSat (rHbmChCnt ch) fHbmChCntRetry 1) := (only_setFld s _ _ _).mono (by decide)
  exact ite_keeps (P := Only [.hbm, .regs] s)
    (hcount.trans ((booked_calibrated _ ch 0).trans (booked_calibrated _ ch 1)).only) hcount

theorem blocks_retried : (retried s ch).hbm.blocks = s.hbm.blocks :=
  ite_keeps (P := fun t : State => t.hbm.blocks = s.hbm.blocks) rfl rfl

theorem chanSt_retried (c : Nat) : (retried s ch).chanSt c = s.chanSt c := by
  have hcount : (s.addSat (rHbmChCnt ch) fHbmChCntRetry 1).chanSt c = s.chanSt c := by
    rw [State.chanSt, State.fld, State.reg_addSat _ _ _ _ _ (by unfold rHbmChStat rHbmChCnt; omega)]
    rfl
  exact ite_keeps (P := fun t : State => t.chanSt c = s.chanSt c)
    ((((booked_calibrated _ ch 0).trans (booked_calibrated _ ch 1)).tier.chanSt c).trans hcount) hcount

/-- The recalibration before the third retry leaves no rounds counted. -/
theorem calRounds_retried (hk : (s.chan ch).attempt = 3) : smGetD ((retried s ch).chan ch).calRounds 0 0 = 0 ∧
    smGetD ((retried s ch).chan ch).calRounds 1 0 = 0 := by
  rw [retried, if_pos hk, calibrated_eq, calibrated_eq, State.chan_setChan, if_pos rfl, State.chan_setChan, if_pos rfl]
  simp [Channel.calibrated]

/-- The retry of a command that has failed: it succeeds, fails and is tried again, or fails for the fourth time. -/
theorem parityRetryX_eq (hk : 0 < (s.chan ch).attempt) (ok : Bool) : parityRetryX ch ok s =
    if ok then (retried s ch).setChan ch { (retried s ch).chan ch with attempt := 0 }
    else if 3 ≤ (s.chan ch).attempt then
      chanFail ((retried s ch).setChan ch { (retried s ch).chan ch with attempt := 0 }) ch 5
    else (retried s ch).setChan ch { (retried s ch).chan ch with attempt := (s.chan ch).attempt + 1 } :=
  if_neg (Nat.ne_of_gt hk)

theorem only_attempt (k : Nat) :
    Only [.hbm, .regs] s ((retried s ch).setChan ch { (retried s ch).chan ch with attempt := k }) :=
  only_retried.trans ((only_setChan _ _ _).mono (by decide))

theorem chanSt_attempt (k : Nat) :
    ((retried s ch).setChan ch { (retried s ch).chan ch with attempt := k }).chanSt ch = s.chanSt ch :=
  ((booked_setChan _ ch _).tier.chanSt ch).trans (chanSt_retried ch)

theorem parity_succeeds (hst : s.chanSt ch = 0) (hk : 0 < (s.chan ch).attempt) :
    Acts (.hbmParityRetry ch true) s [.hbm, .regs] (fun v => (v.chan ch).attempt = 0 ∧ v.chanSt ch = 0) := by
  refine ⟨_, congrArg Host.Outcome.next ((parityRetryX_eq hk true).trans (if_pos rfl)), only_attempt 0, ?_,
    (chanSt_attempt 0).trans hst⟩
  rw [State.chan_setChan, if_pos rfl]

theorem parity_retried (hk : 0 < (s.chan ch).attempt) (h3 : (s.chan ch).attempt < 3) :
    Acts (.hbmParityRetry ch false) s [.hbm, .regs] (fun v => (v.chan ch).attempt = (s.chan ch).attempt + 1) := by
  refine ⟨_, congrArg Host.Outcome.next ((parityRetryX_eq hk false).trans
    ((if_neg Bool.false_ne_true).trans (if_neg (Nat.not_le.2 h3)))), only_attempt _, ?_⟩
  dsimp only
  rw [State.chan_setChan, if_pos rfl]

/-- The failure of the fourth attempt fails the channel (R241, R243). -/
theorem parity_fails (hst : s.chanSt ch = 0) (h3 : (s.chan ch).attempt = 3) :
    Acts (.hbmParityRetry ch false) s ([.pci, .bup, .hbm] ++ tracedIn) (fun v =>
      ChanHasFailed s v ch 5 ∧ smGetD (v.chan ch).calRounds 0 0 = 0 ∧ smGetD (v.chan ch).calRounds 1 0 = 0) := by
  obtain ⟨honly, hfailed, hchan, -⟩ := chanFail_spec ((chanSt_attempt 0).trans hst) (cause := 5) (by decide)
  refine ⟨_, congrArg Host.Outcome.next ((parityRetryX_eq (by rw [h3]; decide) false).trans
    ((if_neg Bool.false_ne_true).trans (if_pos (Nat.le_of_eq h3.symm)))), ((only_attempt 0).mono (by decide)).trans honly,
    hfailed.congr blocks_retried (only_retried.2 .cel (by decide)), ?_⟩
  rw [hchan, State.chan_setChan, if_pos rfl]
  exact calRounds_retried h3

/-! ### Uncorrectable codewords and power-down (R222, R243) -/

theorem ueRate_fails (hst : s.chanSt ch = 0) (hu : 64 ≤ (s.chan ch).ueRound) :
    Acts (.hbmUeRateFail ch) s ([.pci, .bup, .hbm] ++ tracedIn) (fun v => ChanHasFailed s v ch 6) := by
  obtain ⟨honly, hfailed, -⟩ := chanFail_spec hst (cause := 6) (by decide)
  exact ⟨_, congrArg Host.Outcome.next (if_pos hu), honly, hfailed⟩

theorem idle_powersDown {pc : Nat} (hl : s.hbmLive = true) (hch : ch < 192)
    (hidle : ∀ q ∈ s.cel.hbmq, (s.placeOf q.addr).1 ≠ ch) (hpc : pc < 2) :
    Acts (.hbmPowerDown ch pc) s [.hbm] (fun v => (v.chan ch).pdown.getLsbD pc = true) := by
  have hnone : ¬ s.cel.hbmq.any (fun q => (s.placeOf q.addr).1 = ch && pcOf q.addr = pc % 2) = true := by
    simpa using fun q hq h => absurd h (hidle q hq)
  refine ⟨_, congrArg Host.Outcome.next (if_pos ⟨hl, hch, hnone⟩), only_setChan s _ _, ?_⟩
  dsimp only
  rw [State.chan_setChan, if_pos rfl, BitVec.getLsbD_or, getLsbD_pcBit hpc, decide_eq_true rfl, Bool.or_true]

end

/-! ### The bandwidth regulators (R237) -/

/-- A table written at each key of a list reads what was written there. -/
theorem smGetD_foldl_smPut {α : Type} [DecidableEq α] (g : Nat → α) (d : α) (l : List Nat) (m : SMap α) (p : Nat) :
    smGetD (l.foldl (fun m p => smPut m p (g p) d) m) p d = if p ∈ l then g p else smGetD m p d := by
  induction l generalizing m with
  | nil => simp
  | cons q l ih =>
    rw [List.foldl_cons, ih, smGetD_smPut]
    by_cases hl : p ∈ l
    · simp [hl]
    · by_cases hq : p = q <;> simp [hl, hq]

section
variable {s : State} {f : Fn} (hc : s.canWrite f rHbmRegCtrl = true)
include hc

theorem exec_hbmRegApply : exec (.hbmRegApply f) s = .next (regApply s) :=
  congrArg Host.Outcome.next (whenReached_of_lt hc (by decide) _)

/-- An apply is refused with result `r`. -/
theorem regApply_refused {r : Nat} (hr : r < 4) (h : regApply s = s.setFld rHbmRegCtrl fHbmRegCtrlResult r) :
    Acts (.hbmRegApply f) s [.regs] (fun v => v.fld rHbmRegCtrl fHbmRegCtrlResult = r) := by
  refine ⟨_, (exec_hbmRegApply hc).trans (congrArg _ h), only_setFld s _ _ _, ?_⟩
  exact (State.fld_setFld _ _ _ _ (by decide)).trans (Nat.mod_eq_of_lt hr)

/-- An apply makes the pending values of every partition current, or refuses them. -/
theorem regulators_applied :
    let rate (p : Nat) := s.fld (rHbmReg p) fHbmRegRate
    let depth (p : Nat) := s.fld (rHbmReg p) fHbmRegDepth
    let sum := ((List.range 16).map rate).sum
    let bad := (List.range 16).any (fun p => depth p = 0 ∧ rate p ≠ 0)
    (sum ≤ 1024 → bad = false → Acts (.hbmRegApply f) s [.regs, .hbm] (fun v =>
      v.fld rHbmRegCtrl fHbmRegCtrlResult = 1 ∧ ∀ p, p < 16 →
        smGetD v.hbm.regs p (0, 0, false) = (rate p, depth p, decide (s.fld (rHbmReg p) fHbmRegHard = 1)))) ∧
    (1024 < sum → Acts (.hbmRegApply f) s [.regs] (fun v => v.fld rHbmRegCtrl fHbmRegCtrlResult = 2)) ∧
    (sum ≤ 1024 → bad = true → Acts (.hbmRegApply f) s [.regs] (fun v => v.fld rHbmRegCtrl fHbmRegCtrlResult = 3)) := by
  intro rate depth sum bad
  have hsum : (List.range 16).foldl (fun a p => a + rate p) 0 = sum := by
    rw [show sum = ((List.range 16).map rate).sum from rfl, List.sum_eq_foldl, List.foldl_map]
  refine ⟨fun hle hgood => ?_, fun hgt => ?_, fun hle hbad => ?_⟩
  · set x : HbmSt := { s.hbm with regs := (List.range 16).foldl (fun m p =>
      smPut m p (rate p, depth p, decide (s.fld (rHbmReg p) fHbmRegHard = 1)) (0, 0, false)) [] } with hx
    have happly : regApply s = ({ s with hbm := x } : State).setFld rHbmRegCtrl fHbmRegCtrlResult 1 := by
      unfold regApply
      exact (if_neg (by rw [hsum]; exact Nat.not_lt.2 hle)).trans (if_neg (Bool.eq_false_iff.1 hgood))
    refine ⟨_, (exec_hbmRegApply hc).trans (congrArg _ happly),
      ((only_hbm s x).mono (by decide)).trans ((only_setFld _ _ _ _).mono (by decide)),
      State.fld_setFld _ _ _ _ (by decide), fun p hp => ?_⟩
    show smGetD x.regs p _ = _
    rw [hx, smGetD_foldl_smPut, if_pos (List.mem_range.2 hp)]
  · exact regApply_refused hc (by decide) (if_pos (by rw [hsum]; exact hgt))
  · exact regApply_refused hc (by decide)
      ((if_neg (by rw [hsum]; exact Nat.not_lt.2 hle)).trans (if_pos hbad))

end

/-- Settles O22, a request and an event of the channels at a time: what the request stores or delivers, and what the event
leaves of the channel's controller, its state and the regulators. A kill of a block whose poison bit is set counts its other
half as not zero (assumption log 24). -/
theorem channelsServeAndAreKept : Obligations.ChannelsServeAndAreKept := by
  refine ⟨fun s a ha => ⟨?_, ?_, ?_, ?_, ?_, ?_⟩, fun s ch pc bank hl hch hst => ⟨?_, ?_, ?_, ?_, ?_, ?_, ?_⟩, ?_⟩
  · exact fun q hs hq hf n x hn hx hfill => fill_served ha hs hq hf hn hx hfill
  · intro d p hs
    obtain ⟨v, hexec, hstores⟩ := writeBack_served ha hs
    obtain ⟨honly, hothers, hcel⟩ := hstores.of_unqueued
    obtain ⟨hvalid, hhalf, hzero, hother, hzother, hkeygen, hmac, hpoison⟩ := Block.written_spec (s.block a) (a / 128 % 2) d
      ((s.block a).poisonAfter (a / 128 % 2) p false)
    rw [← hstores.block, Block.poisonAfter_writeBack] at hpoison
    rw [← hstores.block] at hvalid hhalf hzero hother hzother hkeygen hmac
    exact ⟨v, hexec, honly, hvalid, hhalf, hzero, hother, hzother, hkeygen, hmac, hpoison, hothers, hcel⟩
  · intro hs
    obtain ⟨v, hexec, hstores⟩ := kill_served ha hs
    obtain ⟨honly, hothers, hcel⟩ := hstores.of_unqueued
    refine ⟨v, hexec, honly, hothers, hcel, fun hv => ?_, fun hv hz => ?_, fun hv hz hd => ?_⟩
    · rw [hstores.block, hv, if_neg Bool.false_ne_true]
    · rw [hstores.block, if_pos hv, Block.killed_clear hz]
    · obtain ⟨hvalid, hzero, hother, hpoison⟩ := Block.killed_kept hz hd
      rw [hstores.block, if_pos hv]
      exact ⟨hvalid.trans hv, hzero, hother, hpoison⟩
  · exact fun k hint hs hp => uncachedRead_served ha hs hp
  · intro k hint d p hs hp
    obtain ⟨v, hexec, honly, hblock, hothers, hdone⟩ := uncachedWrite_served ha hs hp
    obtain ⟨hvalid, hhalf, hzero, hother, -, -, -, hpoison⟩ := Block.written_spec (s.block a) (a / 128 % 2) d
      ((s.block a).poisonAfter (a / 128 % 2) p true)
    rw [← hblock, Block.poisonAfter_uncached] at hpoison
    rw [← hblock] at hvalid hhalf hzero hother
    exact ⟨v, hexec, honly, hvalid, hhalf, hzero, hother, hpoison, hothers, hdone⟩
  · exact sidecar_served ha
  · exact refresh_counted hl hch hst bank
  · exact recal_begins hl hch hst
  · exact fun hr hpc => ⟨recal_ends hr hpc, recal_fails hst hr hpc⟩
  · exact parity_scheduled hl hch hst
  · exact fun hk => ⟨parity_succeeds hst hk, parity_retried hk, parity_fails hst⟩
  · exact ueRate_fails hst
  · exact idle_powersDown hl hch
  · exact fun s f hc => regulators_applied hc

end Sys2Proof.Machine
end

section
/-! SUPPORT. A message that a port takes (R379, R395): what remains of the state when the message has left its queue and its
slots are free again. -/

namespace Sys2Proof.Machine

open Sys2Proof

/-- `s` with other ports. -/
def State.withPorts (s : State) (ps : SMap RalPort) : State := { s with ral := { s.ral with ports := ps } }

/-- Of the state only the ports have changed, and port `n` has the messages to send that it had. -/
def PortsMoved (n : Nat) (s t : State) : Prop := ∃ ps, t = s.withPorts ps ∧ (t.port n).txq = (s.port n).txq

theorem PortsMoved.refl (n : Nat) (s : State) : PortsMoved n s s := ⟨s.ral.ports, rfl, rfl⟩

theorem PortsMoved.trans {n : Nat} {s t u : State} (h : PortsMoved n s t) (h' : PortsMoved n t u) : PortsMoved n s u := by
  obtain ⟨ps, rfl, htxq⟩ := h
  obtain ⟨ps', rfl, htxq'⟩ := h'
  exact ⟨ps', rfl, htxq'.trans htxq⟩

@[simp] theorem State.port_withPorts_smPut (s : State) (n k : Nat) (p : RalPort) :
    (s.withPorts (smPut s.ral.ports n p RalPort.initial)).port k = if k = n then p else s.port k := by
  simp [State.port, State.withPorts]

/-- A port that stays in its state is stored without a trace. -/
theorem setPort_of_state {s : State} {n : Nat} {p : RalPort} (h : p.state = (s.port n).state) :
    s.setPort n p = s.withPorts (smPut s.ral.ports n p RalPort.initial) := if_pos h

theorem portsMoved_setPort {s : State} {n : Nat} {p : RalPort} (h : p.state = (s.port n).state)
    (htxq : p.txq = (s.port n).txq) : PortsMoved n s (s.setPort n p) := by
  rw [setPort_of_state h]
  exact ⟨_, rfl, by rw [State.port_withPorts_smPut, if_pos rfl, htxq]⟩

theorem portsMoved_freeSlots (s : State) (n : Nat) (m : RMsg) : PortsMoved n s (freeSlots s n m) := by
  unfold freeSlots
  split
  · exact .refl n s
  · exact portsMoved_setPort rfl rfl

theorem ralSend_eq (s : State) (n : Nat) (m : RMsg) : ralSend s n m =
    s.withPorts (smPut s.ral.ports n { s.port n with txq := (s.port n).txq ++ [m] } RalPort.initial) :=
  setPort_of_state rfl

section
variable {s u : State} {n code : Nat} {m : RMsg} (h : Takes s n m code u)
include h

theorem Takes.portsMoved : PortsMoved n s u := by
  obtain ⟨-, -, ⟨-, -, rfl⟩ | ⟨-, -, -, rfl⟩⟩ := h
  · exact portsMoved_setPort rfl rfl
  · exact .refl n u

/-- A port that takes a message does with what remains what the message asks. -/
theorem Takes.ralTake (g : State → State) : ralTake s n m code g = g u := by
  obtain ⟨⟨hon, hfreeze, hn⟩, htyp, hway⟩ := h
  have hlive : s.ralLive = true := by simp [State.ralLive, hon, hfreeze]
  have hruns : ¬ (¬ s.ralLive = true ∨ m.typ ≠ code ∨ 8 ≤ n) := by simp [hlive, htyp, hn]
  refine (if_neg hruns).trans ?_
  obtain ⟨hmem, hfirst, rfl⟩ | ⟨hnew, hframing, hstate, rfl⟩ := hway
  · exact (if_pos (List.contains_iff_mem.2 hmem)).trans (if_pos hfirst)
  · have hlisted : ¬ ((u.port n).state = 5 ∧ ¬ plainType m.typ = true) := by
      rintro ⟨h5, hplain⟩
      obtain h6 | hcode := hstate
      · rw [h5] at h6
        exact absurd h6 (by decide)
      · exact hplain (htyp ▸ hcode)
    refine (if_neg (fun hc => hnew (List.contains_iff_mem.1 hc))).trans ?_
    exact (if_neg (not_not.2 hframing)).trans (if_neg hlisted)

theorem Takes.endMsg (hown : s.own m = true) (g : State → State) : endMsg s n m code g = g u := by
  obtain ⟨ps, rfl, -⟩ := h.portsMoved
  exact (h.ralTake _).trans (if_pos hown)

end

end Sys2Proof.Machine
end

section
/-! SUPPORT. Health states (R45, R262, R401): the word of members' states, a peer's state that becomes known where no region is
shared, and the trellis health word, which reads neither. -/

namespace Sys2Proof.Machine

open Sys2Proof

/-! ### Sums that a fold gathers -/

theorem foldl_add_le {f : Nat → Nat} {b : Nat} (hf : ∀ k, f k ≤ b) (l : List Nat) (a : Nat) :
    l.foldl (fun a k => a + f k) a ≤ a + b * l.length := by
  induction l generalizing a with
  | nil => simp
  | cons k l ih =>
    have hk := hf k
    have := ih (a + f k)
    rw [List.foldl_cons, List.length_cons, Nat.mul_succ]
    omega

/-! ### The word of states -/

/-- The word of states with the state of stack `k` set. -/
def putState (w : Word) (k st : Nat) : Word :=
  BitVec.ofNat 64 (w.toNat - nbits w.toNat (4 * k) 4 * 2 ^ (4 * k) + st % 16 * 2 ^ (4 * k))

/-- The states of the stacks listed, set in turn. -/
def putStates (l : List Nat) (st : Nat → Nat) (w : Word) : Word := l.foldl (fun w k => putState w k (st k)) w

/-- Of `w` the base-16 digit that counts the unit `x` is replaced: what lies below and above it stays. -/
theorem replace_digit (w st : Nat) {x : Nat} (hx : 0 < x) :
    (w - w / x % 16 * x + st % 16 * x) / x % 16 = st % 16 ∧ (w - w / x % 16 * x + st % 16 * x) % x = w % x ∧
      (w - w / x % 16 * x + st % 16 * x) / (x * 16) = w / (x * 16) := by
  have hw : w = w % x + x * (w / x % 16 + 16 * (w / x / 16)) := by
    rw [Nat.mod_add_div, Nat.mod_add_div]
  have heq : w - w / x % 16 * x + st % 16 * x = w % x + x * (st % 16 + 16 * (w / x / 16)) := by
    have hsub : w - w / x % 16 * x = w % x + x * (16 * (w / x / 16)) := by
      conv_lhs => lhs; rw [hw]
      rw [Nat.mul_add, Nat.mul_comm (w / x % 16) x]
      omega
    rw [hsub, Nat.mul_add, Nat.mul_comm (st % 16) x]
    omega
  have hdiv : (w % x + x * (st % 16 + 16 * (w / x / 16))) / x = st % 16 + 16 * (w / x / 16) := by
    rw [Nat.add_mul_div_left _ _ hx, Nat.div_eq_of_lt (Nat.mod_lt _ hx), Nat.zero_add]
  rw [heq]
  refine ⟨?_, ?_, ?_⟩
  · rw [hdiv]; omega
  · rw [Nat.add_mul_mod_self_left, Nat.mod_mod]
  · rw [← Nat.div_div_eq_div_mul, hdiv, ← Nat.div_div_eq_div_mul]; omega

theorem two_pow_states {j k : Nat} (h : j < k) : 2 ^ (4 * k) = 2 ^ (4 * j) * 16 * 2 ^ (4 * (k - j - 1)) := by
  rw [show (16 : Nat) = 2 ^ 4 from rfl, ← pow_add, ← pow_add]
  congr 1
  omega

theorem toNat_putState (w : Word) {k : Nat} (hk : k < 16) (st : Nat) : (putState w k st).toNat =
    w.toNat - w.toNat / 2 ^ (4 * k) % 16 * 2 ^ (4 * k) + st % 16 * 2 ^ (4 * k) := by
  obtain ⟨-, -, hhigh⟩ := replace_digit w.toNat st (Nat.two_pow_pos (4 * k))
  have hpow : (2 : Nat) ^ 64 = 2 ^ (4 * (16 - k - 1)) * (2 ^ (4 * k) * 16) := (two_pow_states hk).trans (Nat.mul_comm _ _)
  have hpos : 0 < 2 ^ (4 * k) * 16 := by positivity
  have hlt := w.isLt
  refine (BitVec.toNat_ofNat _ _).trans (Nat.mod_eq_of_lt ?_)
  rw [hpow, ← Nat.div_lt_iff_lt_mul hpos] at hlt ⊢
  exact hhigh.trans_lt hlt

theorem nbits_putState (w : Word) {j k : Nat} (hk : k < 16) (st : Nat) :
    nbits (putState w k st).toNat (4 * j) 4 = if j = k then st % 16 else nbits w.toNat (4 * j) 4 := by
  obtain ⟨hsame, hlow, hhigh⟩ := replace_digit w.toNat st (Nat.two_pow_pos (4 * k))
  rw [nbits, nbits, toNat_putState w hk]
  split
  case isTrue h => rw [h]; exact hsame
  case isFalse h =>
    rcases Nat.lt_or_gt_of_ne h with h | h
    · rw [two_pow_states h] at hlow ⊢
      have hdigit : ∀ a : Nat, a / 2 ^ (4 * j) % 2 ^ 4 =
          a % (2 ^ (4 * j) * 16 * 2 ^ (4 * (k - j - 1))) / 2 ^ (4 * j) % 16 := fun a => by
        rw [Nat.mul_assoc, Nat.mod_mul_right_div_self, Nat.mod_mul_right_mod]; rfl
      rw [hdigit, hlow, ← hdigit]
    · rw [two_pow_states h, ← Nat.div_div_eq_div_mul, hhigh, Nat.div_div_eq_div_mul]

theorem nbits_putStates {l : List Nat} (hl : ∀ k ∈ l, k < 16) (st : Nat → Nat) (w : Word) (j : Nat) :
    nbits (putStates l st w).toNat (4 * j) 4 = if j ∈ l then st j % 16 else nbits w.toNat (4 * j) 4 := by
  induction l generalizing w with
  | nil => simp [putStates]
  | cons k l ih =>
    have hput := nbits_putState (j := j) w (hl k List.mem_cons_self) (st k)
    refine (ih (fun i hi => hl i (List.mem_cons_of_mem _ hi)) (putState w k (st k))).trans ?_
    rw [hput]
    by_cases hjl : j ∈ l
    · simp [hjl]
    · by_cases hjk : j = k <;> simp [hjl, hjk]

/-! ### A peer's state becomes known (R262) -/

/-- `s` with another word of states. -/
def State.withStates (s : State) (w : Word) : State := { s with ral := { s.ral with mStates := w } }

/-- `s` holds no replica and shares no region. -/
def Unshared (s : State) : Prop := s.plc.dir = [] ∧ s.plc.replicas = []

theorem clearPeer_of_dir {s : State} (h : s.plc.dir = []) (k : Nat) : clearPeer s k = s := by
  rw [clearPeer, h]
  rfl

theorem dropReplicas_of_none {s : State} (h : s.plc.replicas = []) (t : Replica → Bool) : dropReplicas s t = s := by
  have hplc : ({ s.plc with replicas := [] } : PlcSt) = s.plc := by rw [← h]
  simp [dropReplicas, h, hplc]

/-- Where no region is shared, all that becomes of a peer's state is its place in the word. -/
theorem peerState_unshared {s : State} (h : Unshared s) (k st : Nat) :
    peerState s k st = s.withStates (putState s.ral.mStates k st) := by
  obtain ⟨hdir, hrep⟩ := h
  have hclear := clearPeer_of_dir (s := s.withStates (putState s.ral.mStates k st)) hdir k
  unfold peerState
  dsimp only
  split
  · rfl
  · split
    · exact (dropReplicas_of_none (by rw [← hrep]; exact congrArg (·.plc.replicas) hclear) _).trans hclear
    · exact hclear

/-- The states of some of the stacks listed become known in turn, each of them known before the first. -/
theorem foldS_peerState {s : State} (h : Unshared s) {step : State → Nat → State} (q : Nat → Bool) (st : Nat → Nat)
    (hstep : ∀ w k, step (s.withStates w) k =
      if q k = true then peerState (s.withStates w) k (st k) else s.withStates w) (l : List Nat) (w : Word) :
    foldS l (s.withStates w) step = s.withStates (putStates (l.filter q) st w) := by
  induction l generalizing w with
  | nil => rfl
  | cons k l ih =>
    rw [foldS_cons, hstep]
    by_cases hq : q k = true
    · rw [if_pos hq, peerState_unshared (s := s.withStates w) h, List.filter_cons_of_pos hq]
      exact ih (putState w k (st k))
    · rw [if_neg hq, List.filter_cons_of_neg hq]
      exact ih w

/-! ### What the trellis health word reads -/

/-- From `s` to `t` only the Raloth links' part and the stored trellis health word have changed. -/
structure HealthKept (s t : State) : Prop where
  only : Only [.regs, .ral] s t
  regs : RegsKept s t [rRalTrellisHealth]

theorem healthKept_ral (s : State) (x : RalSt) : HealthKept s { s with ral := x } :=
  ⟨(only_ral s x).mono (by decide), fun _ _ => rfl⟩

theorem healthKept_setReg (s : State) (v : Word) : HealthKept s (s.setReg rRalTrellisHealth v) :=
  ⟨(only_setReg s _ v).mono (by decide), fun o ho => by
    rw [State.reg_setReg, if_neg (by simpa using ho)]⟩

section
variable {s t u : State}

theorem HealthKept.trans (h : HealthKept s t) (h' : HealthKept t u) : HealthKept s u :=
  ⟨h.only.trans h'.only, h.regs.trans h'.regs⟩

variable (h : HealthKept s t)
include h

theorem HealthKept.fld {o : Nat} (ho : o ≠ rRalTrellisHealth) (f : Fld) : t.fld o f = s.fld o f := by
  rw [State.fld, h.regs o (by simpa using ho), State.fld]

theorem HealthKept.stepDone (k : Nat) : t.stepDone k = s.stepDone k := by
  rw [State.stepDone, h.regs rBupDone (by decide), State.stepDone]

theorem HealthKept.stackId : t.stackId = s.stackId := h.fld (by decide) _

theorem HealthKept.peerCount : t.peerCount = s.peerCount := by
  rw [State.peerCount, h.fld (by decide), State.peerCount]

theorem HealthKept.health : t.health = s.health := by
  have hbup : t.bup = s.bup := h.only.2 .bup (by decide)
  have hpci : t.pci = s.pci := h.only.2 .pci (by decide)
  rw [State.health, hbup, hpci, h.stepDone, h.fld (by decide), State.health]

theorem HealthKept.chansOn : t.chansOn = s.chansOn := by
  have hchan : ∀ c ∈ List.range 192, decide (t.chanSt c = 0) = decide (s.chanSt c = 0) := fun c hc => by
    have hlt := List.mem_range.1 hc
    have hne : rHbmChStat c ≠ rRalTrellisHealth := by unfold rHbmChStat rRalTrellisHealth; omega
    rw [State.chanSt, h.fld hne, State.chanSt]
  rw [State.chansOn, List.filter_congr hchan, State.chansOn]

theorem HealthKept.bayCapacity (b : Nat) : t.bayCapacity b = s.bayCapacity b := by
  have hbup : t.bup = s.bup := h.only.2 .bup (by decide)
  have hcell : t.cellOn = s.cellOn := by funext i; rw [State.cellOn, State.cellSt, hbup, State.cellOn, State.cellSt]
  have hsite : t.siteOf = s.siteOf := by funext i; rw [State.siteOf, State.skipOf, hbup, State.siteOf, State.skipOf]
  have hcap : t.tileCap = s.tileCap := by funext i k; rw [State.tileCap, State.openVias, hbup, State.tileCap, State.openVias]
  rw [State.bayCapacity, State.bayActive, State.bayCap, State.bayTiles, hcell, hsite, hcap, State.bayCapacity,
    State.bayActive, State.bayCap, State.bayTiles]

theorem HealthKept.baysOn : t.baysOn = s.baysOn := by
  have hbay : t.bayOn = s.bayOn := by
    funext b
    rw [State.bayOn, show t.bup = s.bup from h.only.2 .bup (by decide), State.bayOn]
  rw [State.baysOn, hbay, State.baysOn]

theorem HealthKept.stackHealth : t.stackHealth = s.stackHealth := by
  have hbup : t.bup = s.bup := h.only.2 .bup (by decide)
  have hplc : t.plc = s.plc := h.only.2 .plc (by decide)
  rw [State.stackHealth, h.stepDone, hbup, h.health, h.baysOn, h.chansOn, hplc, funext h.bayCapacity, State.stackHealth]

theorem HealthKept.memberWord (hm : t.ral.mHealth = s.ral.mHealth) (k : Nat) : t.memberWord k = s.memberWord k := by
  rw [State.memberWord, h.stackId, h.stackHealth, hm, State.memberWord]

theorem HealthKept.trellisWord (hm : t.ral.mHealth = s.ral.mHealth) : t.trellisWord = s.trellisWord := by
  rw [State.trellisWord, h.peerCount, funext (h.memberWord hm), State.trellisWord]

end

/-- The trellis health word leaves the 16 bits of its generation free (R401). -/
theorem trellisWord_lt {s : State} (h : s.peerCount ≤ 16) : s.trellisWord < 2 ^ 48 := by
  unfold State.trellisWord
  extract_lets ks st good mean state events
  have hgood : good.length ≤ 16 := by
    calc good.length ≤ ks.length := List.length_filter_le _ ks
      _ = s.peerCount := List.length_range
      _ ≤ 16 := h
  have hmean : ∀ lo, mean lo ≤ 255 := fun lo => by
    have hsum := foldl_add_le (f := fun k => nbits (s.memberWord k) lo 8) (b := 255)
      (fun k => Nat.le_of_lt_succ (Nat.mod_lt _ (by decide))) ks 0
    rw [List.length_range, Nat.zero_add, Nat.mul_comm] at hsum
    exact Nat.div_le_of_le_mul hsum
  have hstate : state ≤ 6 := by
    show (if _ then _ else _) ≤ 6
    split
    · exact Nat.le_refl 6
    · split <;> decide
  have hevents : events ≤ 255 := Nat.min_le_left _ _
  have h24 := hmean 24
  have h32 := hmean 32
  omega

/-! ### The head computes the trellis health word (R401) -/

/-- The trellis health word is stored with generation `g`. -/
def State.withHealth (s : State) (g : Nat) : State :=
  ({ s with ral := { s.ral with headGen := g } } : State).setReg rRalTrellisHealth
    (BitVec.ofNat 64 (s.trellisWord + 2 ^ 48 * (g % 65536)))

theorem healthKept_withHealth (s : State) (g : Nat) : HealthKept s (s.withHealth g) :=
  (healthKept_ral s _).trans (healthKept_setReg _ _)

theorem healthKept_withStates (s : State) (w : Word) : HealthKept s (s.withStates w) := healthKept_ral s _

/-- The head's states are those of the words that it holds. -/
theorem headHealth_unshared {s : State} (h : Unshared s) : ∃ g, headHealth s =
    (s.withHealth g).withStates (putStates (List.range s.peerCount) (fun k => s.memberWord k % 16) s.ral.mStates) := by
  set g := if s.trellisWord = (s.reg rRalTrellisHealth).toNat % 2 ^ 48 then s.ral.headGen else s.ral.headGen + 1
  have hkept := healthKept_withHealth s g
  refine ⟨g, (?_ : headHealth s = foldS (List.range (s.withHealth g).peerCount) ((s.withHealth g).withStates s.ral.mStates)
    (fun t k => peerState t k (t.memberWord k % 16))).trans ?_⟩
  · rfl
  · rw [hkept.peerCount]
    have hstep : ∀ w k, peerState ((s.withHealth g).withStates w) k (((s.withHealth g).withStates w).memberWord k % 16) =
        peerState ((s.withHealth g).withStates w) k (s.memberWord k % 16) := fun w k => by
      rw [(hkept.trans (healthKept_withStates _ w)).memberWord rfl]
    have hfold := foldS_peerState (s := s.withHealth g) h (step := fun t k => peerState t k (t.memberWord k % 16))
      (fun _ => true) (fun k => s.memberWord k % 16) (fun w k => (hstep w k).trans (if_pos rfl).symm)
      (List.range s.peerCount) s.ral.mStates
    rwa [List.filter_true] at hfold

theorem toNat_reg_withHealth (s : State) (g : Nat) (h : s.peerCount ≤ 16) :
    ((s.withHealth g).reg rRalTrellisHealth).toNat % 2 ^ 48 = s.trellisWord := by
  have hlt := trellisWord_lt h
  rw [State.withHealth, State.reg_setReg, if_pos rfl, BitVec.toNat_ofNat]
  omega

end Sys2Proof.Machine
end

section
/-! SUPPORT. Routes (R398, R406): a peer record is that of a shortest path, it reads the map and the links that are down, and
every record is computed anew when a link is lost. -/

namespace Sys2Proof.Machine

open Sys2Proof

/-! ### A peer record -/

/-- The first hop begins a path of fewest hops, and no port of a lower number does. -/
theorem firstHop_spec {s : State} {a k p : Nat} (h : s.firstHop a k = some p) : ∃ n l, s.hops a k = some n ∧
    s.mapLink a p = some l ∧ s.hops l.1 k = some (n - 1) ∧
    ∀ q, q < p → ∀ l', s.mapLink a q = some l' → s.hops l'.1 k ≠ some (n - 1) := by
  unfold State.firstHop at h
  split at h
  · cases h
  · obtain ⟨n, hn, hfind⟩ := Option.bind_eq_some_iff.1 h
    obtain ⟨hp, -, hlower⟩ := List.find?_range_eq_some.1 hfind
    split at hp
    next l hl =>
      refine ⟨n, l, hn, hl, of_decide_eq_true hp, fun q hq l' hl' hhops => ?_⟩
      have hnot := hlower q hq
      simp [hl', hhops] at hnot
    next => cases hp

theorem computePeer_reach {s : State} {k : Nat} {old : Peer} (hk : k ≠ s.stackId)
    (h : (s.computePeer k old).reach = true) : s.hops s.stackId k = some (s.computePeer k old).hops ∧
      s.firstHop s.stackId k = some (s.computePeer k old).port := by
  unfold State.computePeer at h ⊢
  rw [if_neg hk] at h ⊢
  split at h
  next hh hp => rw [hh, hp]; exact ⟨rfl, rfl⟩
  next => cases h

/-! ### What a record reads -/

section
variable {s t : State} (hmap : t.ral.map = s.ral.map) (hdowns : t.ral.downs = s.ral.downs)
include hmap hdowns

theorem mapLink_congr : t.mapLink = s.mapLink := by
  funext a p
  rw [State.mapLink, hmap, hdowns, State.mapLink]

theorem hops_congr : t.hops = s.hops := by
  have hspread : t.spread = s.spread := by
    funext l
    rw [State.spread, mapLink_congr hmap hdowns, State.spread]
  funext a k
  rw [State.hops, hspread, State.hops]

theorem firstHop_congr : t.firstHop = s.firstHop := by
  funext a k
  rw [State.firstHop, hops_congr hmap hdowns, mapLink_congr hmap hdowns, State.firstHop]

theorem routeBw_congr (n a k : Nat) : t.routeBw n a k = s.routeBw n a k := by
  induction n generalizing a with
  | zero => rfl
  | succ n ih =>
    rw [State.routeBw, firstHop_congr hmap hdowns, mapLink_congr hmap hdowns, State.routeBw]
    simp only [ih]

theorem computePeer_congr (hid : t.stackId = s.stackId) (k : Nat) (old : Peer) :
    t.computePeer k old = s.computePeer k old := by
  rw [State.computePeer, hid, hops_congr hmap hdowns, firstHop_congr hmap hdowns, routeBw_congr hmap hdowns,
    State.computePeer]

end

/-! ### Routes are computed anew -/

theorem smGet_foldl_smSet {α : Type} (g : Nat → α) (l : List Nat) (m : SMap α) (j : Nat) :
    smGet (l.foldl (fun m k => smSet m k (g k)) m) j = if j ∈ l then some (g j) else smGet m j := by
  induction l generalizing m with
  | nil => simp
  | cons k l ih =>
    rw [List.foldl_cons, ih, smGet_smSet]
    by_cases hl : j ∈ l
    · simp [hl]
    · by_cases hk : j = k <;> simp [hl, hk]

theorem peer_of_routes {s v : State} (h : v.ral.peers = (routes s).ral.peers) {j : Nat} (hj : j < s.peerCount) :
    v.peer j = s.computePeer j (s.peer j) := by
  have hget : smGet (routes s).ral.peers j = some (s.computePeer j (s.peer j)) :=
    (smGet_foldl_smSet _ _ _ _).trans (if_pos (List.mem_range.2 hj))
  rw [State.peer, h, smGetD_eq, hget, Option.getD_some]

theorem incGen_spec (s : State) : Only (.plc :: raisedIn) s (incGen s) ∧ (incGen s).plc.dir = s.plc.dir ∧
    (s.bup.enabledOnce = true → (incGen s).plc.gen = s.plc.gen + 1) := by
  unfold incGen
  split
  case isTrue h =>
    set x : State := { s with plc := { s.plc with gen := s.plc.gen + 1 } }
    have hraise := only_raise x rPlcDistCtrl fPlcDistCtrlChange
    have hplc : (raise x rPlcDistCtrl fPlcDistCtrlChange).plc = x.plc := hraise.2 .plc (by decide)
    exact ⟨((only_plc s _).mono (by decide)).trans (hraise.mono (by decide)),
      (congrArg PlcSt.dir hplc).trans rfl, fun _ => (congrArg PlcSt.gen hplc).trans rfl⟩
  case isFalse h => exact ⟨.refl _ s, rfl, fun hon => absurd hon h⟩

/-- Where no request waits at another stack and no region is shared, all that follows a change of routes is a record for each
peer that has become unreachable. -/
theorem only_afterRoutes {s : State} (h : NoneAbroad s) (old : State) : Only tracedIn s (afterRoutes old s) := by
  obtain ⟨hreqs, hdir⟩ := h
  unfold afterRoutes
  refine foldS_keeps (P := Only tracedIn s) _ _ (fun u k hu => ?_) (.refl _ s)
  have herr : Only tracedIn s (ralErr u 5 0xFF k 0 0) := hu.trans (only_postErr u 9 0xFF _ (by decide))
  have hreqs' : (ralErr u 5 0xFF k 0 0).ral.reqs = [] := (congrArg RalSt.reqs (herr.2 .ral (by decide))).trans hreqs
  have hdir' : (ralErr u 5 0xFF k 0 0).plc.dir = [] := (congrArg PlcSt.dir (herr.2 .plc (by decide))).trans hdir
  rw [clearPeer_of_dir hdir']
  generalize ralErr u 5 0xFF k 0 0 = x at herr hreqs' hdir'
  have hsame : ({ x with ral := { x.ral with reqs := [] } } : State) = x := by rw [← hreqs']
  dsimp only
  rw [hreqs']
  exact hsame.symm ▸ herr

/-- The link of port `p` of stack `k` is lost: it leaves the map, and every record and the generation follow. -/
theorem linkDown_spec {s : State} (h : NoneAbroad s) (hmap : s.ral.map ≠ []) {k p : Nat} (hup : (k, p) ∉ s.ral.downs) :
    (linkDown s k p).pending = s.pending ∧ (linkDown s k p).ral.downs = s.ral.downs ++ [(k, p)] ∧
    (s.bup.enabledOnce = true → (linkDown s k p).plc.gen = s.plc.gen + 1) ∧
    ∀ j, j < s.peerCount → (linkDown s k p).peer j =
      ({ s with ral := { s.ral with downs := s.ral.downs ++ [(k, p)] } } : State).computePeer j (s.peer j) := by
  set x : State := { s with ral := { s.ral with downs := s.ral.downs ++ [(k, p)] } }
  obtain ⟨hreqs, hdir⟩ := h
  obtain ⟨hgen, hgendir, hcount⟩ := incGen_spec (routes x)
  have hral : (incGen (routes x)).ral = (routes x).ral := hgen.2 .ral (by decide)
  have habroad : NoneAbroad (incGen (routes x)) := ⟨(congrArg RalSt.reqs hral).trans hreqs, hgendir.trans hdir⟩
  have hafter := only_afterRoutes habroad s
  have hdown : linkDown s k p = afterRoutes s (incGen (routes x)) :=
    if_neg (not_or.2 ⟨hmap, by simpa using hup⟩)
  have hral' : (linkDown s k p).ral = (routes x).ral := by rw [hdown, ← hral]; exact hafter.2 .ral (by decide)
  refine ⟨?_, congrArg RalSt.downs hral', fun hon => ?_, fun j hj => peer_of_routes (congrArg RalSt.peers hral') hj⟩
  · rw [hdown]; exact hafter.1.trans hgen.1
  · rw [hdown, show (afterRoutes s (incGen (routes x))).plc = _ from hafter.2 .plc (by decide)]
    exact hcount hon

end Sys2Proof.Machine
end

section
/-! SUPPORT. HEALTH, PING and PONG at the stack that they reach (R398, R401, R402), and the proof of HealthTravels. -/

namespace Sys2Proof.Machine

open Sys2Proof

/-! ### HEALTH arrives (R262, R401, R402) -/

theorem toNat_health_mod (m : RMsg) : (BitVec.ofNat 64 m.arg.toNat).toNat % 16 = m.arg.toNat % 16 := by
  rw [BitVec.toNat_ofNat, Nat.mod_mod_of_dvd _ (by decide)]

theorem dropArrivals_bit (s : State) (k : Nat) : ∀ e ∈ (dropArrivals s k).ral.arrivals, e.2.2.getLsbD k = false := by
  intro e he
  obtain ⟨x, -, rfl⟩ := List.mem_map.1 he
  dsimp only
  rw [BitVec.getLsbD_and, BitVec.getLsbD_not, BitVec.getLsbD_ofNat, Nat.testBit_two_pow_self]
  cases decide (k < 16) <;> simp

/-- The head has a member's word and round, and in a compute reset not its arrivals (R402). -/
def State.heard (s : State) (m : RMsg) : State :=
  { s with ral := { s.ral with
    mHealth := smSet s.ral.mHealth m.srcS (BitVec.ofNat 64 m.arg.toNat)
    mRounds := smSet s.ral.mRounds m.srcS 0
    arrivals := if m.arg.toNat % 16 = 4 then (dropArrivals s m.srcS).ral.arrivals else s.ral.arrivals } }

theorem healthArrive_head {s : State} (hun : Unshared s) (hhead : s.fld rRalEnum fRalEnumHead = 1) (m : RMsg) :
    healthArrive s m = (s.heard m).withStates (putState s.ral.mStates m.srcS (m.arg.toNat % 16)) := by
  have hheard := peerState_unshared (s := s.heard m) hun m.srcS (m.arg.toNat % 16)
  refine (if_pos hhead).trans (Eq.trans ?_ hheard)
  dsimp only
  rw [toNat_health_mod]
  by_cases h4 : m.arg.toNat % 16 = 4
  · rw [if_pos h4, State.heard, if_pos h4]; rfl
  · rw [if_neg h4, State.heard, if_neg h4]

/-- A member keeps the trellis health word and the state of every other member. -/
theorem healthArrive_member {s : State} (hun : Unshared s) (hhead : s.fld rRalEnum fRalEnumHead = 0) (m : RMsg) :
    healthArrive s m = (s.setReg rRalTrellisHealth (BitVec.ofNat 64 m.arg.toNat)).withStates
      (putStates ((List.range s.peerCount).filter (fun k => k ≠ s.stackId))
        (fun k => mbyte m (8 + k / 2) / 16 ^ (k % 2) % 16) s.ral.mStates) := by
  have hkept := healthKept_setReg s (BitVec.ofNat 64 m.arg.toNat)
  set x := s.setReg rRalTrellisHealth (BitVec.ofNat 64 m.arg.toNat)
  refine (if_neg (by rw [hhead]; decide)).trans ?_
  refine Eq.trans ?_ (foldS_peerState (s := x) hun (fun k => decide (k ≠ s.stackId)) _ (step := fun t k =>
    if k = t.stackId then t else peerState t k (mbyte m (8 + k / 2) / 16 ^ (k % 2) % 16)) (fun w k => ?_) _ _)
  · rw [← hkept.peerCount]
    rfl
  · rw [(hkept.trans (healthKept_withStates x w)).stackId]
    by_cases hk : k = s.stackId <;> simp [hk]

theorem mbyte_nibble (m : RMsg) (k : Nat) :
    mbyte m (8 + k / 2) / 16 ^ (k % 2) % 16 = m.arg.toNat / 2 ^ (64 + 4 * k) % 16 := by
  have hpow : (2 : Nat) ^ (64 + 4 * k) = 256 ^ (8 + k / 2) * 16 ^ (k % 2) := by
    rw [show (256 : Nat) = 2 ^ 8 from rfl, show (16 : Nat) = 2 ^ 4 from rfl, ← pow_mul, ← pow_mul, ← pow_add]
    congr 1
    omega
  rw [hpow, ← Nat.div_div_eq_div_mul, mbyte]
  generalize m.arg.toNat / 256 ^ (8 + k / 2) = a
  rcases Nat.mod_two_eq_zero_or_one k with h | h <;> rw [h] <;> omega

section
variable {s u : State} {n : Nat} {m : RMsg} (htakes : Takes s n m 0x15 u) (hown : s.own m = true) (hun : Unshared s)
include htakes hown hun

/-- HEALTH is worked on in a state of which only the ports have changed. -/
theorem exec_health : ∃ ps, Unshared (s.withPorts ps) ∧ exec (.health n m) s =
    .next (healthArrive (s.withPorts ps) m) := by
  obtain ⟨ps, hfree, -⟩ := htakes.portsMoved.trans (portsMoved_freeSlots u n m)
  refine ⟨ps, hun, congrArg Host.Outcome.next ((htakes.endMsg hown _).trans ?_)⟩
  exact congrArg (fun t => healthArrive t m) hfree

theorem health_atHead (hhead : s.fld rRalEnum fRalEnumHead = 1) (hsrc : m.srcS < 16) :
    Acts (.health n m) s [.ral] (fun v =>
      smGet v.ral.mHealth m.srcS = some (BitVec.ofNat 64 m.arg.toNat) ∧ smGet v.ral.mRounds m.srcS = some 0 ∧
      nbits v.ral.mStates.toNat (4 * m.srcS) 4 = m.arg.toNat % 16 ∧
      (∀ k, k < 16 → k ≠ m.srcS → nbits v.ral.mStates.toNat (4 * k) 4 = nbits s.ral.mStates.toNat (4 * k) 4) ∧
      (m.arg.toNat % 16 = 4 → ∀ e ∈ v.ral.arrivals, e.2.2.getLsbD m.srcS = false) ∧
      (m.arg.toNat % 16 ≠ 4 → v.ral.arrivals = s.ral.arrivals)) := by
  obtain ⟨ps, hun', hexec⟩ := exec_health htakes hown hun
  rw [healthArrive_head hun' hhead] at hexec
  refine ⟨_, hexec, only_ral s _, ?_, ?_, ?_, fun k _ hk => ?_, fun h4 => ?_, fun h4 => if_neg h4⟩
  · exact (smGet_smSet _ _ _ _).trans (if_pos rfl)
  · exact (smGet_smSet _ _ _ _).trans (if_pos rfl)
  · exact (nbits_putState _ hsrc _).trans ((if_pos rfl).trans (Nat.mod_mod _ _))
  · exact (nbits_putState _ hsrc _).trans (if_neg hk)
  · have harrivals : ((s.withPorts ps).heard m).ral.arrivals = (dropArrivals s m.srcS).ral.arrivals := if_pos h4
    exact harrivals ▸ dropArrivals_bit s m.srcS

theorem health_atMember (hhead : s.fld rRalEnum fRalEnumHead = 0) (hcount : s.peerCount ≤ 16) :
    Acts (.health n m) s [.regs, .ral] (fun v =>
      v.reg rRalTrellisHealth = BitVec.ofNat 64 m.arg.toNat ∧
      ∀ k, k < s.peerCount → k ≠ s.stackId → v.memberState k = m.arg.toNat / 2 ^ (64 + 4 * k) % 16) := by
  obtain ⟨ps, hun', hexec⟩ := exec_health htakes hown hun
  rw [healthArrive_member hun' hhead] at hexec
  refine ⟨_, hexec, ?_, ?_, fun k hlt hk => ?_⟩
  · exact (((healthKept_ral s _).trans (healthKept_setReg (s.withPorts ps) _)).trans (healthKept_withStates _ _)).only
  · exact (State.reg_setReg _ _ _ _).trans (if_pos rfl)
  · have hid := ((healthKept_ral s _).trans (healthKept_setReg (s.withPorts ps) (BitVec.ofNat 64 m.arg.toNat))).stackId
    have hmem : k ∈ (List.range s.peerCount).filter (fun k => k ≠ s.stackId) := by simp [hlt, hk]
    refine (if_neg (fun h => hk (h.trans hid))).trans ((nbits_putStates (fun i hi => ?_) _ _ k).trans ?_)
    · exact Nat.lt_of_lt_of_le (List.mem_range.1 (List.mem_of_mem_filter hi)) hcount
    · exact (if_pos hmem).trans ((Nat.mod_mod _ _).trans (mbyte_nibble m k))

end

/-! ### A silent member (R401) -/

theorem member_silent {s : State} {k : Nat} (hon : s.on = true) (hfreeze : s.freeze ≠ 2)
    (hhead : s.fld rRalEnum fRalEnumHead = 1) (hk : k ≠ s.stackId) (hlt : k < s.peerCount)
    (hsilent : 4 ≤ smGetD s.ral.mRounds k 0) (hun : Unshared s) (hcount : s.peerCount ≤ 16) :
    Acts (.memberHealthLost k) s [.regs, .ral] (fun v => v.memberWord k = 0 ∧
      (v.reg rRalTrellisHealth).toNat % 2 ^ 48 = v.trellisWord ∧ v.memberState k = 0) := by
  set x : State := { s with ral := { s.ral with mHealth := smSet s.ral.mHealth k 0 } }
  have hlive : s.ralLive = true := by simp [State.ralLive, hon, hfreeze]
  have hword : x.memberWord k = 0 := by
    refine (if_neg hk).trans ?_
    show (smGetD (smSet s.ral.mHealth k 0) k 0).toNat = 0
    rw [smGetD_smSet, if_pos rfl]
    rfl
  obtain ⟨g, hhealth⟩ := headHealth_unshared (s := x) hun
  set w := putStates (List.range x.peerCount) (fun k => x.memberWord k % 16) x.ral.mStates
  have hkept : HealthKept x ((x.withHealth g).withStates w) :=
    (healthKept_withHealth x g).trans (healthKept_withStates _ w)
  refine ⟨_, congrArg Host.Outcome.next ((if_pos hlive).trans ((if_pos ⟨hhead, hk, hlt, hsilent⟩).trans hhealth)),
    ((healthKept_ral s _).trans hkept).only, (hkept.memberWord rfl k).trans hword, ?_, ?_⟩
  · exact (toNat_reg_withHealth x g hcount).trans (hkept.trellisWord rfl).symm
  · refine (if_neg (fun h => hk (h.trans hkept.stackId))).trans ((nbits_putStates (fun i hi => ?_) _ _ k).trans ?_)
    · exact Nat.lt_of_lt_of_le (List.mem_range.1 hi) hcount
    · rw [if_pos (List.mem_range.2 (show k < x.peerCount from hlt)), hword]

/-! ### PING and PONG (R398) -/

theorem ping_answered {s u : State} {n : Nat} {m : RMsg} (htakes : Takes s n m 0x17 u) : Acts (.ping n m) s [.ral] (fun v =>
    (v.port n).txq = (s.port n).txq ++ [{ ctlMsg s 0x18 0 0 [] with tag := m.tag }]) := by
  obtain ⟨ps, hfree, htxq⟩ := htakes.portsMoved.trans (portsMoved_freeSlots u n m)
  refine ⟨_, congrArg Host.Outcome.next (htakes.ralTake _), ?_, ?_⟩
  · dsimp only
    rw [hfree, ralSend_eq]
    exact only_ral s _
  · rw [hfree] at htxq
    dsimp only
    rw [hfree, ralSend_eq, State.port_withPorts_smPut, if_pos rfl, htxq]
    rfl

section
variable {s u : State} {n : Nat} {m : RMsg} (htakes : Takes s n m 0x18 u) (rtt : Nat)
include htakes

theorem pong_measures (htag : m.tag ∈ s.ral.pings) : Acts (.pong n m rtt) s [.regs, .fns, .plc, .ral, .out] (fun v =>
    v.peer m.tag = { s.peer m.tag with latency := Nat.min ((rtt + 1) / 2) 65535 } ∧
    v.ral.pings = s.ral.pings.erase m.tag) := by
  obtain ⟨ps, rfl, -⟩ := htakes.portsMoved
  set p : Peer := { s.peer m.tag with latency := Nat.min ((rtt + 1) / 2) 65535 }
  set x : State := { s with ral := { s.ral with ports := ps, pings := s.ral.pings.erase m.tag } }
  set y : State := { x with ral := { x.ral with peers := smSet x.ral.peers m.tag p } }
  have hpong : pongArrive (s.withPorts ps) m rtt = if p = s.peer m.tag then x else incGen y :=
    if_pos (List.contains_iff_mem.2 htag)
  have hexec : exec (.pong n m rtt) s = .next (if p = s.peer m.tag then x else incGen y) :=
    congrArg Host.Outcome.next ((htakes.ralTake _).trans hpong)
  split at hexec
  case isTrue hsame => exact ⟨x, hexec, (only_ral s _).mono (by decide), hsame.symm, rfl⟩
  case isFalse =>
    obtain ⟨hgen, -, -⟩ := incGen_spec y
    have hral : (incGen y).ral = y.ral := hgen.2 .ral (by decide)
    refine ⟨_, hexec, ((only_ral s y.ral).mono (by decide)).trans (hgen.mono (by decide)), ?_,
      (congrArg RalSt.pings hral).trans rfl⟩
    rw [State.peer, hral]
    exact (smGetD_smSet _ _ _ _ _).trans (if_pos rfl)

theorem pong_unawaited (htag : m.tag ∉ s.ral.pings) :
    Acts (.pong n m rtt) s [.ral] (fun v => v.ral.peers = s.ral.peers) := by
  obtain ⟨ps, rfl, -⟩ := htakes.portsMoved
  have hunawaited : ¬ (s.withPorts ps).ral.pings.contains m.tag = true := fun h => htag (List.contains_iff_mem.1 h)
  exact ⟨_, congrArg Host.Outcome.next ((htakes.ralTake _).trans (if_neg hunawaited)), only_ral s _, rfl⟩

end

/-! ### LINKDOWN (R406) -/

theorem computePeer_withPorts (s : State) (ps : SMap RalPort) (k : Nat) (old : Peer) :
    (s.withPorts ps).computePeer k old = s.computePeer k old :=
  computePeer_congr (s := s) (t := s.withPorts ps) rfl rfl rfl k old

theorem linkdown_taken {s u : State} {n : Nat} {m : RMsg} (htakes : Takes s n m 0x14 u) (hown : s.own m = true)
    (hmap : s.ral.map ≠ []) (habroad : NoneAbroad s) {k p : Nat} (hk : mbyte m 0 % 16 = k) (hp : mbyte m 1 % 8 = p)
    (hup : (k, p) ∉ s.ral.downs) : ∃ v, exec (.linkdown n m) s = .next v ∧ v.pending = s.pending ∧
      v.ral.downs = s.ral.downs ++ [(k, p)] ∧
      (s.bup.enabledOnce = true → v.plc.gen = s.plc.gen + 1) ∧
      ∀ j, j < s.peerCount → v.peer j =
        ({ s with ral := { s.ral with downs := s.ral.downs ++ [(k, p)] } } : State).computePeer j (s.peer j) := by
  obtain ⟨ps, hfree, -⟩ := htakes.portsMoved.trans (portsMoved_freeSlots u n m)
  obtain ⟨hpending, hdowns, hgen, hpeers⟩ := linkDown_spec (s := s.withPorts ps) habroad hmap hup
  have hexec : exec (.linkdown n m) s = .next (linkDown (freeSlots u n m) (mbyte m 0 % 16) (mbyte m 1 % 8)) :=
    congrArg Host.Outcome.next (htakes.endMsg hown _)
  rw [hfree, hk, hp] at hexec
  refine ⟨_, hexec, hpending, hdowns, hgen, fun j hj => ?_⟩
  rw [hpeers j hj]
  exact computePeer_withPorts { s with ral := { s.ral with downs := s.ral.downs ++ [(k, p)] } } ps j (s.peer j)

/-- Settles O55, a message at a time. A PONG's tag is the id of the peer that the PING went to (assumption log 28); LINKDOWN and
HEALTH are taken by their address (assumption log 71). -/
theorem healthTravels : Obligations.HealthTravels := by
  refine ⟨?_, ?_, ?_, ?_, ?_, ?_⟩
  · intro s u n m htakes hown hmap habroad k p hup
    refine linkdown_taken htakes hown hmap habroad ?_ ?_ hup
    · show m.arg.toNat / 256 ^ 0 % 256 % 16 = m.arg.toNat % 16
      omega
    · show m.arg.toNat / 256 ^ 1 % 256 % 8 = m.arg.toNat / 256 % 8
      omega
  · intro s k old hk hreach
    obtain ⟨hhops, hfirst⟩ := computePeer_reach hk hreach
    obtain ⟨h, l, hh, hl, hnext, hlower⟩ := firstHop_spec hfirst
    obtain rfl : h = (s.computePeer k old).hops := Option.some.inj (hh.symm.trans hhops)
    exact ⟨l, hl, hnext, hhops, hlower⟩
  · exact fun s u n m htakes hown hdir hrep =>
      ⟨health_atHead htakes hown ⟨hdir, hrep⟩, health_atMember htakes hown ⟨hdir, hrep⟩⟩
  · exact fun s k hon hfreeze hhead hk hlt hsilent hdir hrep hcount =>
      member_silent hon hfreeze hhead hk hlt hsilent ⟨hdir, hrep⟩ hcount
  · exact fun s u n m htakes => ping_answered htakes
  · exact fun s u n rtt m htakes => ⟨pong_measures htakes rtt, pong_unawaited htakes rtt⟩

end Sys2Proof.Machine
end

section
/-! SUPPORT. Bindings of contexts and the invalidation of their translations (R270 to R272, R286 to R288), and the proof of
BindingsAndInvalidations. -/

namespace Sys2Proof.Machine

open Sys2Proof

/-! ### Both levels of translations lose what a test names -/

theorem bayTlb_tlbRemove (s : State) (test : TlbEnt → Bool) (b : Nat) :
    (tlbRemove s test).bayTlb b = (s.bayTlb b).filter (fun e => !test e) := by
  show smGetD (s.xlt.bay.map _) b [] = _
  rw [smGetD_eq, State.bayTlb, smGetD_eq,
    smGet_map (f := fun p : Nat × List TlbEnt => (p.1, p.2.filter (fun e => !test e))) (fun _ => rfl)]
  cases smGet s.xlt.bay b <;> rfl

theorem bayTlb_congr {s t : State} (h : t.xlt = s.xlt) (b : Nat) : t.bayTlb b = s.bayTlb b := by
  rw [State.bayTlb, h, State.bayTlb]

/-! ### Bindings (R270 to R272) -/

/-- What a write of XLT_CTX_BIND_m stores of its value. -/
def bindMask : Word :=
  fXltCtxBindPasid.mask ||| fXltCtxBindValid.mask ||| fXltCtxBindPriv.mask ||| fXltCtxBindPort.mask
    ||| fXltCtxBindFunction.mask

/-- The binding that a word of XLT_CTX_BIND_m gives. -/
def bindingOf (v : Word) : Option (Fn × Nat) :=
  if fXltCtxBindValid.get v = 1 then
    some (⟨fXltCtxBindPort.get v, fXltCtxBindFunction.get v⟩, fXltCtxBindPasid.get v)
  else none

theorem State.binding_eq (s : State) (m : Nat) : s.binding m = bindingOf (s.reg (rXltCtxBind m)) := rfl

theorem bindingOf_bindMask (v : Word) : bindingOf (v &&& bindMask) = bindingOf v := by
  have hget : ∀ f ∈ [fXltCtxBindValid, fXltCtxBindPort, fXltCtxBindFunction, fXltCtxBindPasid],
      f.get (v &&& bindMask) = f.get v := fun f hf => f.get_and_of_covers (by revert f; decide) v
  simp only [bindingOf, hget _ (by decide : fXltCtxBindValid ∈ _), hget _ (by decide : fXltCtxBindPort ∈ _),
    hget _ (by decide : fXltCtxBindFunction ∈ _), hget _ (by decide : fXltCtxBindPasid ∈ _)]

theorem bindingOf_put_bindState (v : Word) (n : Nat) : bindingOf (fXltCtxBindBindState.put v n) = bindingOf v := by
  have hget : ∀ f : Fld, f.lo + f.w ≤ 28 → f.get (fXltCtxBindBindState.put v n) = f.get v :=
    fun f hf => Fld.get_put_other _ f v n (.inl hf)
  simp only [bindingOf, hget fXltCtxBindValid (by decide), hget fXltCtxBindPort (by decide),
    hget fXltCtxBindFunction (by decide), hget fXltCtxBindPasid (by decide)]

/-- The state with the outcome of a write in bind_state. -/
def withBindState (s : State) (m n : Nat) : State := s.setFld (rXltCtxBind m) fXltCtxBindBindState n

theorem binding_withBindState (s : State) (m n : Nat) : (withBindState s m n).binding m = s.binding m := by
  rw [State.binding_eq, withBindState, State.reg_setFld, if_pos rfl, bindingOf_put_bindState, State.binding_eq]

theorem fld_withBindState (s : State) (m : Nat) {n : Nat} (hn : n < 4) :
    (withBindState s m n).fld (rXltCtxBind m) fXltCtxBindBindState = n :=
  (State.fld_setFld s _ _ n (by decide)).trans (Nat.mod_eq_of_lt hn)

theorem regsKept_withBindState (s : State) (m n : Nat) : RegsKept s (withBindState s m n) [rXltCtxBind m] :=
  fun o ho => by rw [withBindState, State.reg_setFld, if_neg (by simpa using ho)]

/-- The new binding is stored; where it differs from the old one, no translation of the context is left. -/
def bindStored (s : State) (m : Nat) (v : Word) : State :=
  (if v &&& bindMask = s.reg (rXltCtxBind m) &&& bindMask then s
    else tlbRemove s (fun e => 64 * e.part + e.ctx = m)).setReg (rXltCtxBind m) (v &&& bindMask)

theorem reg_bindStored (s : State) (m : Nat) (v : Word) (o : Nat) :
    (bindStored s m v).reg o = if o = rXltCtxBind m then v &&& bindMask else s.reg o := by
  rw [bindStored, State.reg_setReg]
  split
  · rfl
  · split <;> rfl

theorem only_bindStored (s : State) (m : Nat) (v : Word) : Only [.regs, .xlt] s (bindStored s m v) := by
  have hx : Only [.regs, .xlt] s (if v &&& bindMask = s.reg (rXltCtxBind m) &&& bindMask then s
      else tlbRemove s (fun e => 64 * e.part + e.ctx = m)) :=
    ite_keeps (P := Only [.regs, .xlt] s) (.refl _ s) ((only_xlt s _).mono (by decide))
  exact hx.trans ((only_setReg _ _ _).mono (by decide))

theorem binding_bindStored (s : State) (m : Nat) (v : Word) : (bindStored s m v).binding m = bindingOf v := by
  rw [State.binding_eq, reg_bindStored, if_pos rfl, bindingOf_bindMask]

theorem xlt_bindStored {s : State} {m : Nat} {v : Word} (h : bindingOf v ≠ s.binding m) :
    (bindStored s m v).xlt = (tlbRemove s (fun e => 64 * e.part + e.ctx = m)).xlt := by
  have hne : v &&& bindMask ≠ s.reg (rXltCtxBind m) &&& bindMask := fun he => h <| by
    rw [← bindingOf_bindMask, he, bindingOf_bindMask, State.binding_eq]
  rw [bindStored, if_neg hne, State.setReg_xlt]

section
variable {s : State} {m : Nat} {v : Word}

theorem bindWrite_busy (h : s.ctxState m = 1 ∨ s.ctxState m = 3) : bindWrite s m v = withBindState s m 3 := if_pos h

variable (hidle : ¬ (s.ctxState m = 1 ∨ s.ctxState m = 3))
include hidle

theorem bindWrite_unmapped (hvalid : fXltCtxBindValid.get v = 1) (hfn : 16 < fXltCtxBindFunction.get v ∨
    s.mapped (m / 64) ⟨fXltCtxBindPort.get v, fXltCtxBindFunction.get v⟩ = false) :
    bindWrite s m v = withBindState s m 2 :=
  (if_neg hidle).trans (if_pos ⟨hvalid, hfn.imp_right (by simp)⟩)

theorem bindWrite_stored (hfn : ¬ (fXltCtxBindValid.get v = 1 ∧ (16 < fXltCtxBindFunction.get v ∨
    s.mapped (m / 64) ⟨fXltCtxBindPort.get v, fXltCtxBindFunction.get v⟩ = false))) :
    bindWrite s m v = withBindState (bindStored s m v) m (b2n (fXltCtxBindValid.get v = 1)) :=
  (if_neg hidle).trans (if_neg fun h => hfn ⟨h.1, h.2.imp_right (by simp)⟩)

end

theorem only_bindWrite (s : State) (m : Nat) (v : Word) :
    Only [.regs, .xlt] s (bindWrite s m v) ∧ RegsKept s (bindWrite s m v) [rXltCtxBind m] := by
  have hput : ∀ t n, Only [.regs, .xlt] t (withBindState t m n) := fun t n => (only_setFld t _ _ n).mono (by decide)
  by_cases hbusy : s.ctxState m = 1 ∨ s.ctxState m = 3
  · rw [bindWrite_busy hbusy]
    exact ⟨hput s 3, regsKept_withBindState s m 3⟩
  by_cases hfn : fXltCtxBindValid.get v = 1 ∧ (16 < fXltCtxBindFunction.get v ∨
      s.mapped (m / 64) ⟨fXltCtxBindPort.get v, fXltCtxBindFunction.get v⟩ = false)
  · rw [bindWrite_unmapped hbusy hfn.1 hfn.2]
    exact ⟨hput s 2, regsKept_withBindState s m 2⟩
  · rw [bindWrite_stored hbusy hfn]
    refine ⟨(only_bindStored s m v).trans (hput _ _), .trans (fun o ho => ?_) (regsKept_withBindState _ m _)⟩
    rw [reg_bindStored, if_neg (by simpa using ho)]

/-- After a binding that differs, no TLB holds a translation of the context. -/
theorem tlbs_bindStored {s : State} {m : Nat} {v : Word} (h : bindingOf v ≠ s.binding m) (n : Nat) :
    (∀ e ∈ (withBindState (bindStored s m v) m n).xlt.l2, 64 * e.part + e.ctx ≠ m) ∧
      ∀ b, ∀ e ∈ (withBindState (bindStored s m v) m n).bayTlb b, 64 * e.part + e.ctx ≠ m := by
  have hxlt : (withBindState (bindStored s m v) m n).xlt = (tlbRemove s (fun e => 64 * e.part + e.ctx = m)).xlt := by
    rw [withBindState, State.setFld_xlt, xlt_bindStored h]
  refine ⟨fun e he => ?_, fun b e he => ?_⟩
  · rw [hxlt] at he
    simpa using (List.mem_filter.1 he).2
  · rw [bayTlb_congr hxlt, bayTlb_tlbRemove] at he
    simpa using (List.mem_filter.1 he).2

theorem exec_ctxBindWrite {s : State} {f : Fn} {m : Nat} (hc : s.canWrite f (rXltCtxBind m) = true) (hm : m < 1024)
    (v : Word) : exec (.ctxBindWrite f m v) s = .next (bindWrite s m v) :=
  congrArg Host.Outcome.next (whenReached_of_lt hc (by unfold rXltCtxBind; omega) _)

/-! ### Invalidation (R286 to R288) -/

theorem l1_l1Invalidate (s : State) (c k : Nat) : (l1Invalidate s c).l1 k = if k = c then [] else s.l1 k := by
  rw [l1Invalidate, State.l1_setL1]
  rfl

theorem only_l1Invalidate (s : State) (c : Nat) : Only [.cmp] s (l1Invalidate s c) :=
  (only_cmp s _).trans (only_cmp _ _)

/-- The cells listed hold no line once each has been invalidated. -/
theorem l1_foldS_l1Invalidate (cells : List Nat) (s : State) {c : Nat} (h : c ∈ cells ∨ s.l1 c = []) :
    (foldS cells s l1Invalidate).l1 c = [] := by
  induction cells generalizing s with
  | nil => exact h.resolve_left (by simp)
  | cons d cells ih =>
    refine ih (l1Invalidate s d) ?_
    by_cases hd : c = d
    · exact .inr (by rw [l1_l1Invalidate, if_pos hd])
    · exact h.imp (fun hc => (List.mem_cons.1 hc).resolve_left hd) (fun hc => by rw [l1_l1Invalidate, if_neg hd, hc])

/-- The entry maps a page of a range in a context bound to the function and PASID. -/
def State.invalidates (s : State) (f : Fn) (pasid : Option Nat) (base size : Nat) (e : TlbEnt) : Bool :=
  (s.boundTo f pasid).contains (64 * e.part + e.ctx) && e.overlaps base size

/-- A request in flight that an invalidation overtakes. -/
def AtsReq.overtaken (f : Fn) (pasid : Option Nat) (base size : Nat) (a : AtsReq) : Bool :=
  a.f = f && (match pasid with | some x => decide (a.pasid = x) | none => true) &&
    decide (a.va < base + size ∧ base < a.va + 4096)

/-- The thread cells of the partitions whose contexts are bound to the function and PASID. -/
def State.invalCells (s : State) (f : Fn) (pasid : Option Nat) : List Nat :=
  ((s.boundTo f pasid).map (· / 64)).eraseDups.flatMap (fun p => (s.baysOf p).flatMap s.bayThreadCells)

/-- The state with the entries of a range and the L1s gone. -/
def invalCaches (s : State) (f : Fn) (pasid : Option Nat) (base size : Nat) : State :=
  foldS (s.invalCells f pasid) (tlbRemove s (s.invalidates f pasid base size)) l1Invalidate

/-- The requests in flight with those for a range overtaken. -/
def overtake (f : Fn) (pasid : Option Nat) (base size : Nat) (l : List AtsReq) : List AtsReq :=
  l.map (fun a => if a.overtaken f pasid base size then { a with stale := true } else a)

/-- The state with other requests in flight. -/
def withAts (s : State) (l : List AtsReq) : State := { s with xlt := { s.xlt with ats := l } }

theorem only_withAts (s : State) (l : List AtsReq) : Only [.xlt] s (withAts s l) := only_xlt s _

theorem cmp_withAts (s : State) (l : List AtsReq) : (withAts s l).cmp = s.cmp := rfl

theorem xlt_withAts (s : State) (l : List AtsReq) : (withAts s l).xlt = { s.xlt with ats := l } := rfl

/-- The state with the entries of a range, the L1s and the requests in flight dealt with. -/
def invalEntries (s : State) (f : Fn) (pasid : Option Nat) (base size : Nat) : State :=
  withAts (invalCaches s f pasid base size) (overtake f pasid base size (invalCaches s f pasid base size).xlt.ats)

/-- Pieces that hold translations of the range and have not been placed start again. -/
def restartPieces (t : State) (held : List (Nat × Nat × Nat × Bool)) : State :=
  foldS (held.filter (fun e => !e.2.2.2)) t (fun t e =>
    updPiece t (e.1 / 4) (e.1 % 4) e.2.1 e.2.2.1 (fun p => { p with ph := .unstarted, trans := [] }))

/-- The invalidation waits for its completion. -/
def withInval (s : State) (i : Inval) : State := { s with xlt := { s.xlt with invs := s.xlt.invs ++ [i] } }

theorem invalidate_eq (s : State) (f : Fn) (pasid : Option Nat) (base size itag : Nat) :
    ∃ held stamp busy, invalidate s f pasid base size itag =
      withInval (restartPieces (invalEntries s f pasid base size) held) ⟨f, itag, s.boundTo f pasid, stamp, busy⟩ := by
  unfold invalidate
  extract_lets ctxs s1 parts cells s2 hit src s3 held s4 busy
  have hs2 : s2 = invalCaches s f pasid base size := rfl
  clear_value s2
  have hentries : s3 = invalEntries s f pasid base size := by
    rw [invalEntries, ← hs2]
    rfl
  refine ⟨held, s4.cmp.clock, busy, ?_⟩
  rw [← hentries]
  rfl

theorem restartPieces_spec (t : State) (held : List (Nat × Nat × Nat × Bool)) :
    Only [.cmp] t (restartPieces t held) ∧ (restartPieces t held).cmp.l1 = t.cmp.l1 :=
  foldS_keeps (P := fun u : State => Only [.cmp] t u ∧ u.cmp.l1 = t.cmp.l1) _ _
    (fun u _ hu => ⟨hu.1.trans (only_updPiece u _ _ _ _ _), hu.2⟩) ⟨.refl _ t, rfl⟩

theorem only_invalCaches (s : State) (f : Fn) (pasid : Option Nat) (base size : Nat) :
    Only [.cmp] (tlbRemove s (s.invalidates f pasid base size)) (invalCaches s f pasid base size) :=
  .foldS _ _ _ only_l1Invalidate

theorem invalEntries_spec (s : State) (f : Fn) (pasid : Option Nat) (base size : Nat) :
    Only [.cmp, .xlt] s (invalEntries s f pasid base size) ∧
      (invalEntries s f pasid base size).cmp.l1 = (invalCaches s f pasid base size).cmp.l1 ∧
      (invalEntries s f pasid base size).xlt = { (tlbRemove s (s.invalidates f pasid base size)).xlt with
        ats := overtake f pasid base size (tlbRemove s (s.invalidates f pasid base size)).xlt.ats } := by
  have hcaches := only_invalCaches s f pasid base size
  have hxlt : (invalCaches s f pasid base size).xlt = _ := hcaches.2 .xlt (by decide)
  rw [← hxlt]
  refine ⟨((only_xlt s _).mono (by decide)).trans ((hcaches.mono (by decide)).trans ?_), ?_, ?_⟩
  · exact (only_withAts _ _).mono (by decide)
  · rw [invalEntries, cmp_withAts]
  · rw [invalEntries, xlt_withAts]

/-- An invalidation as a whole. -/
theorem invalidate_spec (s : State) (f : Fn) (pasid : Option Nat) (base size itag : Nat) :
    ∃ v stamp busy, invalidate s f pasid base size itag = v ∧ Only [.cmp, .xlt] s v ∧
      v.xlt = { (invalEntries s f pasid base size).xlt with
        invs := s.xlt.invs ++ [⟨f, itag, s.boundTo f pasid, stamp, busy⟩] } ∧
      v.cmp.l1 = (invalEntries s f pasid base size).cmp.l1 := by
  obtain ⟨held, stamp, busy, heq⟩ := invalidate_eq s f pasid base size itag
  obtain ⟨honly, -, hxlt⟩ := invalEntries_spec s f pasid base size
  obtain ⟨hpieces, hl1⟩ := restartPieces_spec (invalEntries s f pasid base size) held
  refine ⟨_, stamp, busy, heq, honly.trans ((hpieces.mono (by decide)).trans ((only_xlt _ _).mono (by decide))), ?_, hl1⟩
  rw [withInval, show (restartPieces _ held).xlt = _ from hpieces.2 .xlt (by decide), hxlt]
  rfl

/-- The cells of a partition with a context bound to the function and PASID are among those invalidated. -/
theorem mem_invalCells {s : State} {f : Fn} {pasid : Option Nat} {m b c : Nat} (hm : m ∈ s.boundTo f pasid)
    (hb : b ∈ s.baysOf (m / 64)) (hc : c ∈ s.bayThreadCells b) : c ∈ s.invalCells f pasid :=
  List.mem_flatMap.2 ⟨m / 64, List.mem_eraseDups.2 (List.mem_map_of_mem hm), List.mem_flatMap.2 ⟨b, hb, hc⟩⟩

theorem AtsReq.overtaken_of {f : Fn} {pasid : Option Nat} {base size : Nat} {a : AtsReq} (hf : a.f = f)
    (hp : pasid = none ∨ pasid = some a.pasid) (hlo : a.va < base + size) (hhi : base < a.va + 4096) :
    a.overtaken f pasid base size = true := by
  obtain rfl | rfl := hp <;> simp [AtsReq.overtaken, hf, hlo, hhi]

/-- Every request in flight for the range is overtaken after an invalidation. -/
theorem stale_of_overtaken {f : Fn} {pasid : Option Nat} {base size : Nat} {l : List AtsReq} {a : AtsReq}
    (ha : a ∈ overtake f pasid base size l) (hf : a.f = f)
    (hp : pasid = none ∨ pasid = some a.pasid) (hlo : a.va < base + size) (hhi : base < a.va + 4096) :
    a.stale = true := by
  obtain ⟨x, -, rfl⟩ := List.mem_map.1 ha
  by_cases hx : x.overtaken f pasid base size = true
  · simp [hx]
  · rw [if_neg hx] at hf hp hlo hhi
    exact absurd (AtsReq.overtaken_of hf hp hlo hhi) hx

/-- A message of the host while the stack runs and no freeze is in force. -/
theorem hostMsg_of_thawed {s : State} (hon : s.on = true) (hf : s.freeze = 0) (c : Instr) (g : State → State) :
    hostMsg s c g = g s := by simp [hostMsg, hon, hf]

theorem invalidation_completes {s : State} {f : Fn} {itag : Nat} {i : Inval}
    (hi : s.xlt.invs.find? (fun i => i.f = f ∧ i.itag = itag) = some i)
    (hthr : ∀ e ∈ s.cmp.thr, e.2.m ∈ i.ctxs → e.2.inFlight i.stamp = false)
    (hpieces : ∀ p ∈ i.pieces, s.pieceBusy p = false) :
    exec (.invalidateCompletion f itag) s =
      .next (({ s with xlt := { s.xlt with invs := s.xlt.invs.erase i } } : State).emit (.invDone f itag)) := by
  have hidle : ¬ (s.cmp.thr.any (fun e => i.ctxs.contains e.2.m && e.2.inFlight i.stamp) = true ∨
      i.pieces.any s.pieceBusy = true) := by
    rintro (h | h)
    · obtain ⟨e, he, hb⟩ := List.any_eq_true.1 h
      obtain ⟨hm, hfly⟩ := Bool.and_eq_true_iff.1 hb
      simp [hthr e he (by simpa using hm)] at hfly
    · obtain ⟨p, hp, hb⟩ := List.any_eq_true.1 h
      simp [hpieces p hp] at hb
  show execInvalidateCompletion f itag s = _
  rw [execInvalidateCompletion, hi]
  exact congrArg Host.Outcome.next (if_neg hidle)

/-- Settles O32, a command at a time. A binding with valid 0 is not checked for its function (assumption log 35). -/
theorem bindingsAndInvalidations : Obligations.BindingsAndInvalidations := by
  refine ⟨fun s f m value hc hm => ?_, fun s f pasid base size itag hon hf => ?_, fun s f itag i hi hthr hpieces => ?_⟩
  · extract_lets busy g valid bad
    obtain ⟨honly, hkept⟩ := only_bindWrite s m value
    refine ⟨_, exec_ctxBindWrite hc hm value, honly, hkept, fun hbusy => ?_, fun hidle hbad => ?_, fun hidle hgood => ?_⟩
    · rw [bindWrite_busy hbusy]
      exact ⟨fld_withBindState s m (by decide), binding_withBindState s m 3, State.setFld_xlt _ _ _ _⟩
    · rw [bindWrite_unmapped hidle hbad.1 hbad.2]
      exact ⟨fld_withBindState s m (by decide), binding_withBindState s m 2, State.setFld_xlt _ _ _ _⟩
    · rw [bindWrite_stored hidle hgood, binding_withBindState, binding_bindStored]
      refine ⟨fun hv => ⟨?_, if_pos hv⟩, fun hv => ⟨?_, if_neg hv⟩, fun hne => tlbs_bindStored hne _⟩
      · rw [fld_withBindState _ m (b2n_lt_two _ |>.trans (by decide))]
        exact (b2n_eq_one _).2 (decide_eq_true hv)
      · rw [fld_withBindState _ m (b2n_lt_two _ |>.trans (by decide)), decide_eq_false hv]
        rfl
  · extract_lets gone
    obtain ⟨v, stamp, busy, heq, honly, hxlt, hl1⟩ := invalidate_spec s f pasid base size itag
    obtain ⟨-, hcaches, hentries⟩ := invalEntries_spec s f pasid base size
    have hgone : gone = s.invalidates f pasid base size := rfl
    rw [hgone]
    refine ⟨v, ?_, honly, ?_, fun b => ?_, fun m hm b hb c hc => ?_, fun a ha haf hp hlo hhi => ?_,
      ⟨f, itag, s.boundTo f pasid, stamp, busy⟩, ?_, rfl, rfl, ?_⟩
    · rw [← heq]
      exact congrArg Host.Outcome.next (hostMsg_of_thawed hon hf _ _)
    · rw [hxlt, hentries]
      rfl
    · rw [State.bayTlb, hxlt, hentries]
      exact bayTlb_tlbRemove s _ b
    · rw [State.l1, hl1, hcaches, ← State.l1, invalCaches]
      exact l1_foldS_l1Invalidate _ _ (.inl (mem_invalCells hm hb hc))
    · rw [hxlt, hentries] at ha
      exact stale_of_overtaken ha haf hp hlo hhi
    · rw [hxlt]
    · dsimp only
  · exact ⟨_, invalidation_completes hi hthr hpieces,
      ((only_xlt s _).mono (by decide)).trans ((only_emit _ _).mono (by decide)), rfl, rfl⟩

end Sys2Proof.Machine
end

section
/-! SUPPORT. What an access that the stack makes at once on behalf of a context leaves alone (R126, R170, R293): page requests,
command queues, the PRI of every function, free thread slots, and the errors recorded of commands. -/

namespace Sys2Proof.Machine

open Sys2Proof

/-- From `s` to `t` the page requests, the command queues, the PRI of every function and the commands that wait are as they
were, no free slot has received a thread, and no command's error has been cleared. -/
structure Quiet (s t : State) : Prop where
  pending : t.pending = s.pending
  prs : t.xlt.prs = s.xlt.prs
  cmds : t.xlt.cmds = s.xlt.cmds
  stopped : ∀ f, (t.fn f).stopped = (s.fn f).stopped
  absent : ∀ k, s.thread k = none → t.thread k = none
  errored : ∀ m, m < 1024 → s.fld (rXltCmdStat m) fXltCmdStatErrored = 1 → t.fld (rXltCmdStat m) fXltCmdStatErrored = 1

/-- The parts that a quiet change may change at will. -/
def quietParts : List Area := [.pci, .sec, .cel, .hbm, .plc, .ral, .pwr, .dbg, .out, .free]

namespace Quiet

variable {s t u : State}

theorem refl (s : State) : Quiet s s := ⟨rfl, rfl, rfl, fun _ => rfl, fun _ h => h, fun _ _ h => h⟩

theorem trans (h : Quiet s t) (h' : Quiet t u) : Quiet s u where
  pending := h'.pending.trans h.pending
  prs := h'.prs.trans h.prs
  cmds := h'.cmds.trans h.cmds
  stopped f := (h'.stopped f).trans (h.stopped f)
  absent k hk := h'.absent k (h.absent k hk)
  errored m hm he := h'.errored m hm (h.errored m hm he)

theorem foldS {β : Type} (l : List β) (s : State) (f : State → β → State) (h : ∀ u b, Quiet u (f u b)) :
    Quiet s (foldS l s f) :=
  foldS_keeps (P := Quiet s) l f (fun u b hu => hu.trans (h u b)) (.refl s)

theorem ite {c : Prop} [Decidable c] (ha : Quiet s t) (hb : Quiet s u) : Quiet s (if c then t else u) :=
  ite_keeps (P := Quiet s) ha hb

theorem of_only {l : List Area} (h : Only l s t) (hl : l ⊆ quietParts) : Quiet s t := by
  have hsame : ∀ p : Area, p ∉ quietParts → p.same s t := fun p hp => h.2 p (fun hm => hp (hl hm))
  have hregs : t.regs = s.regs := hsame .regs (by decide)
  have hfns : t.fns = s.fns := hsame .fns (by decide)
  have hbup : t.bup = s.bup := hsame .bup (by decide)
  have hcmp : t.cmp = s.cmp := hsame .cmp (by decide)
  have hxlt : t.xlt = s.xlt := hsame .xlt (by decide)
  refine ⟨h.1, by rw [hxlt], by rw [hxlt], fun f => by rw [State.fn, hfns, State.fn], fun k hk => ?_, fun m _ he => ?_⟩
  · rwa [State.thread, hcmp]
  · rwa [State.fld, reg_congr hregs hbup]

end Quiet

/-! ### Registers -/

/-- The register is not the status of a command queue. -/
def NotCmdStat (o : Nat) : Prop := o < 0x622000 ∨ 0x624000 ≤ o

theorem NotCmdStat.ne {o m : Nat} (h : NotCmdStat o) (hm : m < 1024) : rXltCmdStat m ≠ o := by
  unfold NotCmdStat at h
  unfold rXltCmdStat
  omega

theorem quiet_regs {s t : State} (h : RegsOnly s t) (he : ∀ m, m < 1024 →
    s.fld (rXltCmdStat m) fXltCmdStatErrored = 1 → t.fld (rXltCmdStat m) fXltCmdStatErrored = 1) : Quiet s t := by
  rw [h] at he ⊢
  exact ⟨rfl, rfl, rfl, fun _ => rfl, fun _ hk => hk, he⟩

theorem quiet_setReg (s : State) {o : Nat} (ho : NotCmdStat o) (v : Word) : Quiet s (s.setReg o v) :=
  quiet_regs rfl fun m hm he => by rwa [State.fld, State.reg_setReg, if_neg (ho.ne hm)]

theorem quiet_setFld (s : State) {o : Nat} (ho : NotCmdStat o) (f : Fld) (n : Nat) : Quiet s (s.setFld o f n) :=
  quiet_setReg s ho _

theorem quiet_addSat (s : State) {o : Nat} (ho : NotCmdStat o) (f : Fld) (n : Nat) : Quiet s (s.addSat o f n) :=
  quiet_setReg s ho _

theorem quiet_addMod (s : State) {o : Nat} (ho : NotCmdStat o) (f : Fld) (n : Nat) : Quiet s (s.addMod o f n) :=
  quiet_setReg s ho _

theorem quiet_emit (s : State) (o : Out) : Quiet s (s.emit o) := .of_only (only_emit s o) (by decide)

theorem quiet_setCel (s : State) (x : CelSt) : Quiet s { s with cel := x } := .of_only (only_cel s x) (by decide)

/-- A bit that is set stays set under more bits. -/
theorem get_or_eq_one {f : Fld} {v : Word} (hw : f.w = 1) (h : f.get v = 1) (m : Word) : f.get (v ||| m) = 1 := by
  rw [Fld.get_extract, hw, BitVec.extractLsb'_or, BitVec.toNat_or]
  rw [Fld.get_extract, hw] at h
  rw [h]
  have : (m.extractLsb' f.lo 1).toNat < 2 := (m.extractLsb' f.lo 1).isLt
  interval_cases (m.extractLsb' f.lo 1).toNat <;> rfl

theorem quiet_orReg (s : State) (o : Nat) (v : Word) : Quiet s (s.setReg o (s.reg o ||| v)) := by
  refine quiet_regs rfl fun m _ he => ?_
  rw [State.fld, State.reg_setReg]
  split
  · subst_vars
    exact get_or_eq_one rfl he v
  · exact he

/-! ### Interrupts, counters, trace, records -/

/-- A Pending Bit leaves the PRI of every function, also of one under the same key. -/
theorem quiet_pend (s : State) (f : Fn) (p : BitVec 32) : Quiet s (s.setFn f { s.fn f with pend := p }) := by
  refine ⟨rfl, rfl, rfl, fun g => ?_, fun _ h => h, fun _ _ h => h⟩
  rw [State.fn, State.setFn, smGetD_smPut]
  split
  · rename_i hkey
    simp only [State.fn, hkey]
  · rfl

theorem quiet_sendMsix (s : State) (f : Fn) (v : Nat) : Quiet s (sendMsix s f v) := by
  unfold sendMsix
  exact .ite (.refl s) (.ite (quiet_pend s f _) (quiet_emit s _))

theorem quiet_msixOwner (s : State) (v : Nat) : Quiet s (msixOwner s v) := by
  unfold msixOwner
  split
  · exact .refl s
  · exact quiet_sendMsix s _ v

theorem quiet_msixPart (s : State) (p v : Nat) : Quiet s (msixPart s p v) :=
  .foldS _ _ _ (fun u f => quiet_sendMsix u f _)

theorem quiet_msixBay (s : State) (b v : Nat) : Quiet s (msixBay s b v) := by
  unfold msixBay
  split
  · exact quiet_msixPart s _ v
  · exact quiet_msixOwner s 10

theorem quiet_signal (s : State) (r : RegRow) (k : Nat) : Quiet s (signal s r k) := by
  unfold signal
  repeat' apply Quiet.ite
  all_goals apply_rules [quiet_msixOwner, quiet_msixPart, quiet_msixBay]

theorem quiet_raiseMask (s : State) (o : Nat) (m : Word) : Quiet s (raiseMask s o m) := by
  have hset := quiet_orReg s o m
  unfold raiseMask
  dsimp only
  split
  · exact hset
  · split
    · exact hset
    · exact .ite (hset.trans (quiet_signal _ _ _)) hset

theorem quiet_raise (s : State) (o : Nat) (f : Fld) : Quiet s (raise s o f) := quiet_raiseMask s o f.mask

theorem quiet_countEv (s : State) (ev bay part n : Nat) : Quiet s (countEv s ev bay part n) := by
  obtain ⟨hregs, hkept⟩ := countEv_spec s ev bay part n
  refine quiet_regs hregs fun m hm he => ?_
  have hmem : rXltCmdStat m ∉ countRegs := fun h => by
    have hlt : ∀ o ∈ countRegs, NotCmdStat o := fun o ho => .inl (by revert o; decide)
    exact (hlt _ h).ne hm rfl
  rwa [State.fld, hkept _ hmem]

theorem notCmdStat_trace : NotCmdStat rDbgTraceStat := .inl (by decide)

theorem quiet_traceFlush (s : State) : Quiet s (traceFlush s) := by
  unfold traceFlush
  extract_lets cfg ws a f q sl key line gone src s1 s2
  have h1 : Quiet s s1 := .of_only (only_dbg s _) (by decide)
  have h2 : Quiet s s2 := .ite (h1.trans (quiet_addSat s1 notCmdStat_trace _ _)) h1
  refine .ite (.ite ?_ ?_) h2
  · exact (h2.trans (quiet_setFld s2 notCmdStat_trace _ _)).trans (quiet_raise _ _ _)
  · exact (h2.trans (quiet_setFld s2 notCmdStat_trace _ _)).trans (quiet_setFld _ notCmdStat_trace _ _)

theorem quiet_trace (s : State) (k bay part ctx arg32 addr arg64 : Nat) :
    Quiet s (trace s k bay part ctx arg32 addr arg64) := by
  unfold trace
  extract_lets cfg hide r s1 src s2
  have h1 : Quiet s s1 := (Quiet.of_only (only_free s _) (by decide)).trans (quiet_addMod s.tick notCmdStat_trace _ _)
  have h2 : Quiet s s2 := h1.trans (.of_only (only_dbg s1 _) (by decide))
  exact .ite (.ite (h2.trans (quiet_traceFlush s2)) h2) (.refl s)

theorem quiet_postErr (s : State) (src sev part payload : Nat) : Quiet s (postErr s src sev part payload) := by
  unfold postErr
  extract_lets r z0 s0 s1 z1 z2 s2
  have h1 : Quiet s s1 := (Quiet.of_only (only_dbg s _) (by decide)).trans (quiet_trace s0 _ _ _ _ _ _ _)
  refine .ite ?_ ?_
  · have h2 : Quiet s1 s2 := ⟨rfl, rfl, rfl, fun _ => rfl, fun _ h => h, fun _ _ h => h⟩
    exact (h1.trans h2).trans (quiet_raise s2 _ _)
  · exact (h1.trans (quiet_addSat s1 (.inl (by decide)) _ _)).trans (quiet_raise _ _ _)

theorem quiet_addrError (s : State) (requester : Nat) (write : Bool) (a : Nat) : Quiet s (addrError s requester write a) :=
  quiet_postErr s _ _ _ _

theorem quiet_countCe (s : State) {k : Nat} (hk : k < 16) (n : Nat) : Quiet s (countCe s k n) :=
  quiet_addMod s (.inl (by unfold rErrCe; omega)) _ _

theorem quiet_captureSynd (s : State) (synd : Nat) : Quiet s (captureSynd s synd) := quiet_setReg s (.inl (by decide)) _

/-! ### Messages to other stacks -/

theorem quiet_setPort (s : State) (n : Nat) (p : RalPort) : Quiet s (s.setPort n p) := by
  unfold State.setPort
  extract_lets src s1
  have h1 : Quiet s s1 := .of_only (only_ral s _) (by decide)
  exact .ite h1 (h1.trans (quiet_trace s1 _ _ _ _ _ _ _))

theorem quiet_ralRoute (s : State) (m : RMsg) : Quiet s (ralRoute s m).1 := by
  unfold ralRoute
  split
  · exact quiet_setPort s _ _
  · exact .refl s

theorem quiet_respond (s : State) (q : RMsg) (typ : Nat) (arg : BitVec 128) (poison : BitVec 4) (data : List Sector) :
    Quiet s (respond s q typ arg poison data) := by
  rw [respond_eq]
  exact quiet_ralRoute s _

theorem quiet_remoteReq (s : State) (who : Requester) (m : RMsg) : Quiet s (remoteReq s who m).1 := by
  unfold remoteReq
  extract_lets tag m1
  split
  · exact .refl s
  · exact (quiet_setPort s _ _).trans (.of_only (only_ral _ _) (by decide))

end Sys2Proof.Machine
end

section
/-! SUPPORT. An access at a slice or at a channel (R196 to R213) is quiet: the frames, the side queues, the counters and the
answers to those who asked. -/

namespace Sys2Proof.Machine

open Sys2Proof

/-- A change of the cellar alone. -/
theorem Quiet.of_cel {s t : State} (h : Only [.cel] s t) : Quiet s t := .of_only h (by decide)

theorem Quiet.getD {s u : State} {o : Option State} (ho : ∀ t, o = some t → Quiet s t) (hu : Quiet s u) :
    Quiet s (o.getD u) := by
  cases o with
  | none => exact hu
  | some t => exact ho t rfl

theorem Quiet.getDFst {s : State} {u : State × Ans} {o : Option (State × Ans)} (ho : ∀ r, o = some r → Quiet s r.1)
    (hu : Quiet s u.1) : Quiet s (o.getD u).1 := by
  cases o with
  | none => exact hu
  | some r => exact ho r rfl

/-! ### Frames -/

theorem only_toChannel (s : State) (q : ChanReq) : Only [.cel] s (toChannel s q) := only_cel s _

theorem only_evictLine (s : State) (n : Nat) (f : Frame) (l : LineEnt) : Only [.cel] s (evictLine s n f l) := by
  unfold evictLine
  extract_lets a s1
  have h1 : Only [.cel] s s1 := only_mergeClear s n a
  split
  · exact h1.trans (only_toChannel s1 _)
  · exact h1.trans (only_toChannel s1 _)
  · exact h1

theorem only_evictFrame (s : State) (n set way : Nat) (f : Frame) : Only [.cel] s (evictFrame s n set way f) :=
  (Only.foldS _ _ _ (fun u l => only_evictLine u n f l)).trans (only_putFrame _ _ _ _ _)

theorem only_clockTick (s : State) : Only [.cel] s { s with cel := { s.cel with clock := s.cel.clock + 1 } } := only_cel s _

theorem only_placeBelow {lim : Nat} {s t : State} {n a : Nat} {e : LineEnt} {own : Option Nat}
    (h : placeBelow lim s n a e own = some t) : Only [.cel] s t := by
  unfold placeBelow at h
  extract_lets set fs same ordered put ways blank at h
  have hput : ∀ (u : State) (w : Nat) (f : Frame) (q : Nat), Only [.cel] u (put u w f q) :=
    fun u w f q => (only_putFrame u n set w _).trans (only_clockTick _)
  split at h
  · exact Option.some.inj h ▸ hput s _ _ _
  · split at h
    · exact Option.some.inj h ▸ hput s _ _ _
    · split at h
      · exact Option.some.inj h ▸ (only_evictFrame s n set _ _).trans (hput _ _ _ _)
      · cases h

theorem only_replaceEnt {s t : State} {n a : Nat} {e : LineEnt} (h : replaceEnt s n a e = some t) : Only [.cel] s t := by
  unfold replaceEnt at h
  split at h
  · exact only_placeBelow h
  · extract_lets rest set same bump at h
    have hbump : ∀ u : State, Only [.cel] u (bump u) := only_clockTick
    split at h
    · exact Option.some.inj h ▸ (only_putFrame s _ _ _ _).trans (hbump _)
    · split at h
      · exact Option.some.inj h ▸ ((only_putFrame s _ _ _ _).trans (only_mergeClear _ n a)).trans (hbump _)
      · exact ((only_putFrame s _ _ _ _).trans (only_mergeClear _ n a)).trans (only_placeBelow h)

theorem only_removeEnt (s : State) (n a : Nat) : Only [.cel] s (removeEnt s n a) := by
  unfold removeEnt
  split
  · exact .refl _ s
  · exact only_putFrame s _ _ _ _

theorem only_toSide (s : State) (n : Nat) (h : Held) : Only [.cel] s (toSide s n h) := only_setSlice s _ _

theorem only_toVictim (s : State) (n : Nat) (h : Held) : Only [.cel] s (toVictim s n h) := only_setSlice s _ _

theorem only_countMiss (s : State) (n a : Nat) : Only [.cel] s (countMiss s n a) :=
  ite_keeps (P := Only [.cel] s) (only_setSlice s _ _) (.refl _ s)

theorem only_readEnt (s : State) (n a : Nat) : Only [.cel] s (readEnt s n a []).1 := by
  cases hf : s.findLine n a with
  | none =>
    rw [readEnt, hf]
    exact .refl _ s
  | some e =>
    obtain ⟨u, hu, honly, -⟩ := readEnt_spec hf
    rw [hu]
    exact honly

/-! ### Answers -/

/-- A change of the cells that gives no free slot a thread. -/
theorem Quiet.of_cmp {s : State} {x : CmpSt} (h : ∀ k, smGet s.cmp.thr k = none → smGet x.thr k = none) :
    Quiet s { s with cmp := x } := ⟨rfl, rfl, rfl, fun _ => rfl, h, fun _ _ h => h⟩

theorem quiet_storeDone (s : State) (slot : Nat) (t : Phys → Bool) : Quiet s (storeDone s slot t) := by
  unfold storeDone
  split
  · exact .refl s
  · split
    · exact .refl s
    · rename_i x hx _ e he
      refine .of_cmp fun k hk => ?_
      have hne : k ≠ slot := fun h => by rw [h, hx] at hk; cases hk
      exact (smGet_smSet _ _ _ _).trans ((if_neg hne).trans hk)

theorem quiet_updPiece (s : State) (b q id i : Nat) (f : Piece → Piece) : Quiet s (updPiece s b q id i f) :=
  .of_cmp fun _ h => h

theorem quiet_addReply (s : State) (l : List Reply) : Quiet s { s with cmp := { s.cmp with replies := l } } :=
  .of_cmp fun _ h => h

theorem quiet_answerRead (s : State) (who : Requester) (addr : Nat) (d : Line) (p : BitVec 4) (status : Nat) :
    Quiet s (answerRead s who addr d p status) := by
  unfold answerRead
  split
  · exact quiet_addReply s _
  · exact quiet_emit s _
  · exact quiet_respond s _ _ _ _ _
  · exact quiet_updPiece s _ _ _ _ _
  · exact .refl s

theorem quiet_answerAck (s : State) (who : Requester) (flag : Bool) (addr status : Nat) (w : Word) :
    Quiet s (answerAck s who flag addr status w) := by
  unfold answerAck
  split
  · exact .ite (quiet_addReply s _) (quiet_storeDone s _ _)
  · exact quiet_respond s _ _ _ _ _
  · exact .refl s

theorem quiet_reply (s : State) (h : Held) (x : Ans) : Quiet s (reply s h x) := by
  unfold reply
  split
  · exact quiet_answerRead s _ _ _ _ _
  · exact .refl s
  · exact .ite (.refl s) (quiet_answerAck s _ _ _ _ _)

theorem quiet_releaseWaits (s : State) (n a : Nat) (d : Line) (p : BitVec 4) (be : BitVec 128) :
    Quiet s (releaseWaits s n a d p be) := by
  unfold releaseWaits
  extract_lets x touched sick ends s1
  exact (Quiet.of_cel (only_setSlice s n _)).trans
    (.foldS _ s1 _ fun u e => .ite (quiet_answerAck u _ _ _ _ _) (quiet_answerAck u _ _ _ _ _))

/-! ### Operations on a line -/

theorem quiet_pinDeny (s : State) (p a : Nat) : Quiet s (pinDeny s p a) :=
  (quiet_addMod s (.inr (by unfold rCelPinDeny; omega)) _ _).trans (quiet_raise _ _ _)

theorem quiet_deadRead (s : State) (n a : Nat) : Quiet s (deadRead s n a).1 := by
  unfold deadRead
  split
  · exact .refl s
  · rename_i p hp
    extract_lets s1
    have h1 : Quiet s s1 := quiet_addMod s (.inr (by unfold rCelDeadRead; omega)) _ _
    split
    · exact (h1.trans (quiet_raise s1 _ _)).trans (quiet_postErr _ _ _ _ _)
    · exact h1

theorem quiet_updLine {s t : State} {n a hint : Nat} {l : LineEnt} {d : Line} {p : BitVec 4} {be : BitVec 128}
    (h : updLine s n a l d p hint be = some t) : Quiet s t := by
  obtain ⟨u, hu, rfl⟩ := Option.map_eq_some_iff.1 h
  exact (Quiet.of_cel ((only_mergeClear s n a).trans (only_replaceEnt hu))).trans (quiet_releaseWaits u _ _ _ _ _)

/-- A line written, with an answer. -/
theorem quiet_updLine_map {s : State} {n a hint : Nat} {l : LineEnt} {d : Line} {p : BitVec 4} {be : BitVec 128} {ans : Ans}
    {r : State × Ans} (h : (updLine s n a l d p hint be).map (fun t => (t, ans)) = some r) : Quiet s r.1 := by
  obtain ⟨t, ht, rfl⟩ := Option.map_eq_some_iff.1 h
  exact quiet_updLine ht

/-- An entry replaced, with an answer. -/
theorem quiet_replaceEnt_map {s : State} {n a : Nat} {e : LineEnt} {ans : Ans} {r : State × Ans}
    (h : (replaceEnt s n a e).map (fun t => (t, ans)) = some r) : Quiet s r.1 := by
  obtain ⟨t, ht, rfl⟩ := Option.map_eq_some_iff.1 h
  exact .of_cel (only_replaceEnt ht)

theorem quiet_readEnt (s : State) (n a : Nat) : Quiet s (readEnt s n a []).1 := .of_cel (only_readEnt s n a)

theorem quiet_toChannel (s : State) (q : ChanReq) : Quiet s (toChannel s q) := .of_cel (only_toChannel s q)

/-- A line pinned, or counted as denied (R215). -/
theorem quiet_pinned {s : State} {n p a : Nat} {e e' : LineEnt} {ans : Ans} {r : State × Ans} {c : Prop} [Decidable c]
    (hr : (if c then (replaceEnt s n a e).map (fun t => (t, ans))
      else (replaceEnt s n a e').map (fun t => (pinDeny t p a, ans))) = some r) : Quiet s r.1 := by
  split at hr
  · exact quiet_replaceEnt_map hr
  · obtain ⟨t, ht, rfl⟩ := Option.map_eq_some_iff.1 hr
    exact (Quiet.of_cel (only_replaceEnt ht)).trans (quiet_pinDeny t p a)

/-- A line cleaned, and with a flush its entry gone. -/
theorem quiet_cleaned {s u : State} {n a : Nat} {e : LineEnt} {ans : Ans} {r : State × Ans} {c : Prop} [Decidable c]
    (hu : Quiet s u) (hr : (if c then some (removeEnt (mergeClear u n a) n a, ans)
      else (replaceEnt u n a e).map (fun t => (t, ans))) = some r) : Quiet s r.1 := by
  split at hr
  · exact Option.some.inj hr ▸ hu.trans (.of_cel ((only_mergeClear u n a).trans (only_removeEnt _ n a)))
  · exact hu.trans (quiet_replaceEnt_map hr)

theorem quiet_applyOp {s : State} {n : Nat} {h : Held} {r : State × Ans} (hr : applyOp s n h [] = some r) : Quiet s r.1 := by
  unfold applyOp at hr
  dsimp only at hr
  have hread := quiet_readEnt s n (lineAddr h.addr)
  generalize readEnt s n (lineAddr h.addr) [] = q at hr hread
  obtain ⟨s1, d, p⟩ := q
  have hdead := quiet_deadRead s n (lineAddr h.addr)
  generalize deadRead s n (lineAddr h.addr) = q at hr hdead
  obtain ⟨s2, strict⟩ := q
  dsimp only at hr hread hdead
  split at hr
  · exact Option.some.inj hr ▸ .refl s
  rename_i w f l hf
  split at hr
  case h_1 hint _ => -- read
    split at hr
    · have h2 := hread.trans (quiet_countEv s1 5 0xFF (partByte (s.partOfAddr (lineAddr h.addr))) 1)
      split at hr
      · exact Option.some.inj hr ▸ h2
      · split at hr
        · exact (h2.trans (.of_cel (only_mergeClear _ n _))).trans (quiet_replaceEnt_map hr)
        · exact h2.trans (quiet_replaceEnt_map hr)
    · exact (hdead.trans (quiet_countEv _ _ _ _ _)).trans (quiet_replaceEnt_map hr)
  case h_2 => -- write
    split at hr
    · exact quiet_updLine_map hr
    · exact hread.trans (quiet_updLine_map hr)
  case h_3 => exact hread.trans (quiet_updLine_map hr) -- accumulate
  case h_4 => -- flag set
    split at hr
    · exact Option.some.inj hr ▸ hread
    · exact hread.trans (quiet_updLine_map hr)
  case h_5 => -- flag add
    split at hr
    · exact Option.some.inj hr ▸ hread
    · exact hread.trans (quiet_updLine_map hr)
  case h_6 => -- flag wait
    repeat' split at hr
    · exact Option.some.inj hr ▸ hread
    · exact Option.some.inj hr ▸ hread
    · exact Option.some.inj hr ▸ hread
    · exact Option.some.inj hr ▸ hread.trans (.of_cel (only_setSlice _ _ _))
  case h_7 p _ => -- pin
    split at hr
    · exact Option.some.inj hr ▸ .refl s
    · split at hr <;> exact quiet_pinned hr
  case h_8 => exact quiet_replaceEnt_map hr -- unpin
  case h_9 => -- clean
    exact quiet_cleaned (by split <;> apply_rules [quiet_toChannel, Quiet.refl]) hr
  case h_10 => -- flush
    exact quiet_cleaned (by split <;> apply_rules [quiet_toChannel, Quiet.refl]) hr
  case h_11 => exact quiet_replaceEnt_map hr -- rack
  case h_12 => -- kill
    split at hr
    · exact (Quiet.of_cel (only_mergeClear s n _)).trans (quiet_replaceEnt_map hr)
    · exact Option.some.inj hr ▸ .refl s
  case h_13 => exact quiet_replaceEnt_map hr -- prefetch

/-! ### Requests of a line in order -/

theorem notCmdStat_plcCnt (s : State) (a : Nat) : NotCmdStat (rPlcCnt ((s.partOfAddr a).getD 0)) := by
  have hlt : (s.partOfAddr a).getD 0 < 16 := by
    cases h : s.partOfAddr a with
    | none => decide
    | some p =>
      unfold State.partOfAddr State.findPart at h
      have hp : p ∈ List.range 16 := List.mem_of_find?_eq_some h
      exact List.mem_range.1 hp
  left
  unfold rPlcCnt
  omega

theorem quiet_startFill (s : State) (n : Nat) (h : Held) : Quiet s (startFill s n h) := by
  unfold startFill
  extract_lets a racking
  split
  · exact .of_cel (only_toSide s n h)
  · split
    · exact .ite (quiet_addSat s (notCmdStat_plcCnt s a) _ _) (.of_cel (only_toVictim s n h))
    · rename_i t ht
      have h1 : Quiet s t := .of_cel (only_placeBelow ht)
      split
      · exact h1.trans (.of_cel (only_toSide t n h))
      · exact (h1.trans (.of_cel (only_setSlice t n _))).trans (quiet_countEv _ _ _ _ _)

theorem quiet_runLine (s : State) (n : Nat) (h : Held) : Quiet s (runLine s n h []) := by
  unfold runLine
  extract_lets a
  split
  · split
    · split
      · exact .of_cel (only_toSide s n h)
      · exact .of_cel (only_setSlice s n _)
    · split
      · exact .of_cel (only_toVictim s n h)
      · rename_i t x hx
        exact (quiet_applyOp hx).trans (quiet_reply t h x)
  · split
    · exact quiet_startFill s n h
    · obtain ⟨who, addr, hint, op⟩ := h
      cases op
      case write be d p =>
        dsimp -zeta only
        extract_lets e
        split
        · exact .of_cel (only_toVictim s n _)
        · rename_i t ht
          exact ((Quiet.of_cel (only_placeBelow ht)).trans (quiet_releaseWaits t _ _ _ _ _)).trans (quiet_reply _ _ _)
      case kill => exact quiet_toChannel s _
      all_goals exact .refl s

theorem quiet_runOrdered (s : State) (n : Nat) (h : Held) : Quiet s (runOrdered s n h []) := by
  unfold runOrdered
  extract_lets a x mine
  refine .ite (.of_cel (only_toVictim s n h)) (.ite (.of_cel (only_toSide s n h)) ?_)
  split
  · exact quiet_runLine s n h
  · split
    · exact quiet_runLine s n h
    · exact (Quiet.of_cel (only_countMiss s n a)).trans (quiet_runLine _ n h)

theorem quiet_installFill {s t : State} {n : Nat} {fd : FillData} (h : installFill s n fd = some t) : Quiet s t := by
  unfold installFill at h
  extract_lets a at h
  split at h
  · cases h
  · split at h
    · cases h
    · extract_lets l e at h
      obtain ⟨u, hu, rfl⟩ := Option.map_eq_some_iff.1 h
      exact ((Quiet.of_cel (only_replaceEnt hu)).trans (.of_cel (only_setSlice u n _))).trans
        (.foldS _ _ _ fun v y => quiet_runOrdered v n y)

/-! ### HBM blocks -/

theorem quiet_setHbm (s : State) (x : HbmSt) : Quiet s { s with hbm := x } := .of_only (only_hbm s x) (by decide)

theorem quiet_setChan (s : State) (d : Nat) (c : Channel) : Quiet s (s.setChan d c) := quiet_setHbm s _

theorem quiet_putBlock (s : State) (a : Nat) (b : Block) : Quiet s (s.putBlock a b) := quiet_setHbm s _

theorem quiet_touchSidecar (s : State) (a : Nat) (dirty : Bool) : Quiet s (touchSidecar s a dirty) := quiet_setChan s _ _

theorem quiet_countBursts (s : State) (a n : Nat) : Quiet s (countBursts s a n) := quiet_countEv s _ _ _ _

theorem notCmdStat_hbmChCnt (d : Nat) : NotCmdStat (rHbmChCnt d) := .inr (by unfold rHbmChCnt; omega)

theorem notCmdStat_hbmChUe (d : Nat) : NotCmdStat (rHbmChUe d) := .inr (by unfold rHbmChUe; omega)

theorem quiet_lostWrite (s : State) (a : Nat) : Quiet s (lostWrite s a) := quiet_addSat s (notCmdStat_hbmChCnt _) _ _

theorem quiet_blockFixed (s : State) (a n : Nat) : Quiet s (blockFixed s a n) :=
  .ite (.refl s) ((quiet_addMod s (notCmdStat_hbmChCnt _) _ _).trans (quiet_countCe _ (by decide) _))

theorem quiet_blockFailed (s : State) (a : Nat) (bad : List (Nat × RsOutcome)) (errs : List SymErr) :
    Quiet s (blockFailed s a bad errs) := by
  unfold blockFailed
  extract_lets b
  generalize s.placeOf a = q
  obtain ⟨d, slot⟩ := q
  dsimp -zeta only
  extract_lets c s1 s2 s3 s4
  have h1 : Quiet s s1 := (quiet_setChan s d _).trans (quiet_addSat _ (notCmdStat_hbmChCnt d) _ _)
  have h2 : Quiet s s2 := h1.trans (quiet_putBlock s1 a _)
  have h3 : Quiet s s3 := h2.trans (quiet_postErr s2 _ _ _ _)
  have h4 : Quiet s s4 := h3.trans (quiet_setFld s3 (notCmdStat_hbmChUe d) _ _)
  split
  · exact h1
  · split
    · exact h4.trans (quiet_captureSynd s4 _)
    · exact h4

theorem quiet_readBlock (s : State) (a : Nat) (halves : List Nat) (errs : List SymErr) :
    Quiet s (readBlock s a halves errs).1 := by
  unfold readBlock
  extract_lets b one
  generalize one 0 = q0
  generalize one 1 = q1
  obtain ⟨d0, f0, k0⟩ := q0
  obtain ⟨d1, f1, k1⟩ := q1
  dsimp -zeta only
  extract_lets bad macBad s1 s2
  have h1 : Quiet s s1 := quiet_blockFixed s a _
  have h2 : Quiet s s2 := by
    unfold s2
    split
    · exact .ite (h1.trans (quiet_raise s1 _ _)) h1
    · exact h1
  split
  · exact h2.trans (quiet_blockFailed s2 a bad errs)
  · exact h2

theorem quiet_readLine (s : State) (a : Nat) (errs : List SymErr) : Quiet s (readLine s a errs).1 := by
  unfold readLine
  extract_lets b h s1 sealedBlk s2
  have h1 : Quiet s s1 := quiet_touchSidecar s a false
  have h2 : Quiet s s2 := h1.trans (quiet_countBursts s1 a _)
  have hread := quiet_readBlock s2 a (if sealedBlk then [0, 1] else [h]) errs
  split
  · exact .refl s
  · split
    · exact h1.trans (quiet_countBursts s1 a 1)
    · split
      · exact h1.trans (quiet_countBursts s1 a 1)
      · split
        · exact h2
        · exact h2.trans hread

theorem quiet_writeLine (s : State) (a : Nat) (d : Line) (p : BitVec 4) (keep : Bool) (errs : List SymErr) :
    Quiet s (writeLine s a d p keep errs) := by
  unfold writeLine
  extract_lets h b sl other
  generalize hq : (if b.valid = true ∧ sl.isSome = true ∧ ¬ b.zero other = true then _ else _ : State × Line × Bool) = q
  have hold : Quiet s q.1 := by
    rw [← hq]
    split
    · exact quiet_readBlock s a [other] errs
    · exact .refl s
  obtain ⟨s1, o, bad⟩ := q
  dsimp -zeta only
  extract_lets b0 base p1 b1 b2 s2
  exact ((hold.trans (quiet_touchSidecar s1 a true)).trans (quiet_putBlock s2 a _)).trans (quiet_countBursts _ a _)

theorem quiet_writeBack (s : State) (a : Nat) (d : Line) (p : BitVec 4) (errs : List SymErr) :
    Quiet s (writeBack s a d p errs) :=
  .ite (quiet_lostWrite s a) (quiet_writeLine s a d p false errs)

theorem quiet_killLine (s : State) (a : Nat) (errs : List SymErr) : Quiet s (killLine s a errs) := by
  unfold killLine
  extract_lets h other b s1
  have h1 : Quiet s s1 := (quiet_touchSidecar s a true).trans (quiet_countBursts _ a _)
  have hread := quiet_readBlock s1 a [other] errs
  refine .ite (.refl s) (.ite h1 (.ite (h1.trans (quiet_putBlock s1 a _)) ?_))
  generalize readBlock s1 a [other] errs = q at hread ⊢
  obtain ⟨s2, d0, d1, bad⟩ := q
  exact .ite ((h1.trans hread).trans (quiet_putBlock s2 a _)) ((h1.trans hread).trans (quiet_putBlock s2 a _))

/-! ### Accesses at the channels -/

theorem quiet_serveUncached (s : State) (h : Held) (errs : List SymErr) : Quiet s (serveUncached s h errs) := by
  unfold serveUncached
  extract_lets a off sec n upd
  have hupd : ∀ t d p be, Quiet t (upd t d p be) := fun t d p be =>
    .ite (quiet_lostWrite t a) ((quiet_writeLine t a d p true errs).trans (quiet_releaseWaits _ _ _ _ _ _))
  have hread := quiet_readLine s a errs
  generalize readLine s a errs = q at hread ⊢
  obtain ⟨s1, r⟩ := q
  dsimp only at hread ⊢
  have hack : ∀ {t : State} {flag status w}, Quiet s t → Quiet s (answerAck t h.who flag h.addr status w) :=
    fun ht => ht.trans (quiet_answerAck _ _ _ _ _ _)
  split
  · exact hread.trans (quiet_answerRead s1 _ _ _ _ _)
  · exact .ite (hack (hupd s _ _ _)) (hack (hread.trans (hupd s1 _ _ _)))
  · exact hack (hread.trans (hupd s1 _ _ _))
  · exact .ite (hack hread) (hack (hread.trans (hupd s1 _ _ _)))
  · exact .ite (hack hread) (hack (hread.trans (hupd s1 _ _ _)))
  · exact .ite (hack hread) (.ite (hack hread) (.ite (hack hread) (hread.trans (.of_cel (only_setSlice s1 n _)))))
  · exact .refl s

theorem quiet_serveChan (s : State) (q : ChanReq) (errs : List SymErr) : Quiet s (serveChan s q errs) := by
  cases q with
  | writeBack a d p => exact quiet_writeBack s a d p errs
  | kill a => exact quiet_killLine s a errs
  | sidecar a => exact quiet_touchSidecar s a true
  | uncached h => exact quiet_serveUncached s h errs

theorem quiet_serveWhere (s : State) (test : ChanReq → Bool) : Quiet s (serveWhere s test) :=
  (quiet_setCel s _).trans (.foldS _ _ _ fun u q => quiet_serveChan u q [])

theorem quiet_settle (s : State) (a : Nat) : Quiet s (settle s a) := by
  unfold settle
  extract_lets s1
  have h1 : Quiet s s1 := quiet_serveWhere s _
  split
  · exact h1
  · split
    · split
      · have hread := quiet_readLine s1 (lineAddr a) []
        generalize readLine s1 (lineAddr a) [] = q at hread ⊢
        obtain ⟨s2, r⟩ := q
        dsimp only at hread ⊢
        exact .getD (fun t ht => ((h1.trans hread).trans (quiet_setCel s2 _)).trans (quiet_installFill ht)) h1
      · exact h1
    · exact h1

theorem quiet_countHeat (s : State) (who : Requester) (a : Nat) : Quiet s (countHeat s who a) := by
  rw [countHeat_eq]
  exact .of_only (only_plc s _) (by decide)

theorem quiet_holdForSharers (s : State) (d : DirEnt) (h : Held) : Quiet s (holdForSharers s d h) := by
  unfold holdForSharers
  extract_lets first tag d1 src s1 p s2 src2 s3
  have h1 : Quiet s s1 := ⟨rfl, rfl, rfl, fun _ => rfl, fun _ h => h, fun _ _ h => h⟩
  refine .ite ?_ h1
  have h2 : Quiet s s2 := h1.trans (quiet_addMod s1 (notCmdStat_plcCnt s h.addr) _ _)
  have h3 : Quiet s s3 := h2.trans (.of_only (only_ral s2 _) (by decide))
  exact h3.trans (.foldS _ s3 _ fun u k => quiet_ralRoute u _)

/-- An access that the stack makes at once for one of its units (R126, R170, R293) is quiet. -/
theorem quiet_engineOp (s : State) (h : Held) : Quiet s (engineOp s h).1 := by
  unfold engineOp
  extract_lets a s1 direct
  have h1 : Quiet s s1 := (quiet_countHeat s h.who a).trans (quiet_settle _ a)
  have hdirect : ∀ t, Quiet t (direct t).1 := fun t => by
    have hread := quiet_readLine t a []
    have hserve := quiet_serveUncached t h []
    unfold direct
    generalize readLine t a [] = q at hread ⊢
    obtain ⟨u, r⟩ := q
    dsimp only
    split
    · exact hread
    · exact hserve
  split
  · exact quiet_addrError s _ _ _
  split
  · exact quiet_addrError s _ _ _
  split
  · cases s.sharersOf (regionOf a) with
    | none => exact .refl s
    | some d => exact quiet_holdForSharers s d h
  split
  · exact h1.trans (hdirect s1)
  rename_i n hn
  split
  · exact .ite (h1.trans (quiet_addrError s1 _ _ _)) h1
  split
  · exact .getDFst (fun r hr => h1.trans (quiet_applyOp hr)) (h1.trans (hdirect s1))
  extract_lets s2
  have h2 : Quiet s s2 := h1.trans (.of_cel (only_countMiss s1 n a))
  generalize hq : (if h.op.fills = true then _ else _ : State × LineEnt) = q
  have h3 : Quiet s q.1 := by
    rw [← hq]
    split
    · exact (h2.trans (quiet_readLine s2 a [])).trans (quiet_countEv _ _ _ _ _)
    · exact h2
  obtain ⟨s3, e⟩ := q
  dsimp only at h3 ⊢
  split
  · exact h3.trans (hdirect s3)
  · rename_i t ht
    have ht : Quiet s t := h3.trans (.of_cel (only_placeBelow ht))
    exact .getDFst (fun r hr => ht.trans (quiet_applyOp hr)) (h3.trans (hdirect s3))

end Sys2Proof.Machine
end

section
/-! SUPPORT. What the stack writes for a task that ends (R126) is quiet, and so is the end of one of its threads. -/

namespace Sys2Proof.Machine

open Sys2Proof

/-! ### Translations -/

/-- A change of the translation unit that keeps the page requests and the command queues. -/
theorem Quiet.of_xlt {s : State} {x : XltSt} (hprs : x.prs = s.xlt.prs) (hcmds : x.cmds = s.xlt.cmds) :
    Quiet s { s with xlt := x } := ⟨rfl, hprs, hcmds, fun _ => rfl, fun _ h => h, fun _ _ h => h⟩

theorem quiet_fillBay (s : State) (b : Nat) (e : TlbEnt) : Quiet s (fillBay s b e) := .of_xlt rfl rfl

theorem quiet_fillL2 (s : State) (e : TlbEnt) : Quiet s (fillL2 s e) := .of_xlt rfl rfl

theorem quiet_newFid (s : State) (p ctx cause : Nat) : Quiet s (newFid s p ctx cause).1 := .of_xlt rfl rfl

theorem quiet_logFault (s : State) (p fid va pasid acc port n resp : Nat) :
    Quiet s (logFault s p fid va pasid acc port n resp) := by
  have hptr : NotCmdStat (rXltFlogPtr p) := .inr (by unfold rXltFlogPtr; omega)
  unfold logFault
  extract_lets b ring head next f rec_ s1
  have h1 : Quiet s s1 := quiet_emit s _
  split
  · exact .refl s
  · split
    · exact (quiet_addSat s hptr _ _).trans (quiet_raise _ _ _)
    · exact (h1.trans (quiet_setFld s1 hptr _ _)).trans (quiet_raise _ _ _)

theorem quiet_faultPart (s : State) (ws : List Waiter) (cause pasid port resp : Nat) :
    Quiet s (faultPart s ws cause pasid port resp).1 := by
  cases ws with
  | nil => exact .refl s
  | cons w ws => exact (quiet_newFid s (w.m / 64) (w.m % 64) cause).trans (quiet_logFault _ _ _ _ _ _ _ _ _)

theorem quiet_atsAsk (s : State) (f : Fn) (pasid : Nat) (w : Waiter) : Quiet s (atsAsk s f pasid w) := by
  unfold atsAsk
  extract_lets page x s1
  split
  · exact .of_xlt rfl rfl
  · exact (Quiet.of_xlt rfl rfl : Quiet s s1).trans (quiet_emit s1 _)

theorem quiet_l2Hit {s u : State} {w : Waiter} {inBay : Bool} {e : TlbEnt} (h : l2Hit s w inBay = some (u, e)) :
    Quiet s u := by
  obtain ⟨x, -, hx⟩ := Option.map_eq_some_iff.1 h
  have hu : (if inBay then fillBay (fillL2 s x) w.bay x else fillL2 s x) = u := congrArg Prod.fst hx
  rw [← hu]
  exact .ite ((quiet_fillL2 s x).trans (quiet_fillBay _ _ _)) (quiet_fillL2 s x)

theorem quiet_translate (s : State) (w : Waiter) (inBay : Bool) : Quiet s (translate s w inBay).1 := by
  unfold translate
  split
  · exact quiet_faultPart s _ _ _ _ _
  · split
    · exact quiet_fillBay s _ _
    · extract_lets s0
      have h0 : Quiet s s0 := .ite (quiet_countEv s _ _ _ _) (.refl s)
      split
      · exact h0.trans (quiet_l2Hit ‹_›)
      · exact h0.trans (quiet_atsAsk s0 _ _ w)

/-! ### Writes and additions on behalf of a context -/

theorem quiet_ralErr (s : State) (kind port b2 b3 fab : Nat) : Quiet s (ralErr s kind port b2 b3 fab) :=
  quiet_postErr s _ _ _ _

/-- The answer to a write or an addition of a command changes nothing. -/
theorem finishRemote_command (s : State) (c : Nat) {m : RMsg} (hm : m.typ = 3 ∨ m.typ = 5) (status : Nat) (d : Line)
    (p : BitVec 4) (w : Word) : finishRemote s (.command c) m status d p w = s := by
  obtain h | h := hm <;> simp [finishRemote, h]

theorem quiet_remoteAsk (s : State) (c : Nat) {m : RMsg} (hm : m.typ = 3 ∨ m.typ = 5) :
    Quiet s (remoteAsk s (.command c) m) := by
  have hreq := quiet_remoteReq s (.command c) m
  unfold remoteAsk
  split
  · rename_i t ht
    rwa [ht] at hreq
  · split
    · rw [loseReq, finishRemote_command _ c hm]
      exact quiet_ralErr s _ _ _ _ _
    · rw [finishRemote_command _ c hm]
      exact quiet_addrError s _ _ _

theorem quiet_physWrite (s : State) (m : Nat) (p : Phys) (bs : List Byte) : Quiet s (physWrite s m p bs) := by
  unfold physWrite
  extract_lets be d
  cases p with
  | hbm a => exact quiet_engineOp s _
  | remote f => exact quiet_remoteAsk s m (.inl rfl)
  | host port b x y => exact quiet_emit s _
  | bad a => exact quiet_addrError s _ _ _

theorem quiet_physAdd (s : State) (m : Nat) (p : Phys) (v : Word) : Quiet s (physAdd s m p v) := by
  cases p with
  | hbm a => exact quiet_engineOp s _
  | remote f => exact quiet_remoteAsk s m (.inr rfl)
  | host port b x y => exact quiet_addrError s _ _ _
  | bad a => exact quiet_addrError s _ _ _

/-! ### The end of a task -/

theorem quiet_l1Invalidate (s : State) (c : Nat) : Quiet s (l1Invalidate s c) := by
  refine .of_cmp fun k hk => ?_
  refine (smGet_map (fun e => ?_) _ k).trans ?_
  · split
    · split
      · split <;> rfl
      · rfl
    · rfl
  · rw [hk]
    rfl

theorem quiet_tileFlagFail (s : State) (q fid va : Nat) : Quiet s (tileFlagFail s q fid va) := by
  have hstat : NotCmdStat (rCmpOpqStat (q / 4) (q % 4)) := .inr (by unfold rCmpOpqStat; omega)
  have hfid : NotCmdStat (rCmpOpqFid (q / 4) (q % 4)) := .inr (by unfold rCmpOpqFid; omega)
  have hfva : NotCmdStat (rCmpOpqFva (q / 4) (q % 4)) := .inr (by unfold rCmpOpqFva; omega)
  have herr : Quiet s (tileError s q 1 fid va) :=
    ((quiet_setFld s hstat _ _).trans (quiet_setReg _ hfid _)).trans (quiet_setReg _ hfva _)
  exact herr.trans (quiet_raise _ _ _)

theorem quiet_postOps (m : Nat) (ops : List PostOp) (s : State) : Quiet s (postOps s m ops).1 := by
  induction ops generalizing s with
  | nil => exact .refl s
  | cons op rest ih =>
    cases op with
    | l1 cells => exact (Quiet.foldS cells s _ quiet_l1Invalidate).trans (ih _)
    | bytes va d =>
      have ht := quiet_translate s (postWaiter m va .write) false
      unfold postOps
      split <;> rename_i t _ heq <;> rw [heq] at ht
      · exact (ht.trans (quiet_physWrite t m _ d)).trans (ih _)
      · exact ht
      · exact ht.trans (ih t)
    | add va v =>
      have ht := quiet_translate s (postWaiter m va .update) false
      unfold postOps
      split <;> rename_i t _ heq <;> rw [heq] at ht
      · exact (ht.trans (quiet_physAdd t m _ v)).trans (ih _)
      · exact ht
      · exact ht.trans (ih t)
    | tile q va v =>
      have ht := quiet_translate s (postWaiter m va .update) false
      unfold postOps
      split <;> rename_i t _ heq <;> rw [heq] at ht
      · exact (ht.trans (quiet_physAdd t m _ v)).trans (ih _)
      · exact ht
      · exact (ht.trans (quiet_tileFlagFail t q _ va)).trans (ih _)

theorem quiet_post (s : State) (m : Nat) (ops : List PostOp) : Quiet s (post s m ops) := by
  have hops := quiet_postOps m ops s
  unfold post
  generalize postOps s m ops = q at hops ⊢
  obtain ⟨t, rest⟩ := q
  exact .ite hops (hops.trans (.of_cmp fun _ h => h))

theorem quiet_taskEnd (s : State) (k : Nat) : Quiet s (taskEnd s k) := by
  unfold taskEnd
  split
  · exact .refl s
  · extract_lets m src s1 s2 info
    have h1 : Quiet s s1 := .of_cmp fun _ h => h
    exact (h1.trans (quiet_trace s1 _ _ _ _ _ _ _)).trans (quiet_post s2 m _)

theorem quiet_memberEnd (s : State) (x : Thread) (info : Option FaultInfo) : Quiet s (memberEnd s x info) := by
  unfold memberEnd
  split
  · exact .refl s
  · extract_lets r1 src s1 abort src2 s2
    have h1 : Quiet s s1 := .of_cmp fun _ h => h
    have h2 : Quiet s1 s2 := by
      refine .ite (.of_cmp fun k hk => ?_) (.refl s1)
      rw [smGet_map (f := fun e : Nat × Thread => (e.1, if e.2.task = x.task then { e.2 with ending := some 10 } else e.2))
        (fun _ => rfl), hk]
      rfl
    exact .ite ((h1.trans h2).trans (quiet_taskEnd s2 _)) (h1.trans h2)

end Sys2Proof.Machine
end

section
/-! SUPPORT. A thread whose translation fails ends with fault 3 (R126, R279, R284, R285), and nothing but its own waits leaves the
page requests. -/

namespace Sys2Proof.Machine

open Sys2Proof

/-! ### The end of a thread by a fault -/

theorem Quiet.dropWaiters {s t : State} (h : Quiet s t) (test : Waiter → Bool) :
    Quiet (dropWaiters s test) (dropWaiters t test) where
  pending := h.pending
  prs := congrArg (List.map _) h.prs
  cmds := h.cmds
  stopped := h.stopped
  absent := h.absent
  errored := h.errored

theorem EndsWith.congr {s u v t : State} {k : Nat} {x : Thread} {f : FaultInfo} (h : EndsWith u v k x f) (hs : s.cmp = u.cmp)
    (ht : t.cmp = v.cmp) : EndsWith s t k x f := by
  unfold EndsWith State.thread
  rw [hs, ht]
  exact h

/-- The record of a task after the fault of one of its threads. -/
def TaskRun.afterFault (r : TaskRun) (f : FaultInfo) : TaskRun :=
  { r with live := r.live - 1, abnormal := r.abnormal + 1, fault := r.fault.or (some f) }

/-- The threads of a task are told to end. -/
def abortThreads (l : SMap Thread) (task : Nat) : SMap Thread :=
  l.map (fun e => (e.1, if e.2.task = task then { e.2 with ending := some 10 } else e.2))

theorem smGet_abortThreads (l : SMap Thread) (task k : Nat) :
    smGet (abortThreads l task) k =
      (smGet l k).map (fun y => if y.task = task then { y with ending := some 10 } else y) :=
  smGet_map (f := fun e : Nat × Thread => (e.1, if e.2.task = task then { e.2 with ending := some 10 } else e.2))
    (fun _ => rfl) l k

/-- A member that is not the last of its task ends with a fault: its task counts it, and on request the others are told. -/
theorem cmp_memberEnd {s : State} {x : Thread} {f : FaultInfo} (hf : f.code ≤ 8) {r : TaskRun}
    (hr : smGet s.cmp.tasks x.task = some r) (hl : 1 < r.live) :
    (memberEnd s x (some f)).cmp = { s.cmp with
      tasks := smSet s.cmp.tasks x.task (r.afterFault f)
      thr := if r.desc.abortOnFault = true then abortThreads s.cmp.thr x.task else s.cmp.thr } := by
  have hlive : ¬ r.live - 1 = 0 := by omega
  cases ha : r.desc.abortOnFault <;>
    simp [memberEnd, hr, hlive, hf, ha, b2n, TaskRun.afterFault, abortThreads]

/-- The state without a thread and its waits. -/
def threadGone (s : State) (k : Nat) : State :=
  let s1 := dropThreadWaits { s with cmp := { s.cmp with replies := s.cmp.replies.filter (fun r => r.slot ≠ k) } } k
  { s1 with cmp := { s1.cmp with thr := smDel s1.cmp.thr k }, dbg := { s1.dbg with halted := s1.dbg.halted.erase k } }

theorem cmp_threadGone (s : State) (k : Nat) : (threadGone s k).cmp =
    { s.cmp with replies := s.cmp.replies.filter (fun r => r.slot ≠ k), thr := smDel s.cmp.thr k } := rfl

theorem quiet_threadGone (s : State) (k : Nat) : Quiet (dropWaiters s (fun w => w.who = .thread k)) (threadGone s k) := by
  refine ⟨rfl, rfl, rfl, fun _ => rfl, fun j hj => ?_, fun _ _ h => h⟩
  rw [State.thread, cmp_threadGone, smGet_smDel]
  exact ite_keeps (P := (· = none)) rfl hj

theorem threadEnd_fault {s : State} {k : Nat} {x : Thread} {f : FaultInfo} (hx : s.thread k = some x) (hf : f.code ≤ 8)
    (hbar : ∀ h ∈ s.cel.xbar, h.who ≠ .thread k) :
    threadEnd s k (some f) =
      memberEnd (trace (threadGone s k) 8 f.bay x.part x.ctx f.code f.va f.pc) x (some f) := by
  simp only [threadEnd, hx, drainThread_of_none hbar, hf, if_true, threadGone]

/-- A thread faults: it ends with the fault, and the page requests lose no more than its waits. -/
theorem threadFault_spec {s : State} {k : Nat} {x : Thread} {code va fid word : Nat} (hx : s.thread k = some x)
    (hcode : code ≤ 8) (hbar : ∀ h ∈ s.cel.xbar, h.who ≠ .thread k) :
    EndsWith s (threadFault s k code va fid word) k x (faultOf x k code va fid word) ∧
      Quiet (dropWaiters s (fun w => w.who = .thread k)) (threadFault s k code va fid word) := by
  have hfault : threadFault s k code va fid word = threadEnd s k (some (faultOf x k code va fid word)) := by
    rw [threadFault, hx]
  rw [hfault, threadEnd_fault hx hcode hbar]
  generalize ht : trace (threadGone s k) _ _ _ _ _ _ _ = t
  have hcmp : t.cmp = (threadGone s k).cmp := ht ▸ (trace_spec _ _ _ _ _ _ _ _).1.cmp
  have hquiet : Quiet (dropWaiters s (fun w => w.who = .thread k)) t :=
    (quiet_threadGone s k).trans (ht ▸ quiet_trace _ _ _ _ _ _ _ _)
  rw [cmp_threadGone] at hcmp
  have hmember := quiet_memberEnd t x (some (faultOf x k code va fid word))
  have hgone : t.thread k = none := by rw [State.thread, hcmp, smGet_smDel, if_pos rfl]
  refine ⟨⟨hmember.absent k hgone, fun r hr hl => ?_⟩, hquiet.trans hmember⟩
  have hr' : smGet t.cmp.tasks x.task = some r := by rw [hcmp]; exact hr
  have hend := cmp_memberEnd (f := faultOf x k code va fid word) hcode hr' hl
  refine ⟨?_, fun ha j y hy htask => ?_⟩
  · rw [hend, smGet_smSet, if_pos rfl]
    rfl
  · rw [State.thread, hend, if_pos ha, smGet_abortThreads] at hy
    obtain ⟨z, -, rfl⟩ := Option.map_eq_some_iff.1 hy
    by_cases hz : z.task = x.task
    · rw [if_pos hz]
    · rw [if_neg hz] at htask
      exact absurd htask hz

/-! ### A fault for one waiter -/

/-- A loop over indices that acts at one of them alone. -/
theorem foldl_range_single {σ : Type} {f : σ → Nat → σ} {p : Nat} (hskip : ∀ a q, q ≠ p → f a q = a) {n : Nat}
    (hp : p < n) (a : σ) : (List.range n).foldl f a = f a p := by
  have hlow : ∀ m ≤ p, (List.range m).foldl f a = a := fun m => by
    induction m with
    | zero => intro _; rfl
    | succ m ih =>
      intro hm
      rw [List.range_succ, List.foldl_append, ih (by omega)]
      exact hskip a m (by omega)
  induction n with
  | zero => omega
  | succ n ih =>
    rw [List.range_succ, List.foldl_append]
    by_cases hn : p < n
    · rw [ih hn]
      exact hskip _ n (by omega)
    · rw [hlow n (by omega), show n = p by omega]
      rfl

theorem faultAll_single (s : State) {w : Waiter} (hm : w.m < 1024) (cause pasid port resp : Nat) :
    faultAll s [w] cause pasid port resp = faultPart s [w] cause pasid port resp := by
  unfold faultAll
  rw [foldl_range_single (p := w.m / 64) (n := 16)]
  · simp
  · intro a q hq
    rw [List.filter_cons_of_neg (by simpa using Ne.symm hq)]
    simp [faultPart]
  · omega

/-- The id of a fault (R285): a sequence number, the partition, the context and the cause. -/
def faultId (seq : BitVec 32) (m cause : Nat) : Nat := seq.toNat + 2 ^ 32 * (m / 64) + 2 ^ 36 * (m % 64) + 2 ^ 42 * cause

theorem faultId_cause (seq : BitVec 32) {m : Nat} (hm : m < 1024) (cause : Nat) : faultId seq m cause / 2 ^ 42 = cause := by
  have hseq := seq.isLt
  have hpart : m / 64 < 16 := by omega
  unfold faultId
  omega

theorem faultId_ctx (seq : BitVec 32) {m : Nat} (hm : m < 1024) (cause : Nat) :
    faultId seq m cause / 2 ^ 36 % 64 = m % 64 := by
  have hseq := seq.isLt
  have hlow : seq.toNat + 2 ^ 32 * (m / 64) < 2 ^ 36 := by omega
  have hhigh : faultId seq m cause = seq.toNat + 2 ^ 32 * (m / 64) + 2 ^ 36 * (m % 64 + 64 * cause) := by
    unfold faultId
    omega
  rw [hhigh, Nat.add_mul_div_left _ _ (by decide), Nat.div_eq_of_lt hlow]
  omega

theorem faultId_part (seq : BitVec 32) {m : Nat} (hm : m < 1024) (cause : Nat) :
    faultId seq m cause / 2 ^ 32 % 16 = m / 64 := by
  have hseq := seq.isLt
  have hpart : m / 64 < 16 := by omega
  unfold faultId
  omega

/-- A fault for one waiter: its id, and a state that differs in the sequence number, the fault log and its interrupts. -/
theorem faultPart_single (s : State) (w : Waiter) (cause pasid port resp : Nat) :
    ∃ u seq, faultPart s [w] cause pasid port resp = (u, [(w, faultId seq w.m cause)]) ∧
      Only translatedIn s u ∧ Quiet s u :=
  ⟨_, _, rfl, only_faultPart s [w] cause pasid port resp, quiet_faultPart s [w] cause pasid port resp⟩

/-- A thread waits for the translation of a fetch. -/
structure FetchWaits (s : State) (w : Waiter) (k : Nat) (x : Thread) : Prop where
  who : w.who = .thread k
  ctx : w.m < 1024
  thread : s.thread k = some x
  waits : x.st = .waiting .xlat
  fetch : w.acc = .fetch
  free : ∀ h ∈ s.cel.xbar, h.who ≠ .thread k

theorem FetchWaits.congr {s t : State} {w : Waiter} {k : Nat} {x : Thread} (h : FetchWaits s w k x) (hcmp : t.cmp = s.cmp)
    (hcel : t.cel = s.cel) : FetchWaits t w k x :=
  ⟨h.who, h.ctx, by rw [State.thread, hcmp]; exact h.thread, h.waits, h.fetch, by rw [hcel]; exact h.free⟩

/-- The fault of a thread whose fetch does not translate. -/
def fetchFault (x : Thread) (k va fid : Nat) : FaultInfo :=
  ⟨3, x.idx, x.pc, va, fid, k / 128 / 24, k / 128 % 24, bayOfCell (k / 128), k % 128 / 8, 0⟩

/-- The fault of a thread that waits for a fetch: it ends with fault 3 under an id that names context and cause. -/
theorem failAll_fetch {s : State} {w : Waiter} {k : Nat} {x : Thread} (h : FetchWaits s w k x) (cause pasid port resp : Nat) :
    ∃ v seq, failAll (faultAll s [w] cause pasid port resp) = v ∧
      EndsWith s v k x (fetchFault x k w.va (faultId seq w.m cause)) ∧
      Quiet (dropWaiters s (fun w => w.who = .thread k)) v := by
  obtain ⟨u, seq, hpart, honly, hquiet⟩ := faultPart_single s w cause pasid port resp
  have hcmp : u.cmp = s.cmp := honly.2 .cmp (by decide)
  have hu := h.congr hcmp (honly.2 .cel (by decide))
  have hfail : failAll (faultAll s [w] cause pasid port resp) = threadFault u k 3 w.va (faultId seq w.m cause) 0 := by
    rw [faultAll_single s h.ctx, hpart]
    show fail u w _ = _
    simp [fail, h.who, hu.thread, h.waits, h.fetch]
  obtain ⟨hends, hq⟩ := threadFault_spec (va := w.va) (fid := faultId seq w.m cause) (word := 0) hu.thread
    (by decide : 3 ≤ 8) hu.free
  exact ⟨_, seq, hfail, hends.congr hcmp.symm rfl, (hquiet.dropWaiters _).trans hq⟩

end Sys2Proof.Machine
end

section
/-! SUPPORT. Answers of translation requests (R279, R284, R288). -/

namespace Sys2Proof.Machine

open Sys2Proof

/-! ### Messages of the host -/

theorem hostMsg_of_frozen {s : State} (hon : s.on = true) (hf : s.freeze = 1) (c : Instr) (g : State → State) :
    hostMsg s c g = { s with dbg := { s.dbg with keptInv := s.dbg.keptInv ++ [c] } } := by simp [hostMsg, hon, hf]

theorem thawed_of_freeze {s : State} (h : s.freeze = 0) : s.thawed = true := decide_eq_true h

theorem AtsReq.is_iff {a : AtsReq} {f : Fn} {pasid va : Nat} :
    a.is f pasid va = true ↔ a.f = f ∧ a.pasid = pasid ∧ a.va = va / 4096 * 4096 := by
  simp [AtsReq.is, and_assoc]

/-- The state after a request in flight has left the table. -/
def atsRemoved (s : State) (f : Fn) (pasid va : Nat) : State := withAts s (s.xlt.ats.filter (fun b => !b.is f pasid va))

theorem atsEnd_of_find {s : State} {f : Fn} {pasid va : Nat} {a : AtsReq}
    (h : s.xlt.ats.find? (fun b => b.is f pasid va) = some a) (k : State → AtsReq → State) :
    atsEnd s f pasid va k = k (atsRemoved s f pasid va) a := by
  rw [atsEnd, h]
  rfl

/-! ### TLB entries -/

theorem tlbInsert_head (sets : Nat) {ways : Nat} (hways : 0 < ways) (l : List TlbEnt) (e : TlbEnt) :
    ∃ l', (tlbInsert sets ways l e).1 = e :: l' := by
  unfold tlbInsert
  extract_lets l1 same
  have hsame : same = e :: (l.filter (· ≠ e)).filter (fun x => tlbSet sets x = tlbSet sets e) := by
    simp [same, l1]
  split
  · exact ⟨_, rfl⟩
  rename_i hfull
  split
  · exact ⟨_, rfl⟩
  rename_i v hv
  have hne : v ≠ e := by
    rintro rfl
    generalize htail : (l.filter (· ≠ v)).filter (fun x => tlbSet sets x = tlbSet sets v) = tail at hsame
    cases tail with
    | nil =>
      rw [hsame] at hfull
      simp at hfull
      omega
    | cons x xs =>
      rw [hsame, List.getLast?_cons_cons] at hv
      have hmem : v ∈ x :: xs := List.mem_of_getLast? hv
      rw [← htail] at hmem
      simp at hmem
  exact ⟨(l.filter (· ≠ e)).filter (· ≠ v), by simp [l1, Ne.symm hne]⟩

theorem tlbFind_tlbInsert (sets : Nat) {ways : Nat} (hways : 0 < ways) (l : List TlbEnt) {e : TlbEnt} {m va : Nat} {acc : Acc}
    (hc : e.covers m va = true) (hu : e.usable acc = true) : tlbFind (tlbInsert sets ways l e).1 m va acc = some e := by
  obtain ⟨l', hl⟩ := tlbInsert_head sets hways l e
  rw [hl, tlbFind, List.find?_cons_of_pos (by rw [hc, hu]; rfl)]

theorem covers_entryOf (m va : Nat) (c : AtsCpl) : (entryOf m va c).covers m va = true := by
  unfold entryOf
  extract_lets z size base j span v
  have hspan : 0 < span := Nat.two_pow_pos _
  have hv : va / span = v / span := (Nat.mul_div_cancel _ hspan).symm
  simp only [TlbEnt.covers, Bool.and_eq_true, decide_eq_true_eq]
  exact ⟨by omega, hv⟩

theorem bayTlb_fillBay (s : State) (b : Nat) (e : TlbEnt) :
    (fillBay s b e).bayTlb b = (tlbInsert 128 8 (s.bayTlb b) e).1 := by
  simp [State.bayTlb, fillBay, smGetD_eq]

/-! ### Waiters that go on -/

theorem only_fillFor (s : State) (w : Waiter) (c : AtsCpl) : Only [.xlt] s (fillFor s w c) :=
  ite_keeps (P := Only [.xlt] s) ((only_fillL2 s _).trans (only_fillBay _ _ _)) (only_fillL2 s _)

theorem ats_fillFor (s : State) (w : Waiter) (c : AtsCpl) : (fillFor s w c).xlt.ats = s.xlt.ats :=
  ite_keeps (P := fun t : State => t.xlt.ats = s.xlt.ats) rfl rfl

theorem tlbFind_fillFor (s : State) {w : Waiter} {c : AtsCpl} (hw : w.who.inBay = true) (hu : cplUsable c w = true) :
    tlbFind (fillFor s w c).xlt.l2 w.m w.va w.acc = some (entryOf w.m w.va c) ∧
      tlbFind ((fillFor s w c).bayTlb w.bay) w.m w.va w.acc = some (entryOf w.m w.va c) := by
  have hfill : fillFor s w c = fillBay (fillL2 s (entryOf w.m w.va c)) w.bay (entryOf w.m w.va c) := if_pos hw
  rw [hfill, bayTlb_fillBay]
  exact ⟨tlbFind_tlbInsert 2048 (by decide) _ (covers_entryOf _ _ c) hu,
    tlbFind_tlbInsert 128 (by decide) _ (covers_entryOf _ _ c) hu⟩

/-- A thread that waits for a translation is ready; another is as it was. -/
def Thread.woken (x : Thread) : Thread :=
  match x.st with
  | .waiting .xlat => { x with st := .ready }
  | _ => x

theorem wake_thread (s : State) {w : Waiter} {k : Nat} (h : w.who = .thread k) : wake s w = updThread s k Thread.woken := by
  rw [wake, h]
  rfl

theorem Thread.woken_of_waiting {x : Thread} (h : x.st = .waiting .xlat) : x.woken = { x with st := .ready } := by
  rw [Thread.woken, h]

theorem Thread.woken_of_not_waiting {x : Thread} (h : x.st ≠ .waiting .xlat) : x.woken = x := by
  unfold Thread.woken
  split
  · exact absurd ‹_› h
  · rfl

theorem Thread.woken_woken (x : Thread) : x.woken.woken = x.woken := by
  refine Thread.woken_of_not_waiting ?_
  by_cases h : x.st = .waiting .xlat
  · rw [Thread.woken_of_waiting h]
    simp
  · rwa [Thread.woken_of_not_waiting h]

theorem only_updThread (s : State) (k : Nat) (f : Thread → Thread) : Only [.cmp] s (updThread s k f) := by
  unfold updThread
  split
  · exact .refl _ s
  · exact only_cmp s _

section
variable {ws : List Waiter} (hws : ∀ w ∈ ws, ∃ j, w.who = .thread j)
include hws

theorem only_foldS_wake (s : State) : Only [.cmp] s (foldS ws s wake) := by
  induction ws generalizing s with
  | nil => exact .refl _ s
  | cons w ws ih =>
    obtain ⟨j, hj⟩ := hws w List.mem_cons_self
    have hw : Only [.cmp] s (wake s w) := by
      rw [wake_thread s hj]
      exact only_updThread s j _
    exact hw.trans (ih (fun v hv => hws v (List.mem_cons_of_mem _ hv)) _)

/-- A thread after waiters have been woken: as it was, or woken if one of them is its wait. -/
theorem thread_foldS_wake {s : State} {k : Nat} {x : Thread} (hx : s.thread k = some x) :
    (foldS ws s wake).thread k = some (if ∃ w ∈ ws, w.who = .thread k then x.woken else x) := by
  induction ws generalizing s x with
  | nil => simpa using hx
  | cons w ws ih =>
    obtain ⟨j, hj⟩ := hws w List.mem_cons_self
    have hstep : (wake s w).thread k = some (if w.who = .thread k then x.woken else x) := by
      rw [wake_thread s hj, updThread_thread, hj]
      by_cases hjk : j = k
      · simp [hjk, hx]
      · simp [hjk, Ne.symm hjk, hx]
    refine (ih (fun v hv => hws v (List.mem_cons_of_mem _ hv)) hstep).trans (congrArg some ?_)
    by_cases hw : w.who = .thread k <;> simp [hw, Thread.woken_woken]

end

/-! ### No waiter whose page is not usable -/

theorem faultAll_nil (s : State) (cause pasid port resp : Nat) : faultAll s [] cause pasid port resp = (s, []) :=
  List.foldl_fixed' (fun _ => rfl) _

theorem notUsable_nil (s : State) (f : Fn) (pasid page : Nat) : notUsable s f pasid page [] = (s, []) :=
  ite_keeps (P := (· = (s, []))) (faultAll_nil s _ _ _ _) (List.foldl_fixed' (fun _ => rfl) _)

theorem unusable_nil (s : State) (f : Fn) (pasid page : Nat) : unusable s f pasid page [] = s := by
  show failAll (notUsable s f pasid page []) = s
  rw [notUsable_nil]
  rfl

/-- Every page of an answer is usable: the TLBs take it and the waiters go on. -/
theorem atsAnswer_usable (s : State) {a : AtsReq} {c : AtsCpl} (hc : c.status = 0)
    (hu : ∀ w ∈ a.waiters, cplUsable c w = true) :
    atsAnswer s a c = foldS a.waiters (foldS a.waiters s (fun t w => fillFor t w c)) wake := by
  have hgood : a.waiters.filter (cplUsable c) = a.waiters := List.filter_eq_self.2 hu
  have hbad : a.waiters.filter (fun w => !cplUsable c w) = [] := by
    rw [List.filter_eq_nil_iff]
    intro w hw
    simp [hu w hw]
  simp only [atsAnswer, hc, ne_eq, not_true_eq_false, if_false, hgood, hbad, unusable_nil]

/-- A thread whose page is not usable asks for it, if its request is not in the table. -/
theorem atsAnswer_unusable (s : State) {a : AtsReq} {c : AtsCpl} {w : Waiter} {k : Nat} (hc : c.status = 0)
    (hw : a.waiters = [w]) (hk : w.who = .thread k) (hm : w.m < 1024) (hu : cplUsable c w = false) (hsucc : w.succ < 4)
    (hrun : (s.fn a.f).stopped = false)
    (hnew : ∀ r ∈ s.xlt.prs, ¬ (r.part = w.m / 64 ∧ r.pasid = a.pasid ∧ r.va = a.va)) :
    atsAnswer s a c = { s with xlt := { s.xlt with
      prs := s.xlt.prs ++ [⟨w.m / 64, a.f, a.pasid, a.va, none, [w], w.succ, false⟩] } } := by
  have hask : pageAsk s a.f a.pasid a.va [w] = { s with xlt := { s.xlt with
      prs := s.xlt.prs ++ [⟨w.m / 64, a.f, a.pasid, a.va, none, [w], w.succ, false⟩] } } := by
    have hno : ¬ (s.xlt.prs.any (fun r =>
        decide (r.part = w.m / 64 ∧ r.pasid = a.pasid ∧ r.va = a.va ∧ ¬ r.timedOut = true)) = true) := by
      rw [List.any_eq_true]
      rintro ⟨r, hr, hb⟩
      obtain ⟨hp, hq, hv, -⟩ := of_decide_eq_true hb
      exact hnew r hr ⟨hp, hq, hv⟩
    simp only [pageAsk, if_neg hno]
    simp
  have hsolo : notUsable s a.f a.pasid a.va [w] = (pageAsk s a.f a.pasid a.va [w], []) := by
    rw [notUsable, if_neg (by simp [hrun])]
    rw [foldl_range_single (p := w.m / 64) (n := 16)]
    · simp [hsucc]
    · intro b q hq
      rw [List.filter_cons_of_neg (by simpa using Ne.symm hq)]
      simp [pageAsk]
    · omega
  have hskip : unusable s a.f a.pasid a.va [w] = failAll (notUsable s a.f a.pasid a.va [w]) := by
    simp [unusable, hk]
  have hgood : [w].filter (cplUsable c) = [] := by simp [hu]
  have hbad : [w].filter (fun v => !cplUsable c v) = [w] := by simp [hu]
  simp only [atsAnswer, hc, hw, ne_eq, not_true_eq_false, if_false, hgood, hbad]
  show unusable s a.f a.pasid a.va [w] = _
  rw [hskip, hsolo, ← hask]
  rfl

end Sys2Proof.Machine
end

section
/-! SUPPORT. Page requests (R281 to R283): the request that goes out and its group, the answers, the timeout and the reset. -/

namespace Sys2Proof.Machine

open Sys2Proof

/-! ### What the trace adds to the outputs -/

/-- The outputs of one state go on from those of another. -/
def OutsGrow (s t : State) : Prop := ∃ l, t.out = s.out ++ l

namespace OutsGrow

variable {s t u : State}

theorem of_eq (h : t.out = s.out) : OutsGrow s t := ⟨[], by simpa using h⟩

theorem trans (h : OutsGrow s t) (h' : OutsGrow t u) : OutsGrow s u := by
  obtain ⟨l, hl⟩ := h
  obtain ⟨l', hl'⟩ := h'
  exact ⟨l ++ l', by rw [hl', hl, List.append_assoc]⟩

theorem ite {c : Prop} [Decidable c] (ha : OutsGrow s t) (hb : OutsGrow s u) : OutsGrow s (if c then t else u) :=
  ite_keeps (P := OutsGrow s) ha hb

end OutsGrow

theorem outsGrow_emit (s : State) (o : Out) : OutsGrow s (s.emit o) := ⟨[o], rfl⟩

theorem outsGrow_sendMsix (s : State) (f : Fn) (v : Nat) : OutsGrow s (sendMsix s f v) :=
  .ite (.of_eq rfl) (.ite (.of_eq rfl) (outsGrow_emit s _))

theorem outsGrow_msixOwner (s : State) (v : Nat) : OutsGrow s (msixOwner s v) := by
  unfold msixOwner
  split
  · exact .of_eq rfl
  · exact outsGrow_sendMsix s _ v

theorem outsGrow_msixPart (s : State) (p v : Nat) : OutsGrow s (msixPart s p v) :=
  foldS_keeps (P := OutsGrow s) _ _ (fun u f hu => hu.trans (outsGrow_sendMsix u f _)) (.of_eq rfl)

theorem outsGrow_msixBay (s : State) (b v : Nat) : OutsGrow s (msixBay s b v) := by
  unfold msixBay
  split
  · exact outsGrow_msixPart s _ v
  · exact outsGrow_msixOwner s 10

theorem outsGrow_signal (s : State) (r : RegRow) (k : Nat) : OutsGrow s (signal s r k) := by
  unfold signal
  repeat' apply OutsGrow.ite
  all_goals apply_rules [outsGrow_msixOwner, outsGrow_msixPart, outsGrow_msixBay]

theorem outsGrow_raise (s : State) (o : Nat) (f : Fld) : OutsGrow s (raise s o f) := by
  have hset : OutsGrow s (s.setReg o (s.reg o ||| f.mask)) := .of_eq rfl
  unfold raise raiseMask
  dsimp only
  split
  · exact hset
  · split
    · exact hset
    · exact .ite (hset.trans (outsGrow_signal _ _ _)) hset

theorem outsGrow_traceFlush (s : State) : OutsGrow s (traceFlush s) := by
  unfold traceFlush
  extract_lets cfg ws a f q sl key line gone src s1 s2
  have h2 : OutsGrow s s2 := .ite (.of_eq rfl) (.of_eq rfl)
  exact .ite (.ite ((h2.trans (.of_eq rfl : OutsGrow s2 (s2.setFld rDbgTraceStat fDbgTraceStatFull 1))).trans
    (outsGrow_raise _ _ _)) (h2.trans (.of_eq rfl))) h2

theorem outsGrow_trace (s : State) (k bay part ctx arg32 addr arg64 : Nat) :
    OutsGrow s (trace s k bay part ctx arg32 addr arg64) := by
  unfold trace
  extract_lets cfg hide r s1 src s2
  have h2 : OutsGrow s s2 := .of_eq rfl
  exact .ite (.ite (h2.trans (outsGrow_traceFlush s2)) h2) (.of_eq rfl)

/-! ### The oldest request goes out -/

/-- The state with other page requests. -/
def withPrs (s : State) (l : List PageReq) : State := { s with xlt := { s.xlt with prs := l } }

theorem only_withPrs (s : State) (l : List PageReq) : Only [.xlt] s (withPrs s l) := only_xlt s _

/-- The groups in use on a function. -/
def State.usedGroups (s : State) (f : Fn) : List Nat := s.xlt.prs.filterMap (fun r => if r.f = f then r.group else none)

theorem mem_usedGroups {s : State} {f : Fn} {g : Nat} :
    g ∈ s.usedGroups f ↔ ∃ q ∈ s.xlt.prs, q.f = f ∧ q.group = some g := by
  simp [State.usedGroups]

/-- Some index up to the length of a list is not in the list. -/
theorem exists_not_mem_of_length (l : List Nat) : ∃ g ∈ List.range (l.length + 1), g ∉ l := by
  by_contra h
  push Not at h
  have hle := (List.subperm_of_subset List.nodup_range h).length_le
  simp at hle

theorem freeGroup_spec (s : State) (f : Fn) :
    s.freeGroup f ∉ s.usedGroups f ∧ ∀ j, j < s.freeGroup f → j ∈ s.usedGroups f := by
  have hfree : s.freeGroup f = ((List.range ((s.usedGroups f).length + 1)).find?
      (fun g => !(s.usedGroups f).contains g)).getD 0 := rfl
  rw [hfree]
  cases hg : (List.range ((s.usedGroups f).length + 1)).find? (fun g => !(s.usedGroups f).contains g) with
  | none =>
    obtain ⟨g, hmem, hno⟩ := exists_not_mem_of_length (s.usedGroups f)
    exact absurd (List.find?_eq_none.1 hg g hmem) (by simpa using hno)
  | some g =>
    obtain ⟨hno, -, hlow⟩ := List.find?_range_eq_some.1 hg
    exact ⟨by simpa using hno, fun j hj => by simpa using hlow j hj⟩

/-- The oldest request of a function that is not sent, in the first 1,024 of the table. -/
theorem findIdx_oldest {f : Fn} {r : PageReq} {l l' : List PageReq} (hlen : l.length < 1024) (hf : r.f = f)
    (hg : r.group = none) (ht : r.timedOut = false) (hold : ∀ q ∈ l, q.f = f → q.group = none → q.timedOut = true) :
    ((l ++ r :: l').take 1024).findIdx? (fun r => r.f = f ∧ r.group = none ∧ ¬ r.timedOut) = some l.length := by
  obtain ⟨n, hn⟩ : ∃ n, 1024 - l.length = n + 1 := ⟨1024 - l.length - 1, by omega⟩
  have hnone : l.findIdx? (fun r => decide (r.f = f ∧ r.group = none ∧ ¬ r.timedOut = true)) = none := by
    rw [List.findIdx?_eq_none_iff]
    intro q hq
    simp only [decide_eq_false_iff_not]
    rintro ⟨h1, h2, h3⟩
    exact h3 (hold q hq h1 h2)
  rw [List.take_append, List.take_of_length_le (by omega), hn, List.take_succ_cons, List.findIdx?_append, hnone,
    List.findIdx?_cons]
  simp [hf, hg, ht]

/-- A page request is sent, counted and traced. -/
theorem pageGoes_spec (s : State) (l : List PageReq) (o : Out) (part ctx g va pasid : Nat) :
    let v := trace (countEv ((withPrs s l).emit o) 9 0xFF part 1) 6 0xFF part ctx g va pasid
    Only (.xlt :: tracedIn) s v ∧ v.xlt.prs = l ∧ ∃ out, v.out = s.out ++ o :: out := by
  have hcount := (countEv_spec ((withPrs s l).emit o) 9 0xFF part 1).1
  have honly : Only (.xlt :: tracedIn) s (countEv ((withPrs s l).emit o) 9 0xFF part 1) :=
    ((only_withPrs s l).mono (by decide)).trans (((only_emit _ o).mono (by decide)).trans
      ((only_countEv _ 9 0xFF part 1).mono (by decide)))
  have hxlt := congrArg State.xlt hcount
  have hout := congrArg State.out hcount
  generalize countEv ((withPrs s l).emit o) 9 0xFF part 1 = u at honly hxlt hout ⊢
  obtain ⟨out, htrace⟩ := outsGrow_trace u 6 0xFF part ctx g va pasid
  refine ⟨honly.trans ((only_trace u _ _ _ _ _ _ _).mono (by decide)), ?_, out, ?_⟩
  · rw [(trace_spec u _ _ _ _ _ _ _).1.xlt, hxlt]
    rfl
  · rw [htrace, hout]
    exact List.append_assoc _ _ _

theorem pageSend_spec {s : State} {f : Fn} {r : PageReq} {l l' : List PageReq} (hrun : (s.fn f).stopped = false)
    (halloc : s.prSent f < (s.fn f).alloc) (hprs : s.xlt.prs = l ++ r :: l') (hlen : l.length < 1024) (hf : r.f = f)
    (hg : r.group = none) (ht : r.timedOut = false) (hold : ∀ q ∈ l, q.f = f → q.group = none → q.timedOut = true) :
    Only (.xlt :: tracedIn) s (pageSend s f) ∧
      (pageSend s f).xlt.prs = l ++ { r with group := some (s.freeGroup f) } :: l' ∧
      ∃ out w x, (pageSend s f).out = s.out ++ .pageReq f r.pasid r.va (s.freeGroup f) w x :: out := by
  have hfind := findIdx_oldest (l' := l') hlen hf hg ht hold
  rw [← hprs] at hfind
  have hget : s.xlt.prs[l.length]? = some r := by rw [hprs]; simp
  have hgo : ¬ ((s.fn f).stopped = true ∨ (s.fn f).alloc ≤ s.prSent f) := by simp [hrun, halloc]
  have hset : s.xlt.prs.set l.length { r with group := some (s.freeGroup f) } =
      l ++ { r with group := some (s.freeGroup f) } :: l' := by rw [hprs]; simp
  unfold pageSend
  dsimp only
  rw [if_neg hgo, hfind]
  dsimp only
  rw [hget]
  dsimp only
  rw [hset]
  obtain ⟨honly, hxlt, out, hout⟩ := pageGoes_spec s (l ++ { r with group := some (s.freeGroup f) } :: l')
    (.pageReq f r.pasid r.va (s.freeGroup f) (r.waiters.any (fun w => w.acc = .write ∨ w.acc = .update))
      (r.waiters.any (fun w => w.acc = .fetch))) r.part ((r.waiters.head?.map (fun w => w.m % 64)).getD 0xFF)
    (s.freeGroup f) r.va r.pasid
  exact ⟨honly, hxlt, out, _, _, hout⟩

/-! ### Answers to a group -/

/-- The state after the request under a group has left the table. -/
def groupRemoved (s : State) (f : Fn) (g : Nat) : State :=
  withPrs s (s.xlt.prs.filter (fun x => ¬ (x.f = f ∧ x.group = some g)))

theorem only_groupRemoved (s : State) (f : Fn) (g : Nat) : Only [.xlt] s (groupRemoved s f g) := only_withPrs s _

theorem groupEnd_of_find {s : State} {f : Fn} {g code : Nat} {r : PageReq} {k : State → PageReq → State × Nat}
    (h : s.xlt.prs.find? (fun r => r.f = f ∧ r.group = some g) = some r) (ht : r.timedOut = false) :
    ∃ ctx fid, groupEnd s f g code k = trace (k (groupRemoved s f g) r).1 7 0xFF r.part ctx code r.va fid := by
  unfold groupEnd
  rw [h]
  simp only [ht, Bool.false_eq_true, if_false]
  exact ⟨_, _, rfl⟩

/-- No request of the function has the group. -/
def NoGroup (f : Fn) (g : Nat) (l : List PageReq) : Prop := ∀ q ∈ l, ¬ (q.f = f ∧ q.group = some g)

theorem noGroup_groupRemoved (s : State) (f : Fn) (g : Nat) : NoGroup f g (groupRemoved s f g).xlt.prs :=
  fun _ hq => of_decide_eq_true (List.mem_filter.1 hq).2

theorem prs_dropWaiters (s : State) (test : Waiter → Bool) : (dropWaiters s test).xlt.prs =
    s.xlt.prs.map (fun r => { r with waiters := r.waiters.filter (fun w => !test w) }) := rfl

theorem NoGroup.dropWaiters {s : State} {f : Fn} {g : Nat} (h : NoGroup f g s.xlt.prs) (test : Waiter → Bool) :
    NoGroup f g (dropWaiters s test).xlt.prs := fun q hq => by
  rw [prs_dropWaiters] at hq
  obtain ⟨r, hr, rfl⟩ := List.mem_map.1 hq
  exact h r hr

/-- Success for one waiter that the second-level TLB still misses: its translation request is sent again. -/
theorem retryWaiter_asks {s : State} {w : Waiter} {h : Fn} {pasid : Nat} (hx : s.canXlate w.m = some (h, pasid))
    (hmiss : tlbFind s.xlt.l2 w.m w.va w.acc = none) : retryWaiter s w = atsAsk s h pasid w := by
  simp only [retryWaiter, hx, l2Hit, hmiss, Option.map_none]

theorem atsAsk_new {s : State} {f : Fn} {pasid : Nat} {w : Waiter}
    (hnew : ∀ a ∈ s.xlt.ats, ¬ (a.f = f ∧ a.pasid = pasid ∧ a.va = w.va / 4096 * 4096)) :
    (atsAsk s f pasid w).xlt = { s.xlt with ats := s.xlt.ats ++ [⟨f, pasid, w.va / 4096 * 4096, [w], false⟩] } ∧
      Only [.xlt, .out] s (atsAsk s f pasid w) := by
  have hno : ¬ (s.xlt.ats.any (fun a => decide (a.f = f ∧ a.pasid = pasid ∧ a.va = w.va / 4096 * 4096)) = true) := by
    rw [List.any_eq_true]
    rintro ⟨a, ha, hb⟩
    exact hnew a ha (of_decide_eq_true hb)
  unfold atsAsk
  dsimp only
  rw [if_neg hno]
  exact ⟨rfl, ((only_xlt s _).mono (by decide)).trans ((only_emit _ _).mono (by decide))⟩

/-- The group fails with a cause: its one waiter, the fetch of a thread, ends with fault 3. -/
theorem failGroup_fetch {s : State} {r : PageReq} {w : Waiter} {k : Nat} {x : Thread} (hw : r.waiters = [w])
    (h : FetchWaits s w k x) (cause resp : Nat) :
    ∃ v seq, (failGroup s r cause resp).1 = v ∧ EndsWith s v k x (fetchFault x k w.va (faultId seq w.m cause)) ∧
      Quiet (dropWaiters s (fun w => w.who = .thread k)) v := by
  obtain ⟨v, seq, hv, hspec⟩ := failAll_fetch h cause r.pasid r.f.port resp
  exact ⟨v, seq, by rw [← hv, failGroup, hw], hspec⟩

/-- A state that differs in the page requests and the functions ends the wait of a fetch as the state itself does. -/
theorem groupEnd_fails {s u : State} {f : Fn} {g code cause resp : Nat} {r : PageReq} {w : Waiter} {k : Nat} {x : Thread}
    (hfind : s.xlt.prs.find? (fun r => r.f = f ∧ r.group = some g) = some r) (ht : r.timedOut = false)
    (hw : r.waiters = [w]) (h : FetchWaits s w k x) {change : State → State}
    (hu : change (groupRemoved s f g) = u) (honly : Only [.xlt, .fns] s u)
    (hgroup : NoGroup f g u.xlt.prs) :
    ∃ v seq, groupEnd s f g code (fun t r => failGroup (change t) r cause resp) = v ∧
      EndsWith s v k x (fetchFault x k w.va (faultId seq w.m cause)) ∧ NoGroup f g v.xlt.prs ∧
      ∀ h, (v.fn h).stopped = (u.fn h).stopped := by
  obtain ⟨ctx, fid, hend⟩ := groupEnd_of_find (code := code) (k := fun t r => failGroup (change t) r cause resp) hfind ht
  have hcmp : u.cmp = s.cmp := honly.2 .cmp (by decide)
  obtain ⟨v, seq, hv, hends, hquiet⟩ := failGroup_fetch hw (h.congr hcmp (honly.2 .cel (by decide))) cause resp
  have htrace := quiet_trace v 7 0xFF r.part ctx code r.va fid
  refine ⟨_, seq, hend, ?_, ?_, fun j => ?_⟩ <;> rw [hu, hv]
  · exact hends.congr hcmp.symm (trace_spec v _ _ _ _ _ _ _).1.cmp
  · rw [htrace.prs, hquiet.prs]
    exact hgroup.dropWaiters _
  · exact (htrace.stopped j).trans (hquiet.stopped j)

/-! ### The timeout and the reset -/

theorem priReset_others (f : Fn) (l : List PageReq) :
    ((l.filter (fun r => ¬ (r.f = f ∧ r.timedOut))).map (fun r => if r.f = f then { r with group := none } else r)).filter
      (fun q => q.f ≠ f) = l.filter (fun q => q.f ≠ f) := by
  induction l with
  | nil => rfl
  | cons r l ih =>
    by_cases hf : r.f = f
    · cases ht : r.timedOut <;> simp_all
    · simp_all

theorem priReset_own {f : Fn} {l : List PageReq} {q : PageReq}
    (hq : q ∈ (l.filter (fun r => ¬ (r.f = f ∧ r.timedOut))).map
      (fun r => if r.f = f then { r with group := none } else r))
    (hf : q.f = f) : q.group = none ∧ q.timedOut = false := by
  obtain ⟨r, hr, rfl⟩ := List.mem_map.1 hq
  have hkeep := of_decide_eq_true (List.mem_filter.1 hr).2
  by_cases hrf : r.f = f
  · rw [if_pos hrf]
    exact ⟨rfl, by simpa [hrf] using hkeep⟩
  · rw [if_neg hrf] at hf
    exact absurd hf hrf

/-- A request that has timed out stays without waiters under its group. -/
theorem find_timedOut {f : Fn} {g : Nat} {l : List PageReq} {r : PageReq}
    (h : l.find? (fun r => r.f = f ∧ r.group = some g) = some r) (ht : r.timedOut = false) :
    ∃ i, l.findIdx? (fun r => r.f = f ∧ r.group = some g ∧ ¬ r.timedOut) = some i ∧ l[i]? = some r ∧
      ∀ test : Waiter → Bool, ((l.set i { r with waiters := [], timedOut := true }).map
          (fun r => { r with waiters := r.waiters.filter (fun w => !test w) })).find? (fun r => r.f = f ∧ r.group = some g) =
        some { r with waiters := [], timedOut := true } := by
  obtain ⟨hr, l1, l2, rfl, hl⟩ := List.find?_eq_some_iff_append.1 h
  obtain ⟨hf, hg⟩ := of_decide_eq_true hr
  refine ⟨l1.length, ?_, by simp, fun test => ?_⟩
  · have hnone : l1.findIdx? (fun r => decide (r.f = f ∧ r.group = some g ∧ ¬ r.timedOut = true)) = none := by
      rw [List.findIdx?_eq_none_iff]
      intro q hq
      simp only [decide_eq_false_iff_not]
      rintro ⟨h1, h2, -⟩
      have := hl q hq
      simp [h1, h2] at this
    rw [List.findIdx?_append, hnone, List.findIdx?_cons]
    simp [hf, hg, ht]
  · have hnone : (l1.map (fun r => { r with waiters := r.waiters.filter (fun w => !test w) })).find?
        (fun r => decide (r.f = f ∧ r.group = some g)) = none := by
      rw [List.find?_eq_none]
      intro q hq
      obtain ⟨y, hy, rfl⟩ := List.mem_map.1 hq
      simpa [imp_iff_not_or] using hl y hy
    have hset : (l1 ++ r :: l2).set l1.length { r with waiters := [], timedOut := true } =
        l1 ++ { r with waiters := [], timedOut := true } :: l2 := by simp
    rw [hset, List.map_append, List.find?_append, hnone, List.map_cons, List.find?_cons_of_pos (by simp [hf, hg])]
    simp

theorem priTimeout_fails {s : State} {f : Fn} {g : Nat} {r : PageReq} {w : Waiter} {k : Nat} {x : Thread}
    (hfind : s.xlt.prs.find? (fun r => r.f = f ∧ r.group = some g) = some r) (ht : r.timedOut = false)
    (hw : r.waiters = [w]) (h : FetchWaits s w k x) (hthaw : s.thawed = true) (hon : s.fld rXltCfg fXltCfgPriTimeout ≠ 0) :
    ∃ v seq, exec (.priTimeout f g) s = .next v ∧ EndsWith s v k x (fetchFault x k w.va (faultId seq w.m 6)) ∧
      v.xlt.prs.find? (fun r => r.f = f ∧ r.group = some g) = some { r with waiters := [], timedOut := true } := by
  obtain ⟨i, hidx, hget, hkept⟩ := find_timedOut hfind ht
  have honly := only_withPrs s (s.xlt.prs.set i { r with waiters := [], timedOut := true })
  have hcmp : (withPrs s (s.xlt.prs.set i { r with waiters := [], timedOut := true })).cmp = s.cmp := rfl
  obtain ⟨v, seq, hv, hends, hquiet⟩ := failGroup_fetch hw (h.congr hcmp rfl) 6 0xFF
  refine ⟨v, seq, ?_, hends.congr rfl rfl, ?_⟩
  · show execPriTimeout f g s = _
    have hgo : ¬ (s.fld rXltCfg fXltCfgPriTimeout = 0 ∨ ¬ s.thawed = true) := by simp [hon, hthaw]
    unfold execPriTimeout
    rw [if_neg hgo, hidx]
    dsimp only
    rw [hget]
    exact congrArg Host.Outcome.next hv
  · rw [hquiet.prs, prs_dropWaiters]
    exact hkept _

end Sys2Proof.Machine
end

section
/-! TranslationsAndPageRequests. -/

namespace Sys2Proof.Machine

open Sys2Proof

/-! ### Answers of translation requests, a case at a time -/

section
variable {s : State} {f : Fn} {pasid va : Nat} {a : AtsReq} (hon : s.on = true) (hfr : s.freeze = 0)
  (ha : s.xlt.ats.find? (fun b => b.is f pasid va) = some a)
include hon hfr ha

theorem exec_atsCompletion (c : AtsCpl) : exec (.atsCompletion f pasid va c) s =
    .next (if a.stale then foldS a.waiters (atsRemoved s f pasid va) (fun u w => atsAsk u f pasid w)
      else atsAnswer (atsRemoved s f pasid va) a c) := by
  show Host.Outcome.next (hostMsg s _ _) = _
  rw [hostMsg_of_thawed hon hfr, atsDone, atsEnd_of_find ha]

omit hon in
theorem exec_atsCompletionTimeout : exec (.atsCompletionTimeout f pasid va) s =
    .next (failAll (faultAll (atsRemoved s f pasid va) a.waiters 1 pasid f.port 0xFF)) := by
  show execAtsCompletionTimeout f pasid va s = _
  rw [execAtsCompletionTimeout, if_neg (by simp [thawed_of_freeze hfr]), atsEnd_of_find ha]

theorem atsCompletion_usable {c : AtsCpl} (hstale : a.stale = false) (hc : c.status = 0)
    (hws : ∀ w ∈ a.waiters, cplUsable c w = true ∧
      ∃ k x, w.who = .thread k ∧ s.thread k = some x ∧ x.st = .waiting .xlat) :
    Acts (.atsCompletion f pasid va c) s [.cmp, .xlt] (fun v =>
      v.xlt.ats = s.xlt.ats.filter (fun b => !b.is f pasid va) ∧
      (∀ w ∈ a.waiters, ∀ k x, w.who = .thread k → s.thread k = some x → v.thread k = some { x with st := .ready }) ∧
      ∀ w, a.waiters = [w] → tlbFind v.xlt.l2 w.m w.va w.acc = some (entryOf w.m w.va c) ∧
        tlbFind (v.bayTlb w.bay) w.m w.va w.acc = some (entryOf w.m w.va c)) := by
  have hthreads : ∀ w ∈ a.waiters, ∃ j, w.who = .thread j := fun w hw => by
    obtain ⟨-, k, x, hk, -⟩ := hws w hw
    exact ⟨k, hk⟩
  have hexec := exec_atsCompletion hon hfr ha c
  rw [hstale, if_neg (by decide), atsAnswer_usable _ hc (fun w hw => (hws w hw).1)] at hexec
  generalize hu : foldS a.waiters (atsRemoved s f pasid va) (fun t w => fillFor t w c) = u at hexec
  have hfill : Only [.xlt] (atsRemoved s f pasid va) u :=
    hu ▸ Only.foldS _ _ _ (fun t w => only_fillFor t w c)
  have hats : u.xlt.ats = (atsRemoved s f pasid va).xlt.ats :=
    hu ▸ foldS_keeps (P := fun t : State => t.xlt.ats = (atsRemoved s f pasid va).xlt.ats) _ _
      (fun t w ht => (ats_fillFor t w c).trans ht) rfl
  have honly : Only [.xlt] s u := (only_withAts s _).trans hfill
  have hwake := only_foldS_wake hthreads u
  have hxlt : (foldS a.waiters u wake).xlt = u.xlt := hwake.2 .xlt (by decide)
  refine ⟨_, hexec, (honly.mono (by decide)).trans (hwake.mono (by decide)), by rw [hxlt, hats]; rfl,
    fun w hw k x hk hx => ?_, fun w hw => ?_⟩
  · have hxu : u.thread k = some x := by
      rw [State.thread, show u.cmp = s.cmp from honly.2 .cmp (by decide)]
      exact hx
    obtain ⟨-, k', x', hk', hx', hst⟩ := hws w hw
    obtain rfl : k' = k := by
      rw [hk] at hk'
      exact (WaitWho.thread.inj hk').symm
    obtain rfl : x' = x := Option.some.inj (hx'.symm.trans hx)
    rw [thread_foldS_wake hthreads hxu, if_pos ⟨w, hw, hk⟩, Thread.woken_of_waiting hst]
  · obtain ⟨husable, k, x, hk, -⟩ := hws w (by rw [hw]; exact List.mem_singleton_self w)
    rw [bayTlb_congr hxlt, hxlt, ← hu, hw]
    exact tlbFind_fillFor _ (by rw [hk]; rfl) husable

section
variable {w : Waiter} {k : Nat} (hw : a.waiters = [w])
include hw

theorem atsCompletion_asksPage {c : AtsCpl} (hk : w.who = .thread k) (hm : w.m < 1024) (hstale : a.stale = false)
    (hc : c.status = 0) (hu : cplUsable c w = false) (hsucc : w.succ < 4) (hrun : (s.fn f).stopped = false)
    (hnew : ∀ r ∈ s.xlt.prs, ¬ (r.part = w.m / 64 ∧ r.pasid = pasid ∧ r.va = va / 4096 * 4096)) :
    Acts (.atsCompletion f pasid va c) s [.xlt] (fun v => v.xlt = { s.xlt with
      ats := s.xlt.ats.filter (fun b => !b.is f pasid va)
      prs := s.xlt.prs ++ [⟨w.m / 64, f, pasid, va / 4096 * 4096, none, [w], w.succ, false⟩] }) := by
  obtain ⟨hf, hp, hv⟩ := AtsReq.is_iff.1 (List.find?_some (p := fun b : AtsReq => b.is f pasid va) ha)
  have hexec := exec_atsCompletion hon hfr ha c
  rw [hstale, if_neg (by decide), atsAnswer_unusable (atsRemoved s f pasid va) hc hw hk hm hu hsucc (by rw [hf]; exact hrun)
    (by rw [hp, hv]; exact hnew), hf, hp, hv] at hexec
  exact ⟨_, hexec, (only_withAts s _).trans (only_xlt _ _), rfl⟩

theorem atsCompletion_stale (c : AtsCpl) (hstale : a.stale = true) (hva : w.va / 4096 * 4096 = va / 4096 * 4096) :
    Acts (.atsCompletion f pasid va c) s [.xlt, .out] (fun v => v.xlt = { s.xlt with
      ats := s.xlt.ats.filter (fun b => !b.is f pasid va) ++ [⟨f, pasid, va / 4096 * 4096, [w], false⟩] }) := by
  have hexec := exec_atsCompletion hon hfr ha c
  rw [hstale, if_pos rfl, hw] at hexec
  have hnew : ∀ b ∈ (atsRemoved s f pasid va).xlt.ats, ¬ (b.f = f ∧ b.pasid = pasid ∧ b.va = w.va / 4096 * 4096) := by
    intro b hb his
    have hno := (List.mem_filter.1 hb).2
    rw [hva] at his
    rw [AtsReq.is_iff.2 his] at hno
    cases hno
  obtain ⟨hxlt, honly⟩ := atsAsk_new hnew
  refine ⟨_, hexec, ((only_withAts s _).mono (by decide)).trans honly, ?_⟩
  rw [← hva]
  exact hxlt

theorem atsCompletion_fails {x : Thread} (h : FetchWaits s w k x) {c : AtsCpl} (hstale : a.stale = false)
    (hc : c.status ≠ 0) :
    ∃ v seq, exec (.atsCompletion f pasid va c) s = .next v ∧ EndsWith s v k x (fetchFault x k w.va (faultId seq w.m 1)) := by
  have hexec := exec_atsCompletion hon hfr ha c
  rw [hstale, if_neg (by decide), atsAnswer, if_pos hc, hw] at hexec
  obtain ⟨v, seq, hv, hends, -⟩ :=
    failAll_fetch (h.congr (t := atsRemoved s f pasid va) rfl rfl) 1 a.pasid a.f.port 0xFF
  exact ⟨v, seq, hv ▸ hexec, hends.congr rfl rfl⟩

omit hon in
theorem atsCompletionTimeout_fails {x : Thread} (h : FetchWaits s w k x) :
    ∃ v seq, exec (.atsCompletionTimeout f pasid va) s = .next v ∧
      EndsWith s v k x (fetchFault x k w.va (faultId seq w.m 1)) := by
  have hexec := exec_atsCompletionTimeout hfr ha
  rw [hw] at hexec
  obtain ⟨v, seq, hv, hends, -⟩ :=
    failAll_fetch (h.congr (t := atsRemoved s f pasid va) rfl rfl) 1 pasid f.port 0xFF
  exact ⟨v, seq, hv ▸ hexec, hends.congr rfl rfl⟩

end
end

/-! ### Answers of page requests -/

section
variable {s : State} {f : Fn} {g : Nat} {r : PageReq} {w : Waiter} (hon : s.on = true) (hfr : s.freeze = 0)
  (hr : s.xlt.prs.find? (fun r => r.f = f ∧ r.group = some g) = some r) (hw : r.waiters = [w]) (ht : r.timedOut = false)
include hon hfr hr hw ht

theorem prgSuccess_asks {h : Fn} {pasid : Nat} (hx : s.canXlate w.m = some (h, pasid))
    (hmiss : tlbFind s.xlt.l2 w.m w.va w.acc = none)
    (hnew : ∀ a ∈ s.xlt.ats, ¬ (a.f = h ∧ a.pasid = pasid ∧ a.va = w.va / 4096 * 4096)) :
    Acts (.prgSuccess f g) s (.xlt :: tracedIn) (fun v => NoGroup f g v.xlt.prs ∧ v.xlt.ats = s.xlt.ats ++
      [⟨h, pasid, w.va / 4096 * 4096, [{ w with succ := Nat.max w.succ r.successes + 1 }], false⟩]) := by
  have hexec : exec (.prgSuccess f g) s = .next (prgOk s f g) := congrArg Host.Outcome.next (hostMsg_of_thawed hon hfr _ _)
  obtain ⟨ctx, fid, hend⟩ := groupEnd_of_find (code := 0) (k := fun t r =>
    (foldS r.waiters t (fun u w => retryWaiter u { w with succ := Nat.max w.succ r.successes + 1 }), 0)) hr ht
  obtain ⟨hxlt, honly⟩ := atsAsk_new (s := groupRemoved s f g) (w := { w with succ := Nat.max w.succ r.successes + 1 }) hnew
  rw [hw] at hend
  have hretry := retryWaiter_asks (s := groupRemoved s f g) (w := { w with succ := Nat.max w.succ r.successes + 1 }) hx hmiss
  rw [prgOk, hend] at hexec
  dsimp only [foldS, List.foldl] at hexec
  rw [hretry] at hexec
  refine ⟨_, hexec, ((only_groupRemoved s f g).mono (by decide)).trans ((honly.mono (by decide)).trans
    ((only_trace _ _ _ _ _ _ _ _).mono (by decide))), ?_⟩
  beta_reduce
  rw [(trace_spec _ _ _ _ _ _ _ _).1.xlt, hxlt]
  exact ⟨noGroup_groupRemoved s f g, rfl⟩

variable {k : Nat} {x : Thread} (h : FetchWaits s w k x)
include h

theorem prgInvalidRequest_fails :
    ∃ v seq, exec (.prgInvalidRequest f g) s = .next v ∧ EndsWith s v k x (fetchFault x k w.va (faultId seq w.m 2)) ∧
      NoGroup f g v.xlt.prs := by
  obtain ⟨v, seq, hv, hends, hno, -⟩ := groupEnd_fails (code := 1) (cause := 2) (resp := 1) hr ht hw h (change := id) rfl
    ((only_groupRemoved s f g).mono (by decide)) (noGroup_groupRemoved s f g)
  exact ⟨v, seq, hv ▸ congrArg Host.Outcome.next (hostMsg_of_thawed hon hfr _ _), hends, hno⟩

theorem prgResponseFailure_fails :
    ∃ v seq, exec (.prgResponseFailure f g) s = .next v ∧ EndsWith s v k x (fetchFault x k w.va (faultId seq w.m 3)) ∧
      NoGroup f g v.xlt.prs ∧ (v.fn f).stopped = true := by
  obtain ⟨v, seq, hv, hends, hno, hstop⟩ := groupEnd_fails (code := 15) (cause := 3) (resp := 15) hr ht hw h
    (change := fun t => t.setFn f { t.fn f with stopped := true }) rfl
    (((only_groupRemoved s f g).mono (by decide)).trans ((only_setFn _ f _).mono (by decide))) (noGroup_groupRemoved s f g)
  refine ⟨v, seq, hv ▸ congrArg Host.Outcome.next (hostMsg_of_thawed hon hfr _ _), hends, hno, ?_⟩
  rw [hstop, State.fn_setFn]

end

/-- Settles O33, an answer at a time. An answer that a core freeze keeps is a translation completion too (assumption log 66),
the reset of PRI lets the requests that still have waiters go out again (log 34), and the group that a request takes is the
lowest free one by the model's choice: R283 only asks that it be unique. -/
theorem translationsAndPageRequests : Obligations.TranslationsAndPageRequests := by
  refine ⟨fun s f pasid va c a => ⟨fun hon hfr => ?_, fun hon hfr ha => ⟨fun hstale hc hws => ?_, fun w k hw hk hm =>
      ⟨fun hstale hc hu hsucc hrun hnew => ?_, fun hstale hva => ?_, fun x hx hst hacc hbar =>
        ⟨fun hstale hc => ?_, ?_⟩⟩⟩⟩,
    fun s f r l l' hlive hrun halloc hprs hlen hf hg ht hold => ?_,
    fun s f g r w hon hfr hr hw ht => ⟨fun h pasid hx hmiss hnew => ?_, fun k x hk hm hx hst hacc hbar =>
      ⟨?_, ?_, fun hto => ?_⟩⟩,
    fun s f => ?_⟩
  · exact ⟨_, congrArg Host.Outcome.next (hostMsg_of_frozen hon hfr _ _), only_dbg s _, rfl⟩
  · exact atsCompletion_usable hon hfr ha hstale hc hws
  · exact atsCompletion_asksPage hon hfr ha hw hk hm hstale hc hu hsucc hrun hnew
  · exact atsCompletion_stale hon hfr ha hw c hstale hva
  · obtain ⟨v, seq, hexec, hends⟩ := atsCompletion_fails hon hfr ha hw ⟨hk, hm, hx, hst, hacc, hbar⟩ hstale hc
    exact ⟨v, _, hexec, faultId_cause seq hm 1, faultId_ctx seq hm 1, faultId_part seq hm 1, hends⟩
  · obtain ⟨v, seq, hexec, hends⟩ := atsCompletionTimeout_fails hfr ha hw ⟨hk, hm, hx, hst, hacc, hbar⟩
    exact ⟨v, _, hexec, faultId_cause seq hm 1, faultId_ctx seq hm 1, faultId_part seq hm 1, hends⟩
  · obtain ⟨honly, hsent, out, w, x, hout⟩ := pageSend_spec hrun halloc hprs hlen hf hg ht hold
    obtain ⟨hfree, hlow⟩ := freeGroup_spec s f
    exact ⟨_, congrArg Host.Outcome.next (if_pos hlive), honly, s.freeGroup f, out, w, x, hsent, hout,
      fun q hq hqf hqg => hfree (mem_usedGroups.2 ⟨q, hq, hqf, hqg⟩), fun j hj => mem_usedGroups.1 (hlow j hj)⟩
  · exact prgSuccess_asks hon hfr hr hw ht hx hmiss hnew
  · obtain ⟨v, seq, hexec, hends, hno⟩ := prgInvalidRequest_fails hon hfr hr hw ht ⟨hk, hm, hx, hst, hacc, hbar⟩
    exact ⟨v, _, hexec, faultId_cause seq hm 2, hends, hno⟩
  · obtain ⟨v, seq, hexec, hends, hno⟩ := prgResponseFailure_fails hon hfr hr hw ht ⟨hk, hm, hx, hst, hacc, hbar⟩
    exact ⟨v, _, hexec, faultId_cause seq hm 3, hends, hno⟩
  · obtain ⟨v, seq, hexec, hends, hkept⟩ :=
      priTimeout_fails hr ht hw ⟨hk, hm, hx, hst, hacc, hbar⟩ (thawed_of_freeze hfr) hto
    exact ⟨v, _, hexec, faultId_cause seq hm 6, hends, hkept⟩
  · exact ⟨_, rfl, ((only_setFn s f _).mono (by decide)).trans ((only_xlt _ _).mono (by decide)),
      congrArg FnCfg.stopped (State.fn_setFn s f _), fun q hq hqf => priReset_own hq hqf, priReset_others f s.xlt.prs⟩

end Sys2Proof.Machine
end

section
/-! SUPPORT. The command queues of the contexts (R290 to R293): what a doorbell, a descriptor and a step of a command do to the
queue, and an access that a command has served at its slice at once (assumption log 27). -/

namespace Sys2Proof.Machine

open Sys2Proof

/-! ### Command queues -/

@[simp] theorem State.cmdq_setCmdq (s : State) (m : Nat) (x : CmdQ) : (s.setCmdq m x).cmdq m = x :=
  (smGetD_smPut _ _ _ _ _).trans (if_pos rfl)

theorem only_setCmdq (s : State) (m : Nat) (x : CmdQ) : Only [.xlt] s (s.setCmdq m x) := only_xlt s _

theorem cmdq_congr {s t : State} (h : t.xlt.cmds = s.xlt.cmds) (m : Nat) : t.cmdq m = s.cmdq m := by
  rw [State.cmdq, h, State.cmdq]

theorem updCmd_eq {s : State} {m : Nat} {c : Cmd} {rest : List Cmd} (h : (s.cmdq m).queue = c :: rest) (f : Cmd → Cmd) :
    updCmd s m f = s.setCmdq m { s.cmdq m with queue := f c :: rest } := by
  simp only [updCmd, h]

theorem running_eq {s : State} {m : Nat} {c : Cmd} {rest : List Cmd} (h : (s.cmdq m).queue = c :: rest) (hc : c.ended = 0) :
    s.running m = some c := by
  simp only [State.running, h, hc, if_true]

theorem fld_addMod (s : State) (o : Nat) (f : Fld) (n : Nat) (h : f.lo + f.w ≤ 64) :
    (s.addMod o f n).fld o f = (s.fld o f + n) % 2 ^ f.w := State.fld_setFld s o f _ h

/-! ### Refusals -/

theorem only_refuseCmd (s : State) (m code : Nat) : Only raisedIn s (refuseCmd s m code) :=
  ((only_setFld s _ _ _).mono (by decide)).trans (only_raise _ _ _)

theorem xlt_refuseCmd (s : State) (m code : Nat) : (refuseCmd s m code).xlt = s.xlt :=
  (only_refuseCmd s m code).2 .xlt (by decide)

theorem fld_refuseCmd (s : State) (m : Nat) {code : Nat} (hc : code < 8) :
    (refuseCmd s m code).fld (rXltCmdStat m) fXltCmdStatRefuseCode = code ∧
      (refuseCmd s m code).fld (rXltCmdStat m) fXltCmdStatRefused = 1 := by
  refine ⟨?_, State.fld_raise _ _ _ (by decide)⟩
  rw [refuseCmd, State.fld_raise_disj _ _ _ _ (.inr (by decide)), State.fld_setFld _ _ _ _ (by decide)]
  exact Nat.mod_eq_of_lt hc

/-! ### Translations of the unit itself -/

/-- A translation of the unit itself that hits refills the second-level TLB, and that is all. -/
theorem translate_ok {s u : State} {w : Waiter} {p : Phys} (h : translate s w false = (u, .ok p)) :
    Only [.xlt] s u ∧ u.xlt.cmds = s.xlt.cmds := by
  refine ⟨?_, by simpa [h] using (quiet_translate s w false).cmds⟩
  unfold translate at h
  split at h
  · cases congrArg Prod.snd h
  · dsimp only at h
    simp only [Bool.false_eq_true, if_false] at h
    split at h
    · rename_i v e hv
      obtain ⟨x, -, hx⟩ := Option.map_eq_some_iff.1 hv
      have hu : fillL2 s x = u := (congrArg Prod.fst hx).trans (congrArg Prod.fst h)
      rw [← hu]
      exact only_fillL2 s x
    · cases congrArg Prod.snd h

/-! ### Reads of other stacks -/

/-- The reads of descriptors under way, and what is pending, are as they were. -/
structure KeepsReads (s t : State) (m : Nat) : Prop where
  pending : t.pending = s.pending
  reading : (t.cmdq m).reading = (s.cmdq m).reading

theorem Quiet.keepsReads {s t : State} (h : Quiet s t) (m : Nat) : KeepsReads s t m :=
  ⟨h.pending, by rw [cmdq_congr h.cmds]⟩

theorem KeepsReads.trans {s t u : State} {m : Nat} (h : KeepsReads s t m) (h' : KeepsReads t u m) : KeepsReads s u m :=
  ⟨h'.pending.trans h.pending, h'.reading.trans h.reading⟩

/-- A line that a COPY has asked for reaches the command at the head of the queue alone. -/
theorem keepsReads_cmdLine (s : State) (m fab : Nat) (d : Line) (p : BitVec 4) : KeepsReads s (cmdLine s m fab d p) m := by
  unfold cmdLine
  split
  · exact ⟨rfl, rfl⟩
  rename_i x hx
  split
  · exact ⟨rfl, rfl⟩
  split
  · refine ⟨rfl, ?_⟩
    have hcmdq : s.cmdq m = x := by rw [State.cmdq, smGetD_eq, hx]; rfl
    rw [hcmdq, State.cmdq, smGetD_smSet, if_pos rfl]
  · exact ⟨rfl, rfl⟩

theorem finishRemote_read (s : State) (c : Nat) {m : RMsg} (hm : m.typ = 1) (status : Nat) (d : Line) (p : BitVec 4)
    (w : Word) : finishRemote s (.command c) m status d p w = cmdLine s c m.addr d (if status = 0 then p else 0xF) := by
  simp [finishRemote, hm, isCommand]

theorem keepsReads_remoteAsk (s : State) (c : Nat) {m : RMsg} (hm : m.typ = 1) :
    KeepsReads s (remoteAsk s (.command c) m) c := by
  have hreq := quiet_remoteReq s (.command c) m
  unfold remoteAsk
  split
  · rename_i t ht
    rw [ht] at hreq
    exact hreq.keepsReads c
  · split
    · rw [loseReq, finishRemote_read _ c hm]
      exact ((quiet_ralErr s _ _ _ _ _).keepsReads c).trans (keepsReads_cmdLine _ _ _ _ _)
    · rw [finishRemote_read _ c hm]
      exact ((quiet_addrError s _ _ _).keepsReads c).trans (keepsReads_cmdLine _ _ _ _ _)

theorem keepsReads_askRead (s : State) (w : Waiter) : KeepsReads s (askRead s w) w.m := by
  have ht := (quiet_translate s w false).keepsReads w.m
  unfold askRead
  split <;> rename_i heq <;> rw [heq] at ht
  · exact ht.trans ((quiet_emit _ _).keepsReads _)
  · exact ht.trans (keepsReads_remoteAsk _ _ rfl)
  · exact ht

/-- A read that does not go to another stack waits for a translation, or asks the host. -/
theorem askRead_near {s : State} {w : Waiter} (h : ∀ u fab, translate s w false ≠ (u, .ok (.remote fab))) :
    Only (.xlt :: raisedIn) s (askRead s w) ∧ (askRead s w).xlt.cmds = s.xlt.cmds := by
  have honly := only_translate s w false
  have hquiet := quiet_translate s w false
  unfold askRead
  split <;> rename_i heq <;> rw [heq] at honly hquiet
  · exact ⟨honly.trans ((only_emit _ _).mono (by decide)), hquiet.cmds⟩
  · exact absurd heq (h _ _)
  · exact ⟨honly, hquiet.cmds⟩

/-! ### Steps of the running command -/

/-- A command of a kind runs at the head of its queue, and its next line or page may be done. -/
structure RunsCmd (s : State) (m : Nat) (c : Cmd) (rest : List Cmd) : Prop where
  live : s.live = true
  head : (s.cmdq m).queue = c :: rest
  runs : c.ended = 0
  more : c.pos < c.len
  ready : s.cmdWaits m = false

theorem RunsCmd.step {s : State} {m kind : Nat} {c : Cmd} {rest : List Cmd} (h : RunsCmd s m c rest) (hk : c.kind = kind)
    (k : State → Cmd → State) : cmdStep s m kind k = k s c := by
  have hgo : ¬ (c.kind ≠ kind ∨ c.len ≤ c.pos ∨ s.cmdWaits m = true) := by
    have := h.more
    simp only [h.ready, hk, ne_eq, not_true_eq_false, false_or, Bool.false_eq_true, or_false]
    omega
  refine (if_pos h.live).trans ?_
  simp only [running_eq h.head h.runs]
  exact if_neg hgo

theorem cmdXlate_ok {s u : State} {m va : Nat} {acc : Acc} {p : Phys}
    (h : translate s ⟨.cmd, m, va % 2 ^ 64, acc, 0, 0⟩ false = (u, .ok p)) (k : State → Phys → State) :
    cmdXlate s m va acc k = k u p := by
  rw [cmdXlate, h]

/-- The queue after `n` bytes of the command at its head. -/
def CmdQ.goesOn (x : CmdQ) (c : Cmd) (rest : List Cmd) (n : Nat) : CmdQ := { x with
  queue := { c with pos := c.pos + n, asked := if n = 128 then none else c.asked,
                    got := if n = 128 then none else c.got } :: rest }

/-- A page of the command is done. -/
theorem updCmd_page {s u : State} {m : Nat} {c : Cmd} {rest : List Cmd} (h : RunsCmd s m c rest) (hu : Only [.xlt] s u)
    (hcmds : u.xlt.cmds = s.xlt.cmds) :
    Only [.xlt] s (updCmd u m (fun x => { x with pos := x.pos + 4096 })) ∧
      (updCmd u m (fun x => { x with pos := x.pos + 4096 })).cmdq m = (s.cmdq m).goesOn c rest 4096 := by
  have hq := cmdq_congr hcmds m
  rw [updCmd_eq (hq ▸ h.head), hq]
  exact ⟨hu.trans (only_setCmdq u m _), State.cmdq_setCmdq u m _⟩

/-- The state with an advice for one region in front of the others. -/
def withAdvice (s : State) (g v : Nat) : State := { s with plc := { s.plc with advice := (g, 1, v) :: s.plc.advice } }

theorem adviceOf_of_find {s : State} {r : Nat} {e : Nat × Nat × Nat}
    (h : s.plc.advice.find? (fun e => e.1 ≤ r && r < e.1 + e.2.1) = some e) : s.adviceOf r = e.2.2 := by
  simp only [State.adviceOf, h]

theorem adviceOf_of_find_eq {s t : State} {r : Nat} (h : t.plc.advice.find? (fun e => e.1 ≤ r && r < e.1 + e.2.1) =
    s.plc.advice.find? (fun e => e.1 ≤ r && r < e.1 + e.2.1)) : t.adviceOf r = s.adviceOf r := by
  simp only [State.adviceOf, h]

theorem adviceOf_withAdvice (s : State) (g v r : Nat) :
    (withAdvice s g v).adviceOf r = if r = g then v else s.adviceOf r := by
  by_cases h : r = g
  · rw [if_pos h]
    exact adviceOf_of_find (e := (g, 1, v)) (List.find?_cons_of_pos (by simp [h]))
  · rw [if_neg h]
    exact adviceOf_of_find_eq (List.find?_cons_of_neg (by simp; omega))

/-- The advice of a command is recorded, where it is new. -/
def advised (s : State) (g v : Nat) : State := if s.adviceOf g = v then s else withAdvice s g v

theorem only_advised (s : State) (g v : Nat) : Only [.plc] s (advised s g v) :=
  ite_keeps (P := Only [.plc] s) (.refl _ s) (only_plc s _)

theorem xlt_advised (s : State) (g v : Nat) : (advised s g v).xlt = s.xlt := (only_advised s g v).2 .xlt (by decide)

theorem adviceOf_advised (s : State) (g v r : Nat) : (advised s g v).adviceOf r = if r = g then v else s.adviceOf r := by
  unfold advised
  split
  · rename_i hsame
    by_cases h : r = g
    · rw [if_pos h, h, hsame]
    · rw [if_neg h]
  · exact adviceOf_withAdvice s g v r

theorem adviceOf_congr {s t : State} (h : t.plc = s.plc) (r : Nat) : t.adviceOf r = s.adviceOf r := by
  rw [State.adviceOf, h, State.adviceOf]

/-! ### A command's access at its slice -/

theorem eq_of_only_xlt_out {s t : State} (h : Only [.xlt, .out] s t) : t = { s with xlt := t.xlt, out := t.out } := by
  have hsame : ∀ p : Area, p ∉ [Area.xlt, .out] → p.same s t := h.2
  have hregs : t.regs = s.regs := hsame .regs (by decide)
  have hfns : t.fns = s.fns := hsame .fns (by decide)
  have hpci : t.pci = s.pci := hsame .pci (by decide)
  have hsec : t.sec = s.sec := hsame .sec (by decide)
  have hbup : t.bup = s.bup := hsame .bup (by decide)
  have hcmp : t.cmp = s.cmp := hsame .cmp (by decide)
  have hcel : t.cel = s.cel := hsame .cel (by decide)
  have hhbm : t.hbm = s.hbm := hsame .hbm (by decide)
  have hplc : t.plc = s.plc := hsame .plc (by decide)
  have hral : t.ral = s.ral := hsame .ral (by decide)
  have hpwr : t.pwr = s.pwr := hsame .pwr (by decide)
  have hdbg : t.dbg = s.dbg := hsame .dbg (by decide)
  have hfree : t.free = s.free := hsame .free (by decide)
  have hpending := h.1
  cases t
  simp_all

theorem Serves.congr {s t : State} {r : SReq} {writes : Bool} {n : Nat} (hs : Serves s r writes n)
    (ht : Only [.xlt, .out] s t) : Serves t r writes n := by
  obtain ⟨hlive, ⟨hbacked, hserver, hactive, hidle, hsound, hturn, hwf⟩, hpermit, hpool, hhome, hsent⟩ := hs
  rw [eq_of_only_xlt_out ht]
  exact ⟨hlive, ⟨hbacked, hserver, hactive, hidle, hsound, hturn, hwf⟩, hpermit, hpool, hhome, hsent⟩

theorem Holds.congr {s t : State} {n a w : Nat} {f : Frame} {l : LineEnt} (h : Holds s n a w f l)
    (ht : t.cel.frames = s.cel.frames) : Holds t n a w f l :=
  ⟨(findLine_congr ht n _).trans h.line, (entriesOf_congr ht n _).trans h.one⟩

theorem blockAddr_lineAddr (a : Nat) : blockAddr (lineAddr a) = blockAddr a := by
  unfold blockAddr lineAddr
  omega

theorem serveWhere_none {s : State} {test : ChanReq → Bool} (h : ∀ q ∈ s.cel.hbmq, test q = false) :
    serveWhere s test = s := by
  have hmine : s.cel.hbmq.filter test = [] := List.filter_eq_nil_iff.2 fun q hq => by simp [h q hq]
  have hrest : s.cel.hbmq.filter (fun q => !test q) = s.cel.hbmq := List.filter_eq_self.2 fun q hq => by simp [h q hq]
  rw [serveWhere, hmine, hrest]
  rfl

/-- Nothing of the block waits at a channel and the line is there: the access finds the state as it is. -/
theorem settle_of_held {s : State} {n a w : Nat} {f : Frame} {l : LineEnt} (hserver : s.server a = some n)
    (hline : s.findLine n a = some (w, f, l)) (hst : l.st = .clean ∨ l.st = .dirty)
    (hq : ∀ q ∈ s.cel.hbmq, blockAddr q.addr ≠ blockAddr a) : settle s a = s := by
  have hserve := serveWhere_none (s := s) (test := fun q => decide (blockAddr q.addr = blockAddr a))
    fun q hm => decide_eq_false (hq q hm)
  unfold settle
  dsimp only
  rw [hserve, hserver]
  dsimp only
  rw [hline]
  exact if_neg (not_filling hst)

theorem countHeat_command (s : State) (m a : Nat) : countHeat s (.command m) a = s := rfl

/-- A command's access to a line that is there is applied to its entry (R196, R293). -/
theorem engineOp_held {s : State} {m a hint n w : Nat} {f : Frame} {l : LineEnt} {op : SliceOp}
    (hs : Serves s ⟨.command m, a, hint⟩ true n) (hh : Holds s n a w f l) (hst : l.st = .clean ∨ l.st = .dirty)
    (hq : ∀ q ∈ s.cel.hbmq, blockAddr q.addr ≠ blockAddr a) (hw : op.writes = true) (hr : op.reserved = false)
    {v : State} {x : Ans} (happ : applyOp s n ⟨.command m, a, hint, op⟩ [] = some (v, x)) :
    engineOp s ⟨.command m, a, hint, op⟩ = (v, x) := by
  have hsettle := settle_of_held hs.free.server hh.line hst (by simpa only [blockAddr_lineAddr] using hq)
  have hpermit : s.permits (.command m) op.writes a = true := by rw [hw]; exact hs.permit
  have hpool : s.poolAllows (.command m) (!op.writes) (lineAddr a) = true := by rw [hw]; exact hs.pool
  have hallowed : ¬ (¬ s.backed a = true ∨ ¬ s.permits (.command m) op.writes a = true ∨
      ¬ s.poolAllows (.command m) (!op.writes) (lineAddr a) = true) := by
    simp [hpermit, hpool, show s.backed a = true from hs.free.backed]
  have hhome : s.sharersOf (regionOf (lineAddr a)) = none := hs.home
  have hsound : ¬ (s.slice n).quarantined.contains (setOf (lineAddr a)) = true := Bool.not_eq_true _ ▸ hs.free.sound
  unfold engineOp
  dsimp only
  rw [if_neg hallowed, if_neg (by simp [hr]), if_neg (by simp [hhome]), countHeat_command, hsettle]
  rw [show s.server (lineAddr a) = some n from hs.free.server]
  dsimp only
  rw [if_neg hsound, hh.line]
  dsimp only
  rw [happ]
  rfl

/-- A line written through a state that differs in the translations and the outputs. -/
theorem LineWritten.of_congr {s u v : State} {r : SReq} {n : Nat} {d : Line} {p : BitVec 4} (h : LineWritten u v r n d p)
    (hu : u.cel = s.cel) : LineWritten s v r n d p := by
  obtain ⟨hent, hmerge, hoth⟩ := h
  exact ⟨hent, hmerge, hoth.congr (by rw [hu]) rfl⟩

end Sys2Proof.Machine
end

section
/-! CommandsRun. -/

namespace Sys2Proof.Machine

open Sys2Proof

/-! ### Doorbells and descriptors -/

theorem exec_cmdDoorbell {s : State} {f : Fn} {m : Nat} (hc : s.canWrite f (rXltCmdDb m) = true) (hm : m < 1024)
    (desc : Word) : exec (.cmdDoorbell f m desc) s = .next (cmdDoor s m desc) :=
  congrArg Host.Outcome.next (whenReached_of_lt hc (by unfold rXltCmdDb; omega) _)

theorem cmdDoor_accepted {s : State} {m : Nat} (he : s.enabled = true) (hl : (s.cmdq m).queue.length < 16) (desc : Word) :
    cmdDoor s m desc =
      askRead (s.setCmdq m { s.cmdq m with reading := (s.cmdq m).reading ++ [desc] }) (cmdWaiter m desc) :=
  if_neg (by simp [he, hl])

theorem cmdDoor_full {s : State} {m : Nat} (hl : 16 ≤ (s.cmdq m).queue.length) (desc : Word) :
    cmdDoor s m desc = refuseCmd s m 1 := if_pos (.inr hl)

/-- The code of a descriptor depends on the queue of its context alone. -/
theorem cmdCode_congr {s t : State} {m : Nat} (h : (t.cmdq m).queue = (s.cmdq m).queue) (l : List Byte) :
    t.cmdCode m l = s.cmdCode m l := by
  unfold State.cmdCode
  rw [h]

/-- The oldest descriptor read has ended with its bytes. -/
theorem exec_cmdDescReadDone {s u : State} {m : Nat} {a : Word} {rest : List Word} {desc : ReadData} {l : List Byte}
    (hlive : s.live = true) (hr : (s.cmdq m).reading = a :: rest)
    (hu : unitRead s (cmdWaiter m a) 64 desc = (u, .bytes l)) :
    exec (.cmdDescReadDone m desc) s = .next (cmdRead u m a (some l)) := by
  refine congrArg Host.Outcome.next ((if_pos hlive).trans ?_)
  beta_reduce
  rw [hr]
  dsimp only
  rw [hu]

section
variable {u : State} {m : Nat} {a : Word} {rest : List Word} {l : List Byte} (hr : (u.cmdq m).reading = a :: rest)
include hr

theorem cmdRead_accepted (hcode : u.cmdCode m l = 0) :
    Only [.xlt, .regs] u (cmdRead u m a (some l)) ∧
      (cmdRead u m a (some l)).cmdq m = { reading := rest, queue := (u.cmdq m).queue ++ [cmdOf l] } ∧
      (cmdRead u m a (some l)).fld (rXltCmdStat m) fXltCmdStatAccepted =
        (u.fld (rXltCmdStat m) fXltCmdStatAccepted + 1) % 2 ^ 16 := by
  have hcode' : (u.setCmdq m { u.cmdq m with reading := (u.cmdq m).reading.erase a }).cmdCode m l = 0 :=
    (cmdCode_congr (by rw [State.cmdq_setCmdq]) l).trans hcode
  have herase : (u.cmdq m).reading.erase a = rest := by rw [hr, List.erase_cons_head]
  have hread : cmdRead u m a (some l) = ((u.setCmdq m { u.cmdq m with reading := (u.cmdq m).reading.erase a }).setCmdq m
      { reading := rest, queue := (u.cmdq m).queue ++ [cmdOf l] }).addMod (rXltCmdStat m) fXltCmdStatAccepted 1 := by
    unfold cmdRead
    dsimp only
    rw [if_pos hcode', State.cmdq_setCmdq, herase]
  rw [hread]
  refine ⟨(((only_setCmdq u m _).trans (only_setCmdq _ m _)).mono (by decide)).trans ((only_setFld _ _ _ _).mono (by decide)),
    ?_, fld_addMod _ _ _ _ (by decide)⟩
  exact (cmdq_congr rfl m).trans (State.cmdq_setCmdq _ m _)

theorem cmdRead_refused (hcode : u.cmdCode m l ≠ 0) :
    Only (.xlt :: raisedIn) u (cmdRead u m a (some l)) ∧
      (cmdRead u m a (some l)).cmdq m = { u.cmdq m with reading := rest } ∧
      (cmdRead u m a (some l)).fld (rXltCmdStat m) fXltCmdStatRefuseCode = u.cmdCode m l := by
  have hcode' : (u.setCmdq m { u.cmdq m with reading := (u.cmdq m).reading.erase a }).cmdCode m l = u.cmdCode m l :=
    cmdCode_congr (by rw [State.cmdq_setCmdq]) l
  have herase : (u.cmdq m).reading.erase a = rest := by rw [hr, List.erase_cons_head]
  have hlt : u.cmdCode m l < 8 := by
    unfold State.cmdCode
    extract_lets c flagsBad g
    repeat' apply ite_keeps (P := (· < 8))
    all_goals decide
  have hread : cmdRead u m a (some l) = refuseCmd (u.setCmdq m { u.cmdq m with reading := rest }) m (u.cmdCode m l) := by
    unfold cmdRead
    dsimp only
    rw [if_neg (hcode'.trans_ne hcode), hcode', herase]
  rw [hread]
  exact ⟨((only_setCmdq u m _).mono (by decide)).trans ((only_refuseCmd _ m _).mono (by decide)),
    (cmdq_congr (congrArg XltSt.cmds (xlt_refuseCmd _ m _)) m).trans (State.cmdq_setCmdq _ m _), (fld_refuseCmd _ m hlt).1⟩

end

/-! ### XLAT and ADVISE -/

section
variable {s u : State} {m : Nat} {c : Cmd} {rest : List Cmd} (h : RunsCmd s m c rest)
include h

theorem xlat_page {p : Phys} (hk : c.kind = 1)
    (ht : translate s ⟨.cmd, m, (c.base + c.pos) % 2 ^ 64, if nbit c.flags 1 then .write else .read, 0, 0⟩ false =
      (u, .ok p)) :
    Acts (.xlat m) s [.xlt] (fun v => v.cmdq m = (s.cmdq m).goesOn c rest 4096) := by
  obtain ⟨honly, hcmds⟩ := translate_ok ht
  refine ⟨_, congrArg Host.Outcome.next ?_, updCmd_page h honly hcmds⟩
  rw [h.step hk]
  exact cmdXlate_ok ht _

theorem advise_local {a : Nat} (hk : c.kind = 3)
    (ht : translate s ⟨.cmd, m, (c.base + c.pos) % 2 ^ 64, .read, 0, 0⟩ false = (u, .ok (.hbm a))) :
    Acts (.advise m) s [.xlt, .plc] (fun v => v.cmdq m = (s.cmdq m).goesOn c rest 4096 ∧
      v.adviceOf (regionOf a) = nbits c.flags 3 3 ∧ ∀ r, r ≠ regionOf a → v.adviceOf r = s.adviceOf r) := by
  obtain ⟨honly, hcmds⟩ := translate_ok ht
  obtain ⟨hv, hq⟩ := updCmd_page h honly hcmds
  have hexec : exec (.advise m) s = .next (advised (updCmd u m (fun x => { x with pos := x.pos + 4096 })) (regionOf a)
      (nbits c.flags 3 3)) := by
    refine congrArg Host.Outcome.next ?_
    rw [h.step hk]
    exact cmdXlate_ok ht _
  generalize updCmd u m (fun x => { x with pos := x.pos + 4096 }) = v at hv hq hexec
  refine ⟨_, hexec, (hv.mono (by decide)).trans ((only_advised v _ _).mono (by decide)),
    (cmdq_congr (congrArg XltSt.cmds (xlt_advised v _ _)) m).trans hq, ?_, fun r hr => ?_⟩
  · rw [adviceOf_advised, if_pos rfl]
  · rw [adviceOf_advised, if_neg hr, adviceOf_congr (hv.2 .plc (by decide))]

theorem advise_skips {p : Phys} (hk : c.kind = 3)
    (ht : translate s ⟨.cmd, m, (c.base + c.pos) % 2 ^ 64, .read, 0, 0⟩ false = (u, .ok p)) (hp : ∀ a, p ≠ .hbm a) :
    Acts (.advise m) s (.xlt :: raisedIn) (fun v => v.cmdq m = (s.cmdq m).goesOn c rest 4096 ∧
      v.fld (rXltCmdStat m) fXltCmdStatSkipped = 1) := by
  obtain ⟨honly, hcmds⟩ := translate_ok ht
  obtain ⟨hv, hq⟩ := updCmd_page h honly hcmds
  have hskip : skipPage u m =
      raise (updCmd u m (fun x => { x with pos := x.pos + 4096 })) (rXltCmdStat m) fXltCmdStatSkipped := by
    unfold skipPage
    rw [running_eq ((cmdq_congr hcmds m).symm ▸ h.head) h.runs]
    exact if_pos hk
  have hexec : exec (.advise m) s = .next (skipPage u m) := by
    refine congrArg Host.Outcome.next ?_
    rw [h.step hk, cmdXlate_ok ht]
    cases p with
    | hbm a => exact absurd rfl (hp a)
    | remote f => rfl
    | host port b x y => rfl
    | bad a => rfl
  have hraise := only_raise (updCmd u m (fun x => { x with pos := x.pos + 4096 })) (rXltCmdStat m) fXltCmdStatSkipped
  rw [hskip] at hexec
  exact ⟨_, hexec, (hv.mono (by decide)).trans (hraise.mono (by decide)),
    (cmdq_congr (congrArg XltSt.cmds (hraise.2 .xlt (by decide))) m).trans hq, State.fld_raise _ _ _ (by decide)⟩

/-! ### COPY -/

variable {u' : State} {port b : Nat} {x y : Bool} {q : Phys} (hk : c.kind = 2)
  (hsrc : translate s ⟨.cmd, m, (c.base + c.pos) % 2 ^ 64, .read, 0, 0⟩ false = (u, .ok (.host port b x y)))
  (hdst : translate u ⟨.cmd, m, (c.dst + c.pos) % 2 ^ 64, .write, 0, 0⟩ false = (u', .ok q))
include hk hsrc hdst

/-- The state in which a COPY from host memory writes its line: the line is read, and the command has gone on. -/
def copyRead (u : State) (m port b : Nat) (x : CmdQ) : State := (u.emit (.hostRead port b 128)).setCmdq m x

theorem exec_copy_fromHost (src : Line) (ep : Bool) :
    exec (.copy m src ep) s = .next (copyWrite (copyRead u' m port b ((s.cmdq m).goesOn c rest 128)) m (nbits c.flags 1 2) q src
      (if ep then 0xF else 0)) := by
  have hq : u'.cmdq m = s.cmdq m := (cmdq_congr (translate_ok hdst).2 m).trans (cmdq_congr (translate_ok hsrc).2 m)
  have hcmdq : (u'.emit (.hostRead port b 128)).cmdq m = s.cmdq m := (cmdq_congr rfl m).trans hq
  refine congrArg Host.Outcome.next ?_
  rw [h.step hk, cmdXlate_ok hsrc, cmdXlate_ok hdst]
  dsimp only [copySource]
  rw [updCmd_eq (hcmdq.symm ▸ h.head), hcmdq]
  rfl

omit h hk in
theorem copyRead_spec : Only [.xlt, .out] s (copyRead u' m port b ((s.cmdq m).goesOn c rest 128)) ∧
    (copyRead u' m port b ((s.cmdq m).goesOn c rest 128)).cmdq m = (s.cmdq m).goesOn c rest 128 ∧
    (copyRead u' m port b ((s.cmdq m).goesOn c rest 128)).out = s.out ++ [.hostRead port b 128] := by
  have honly := (translate_ok hsrc).1.trans (translate_ok hdst).1
  have hout : u'.out = s.out := honly.2 .out (by decide)
  refine ⟨(honly.mono (by decide)).trans (((only_emit _ _).mono (by decide)).trans ((only_setCmdq _ m _).mono (by decide))),
    State.cmdq_setCmdq _ m _, ?_⟩
  rw [← hout]
  rfl

end

theorem copy_toHost {s u u' : State} {m : Nat} {c : Cmd} {rest : List Cmd} (h : RunsCmd s m c rest) {port b port' b' : Nat}
    {x y x' y' : Bool} (hk : c.kind = 2)
    (hsrc : translate s ⟨.cmd, m, (c.base + c.pos) % 2 ^ 64, .read, 0, 0⟩ false = (u, .ok (.host port b x y)))
    (hdst : translate u ⟨.cmd, m, (c.dst + c.pos) % 2 ^ 64, .write, 0, 0⟩ false = (u', .ok (.host port' b' x' y')))
    (src : Line) (ep : Bool) :
    Acts (.copy m src ep) s [.xlt, .out] (fun v => v.cmdq m = (s.cmdq m).goesOn c rest 128 ∧
      v.out = s.out ++ [.hostRead port b 128, .hostWrite port' b' ((toBytes src 128).map some) ep]) := by
  have hexec := exec_copy_fromHost h hk hsrc hdst src ep
  obtain ⟨honly, hq, hout⟩ := copyRead_spec hsrc hdst
  generalize copyRead u' m port b ((s.cmdq m).goesOn c rest 128) = v at hexec honly hq hout
  have hpoison : decide ((if ep then (0xF : BitVec 4) else 0) ≠ 0) = ep := by cases ep <;> rfl
  dsimp only [copyWrite] at hexec
  rw [hpoison] at hexec
  refine ⟨_, hexec, honly.trans ((only_emit v _).mono (by decide)), (cmdq_congr rfl m).trans hq, ?_⟩
  show v.out ++ _ = _
  rw [hout]
  simp

theorem copy_toCellar {s u u' : State} {m : Nat} {c : Cmd} {rest : List Cmd} (h : RunsCmd s m c rest) {port b a n wy : Nat}
    {x y : Bool} {fr : Frame} {l : LineEnt} (hk : c.kind = 2)
    (hsrc : translate s ⟨.cmd, m, (c.base + c.pos) % 2 ^ 64, .read, 0, 0⟩ false = (u, .ok (.host port b x y)))
    (hdst : translate u ⟨.cmd, m, (c.dst + c.pos) % 2 ^ 64, .write, 0, 0⟩ false = (u', .ok (.hbm a)))
    (ha : a % 128 = 0) (src : Line) (ep : Bool) (hs : Serves s ⟨.command m, a, nbits c.flags 1 2⟩ true n)
    (hh : Holds s n a wy fr l) (hst : l.st = .clean ∨ l.st = .dirty)
    (hq : ∀ q ∈ s.cel.hbmq, blockAddr q.addr ≠ blockAddr a) (fits : Fits fr l (classFor src (if ep then 0xF else 0))) :
    Acts (.copy m src ep) s (.xlt :: servedIn) (fun v => v.cmdq m = (s.cmdq m).goesOn c rest 128 ∧
      LineWritten s v ⟨.command m, a, nbits c.flags 1 2⟩ n src (if ep then 0xF else 0)) := by
  have hexec := exec_copy_fromHost h hk hsrc hdst src ep
  obtain ⟨honly, hcmdq, -⟩ := copyRead_spec hsrc hdst
  generalize copyRead u' m port b ((s.cmdq m).goesOn c rest 128) = t at hexec honly hcmdq
  have hcel : t.cel = s.cel := honly.2 .cel (by decide)
  have hline : lineAddr a = a := by unfold lineAddr; omega
  have hst' := hs.congr honly
  have hht := hh.congr (t := t) (by rw [hcel])
  obtain ⟨v, hv, hvonly, hwritten, -⟩ := updLine_served hst' hht (.refl _ t) rfl fits (BitVec.allOnes 128)
  have happ := applyOp_write (who := .command m) (hint := nbits c.flags 1 2) hht.line src (if ep then 0xF else 0)
  rw [hv] at happ
  have hengine := engineOp_held hst' hht hst (by rw [hcel]; exact hq) rfl rfl happ
  have hquiet := quiet_engineOp t ⟨.command m, a, nbits c.flags 1 2, .write (BitVec.allOnes 128) src (if ep then 0xF else 0)⟩
  dsimp only [copyWrite, engineWrite] at hexec
  rw [hline, hengine] at hexec
  rw [hengine] at hquiet
  exact ⟨v, hexec, (honly.mono (by decide)).trans (hvonly.mono (by decide)), (cmdq_congr hquiet.cmds m).trans hcmdq,
    hwritten.of_congr hcel⟩

/-! ### The end of a command -/

/-- The command at the head of the queue has left it. -/
def cmdDone (s : State) (m : Nat) (rest : List Cmd) : State := s.setCmdq m { s.cmdq m with queue := rest }

theorem only_cmdDone (s : State) (m : Nat) (rest : List Cmd) : Only [.xlt] s (cmdDone s m rest) := only_setCmdq s m _

theorem cmdq_cmdDone (s : State) (m : Nat) (rest : List Cmd) : (cmdDone s m rest).cmdq m = { s.cmdq m with queue := rest } :=
  State.cmdq_setCmdq s m _

/-- What the end of a command writes to its status. -/
def cmdStatus (s : State) (m : Nat) (bad : Bool) : State := if bad then raise s (rXltCmdStat m) fXltCmdStatErrored else s

theorem exec_cmdEnd {s : State} {m : Nat} {c : Cmd} {rest : List Cmd} (hlive : s.live = true)
    (hq : (s.cmdq m).queue = c :: rest) (hend : c.ended = 2 ∨ c.len ≤ c.pos)
    (hreqs : ∀ r ∈ s.ral.reqs, r.who = .command m → r.msg.typ ≠ 3) :
    exec (.cmdEnd m) s = .next (
      let s2 := cmdStatus (cmdDone s m rest) m (c.ended = 2)
      if c.doneFlag = 0 then s2 else post s2 m [.add c.doneFlag (doneValue (!decide (c.ended = 2)))]) := by
  have hgo : ¬ (¬ c.ended = 2 ∧ c.pos < c.len ∨
      s.ral.reqs.any (fun r => decide (r.who = .command m ∧ r.msg.typ = 3)) = true) := by
    rintro (⟨hne, hlt⟩ | hany)
    · omega
    · obtain ⟨r, hr, hb⟩ := List.any_eq_true.1 hany
      obtain ⟨hwho, htyp⟩ := of_decide_eq_true hb
      exact hreqs r hr hwho htyp
  refine congrArg Host.Outcome.next ((if_pos hlive).trans ?_)
  beta_reduce
  rw [hq]
  dsimp only
  rw [if_neg hgo]
  simp only [cmdStatus, cmdDone, decide_eq_true_eq]

theorem cmdStatus_spec (s : State) (m : Nat) (bad : Bool) : Only raisedIn s (cmdStatus s m bad) ∧
    (bad = true → (cmdStatus s m bad).fld (rXltCmdStat m) fXltCmdStatErrored = 1) := by
  cases bad with
  | true => exact ⟨only_raise s _ _, fun _ => State.fld_raise s _ _ (by decide)⟩
  | false => exact ⟨.refl _ s, fun h => by cases h⟩

theorem cmdStatus_false (s : State) (m : Nat) : cmdStatus s m false = s := rfl

/-- What every end of a command does: the queue goes on, and an error is recorded, whatever its completion flag meets. -/
theorem cmdEnd_leaves {s : State} {m : Nat} {c : Cmd} {rest : List Cmd} (hlive : s.live = true) (hm : m < 1024)
    (hq : (s.cmdq m).queue = c :: rest) (hend : c.ended = 2 ∨ c.len ≤ c.pos)
    (hreqs : ∀ r ∈ s.ral.reqs, r.who = .command m → r.msg.typ ≠ 3) :
    ∃ v, exec (.cmdEnd m) s = .next v ∧ v.pending = s.pending ∧ (v.cmdq m).queue = rest ∧
      (c.ended = 2 → v.fld (rXltCmdStat m) fXltCmdStatErrored = 1) ∧
      (c.doneFlag = 0 → Only (.xlt :: raisedIn) s v ∧ (c.ended ≠ 2 → v = cmdDone s m rest)) := by
  have hexec := exec_cmdEnd hlive hq hend hreqs
  obtain ⟨honly, herr⟩ := cmdStatus_spec (cmdDone s m rest) m (c.ended = 2)
  have hstat : Only (.xlt :: raisedIn) s (cmdStatus (cmdDone s m rest) m (c.ended = 2)) :=
    ((only_cmdDone s m rest).mono (by decide)).trans (honly.mono (by decide))
  have hqueue : (cmdStatus (cmdDone s m rest) m (c.ended = 2)).cmdq m = { s.cmdq m with queue := rest } :=
    (cmdq_congr (congrArg XltSt.cmds (honly.2 .xlt (by decide))) m).trans (cmdq_cmdDone s m rest)
  have hsame : c.ended ≠ 2 → cmdStatus (cmdDone s m rest) m (c.ended = 2) = cmdDone s m rest :=
    fun hok => by rw [decide_eq_false hok, cmdStatus_false]
  generalize cmdStatus (cmdDone s m rest) m (c.ended = 2) = t at hexec herr hstat hqueue hsame
  dsimp only at hexec
  by_cases hflag : c.doneFlag = 0
  · rw [if_pos hflag] at hexec
    exact ⟨t, hexec, hstat.1, by rw [hqueue], fun hbad => herr (decide_eq_true hbad), fun _ => ⟨hstat, hsame⟩⟩
  · rw [if_neg hflag] at hexec
    have hpost := quiet_post t m [.add c.doneFlag (doneValue (!decide (c.ended = 2)))]
    exact ⟨_, hexec, hpost.pending.trans hstat.1, by rw [cmdq_congr hpost.cmds, hqueue],
      fun hbad => hpost.errored m hm (herr (decide_eq_true hbad)), fun h0 => absurd h0 hflag⟩

/-- The flag of a command whose translation hits is added to at once (assumption log 20). -/
theorem post_add {s u : State} {m va : Nat} {v : Word} {p : Phys}
    (ht : translate s (postWaiter m va .update) false = (u, .ok p)) : post s m [.add va v] = physAdd u m p v := by
  simp only [post, postOps, ht, if_true]

theorem cmdEnd_flag {s u : State} {m : Nat} {c : Cmd} {rest : List Cmd} {a n wy : Nat} {fr : Frame} {l : LineEnt}
    (hexec : exec (.cmdEnd m) s = .next (post (cmdDone s m rest) m [.add c.doneFlag (doneValue true)]))
    (ht : translate (cmdDone s m rest) (postWaiter m c.doneFlag .update) false = (u, .ok (.hbm a)))
    (hs : Serves s ⟨.command m, a, 0⟩ true n) (hh : Holds s n a wy fr l) (hst : l.st = .clean ∨ l.st = .dirty)
    (hq : ∀ q ∈ s.cel.hbmq, blockAddr q.addr ≠ blockAddr a) (hp : l.poison.getLsbD (a % 128 / 32) = false)
    (fits : Fits fr l (classFor (putWord (s.delivers n (lineAddr a) l) (a % 128)
      (wordAt (s.delivers n (lineAddr a) l) (a % 128) + 1)) l.poison)) :
    Acts (.cmdEnd m) s (.xlt :: servedIn) (fun v => LineWritten s v ⟨.command m, a, 0⟩ n
      (putWord (s.delivers n (lineAddr a) l) (a % 128) (wordAt (s.delivers n (lineAddr a) l) (a % 128) + 1)) l.poison) := by
  have honly : Only [.xlt, .out] s u :=
    ((only_cmdDone s m rest).mono (by decide)).trans ((translate_ok ht).1.mono (by decide))
  have hcel : u.cel = s.cel := honly.2 .cel (by decide)
  have hsu := hs.congr honly
  have hhu := hh.congr (t := u) (by rw [hcel])
  have hdel : u.delivers n (lineAddr a) l = s.delivers n (lineAddr a) l := by
    rw [State.delivers, State.slice, hcel, State.delivers, State.slice]
  obtain ⟨t, hread, htonly, htframes⟩ := readEnt_spec hhu.line
  rw [hdel] at hread
  obtain ⟨v, hv, hvonly, hwritten, -⟩ :=
    updLine_served hsu hhu (htonly.mono (by decide)) htframes fits (wordEnables (a % 128))
  have happ := applyOp_flagAdd (who := .command m) (hint := 0) hhu.line hread hp 1
  rw [hv] at happ
  have hengine := engineOp_held hsu hhu hst (by rw [hcel]; exact hq) rfl rfl happ
  have hpost : post (cmdDone s m rest) m [.add c.doneFlag (doneValue true)] = v := by
    rw [post_add ht]
    exact congrArg Prod.fst hengine
  rw [hpost] at hexec
  exact ⟨v, hexec, (honly.mono (by decide)).trans (hvonly.mono (by decide)), hwritten.of_congr hcel⟩

/-- Settles O34, a command at a time. One line or page is done at each command, and a line of COPY and the completion flag
are served at their slice in the same step (assumption logs 27 and 20). -/
theorem commandsRun : Obligations.CommandsRun := by
  refine ⟨fun s f m desc hc hm => ⟨fun he hl => ?_, fun hl => ?_⟩,
    fun s u m a rest desc l hlive hm hr hu hq => ⟨fun hcode => ?_, fun hcode => ?_⟩,
    fun s u m c rest hlive hm hq hrun hmore hwait => ?_,
    fun s m c rest hlive hm hq hend hreqs => ⟨?_, fun u a n wy fr l hok hflag ht hs hh hst hchan hp fits => ?_⟩⟩
  · have hexec := exec_cmdDoorbell hc hm desc
    rw [cmdDoor_accepted he hl] at hexec
    have hreads := keepsReads_askRead (s.setCmdq m { s.cmdq m with reading := (s.cmdq m).reading ++ [desc] }) (cmdWaiter m desc)
    refine ⟨_, hexec, hreads.pending, ?_, fun hnear => ?_⟩
    · exact hreads.reading.trans (by rw [show (cmdWaiter m desc).m = m from rfl, State.cmdq_setCmdq])
    · obtain ⟨honly, hcmds⟩ := askRead_near hnear
      exact ⟨((only_setCmdq s m _).mono (by decide)).trans honly, by rw [cmdq_congr hcmds, State.cmdq_setCmdq]⟩
  · have hexec := exec_cmdDoorbell hc hm desc
    rw [cmdDoor_full hl] at hexec
    exact ⟨_, hexec, only_refuseCmd s m 1, fld_refuseCmd s m (by decide)⟩
  · have hexec := exec_cmdDescReadDone hlive hr hu
    obtain ⟨honly, hcmdq, hfld⟩ := cmdRead_accepted (hq ▸ hr) hcode
    exact ⟨_, hexec, honly, by rw [hcmdq, hq], hfld⟩
  · have hexec := exec_cmdDescReadDone hlive hr hu
    obtain ⟨honly, hcmdq, hfld⟩ := cmdRead_refused (hq ▸ hr) hcode
    exact ⟨_, hexec, honly, by rw [hcmdq, hq], hfld⟩
  · have h : RunsCmd s m c rest := ⟨hlive, hq, hrun, hmore, hwait⟩
    exact ⟨fun p hk ht => xlat_page h hk ht, fun a hk ht => advise_local h hk ht, fun p hk ht hp => advise_skips h hk ht hp,
      fun u' src ep port b port' b' x y x' y' hk hsrc => ⟨fun hdst => copy_toHost h hk hsrc hdst src ep,
        fun a n wy fr l hdst ha hs hh hst hchan fits => copy_toCellar h hk hsrc hdst ha src ep hs hh hst hchan fits⟩⟩
  · exact cmdEnd_leaves hlive hm hq hend hreqs
  · have hexec := exec_cmdEnd hlive hq hend hreqs
    rw [decide_eq_false hok, cmdStatus_false] at hexec
    exact cmdEnd_flag (hexec.trans (congrArg Host.Outcome.next (if_neg hflag))) ht hs hh hst hchan hp fits

end Sys2Proof.Machine
end
